-- ==== Sys2Proof/Word.lean ====
section
/-! DEFINITION. The widths of the 8440's values (R3, R7, R25, R82). -/

namespace Sys2Proof

/-- A byte (R7). -/
abbrev Byte := BitVec 8

/-- A dword: a parcel (R55), a Lantern register (R109), a state register (R111). -/
abbrev Word := BitVec 64

/-- A wide float (R82) or any other 80-bit token payload (R95). -/
abbrev Pay := BitVec 80

/-- The 36 tag bits of a token, R25 [121:86]: TDIE [35:32], TCTX [31:29], TSPACE [28:24], TITER [23:0]. -/
abbrev Tag := BitVec 36

/-- The 28 destination bits of a token, R25 [149:122]. -/
abbrev Dest := BitVec 28

/-- A Lantern general register number (R109). -/
abbrev Reg := BitVec 5

end Sys2Proof
end

