-- ==== Sys2Proof/Syntax.lean ====
section
/-! DEFINITION. The syntax of every step of the part: the 198 instructions of R73 and the events that
spec/opcode_table.json lists beside them, one constructor per row of that table. An instruction's constructor
carries the fields its format gives it; an event's constructor names the unit it happens at. -/

namespace Sys2Proof

/-- Access sizes of Lantern loads and stores, flags [2:1] of major 0x04 (R63). -/
inductive Size where
  | b8 | b16 | b32 | b64
  deriving DecidableEq, Repr

/-- The second operand of the shift and compare instructions: flag I of major 0x03 (R63). -/
inductive RegImm where
  | reg (rb : Reg)
  | imm (v : BitVec 32)
  deriving DecidableEq, Repr

/-- The fields of an element instruction parcel beside its opcode (R65). -/
structure Slot where
  selA : BitVec 7
  selB : BitVec 7
  selC : BitVec 7
  rs   : BitVec 3
  o    : Bool
  sat  : Bool
  uns  : Bool
  gate : BitVec 2
  cin  : BitVec 2
  cout : BitVec 4
  imm  : BitVec 16
  deriving DecidableEq, Repr

/-- A package-link data packet's header fields and its payload (R338). -/
structure Packet where
  seq   : BitVec 12
  lastp : Bool
  win   : BitVec 8
  off   : BitVec 48
  sdie  : BitVec 4
  schan : BitVec 4
  data  : List Byte
  deriving DecidableEq, Repr

/-- What a radix walk is made for (R257): an element request, a stream element, or a copy channel. -/
inductive WalkFor where
  | request (tile idx : Nat)
  | stream (port idx : Nat)
  | copy (die ch : Nat)
  | lantern (lan : Nat)
  deriving DecidableEq, Repr

/-- The views that reach the hub (R45, R413, R414): an interface, whose offsets are those of the notify pages of window 1 and
whose writes are of `size` bytes (R417); the supervisor; the physical function. -/
inductive View where
  | iface (size : Nat) | supervisor | physical
  deriving DecidableEq, Repr

/-- Every step of the part. Lantern instructions act on the Lantern whose turn it is, element instructions on the
element whose operand set has issued, M-class stream instructions on the port whose turn it is. Unit numbers of
events: `lan` is 128 × die + cluster, `tile` is 8,192 × die + 64 × y + x, `el` is 16 × tile + element and `port` is
4 × tile + port. -/
inductive Instr where
  -- S class, register arithmetic (R126)
  | add (rd ra rb : Reg)
  | sub (rd ra rb : Reg)
  | mul (rd ra rb : Reg)
  | mulh (u : Bool) (rd ra rb : Reg)
  | div (u : Bool) (rd ra rb : Reg)
  | rem (u : Bool) (rd ra rb : Reg)
  | and (rd ra rb : Reg)
  | or (rd ra rb : Reg)
  | xor (rd ra rb : Reg)
  -- immediate forms and moves (R127)
  | addi (rd ra : Reg) (imm : BitVec 32)
  | andi (rd ra : Reg) (imm : BitVec 32)
  | ori (rd ra : Reg) (imm : BitVec 32)
  | xori (rd ra : Reg) (imm : BitVec 32)
  | li (rd : Reg) (v : Word)
  | mov (rd ra : Reg)
  -- shifts and compare (R128)
  | shl (rd ra : Reg) (op : RegImm)
  | shr (rd ra : Reg) (op : RegImm)
  | sar (rd ra : Reg) (op : RegImm)
  | slt (u : Bool) (rd ra : Reg) (op : RegImm)
  -- loads, stores, FENCE (R129, R130)
  | ld (sz : Size) (rd ra : Reg) (imm : BitVec 32)
  | ldz (sz : Size) (rd ra : Reg) (imm : BitVec 32)
  | st (sz : Size) (rd ra : Reg) (imm : BitVec 32)
  | fence (scope : BitVec 3)
  -- branches and jumps (R131 to R133)
  | beq (ra rb : Reg) (off : BitVec 32)
  | bne (ra rb : Reg) (off : BitVec 32)
  | blt (ra rb : Reg) (off : BitVec 32)
  | bge (ra rb : Reg) (off : BitVec 32)
  | bltu (ra rb : Reg) (off : BitVec 32)
  | bgeu (ra rb : Reg) (off : BitVec 32)
  | jmp (off : BitVec 32)
  | jal (off : BitVec 32)
  | jr (ra : Reg)
  | jtab (ra : Reg) (base : BitVec 32) (dflt : BitVec 32) (len : BitVec 16)
  -- system (R134)
  | trap (code : BitVec 32)
  | svc (code : BitVec 32)
  | eret
  | srr (rd : Reg) (num : BitVec 32)
  | srw (num : BitVec 32) (ra : Reg)
  | halt
  | nop
  -- configuration and pre-emption (R136 to R144)
  | cfgld (ra : Reg)
  | cfggo (ra : Reg)
  | cfgwt (ra : Reg)
  | cfgst (rd ra : Reg)
  | preDrain (rd ra : Reg)
  | preMarker (rd ra : Reg)
  | rsm (ra : Reg)
  -- deprecated (R146)
  | dmov (rd ra rb : Reg)
  -- E class, float family (R178 to R182)
  | fadd (f : Slot)
  | fsub (f : Slot)
  | fmul (f : Slot)
  | fma (f : Slot)
  | fms (f : Slot)
  | fnma (f : Slot)
  | fmin (f : Slot)
  | fmax (f : Slot)
  | fabs (f : Slot)
  | fneg (f : Slot)
  | fdiv (f : Slot)
  | fsqrt (f : Slot)
  | frcp (f : Slot)
  | frsq (f : Slot)
  | flg2 (f : Slot)
  | fex2 (f : Slot)
  | frnd (f : Slot)
  | fcmp (f : Slot)
  -- integer family (R183, R184)
  | iadd (f : Slot)
  | isub (f : Slot)
  | imul (f : Slot)
  | imulh (f : Slot)
  | idiv (f : Slot)
  | irem (f : Slot)
  | imin (f : Slot)
  | imax (f : Slot)
  | ineg (f : Slot)
  | icmp (f : Slot)
  -- logic and shift family (R185, R186)
  | eAnd (f : Slot)
  | eOr (f : Slot)
  | eXor (f : Slot)
  | andn (f : Slot)
  | eNot (f : Slot)
  | eShl (f : Slot)
  | eShr (f : Slot)
  | eSar (f : Slot)
  | rol (f : Slot)
  | popc (f : Slot)
  | clz (f : Slot)
  | ctz (f : Slot)
  | bext (f : Slot)
  | bins (f : Slot)
  -- convert and lane family (R187 to R189)
  | cvtfi (f : Slot)
  | cvtif (f : Slot)
  | cvtfl (f : Slot)
  | cvtlf (f : Slot)
  | lget (f : Slot)
  | lput (f : Slot)
  | lspl (f : Slot)
  -- packed family (R190, R191)
  | ldot (f : Slot)
  | lsum (f : Slot)
  | bdot (f : Slot)
  | packedBadd (f : Slot)
  -- route family (R192)
  | pass (f : Slot)
  | sel (f : Slot)
  | const (f : Slot)
  | sink (f : Slot)
  -- control family (R197, R198)
  | cond (f : Slot)
  | cand (f : Slot)
  | cor (f : Slot)
  | cnot (f : Slot)
  | steer (f : Slot)
  | merge (f : Slot)
  | gate (f : Slot)
  -- tag family (R201)
  | talloc (f : Slot)
  | tfree (f : Slot)
  | tnext (f : Slot)
  | titer (f : Slot)
  | tcall (f : Slot)
  | tret (f : Slot)
  -- memory family (R208, R209)
  | eLd (f : Slot)
  | eSt (f : Slot)
  | ldv (f : Slot)
  | stv (f : Slot)
  | ldx (f : Slot)
  | stx (f : Slot)
  -- miscellaneous (R215, R216)
  | eNop (f : Slot)
  | cres (f : Slot)
  -- X class, matrix (R343 to R370)
  | mxon (rd ra : Reg)
  | mxoff (rd : Reg)
  | mxwl (rd ra rb : Reg) (fmt : BitVec 4)
  | mxrun (rd ra rb : Reg)
  | mxprm (c : Bool) (rd : Reg) (k : BitVec 32)
  | mxout (rd ra rb : Reg) (fmt : BitVec 4)
  | mxzero
  | mxsnap (rd ra : Reg)
  | mxrest (rd ra : Reg)
  | mxslot (rd : Reg)
  | mxprio (rd : Reg) (level : BitVec 32)
  -- M class, stream programs (R266 to R282)
  | sopen (h : BitVec 2) (input : Bool) (fmt : BitVec 4) (lay : BitVec 2) (rtz ord grp : Bool) (uni : BitVec 3)
      (count : BitVec 24) (stride : BitVec 16) (base : BitVec 48)
  | sclose (h : BitVec 2)
  | spush (h : BitVec 2) (n : BitVec 24)
  | sacpt (h : BitVec 2) (n : BitVec 24)
  | sgath (h : BitVec 2) (ifmt : BitVec 4) (n : BitVec 24) (ibase : BitVec 48)
  | sscat (h : BitVec 2) (ifmt : BitVec 4) (n : BitVec 24) (ibase : BitVec 48)
  | sloop (h : BitVec 2) (adv : Bool) (back : BitVec 6) (times : BitVec 16) (stp : BitVec 24)
  | swait (addr : BitVec 48)
  | ssig (h : BitVec 2) (aft : Bool) (scope : BitVec 3) (bytes : BitVec 32) (addr : BitVec 48)
  | wload (mask : BitVec 16)
  | wdrop (mask : BitVec 16)
  | vopen (win : BitVec 2) (ent : BitVec 11) (first : BitVec 17) (nw : BitVec 17)
  | vrecl (win : BitVec 2) (rel : Bool) (v : BitVec 32)
  | mlay (segs : BitVec 8) (xs chk : Bool)
  -- M class, issued by a Lantern (R285 to R289)
  | bret (rd ra : Reg) (imm : BitVec 32)
  | bscrb (rd ra : Reg) (imm : BitVec 32)
  | bstat (c : Bool) (rd ra : Reg) (imm : BitVec 32)
  | mpin (rd ra : Reg)
  | munpn (rd ra : Reg)
  | mevct (rd ra : Reg)
  -- B class (R400 to R408)
  | spawn (rd ra : Reg)
  | spwnc (rd ra rb : Reg)
  | reslv (rd ra : Reg)
  | commit (rd : Reg)
  | abortNorequeue
  | abortRequeue
  | yield (rd : Reg)
  | yieldIfWaiting (rd : Reg)
  | dline (rd ra : Reg)
  | budgt (rd ra : Reg)
  | segid (rd ra : Reg)
  | pred (w : Bool) (rd ra rb : Reg)
  | tailw (rd ra rb : Reg)
  -- Y class, Lantern forms (R303)
  | phnew (scope : BitVec 3) (rd ra rb : Reg)
  | phreg (scope : BitVec 3) (rd ra : Reg) (mode : BitVec 32)
  | phdrp (scope : BitVec 3) (rd ra : Reg) (mode : BitVec 32)
  | phsig (scope : BitVec 3) (rd ra : Reg)
  | phwt (ra : Reg)
  | phsw (scope : BitVec 3) (rd ra : Reg)
  | bexp (scope : BitVec 3) (ra rb : Reg)
  | badd (scope : BitVec 3) (rd ra rb : Reg)
  | aadd (scope : BitVec 3) (rd ra rb : Reg)
  | aand (scope : BitVec 3) (rd ra rb : Reg)
  | aor (scope : BitVec 3) (rd ra rb : Reg)
  | axor (scope : BitVec 3) (rd ra rb : Reg)
  | amin (u : Bool) (scope : BitVec 3) (rd ra rb : Reg)
  | amax (u : Bool) (scope : BitVec 3) (rd ra rb : Reg)
  | axch (scope : BitVec 3) (rd ra rb : Reg)
  | acas (scope : BitVec 3) (rd ra rb : Reg)
  | fbin (scope : BitVec 3) (ra rb : Reg)
  | fbrd (rd ra : Reg)
  | fbclr (scope : BitVec 3) (ra rb : Reg)
  | qpsh (b : Bool) (scope : BitVec 3) (ra rb : Reg)
  | qpop (b : Bool) (scope : BitVec 3) (rd ra : Reg)
  -- Y class, slot forms (R213)
  | slotPhsig (f : Slot)
  | slotAadd (f : Slot)
  | slotAand (f : Slot)
  | slotAor (f : Slot)
  | slotAxor (f : Slot)
  | slotAmin (f : Slot)
  | slotAmax (f : Slot)
  | slotAxch (f : Slot)
  | slotAcas (f : Slot)
  | slotFbin (f : Slot)
  | slotQpsh (f : Slot)
  -- C class (R333 to R336)
  | cpy (scope : BitVec 3) (rd ra rs rl rbar : Reg)
  | cpy2 (scope : BitVec 3) (rd ra rbar : Reg)
  | rcpy (scope : BitVec 3) (rd ra rs rl rbar : Reg)
  | cpyq (rd : Reg) (k : BitVec 32)
  -- P class (R435 to R440). The operation lies in x(rb), or for TLBI in x(ra)[63:62]: the constructor names the
  -- form the table lists, which the fetch picks from the operand's value at issue.
  | tlbiPage (rd ra rb : Reg)
  | tlbiPasid (rd ra rb : Reg)
  | tlbiAll (rd ra rb : Reg)
  | wmode (rd ra rb : Reg)
  | spareRead (rd ra rb : Reg)
  | spareSetInterval (rd ra rb : Reg)
  | spareRemap (rd ra rb : Reg)
  | spareClear (rd ra rb : Reg)
  | spareSetPos (rd ra rb : Reg)
  | qctlRead (rd ra rb : Reg)
  | qctlRevoke (rd ra rb : Reg)
  | qctlKill (rd ra rb : Reg)
  | qctlRelease (rd ra rb : Reg)
  | dieqFence (rd ra rb : Reg)
  | dieqRelease (rd ra rb : Reg)
  | dieqStatus (rd ra rb : Reg)
  | binjFlipOne (rd ra rb : Reg)
  | binjFlipTwo (rd ra rb : Reg)
  | binjSpare (rd ra rb : Reg)
  -- events of the fabric (chapters 06 and 08)
  | tokenArrive (el link : Nat)
  | markerArrive (el link : Nat)
  | firingIssue (el : Nat)
  | ovflTokenRetry (el link : Nat)
  | tagBaseAdvance (lan ctx space : Nat)
  | parkedTokenRelease (el idx : Nat)
  | tagWaitEnd (el idx : Nat)
  | slotSwitch (el ctx : Nat)
  | clockGate (el : Nat)
  | conditionCredit (el link : Nat)
  | ctrlAudit (el link : Nat)
  | elementMemReply (tile idx : Nat)
  | storeCompletion (tile idx : Nat)
  | translationWalk (w : WalkFor)
  | faultRecordAppend (lan : Nat)
  | replay (requester : Nat) (v : Word)
  | replayRetry (lan : Nat)
  -- events of the memory tile (chapters 11 and 12)
  | bankGrant (tile : Nat)
  | correctionWriteBack (tile : Nat)
  | scrubRow (tile : Nat)
  | writeBack (tile : Nat)
  | commitRelease (die : Nat)
  | streamProgramStart (port : Nat)
  | streamElementIssue (port h : Nat)
  | streamReplyPush (port idx : Nat)
  | sinkElementWrite (port idx : Nat)
  | bufferEviction (die : Nat)
  -- events of the Beacon and the Lantern (chapters 05 and 19)
  | launchPlacement (launch : Nat)
  | dispatchDecision (die : Nat)
  | place (die : Nat) (v : Word)
  | quantumExpiry (die idx : Nat)
  | budgetTrap (lan : Nat)
  | faultQueueTrap (lan : Nat)
  | lanternLoadReturn (lan idx : Nat)
  | dpoison (lan : Nat)
  | configComplete (lan idx : Nat)
  | segmentEnd (lan : Nat)
  | segmentAbort (die idx : Nat)
  | stagingReclaim (tile : Nat)
  | remotePull (die : Nat)
  | launchComplete (launch : Nat)
  -- events of the hub and the host link (chapter 21)
  | hubServePacket
  | doorbell (iface : Nat) (v : Word)
  | interruptAck (iface : Nat)
  | ifaceAssign (iface : Nat) (dword0 : Word)
  | ifaceRevoke (iface : Nat)
  | ifaceKill (iface : Nat)
  | ifaceUnassign (iface : Nat)
  | linkRetrainGo (k : Nat)
  -- events of the copy engine and the links (chapter 16)
  | copyComplete (die ch : Nat)
  | linkPacketReceive (k : Nat) (flits : List Byte)
  | linkAckReceive (k : Nat) (ack : BitVec 12) (refused : List (BitVec 12))
  | linkNakReceive (k : Nat) (ack : BitVec 12)
  | linkReplayTimeout (k : Nat)
  | linkLaneFailure (k lane : Nat)
  | linkRetrainDone (k : Nat)
  | ucieEdgeFailure (a b : Nat) (go : Bool)
  -- events of matrix mode (chapter 17)
  | matrixArbiterDecision (die : Nat)
  | kstepEnd (lan : Nat)
  -- events of reliability, trace, reset and loading (chapters 22, 23, 25)
  | spareRotate (die row : Nat)
  | spareMismatch (die row : Nat)
  | daymarkPacketWrite (die cluster : Nat)
  | daymarkRingReset (die off : Nat) (v : Word)
  | packageReset (fails : Nat)
  | attest (addr : Word)
  | update (addr : Word) (len : Nat)
  | powerLimit
  | loadBinary (pasid : Nat) (file : List Byte)
  | windowGprWrite (lan : Nat) (r : Reg) (v : Word)
  | windowStateWrite (lan num : Nat) (v : Word)
  | elementDebugWrite (el area off : Nat) (v : Word)
  | registerWrite (view : View) (off : Nat) (v : Word)
  | fetchFault (lan : Nat)
  | matrixCommandComplete (lan : Nat)
  | preemptionComplete (die idx : Nat)
  | backWithinLimits
  deriving DecidableEq, Repr

end Sys2Proof
end

