-- ==== Sys2Proof/Machine/SlotTable.lean ====
section
/-! DEFINITION. What each element instruction does with the fields of its parcel (R172, R196, R200, R204, R213, R215,
R216), its ports and its arity (R151), and the inline constant table (R71, R72). -/

namespace Sys2Proof.Machine

/-- How an instruction uses an operand selector. -/
inductive SelUse where
  | none      -- the selector must be zero
  | any       -- a port, the iteration, a hold register or an integer constant (R70, R72)
  | float     -- as `any`, and the float-only constants too (R72)
  | port      -- one of the ports a, b, c
  deriving DecidableEq, Repr

/-- How an instruction uses RS (R65). -/
inductive RsUse where
  | zero | round | scope
  deriving DecidableEq, Repr

/-- How an instruction uses one of the suffix bits U and S. -/
inductive BitUse where
  | zero | any | withS | withoutU
  deriving DecidableEq, Repr

/-- How an instruction uses imm16. -/
inductive ImmUse where
  | zero | pred (n : Nat) | field | lane | laneScale | laneGet | value | window | mem (versioned store : Bool) | site
  deriving DecidableEq, Repr

/-- How an instruction uses its control inputs: gated or not (R193), or its own condition ports. -/
inductive CtlUse where
  | gated     -- GATE 00, 01 or 10; CIN names the gate's port
  | noGate    -- GATE 00 and CIN 0
  | reads     -- GATE 00; reads the port CIN
  | reads01   -- GATE 00, CIN 0; reads ports 0 and 1
  deriving DecidableEq, Repr

/-- How an instruction uses its destinations. -/
inductive DstUse where
  | free      -- either valid or not
  | none      -- both invalid
  | need0     -- DEST0 valid
  | either    -- at least one valid
  | both      -- both valid
  | parent    -- DEST0 valid, every valid one with TOP 10
  | call      -- both valid, DEST1 with TOP 00
  | load      -- DEST0 valid; DEST1 valid exactly with O
  | store     -- both invalid without O; DEST0 valid with O
  | atomic    -- DEST0 valid; DEST1 only with O (DEDUCED, log entry 67)
  deriving DecidableEq, Repr

/-- How an instruction uses COUT. -/
inductive CoutUse where
  | zero | optional | required
  deriving DecidableEq, Repr

/-- One row of the tables of R172, R196, R200, R204 and R213. -/
structure Row where
  a : SelUse := .none
  b : SelUse := .none
  c : SelUse := .none
  rs : RsUse := .zero
  u : BitUse := .zero
  s : BitUse := .zero
  o : Bool := false
  imm : ImmUse := .zero
  ctl : CtlUse := .gated
  dst : DstUse := .free
  cout : CoutUse := .zero
  deriving DecidableEq, Repr

/-- Float rows with one, two and three operands. -/
def rowF1 : Row := { a := .float, rs := .round }
def rowF2 : Row := { a := .float, b := .float, rs := .round }
def rowF3 : Row := { a := .float, b := .float, c := .float, rs := .round }
/-- Integer rows. -/
def rowArith : Row := { a := .any, b := .any, u := .withS, s := .any }
def rowU2 : Row := { a := .any, b := .any, u := .any }
/-- Logic rows. -/
def rowL1 : Row := { a := .any }
def rowL2 : Row := { a := .any, b := .any }
/-- Control rows that make a condition (R196). -/
def rowCond2 : Row := { ctl := .reads01, dst := .none, cout := .required }
/-- Memory rows (R204). -/
def rowLd : Row := { a := .any, rs := .scope, o := true, imm := .mem false false, dst := .load }
/-- Atomic rows (R213). -/
def rowAtomic : Row := { a := .any, b := .any, rs := .scope, o := true, dst := .atomic }
/-- PHSIG, FBIN and QPSH rows (R213). -/
def rowSync : Row := { a := .any, rs := .scope, o := true, dst := .store }

/-- The row and the fields of an element instruction; `none` for every other step. -/
def slotRow : Instr → Option (Row × Slot)
  | .fadd f => some (rowF2, f) | .fsub f => some (rowF2, f) | .fmul f => some (rowF2, f)
  | .fma f => some (rowF3, f) | .fms f => some (rowF3, f) | .fnma f => some (rowF3, f)
  | .fmin f => some (rowF2, f) | .fmax f => some (rowF2, f)
  | .fabs f => some (rowF1, f) | .fneg f => some (rowF1, f)
  | .fdiv f => some (rowF2, f)
  | .fsqrt f => some (rowF1, f) | .frcp f => some (rowF1, f) | .frsq f => some (rowF1, f)
  | .flg2 f => some (rowF1, f) | .fex2 f => some (rowF1, f) | .frnd f => some (rowF1, f)
  | .fcmp f => some ({ rowF2 with imm := .pred 8, cout := .optional }, f)
  | .iadd f => some (rowArith, f) | .isub f => some (rowArith, f) | .imul f => some (rowArith, f)
  | .imulh f => some (rowU2, f)
  | .idiv f => some ({ rowU2 with s := .withoutU }, f)
  | .irem f => some (rowU2, f) | .imin f => some (rowU2, f) | .imax f => some (rowU2, f)
  | .ineg f => some ({ a := .any, s := .any }, f)
  | .icmp f => some ({ rowU2 with imm := .pred 6, cout := .optional }, f)
  | .eAnd f => some (rowL2, f) | .eOr f => some (rowL2, f) | .eXor f => some (rowL2, f)
  | .andn f => some (rowL2, f) | .eNot f => some (rowL1, f)
  | .eShl f => some (rowL2, f) | .eShr f => some (rowL2, f) | .eSar f => some (rowL2, f)
  | .rol f => some (rowL2, f)
  | .popc f => some (rowL1, f) | .clz f => some (rowL1, f) | .ctz f => some (rowL1, f)
  | .bext f => some ({ a := .any, u := .any, imm := .field }, f)
  | .bins f => some ({ a := .any, b := .any, imm := .field }, f)
  | .cvtfi f => some ({ a := .float, rs := .round, u := .any }, f)
  | .cvtif f => some ({ a := .any, rs := .round, u := .any }, f)
  | .cvtfl f => some ({ a := .float, rs := .round, imm := .laneScale }, f)
  | .cvtlf f => some ({ a := .any, imm := .lane }, f)
  | .lget f => some ({ a := .any, u := .any, imm := .laneGet }, f)
  | .lput f => some ({ a := .any, b := .any, imm := .laneGet }, f)
  | .lspl f => some ({ a := .any, imm := .lane }, f)
  | .ldot f => some (rowF2, f)
  | .lsum f => some (rowF1, f)
  | .bdot f => some ({ rowF2 with u := .any, s := .any }, f)
  | .packedBadd f => some ({ a := .any, b := .any, u := .withS, s := .any }, f)
  | .pass f => some ({ a := .port }, f)
  | .sel f => some ({ a := .any, b := .any, ctl := .reads }, f)
  | .const f => some ({ a := .port, u := .any, imm := .value }, f)
  | .sink f => some ({ a := .port, dst := .none }, f)
  | .cond f => some ({ a := .any, ctl := .noGate, dst := .none, cout := .required }, f)
  | .cand f => some (rowCond2, f) | .cor f => some (rowCond2, f)
  | .cnot f => some ({ ctl := .reads, dst := .none, cout := .required }, f)
  | .steer f => some ({ a := .port, ctl := .reads, dst := .either }, f)
  | .merge f => some ({ a := .port, b := .port, ctl := .reads, dst := .need0 }, f)
  | .gate f => some ({ a := .any, ctl := .reads, cout := .optional }, f)
  | .talloc f => some ({ a := .any, imm := .window, dst := .need0 }, f)
  | .tfree f => some ({ a := .any, dst := .parent }, f)
  | .tnext f => some ({ a := .any, dst := .need0 }, f)
  | .titer f => some ({ a := .any, b := .any, dst := .need0 }, f)
  | .tcall f => some ({ a := .any, imm := .window, dst := .call }, f)
  | .tret f => some ({ a := .any, dst := .none }, f)
  | .eLd f => some (rowLd, f)
  | .eSt f => some ({ rowLd with b := .any, imm := .mem false true, dst := .store }, f)
  | .ldv f => some ({ rowLd with b := .any, imm := .mem true false }, f)
  | .stv f => some ({ rowLd with b := .any, c := .any, imm := .mem true true, dst := .store }, f)
  | .ldx f => some ({ rowLd with b := .any }, f)
  | .stx f => some ({ rowLd with b := .any, c := .any, imm := .mem false true, dst := .store }, f)
  | .eNop f => some ({ ctl := .noGate, dst := .none }, f)
  | .cres f => some ({ imm := .site, ctl := .reads, dst := .none }, f)
  | .slotAadd f => some (rowAtomic, f) | .slotAand f => some (rowAtomic, f) | .slotAor f => some (rowAtomic, f)
  | .slotAxor f => some (rowAtomic, f) | .slotAxch f => some (rowAtomic, f)
  | .slotAmin f => some ({ rowAtomic with u := .any }, f) | .slotAmax f => some ({ rowAtomic with u := .any }, f)
  | .slotAcas f => some ({ rowAtomic with c := .any }, f)
  | .slotPhsig f => some (rowSync, f)
  | .slotFbin f => some ({ rowSync with b := .any }, f)
  | .slotQpsh f => some ({ rowSync with b := .any }, f)
  | _ => none

/-- Whether a selector names something a selector of this use may name (R68, R70, R72). -/
def selOk (use : SelUse) (sel : BitVec 7) : Bool :=
  let n := sel.toNat
  let floatOnly := decide (64 + 24 ≤ n ∧ n < 64 + 40) || decide (64 + 48 ≤ n ∧ n < 64 + 60)
  match use with
  | .none => decide (n = 0)
  | .port => decide (n < 3)
  | .any => decide (n < 8) || (decide (64 ≤ n) && !floatOnly)
  | .float => decide (n < 8) || decide (64 ≤ n)

/-- Whether imm16 holds a value the instruction allows. -/
def immOk (use : ImmUse) (imm : BitVec 16) : Bool :=
  let n := imm.toNat
  match use with
  | .zero => decide (n = 0)
  | .pred k => decide (n < k)
  | .field => decide (n < 4096) && decide (n % 64 + n / 64 % 64 + 1 ≤ 64)
  | .lane => decide (n < 12)
  | .laneGet => decide (n < 12) || decide (n = 15)
  | .laneScale => decide (n / 16 % 16 = 0) && decide (n % 16 < 12)
  | .value => true
  | .window => decide (n % 256 = 0)
  | .mem versioned store =>
    let code := n / 4096
    (if versioned then decide (code = 1 ∨ code = 5 ∨ code = 8) else decide (code < 13))
      && (store || decide (n / 2048 % 2 = 0))
  | .site => decide (n < 4096)

/-- Whether the fields of an element instruction parcel fit its row: the checks of R68 that the parcel alone decides,
with R172, R196, R200, R204, R213, R215 and R216. -/
def rowOk (r : Row) (f : Slot) : Bool :=
  selOk r.a f.selA && selOk r.b f.selB && selOk r.c f.selC
  && (match r.rs with
      | .zero => decide (f.rs = 0#3)
      | .round => decide (f.rs.toNat < 5)
      | .scope => if f.o then decide (f.rs ≠ 0#3) else decide (f.rs = 0#3))
  && (r.o || !f.o)
  && (match r.u with
      | .zero => !f.uns
      | .any => true
      | .withS => !f.uns || f.sat
      | .withoutU => true)
  && (match r.s with
      | .zero => !f.sat
      | .withoutU => !f.sat || !f.uns
      | _ => true)
  && immOk r.imm f.imm
  && (match r.ctl with
      | .gated => decide (f.gate ≠ 3#2) && (decide (f.gate ≠ 0#2) || decide (f.cin = 0#2))
      | .noGate => decide (f.gate = 0#2) && decide (f.cin = 0#2)
      | .reads => decide (f.gate = 0#2)
      | .reads01 => decide (f.gate = 0#2) && decide (f.cin = 0#2))
  && (match r.cout with
      | .zero => decide (f.cout = 0#4)
      | .optional => true
      | .required => decide (f.cout ≠ 0#4))

/-- The data port a selector names, where the instruction uses that selector. -/
def selPort (use : SelUse) (sel : BitVec 7) : List (BitVec 2) :=
  match use with
  | .none => []
  | _ => if sel.toNat < 3 then [BitVec.ofNat 2 sel.toNat] else []

/-- The data ports an operand set needs, without repeats, port o last (R151). -/
def dataPorts (r : Row) (f : Slot) : List (BitVec 2) :=
  (selPort r.a f.selA ++ selPort r.b f.selB ++ selPort r.c f.selC).eraseDups ++ (if f.o then [3#2] else [])

/-- The control input ports an operand set needs (R151, R196). -/
def ctlPorts (r : Row) (f : Slot) : List (BitVec 2) :=
  match r.ctl with
  | .gated => if f.gate = 0#2 then [] else [f.cin]
  | .noGate => []
  | .reads => [f.cin]
  | .reads01 => [0#2, 1#2]

/-- Whether the instruction is MERGE, the exception of R151. -/
def isMerge : Instr → Bool
  | .merge _ => true
  | _ => false

/-- The arity of a slot (R151). -/
def arity (i : Instr) : Nat :=
  match slotRow i with
  | none => 0
  | some (r, f) => if isMerge i then 2 else (dataPorts r f).length + (ctlPorts r f).length

/-- Whether the slot belongs to a family whose slots of arity 0 are refused (R173): majors 0x10 to 0x15. -/
def computeRow (i : Instr) : Bool :=
  match i with
  | .eNop _ | .cres _ | .cond _ | .cand _ | .cor _ | .cnot _ | .steer _ | .merge _ | .gate _ | .talloc _
  | .tfree _ | .tnext _ | .titer _ | .tcall _ | .tret _ | .eLd _ | .eSt _ | .ldv _ | .stv _ | .ldx _ | .stx _
  | .slotPhsig _ | .slotAadd _ | .slotAand _ | .slotAor _ | .slotAxor _ | .slotAmin _ | .slotAmax _
  | .slotAxch _ | .slotAcas _ | .slotFbin _ | .slotQpsh _ => false
  | _ => (slotRow i).isSome

/-- The checks of one element instruction parcel (R68, R172, R173, R196, R200, R204, R213 to R216). -/
def slotOk (i : Instr) : Bool :=
  match slotRow i with
  | none => false
  | some (r, f) => rowOk r f && (!computeRow i || decide (arity i ≠ 0))

/-- An integer-valued entry of the inline constant table (R71). -/
def constInt (k : Nat) : Option Int :=
  if k < 16 then some k
  else if k < 24 then some (-((k : Int) - 15))
  else match k with
    | 40 => some 16 | 41 => some 32 | 42 => some 64 | 43 => some 128 | 44 => some 256 | 45 => some 1024
    | 46 => some 4096 | 47 => some 65536 | 60 => some 100 | 61 => some 1000 | 62 => some 4294967296
    | 63 => some 255
    | _ => none

/-- The divisor of a reciprocal entry (R71). -/
def constRecip (k : Nat) : Nat :=
  match k with
  | 48 => 3 | 49 => 5 | 50 => 6 | 51 => 7 | 52 => 9 | 53 => 10 | 54 => 12 | 55 => 24 | 56 => 60 | 57 => 100
  | 58 => 255 | _ => 1000

end Sys2Proof.Machine
end

