-- ==== Sys2Proof/WellFormed.lean ====
section
/-! DEFINITION. Which instructions have legal field values: the limits that the spec states for the fields of each
instruction, beyond what the field's width already bounds. An event is no instruction and is not well formed. -/

namespace Sys2Proof

/-- A scope operand of a Y-class Lantern form (R303): 0 is the default scope, and 1 is illegal. -/
def yScopeOk (sc : BitVec 3) : Bool := decide (sc ≠ 1#3)

/-- A shift's second operand (R128). -/
def shiftOk : RegImm → Bool
  | .reg _ => true
  | .imm v => decide (v.toNat < 64)

/-- Whether a state register number is defined (R111). -/
def stateNumOk (n : BitVec 32) : Bool := decide (n.toNat < 0x12)

/-- The state registers that SRW may write (R111). -/
def srwOk (n : BitVec 32) : Bool :=
  decide (n.toNat < 0x12)
    && !(decide (n.toNat = 6 ∨ n.toNat = 7 ∨ n.toNat = 8 ∨ n.toNat = 9 ∨ n.toNat = 10 ∨ n.toNat = 11 ∨ n.toNat = 17))

/-- SOPEN's fields (R266). -/
def sopenOk (input : Bool) (fmt : BitVec 4) (lay : BitVec 2) (rtz ord grp : Bool) (uni : BitVec 3)
    (count : BitVec 24) : Bool :=
  decide (fmt.toNat < 13) && decide (lay ≠ 3#2) && (input || !rtz) && (input || !ord)
    && (!grp || decide (fmt = 7#4)) && (decide (uni = 0#3) || (decide (fmt = 11#4) && !input))
    && decide (count ≠ 0#24)

/-- An index format of SGATH and SSCAT (R266). -/
def ifmtOk (f : BitVec 4) : Bool :=
  decide (f = 4#4 ∨ f = 5#4 ∨ f = 6#4 ∨ f = 8#4 ∨ f = 9#4)

/-- SSIG's scope (R266). -/
def ssigOk (aft : Bool) (scope : BitVec 3) : Bool := if aft then decide (2 ≤ scope.toNat) else decide (scope = 0#3)

/-- VOPEN's fields (R266). -/
def vopenOk (ent : BitVec 11) (first nw : BitVec 17) : Bool :=
  decide (1 ≤ ent.toNat ∧ ent.toNat ≤ 1024) && decide (1 ≤ nw.toNat ∧ first.toNat + nw.toNat ≤ 98304)

/-- BSCRB's operand (R285). -/
def bscrbOk (imm : BitVec 32) : Bool :=
  let n := imm.toNat
  let first := n / 65536
  let count := n % 16384
  decide (n / 16384 % 4 = 0) && decide (1 ≤ count ∧ first < 8192 ∧ first + count ≤ 8192)

/-- BSTAT's operand (R285, R288). -/
def bstatOk (c : Bool) (imm : BitVec 32) : Bool :=
  decide (imm.toNat ≤ 0x38 ∧ imm.toNat % 8 = 0) && !(c && decide (imm.toNat = 0x38))

/-- Whether an instruction's fields hold legal values. -/
def wellFormed : Instr → Bool
  | .shl _ _ op => shiftOk op
  | .shr _ _ op => shiftOk op
  | .sar _ _ op => shiftOk op
  | .fence scope => decide (2 ≤ scope.toNat)
  | .srr _ num => stateNumOk num
  | .srw num _ => srwOk num
  | .mxwl _ _ _ fmt => decide (fmt.toNat < 4 ∨ fmt.toNat = 11)
  | .mxprm c _ k => decide (k.toNat < 6) && (!c || decide (k.toNat = 1))
  | .mxout _ _ _ fmt => decide (fmt.toNat < 4 ∨ fmt.toNat = 12)
  | .mxprio _ level => decide (level.toNat < 8)
  | .sopen _ input fmt lay rtz ord grp uni count _ _ => sopenOk input fmt lay rtz ord grp uni count
  | .sgath _ ifmt _ _ => ifmtOk ifmt
  | .sscat _ ifmt _ _ => ifmtOk ifmt
  | .sloop _ _ back times _ => decide (back ≠ 0#6) && decide (times ≠ 0#16)
  | .ssig _ aft scope _ _ => ssigOk aft scope
  | .wload mask => decide (mask ≠ 0#16)
  | .wdrop mask => decide (mask ≠ 0#16)
  | .vopen _ ent first nw => vopenOk ent first nw
  | .mlay segs _ _ => decide (segs ≠ 0#8)
  | .bret _ _ imm => decide (imm.toNat < 12)
  | .bscrb _ _ imm => bscrbOk imm
  | .bstat c _ _ imm => bstatOk c imm
  | .pred w _ _ rb => w || decide (rb = 0#5)
  | .phnew sc _ _ _ => yScopeOk sc
  | .phreg sc _ _ mode => yScopeOk sc && decide (mode.toNat < 2)
  | .phdrp sc _ _ mode => yScopeOk sc && decide (mode.toNat < 3)
  | .phsig sc _ _ => yScopeOk sc
  | .phsw sc _ _ => yScopeOk sc
  | .bexp sc _ _ => yScopeOk sc
  | .badd sc _ _ _ => yScopeOk sc
  | .aadd sc _ _ _ => yScopeOk sc
  | .aand sc _ _ _ => yScopeOk sc
  | .aor sc _ _ _ => yScopeOk sc
  | .axor sc _ _ _ => yScopeOk sc
  | .amin _ sc _ _ _ => yScopeOk sc
  | .amax _ sc _ _ _ => yScopeOk sc
  | .axch sc _ _ _ => yScopeOk sc
  | .acas sc _ _ _ => yScopeOk sc
  | .fbin sc _ _ => yScopeOk sc
  | .fbclr sc _ _ => yScopeOk sc
  | .qpsh _ sc _ _ => yScopeOk sc
  | .qpop _ sc _ _ => yScopeOk sc
  | .cpy sc _ _ _ _ _ => yScopeOk sc
  | .cpy2 sc _ _ _ => yScopeOk sc
  | .rcpy sc _ _ _ _ _ => decide (sc = 0#3 ∨ sc = 7#3)
  | .cpyq _ k => decide (k.toNat < 34)
  | .add _ _ _ => true
  | .sub _ _ _ => true
  | .mul _ _ _ => true
  | .mulh _ _ _ _ => true
  | .div _ _ _ _ => true
  | .rem _ _ _ _ => true
  | .and _ _ _ => true
  | .or _ _ _ => true
  | .xor _ _ _ => true
  | .addi _ _ _ => true
  | .andi _ _ _ => true
  | .ori _ _ _ => true
  | .xori _ _ _ => true
  | .li _ _ => true
  | .mov _ _ => true
  | .slt _ _ _ _ => true
  | .ld _ _ _ _ => true
  | .ldz _ _ _ _ => true
  | .st _ _ _ _ => true
  | .beq _ _ _ => true
  | .bne _ _ _ => true
  | .blt _ _ _ => true
  | .bge _ _ _ => true
  | .bltu _ _ _ => true
  | .bgeu _ _ _ => true
  | .jmp _ => true
  | .jal _ => true
  | .jr _ => true
  | .jtab _ _ _ _ => true
  | .trap _ => true
  | .svc _ => true
  | .eret => true
  | .halt => true
  | .nop => true
  | .cfgld _ => true
  | .cfggo _ => true
  | .cfgwt _ => true
  | .cfgst _ _ => true
  | .preDrain _ _ => true
  | .preMarker _ _ => true
  | .rsm _ => true
  | .dmov _ _ _ => true
  | .fadd f => Machine.slotOk (.fadd f)
  | .fsub f => Machine.slotOk (.fsub f)
  | .fmul f => Machine.slotOk (.fmul f)
  | .fma f => Machine.slotOk (.fma f)
  | .fms f => Machine.slotOk (.fms f)
  | .fnma f => Machine.slotOk (.fnma f)
  | .fmin f => Machine.slotOk (.fmin f)
  | .fmax f => Machine.slotOk (.fmax f)
  | .fabs f => Machine.slotOk (.fabs f)
  | .fneg f => Machine.slotOk (.fneg f)
  | .fdiv f => Machine.slotOk (.fdiv f)
  | .fsqrt f => Machine.slotOk (.fsqrt f)
  | .frcp f => Machine.slotOk (.frcp f)
  | .frsq f => Machine.slotOk (.frsq f)
  | .flg2 f => Machine.slotOk (.flg2 f)
  | .fex2 f => Machine.slotOk (.fex2 f)
  | .frnd f => Machine.slotOk (.frnd f)
  | .fcmp f => Machine.slotOk (.fcmp f)
  | .iadd f => Machine.slotOk (.iadd f)
  | .isub f => Machine.slotOk (.isub f)
  | .imul f => Machine.slotOk (.imul f)
  | .imulh f => Machine.slotOk (.imulh f)
  | .idiv f => Machine.slotOk (.idiv f)
  | .irem f => Machine.slotOk (.irem f)
  | .imin f => Machine.slotOk (.imin f)
  | .imax f => Machine.slotOk (.imax f)
  | .ineg f => Machine.slotOk (.ineg f)
  | .icmp f => Machine.slotOk (.icmp f)
  | .eAnd f => Machine.slotOk (.eAnd f)
  | .eOr f => Machine.slotOk (.eOr f)
  | .eXor f => Machine.slotOk (.eXor f)
  | .andn f => Machine.slotOk (.andn f)
  | .eNot f => Machine.slotOk (.eNot f)
  | .eShl f => Machine.slotOk (.eShl f)
  | .eShr f => Machine.slotOk (.eShr f)
  | .eSar f => Machine.slotOk (.eSar f)
  | .rol f => Machine.slotOk (.rol f)
  | .popc f => Machine.slotOk (.popc f)
  | .clz f => Machine.slotOk (.clz f)
  | .ctz f => Machine.slotOk (.ctz f)
  | .bext f => Machine.slotOk (.bext f)
  | .bins f => Machine.slotOk (.bins f)
  | .cvtfi f => Machine.slotOk (.cvtfi f)
  | .cvtif f => Machine.slotOk (.cvtif f)
  | .cvtfl f => Machine.slotOk (.cvtfl f)
  | .cvtlf f => Machine.slotOk (.cvtlf f)
  | .lget f => Machine.slotOk (.lget f)
  | .lput f => Machine.slotOk (.lput f)
  | .lspl f => Machine.slotOk (.lspl f)
  | .ldot f => Machine.slotOk (.ldot f)
  | .lsum f => Machine.slotOk (.lsum f)
  | .bdot f => Machine.slotOk (.bdot f)
  | .packedBadd f => Machine.slotOk (.packedBadd f)
  | .pass f => Machine.slotOk (.pass f)
  | .sel f => Machine.slotOk (.sel f)
  | .const f => Machine.slotOk (.const f)
  | .sink f => Machine.slotOk (.sink f)
  | .cond f => Machine.slotOk (.cond f)
  | .cand f => Machine.slotOk (.cand f)
  | .cor f => Machine.slotOk (.cor f)
  | .cnot f => Machine.slotOk (.cnot f)
  | .steer f => Machine.slotOk (.steer f)
  | .merge f => Machine.slotOk (.merge f)
  | .gate f => Machine.slotOk (.gate f)
  | .talloc f => Machine.slotOk (.talloc f)
  | .tfree f => Machine.slotOk (.tfree f)
  | .tnext f => Machine.slotOk (.tnext f)
  | .titer f => Machine.slotOk (.titer f)
  | .tcall f => Machine.slotOk (.tcall f)
  | .tret f => Machine.slotOk (.tret f)
  | .eLd f => Machine.slotOk (.eLd f)
  | .eSt f => Machine.slotOk (.eSt f)
  | .ldv f => Machine.slotOk (.ldv f)
  | .stv f => Machine.slotOk (.stv f)
  | .ldx f => Machine.slotOk (.ldx f)
  | .stx f => Machine.slotOk (.stx f)
  | .eNop f => Machine.slotOk (.eNop f)
  | .cres f => Machine.slotOk (.cres f)
  | .mxon _ _ => true
  | .mxoff _ => true
  | .mxrun _ _ _ => true
  | .mxzero => true
  | .mxsnap _ _ => true
  | .mxrest _ _ => true
  | .mxslot _ => true
  | .sclose _ => true
  | .spush _ _ => true
  | .sacpt _ _ => true
  | .swait _ => true
  | .vrecl _ _ _ => true
  | .mpin _ _ => true
  | .munpn _ _ => true
  | .mevct _ _ => true
  | .spawn _ _ => true
  | .spwnc _ _ _ => true
  | .reslv _ _ => true
  | .commit _ => true
  | .abortNorequeue => true
  | .abortRequeue => true
  | .yield _ => true
  | .yieldIfWaiting _ => true
  | .dline _ _ => true
  | .budgt _ _ => true
  | .segid _ _ => true
  | .tailw _ _ _ => true
  | .phwt _ => true
  | .fbrd _ _ => true
  | .slotPhsig f => Machine.slotOk (.slotPhsig f)
  | .slotAadd f => Machine.slotOk (.slotAadd f)
  | .slotAand f => Machine.slotOk (.slotAand f)
  | .slotAor f => Machine.slotOk (.slotAor f)
  | .slotAxor f => Machine.slotOk (.slotAxor f)
  | .slotAmin f => Machine.slotOk (.slotAmin f)
  | .slotAmax f => Machine.slotOk (.slotAmax f)
  | .slotAxch f => Machine.slotOk (.slotAxch f)
  | .slotAcas f => Machine.slotOk (.slotAcas f)
  | .slotFbin f => Machine.slotOk (.slotFbin f)
  | .slotQpsh f => Machine.slotOk (.slotQpsh f)
  | .tlbiPage _ _ _ => true
  | .tlbiPasid _ _ _ => true
  | .tlbiAll _ _ _ => true
  | .wmode _ _ _ => true
  | .spareRead _ _ _ => true
  | .spareSetInterval _ _ _ => true
  | .spareRemap _ _ _ => true
  | .spareClear _ _ _ => true
  | .spareSetPos _ _ _ => true
  | .qctlRead _ _ _ => true
  | .qctlRevoke _ _ _ => true
  | .qctlKill _ _ _ => true
  | .qctlRelease _ _ _ => true
  | .dieqFence _ _ _ => true
  | .dieqRelease _ _ _ => true
  | .dieqStatus _ _ _ => true
  | .binjFlipOne _ _ _ => true
  | .binjFlipTwo _ _ _ => true
  | .binjSpare _ _ _ => true
  | .tokenArrive _ _ => false
  | .markerArrive _ _ => false
  | .firingIssue _ => false
  | .ovflTokenRetry _ _ => false
  | .tagBaseAdvance _ _ _ => false
  | .parkedTokenRelease _ _ => false
  | .tagWaitEnd _ _ => false
  | .slotSwitch _ _ => false
  | .clockGate _ => false
  | .conditionCredit _ _ => false
  | .ctrlAudit _ _ => false
  | .elementMemReply _ _ => false
  | .storeCompletion _ _ => false
  | .translationWalk _ => false
  | .faultRecordAppend _ => false
  | .replay _ _ => false
  | .replayRetry _ => false
  | .bankGrant _ => false
  | .correctionWriteBack _ => false
  | .scrubRow _ => false
  | .writeBack _ => false
  | .commitRelease _ => false
  | .streamProgramStart _ => false
  | .streamElementIssue _ _ => false
  | .streamReplyPush _ _ => false
  | .sinkElementWrite _ _ => false
  | .bufferEviction _ => false
  | .launchPlacement _ => false
  | .dispatchDecision _ => false
  | .place _ _ => false
  | .quantumExpiry _ _ => false
  | .budgetTrap _ => false
  | .faultQueueTrap _ => false
  | .lanternLoadReturn _ _ => false
  | .dpoison _ => false
  | .configComplete _ _ => false
  | .segmentEnd _ => false
  | .segmentAbort _ _ => false
  | .stagingReclaim _ => false
  | .remotePull _ => false
  | .launchComplete _ => false
  | .hubServePacket => false
  | .doorbell _ _ => false
  | .interruptAck _ => false
  | .ifaceAssign _ _ => false
  | .ifaceRevoke _ => false
  | .ifaceKill _ => false
  | .ifaceUnassign _ => false
  | .linkRetrainGo _ => false
  | .copyComplete _ _ => false
  | .linkPacketReceive _ _ => false
  | .linkAckReceive _ _ _ => false
  | .linkNakReceive _ _ => false
  | .linkReplayTimeout _ => false
  | .linkLaneFailure _ _ => false
  | .linkRetrainDone _ => false
  | .ucieEdgeFailure _ _ _ => false
  | .matrixArbiterDecision _ => false
  | .kstepEnd _ => false
  | .spareRotate _ _ => false
  | .spareMismatch _ _ => false
  | .daymarkPacketWrite _ _ => false
  | .daymarkRingReset _ _ _ => false
  | .packageReset _ => false
  | .attest _ => false
  | .update _ _ => false
  | .powerLimit => false
  | .loadBinary _ _ => false
  | .windowGprWrite _ _ _ => false
  | .windowStateWrite _ _ _ => false
  | .elementDebugWrite _ _ _ _ => false
  | .registerWrite _ _ _ => false
  | .fetchFault _ => false
  | .matrixCommandComplete _ => false
  | .preemptionComplete _ _ => false
  | .backWithinLimits => false

end Sys2Proof
end

