-- ==== Sys2Proof/Decode.lean ====
section
/-! DEFINITION. The decoder of Lantern parcels (R55, R62 to R64, R73, R74), of element instruction parcels (R65, R68)
and of stream-program parcels (R266, R267), and the encoder from the same tables. The decoder is total: what it
rejects, it rejects with the cause that R59 names. -/

namespace Sys2Proof

/-- Why a Lantern rejects a parcel (R59 items 6 to 9). -/
inductive Reject where
  | resmaj
  | illop
  deriving DecidableEq, Repr

/-- The fields that every Lantern format shares (R62): a format says which of them must be zero. `imm` is [36:5] and
`fl` is [4:1]. -/
structure Raw where
  maj : BitVec 6
  min : BitVec 6
  rd  : Reg
  ra  : Reg
  rb  : Reg
  imm : BitVec 32
  fl  : BitVec 4
  ext : Bool
  deriving DecidableEq, Repr

/-- One bit as a word. -/
def bit1 (b : Bool) : BitVec 1 := if b then 1#1 else 0#1

/-- Splits a Lantern parcel into its fields (R62). -/
def unpackRaw (p : Word) : Raw :=
  { maj := p.extractLsb' 58 6, min := p.extractLsb' 52 6, rd := p.extractLsb' 47 5, ra := p.extractLsb' 42 5,
    rb := p.extractLsb' 37 5, imm := p.extractLsb' 5 32, fl := p.extractLsb' 1 4, ext := p.getLsbD 0 }

/-- Joins the fields of a Lantern parcel (R62). -/
def packRaw (r : Raw) : Word :=
  r.maj ++ (r.min ++ (r.rd ++ (r.ra ++ (r.rb ++ (r.imm ++ (r.fl ++ bit1 r.ext))))))

/-- The fields of an element instruction parcel (R65). `z` is bit 27. -/
structure RawSlot where
  maj : BitVec 6
  min : BitVec 6
  f   : Slot
  z   : Bool
  deriving DecidableEq, Repr

/-- Splits an element instruction parcel (R65). -/
def unpackSlot (p : Word) : RawSlot :=
  { maj := p.extractLsb' 58 6, min := p.extractLsb' 52 6,
    f := { selA := p.extractLsb' 45 7, selB := p.extractLsb' 38 7, selC := p.extractLsb' 31 7,
           rs := p.extractLsb' 28 3, o := p.getLsbD 26, sat := p.getLsbD 25, uns := p.getLsbD 24,
           gate := p.extractLsb' 22 2, cin := p.extractLsb' 20 2, cout := p.extractLsb' 16 4,
           imm := p.extractLsb' 0 16 },
    z := p.getLsbD 27 }

/-- Joins the fields of an element instruction parcel (R65). -/
def packSlot (maj min : BitVec 6) (f : Slot) : Word :=
  maj ++ (min ++ (f.selA ++ (f.selB ++ (f.selC ++ (f.rs ++ (0#1 ++ (bit1 f.o ++ (bit1 f.sat ++ (bit1 f.uns ++
    (f.gate ++ (f.cin ++ (f.cout ++ f.imm))))))))))))

/-- The reserved majors (R73). -/
def reservedMajor (m : BitVec 6) : Bool :=
  let n := m.toNat
  decide ((0x08 ≤ n ∧ n ≤ 0x0F) ∨ (0x1A ≤ n ∧ n ≤ 0x1F) ∨ (0x22 ≤ n ∧ n ≤ 0x23) ∨ (0x28 ≤ n ∧ n ≤ 0x2B)
    ∨ (0x2E ≤ n ∧ n ≤ 0x2F) ∨ (0x36 ≤ n ∧ n ≤ 0x3B))

/-- Format SR with flags `fl` (R62). -/
def Raw.isSR (r : Raw) (fl : BitVec 4) : Bool := decide (r.imm = 0#32) && decide (r.fl = fl) && !r.ext
/-- Format SI with flags `fl` (R62). -/
def Raw.isSI (r : Raw) (fl : BitVec 4) : Bool := decide (r.rb = 0#5) && decide (r.fl = fl) && !r.ext
/-- Format SB (R62). -/
def Raw.isSB (r : Raw) : Bool := decide (r.rd = 0#5) && decide (r.fl = 0#4) && !r.ext
/-- Format SX, first parcel (R62). -/
def Raw.isSX (r : Raw) : Bool := decide (r.rb = 0#5) && decide (r.fl = 0#4) && r.ext
/-- Format CL: [36:20] and [4] zero, rb zero (R333's layout). -/
def Raw.isCL (r : Raw) : Bool :=
  decide (r.rb = 0#5) && decide (r.imm.extractLsb' 15 17 = 0#17) && !r.fl.getLsbD 3 && !r.ext
/-- No destination register. -/
def Raw.noRd (r : Raw) : Bool := decide (r.rd = 0#5)
/-- No first source register. -/
def Raw.noRa (r : Raw) : Bool := decide (r.ra = 0#5)
/-- No second source register. -/
def Raw.noRb (r : Raw) : Bool := decide (r.rb = 0#5)
/-- Flag bit [1]. -/
def Raw.f1 (r : Raw) : Bool := r.fl.getLsbD 0
/-- Flag bit [2]. -/
def Raw.f2 (r : Raw) : Bool := r.fl.getLsbD 1
/-- Flag bit [4]. -/
def Raw.f4 (r : Raw) : Bool := r.fl.getLsbD 3
/-- Flags [3:1], the scope field. -/
def Raw.sc (r : Raw) : BitVec 3 := r.fl.extractLsb' 0 3
/-- rs of format CL. -/
def Raw.rs (r : Raw) : Reg := r.imm.extractLsb' 10 5
/-- rl of format CL. -/
def Raw.rl (r : Raw) : Reg := r.imm.extractLsb' 5 5
/-- rbar of format CL. -/
def Raw.rbar (r : Raw) : Reg := r.imm.extractLsb' 0 5

/-- Access sizes in the coding of flags [2:1] (R63). -/
def sizeOf2 (b : BitVec 2) : Size := if b = 0#2 then .b8 else if b = 1#2 then .b16 else if b = 2#2 then .b32 else .b64
/-- The coding of an access size. -/
def size2 : Size → BitVec 2
  | .b8 => 0#2 | .b16 => 1#2 | .b32 => 2#2 | .b64 => 3#2

/-- An instruction if its fields pass. -/
def onlyIf (c : Bool) (i : Instr) : Except Reject Instr := if c then .ok i else .error .illop

/-- The coding of a flag in bit [1]. -/
def flU (u : Bool) : BitVec 4 := 0#3 ++ bit1 u
/-- The coding of a scope in bits [3:1]. -/
def flSc (sc : BitVec 3) : BitVec 4 := 0#1 ++ sc
/-- The coding of a scope in bits [3:1] and a flag in bit [4]. -/
def flScB (b : Bool) (sc : BitVec 3) : BitVec 4 := bit1 b ++ sc
/-- The coding of an access size in bits [2:1]. -/
def flSize (sz : Size) : BitVec 4 := 0#2 ++ size2 sz
/-- The access size in the flags. -/
def szOf (r : Raw) : Size := sizeOf2 (r.fl.extractLsb' 0 2)
/-- The flags of major 0x03: I in bit [2], U in bit [1] (R63). -/
def flOp (u : Bool) (op : RegImm) : BitVec 4 :=
  0#2 ++ ((match op with | .reg _ => 0#1 | .imm _ => 1#1) ++ bit1 u)
/-- rb of the register form. -/
def opRb : RegImm → Reg
  | .reg rb => rb | .imm _ => 0#5
/-- imm32 of the immediate form. -/
def opImm : RegImm → BitVec 32
  | .reg _ => 0#32 | .imm v => v
/-- The zero fields of major 0x03: SR without flag I, SI with it (R63). -/
def opOk (r : Raw) : Bool :=
  decide (r.fl.extractLsb' 2 2 = 0#2) && !r.ext && (if r.f2 then r.noRb else decide (r.imm = 0#32))
/-- The second operand of major 0x03. -/
def opOf (r : Raw) : RegImm := if r.f2 then .imm r.imm else .reg r.rb
/-- Format CL's register list in [36:5]. -/
def clImm (rs rl rbar : Reg) : BitVec 32 := 0#17 ++ (rs ++ (rl ++ rbar))

/-- Reads a Lantern instruction from its fields and its extension parcel (R59 items 6 to 9, R62 to R64, R73, R74). -/
def decodeRaw (r : Raw) (ext : Word) : Except Reject Instr :=
  if reservedMajor r.maj then .error .resmaj
  else
    match r.maj.toNat, r.min.toNat with
    | 0x01, 0 => onlyIf (r.isSR 0#4) (.add r.rd r.ra r.rb)
    | 0x01, 1 => onlyIf (r.isSR 0#4) (.sub r.rd r.ra r.rb)
    | 0x01, 2 => onlyIf (r.isSR 0#4) (.mul r.rd r.ra r.rb)
    | 0x01, 3 => onlyIf (r.isSR (flU r.f1)) (.mulh r.f1 r.rd r.ra r.rb)
    | 0x01, 4 => onlyIf (r.isSR (flU r.f1)) (.div r.f1 r.rd r.ra r.rb)
    | 0x01, 5 => onlyIf (r.isSR (flU r.f1)) (.rem r.f1 r.rd r.ra r.rb)
    | 0x01, 6 => onlyIf (r.isSR 0#4) (.and r.rd r.ra r.rb)
    | 0x01, 7 => onlyIf (r.isSR 0#4) (.or r.rd r.ra r.rb)
    | 0x01, 8 => onlyIf (r.isSR 0#4) (.xor r.rd r.ra r.rb)
    | 0x02, 0 => onlyIf (r.isSI 0#4) (.addi r.rd r.ra r.imm)
    | 0x02, 1 => onlyIf (r.isSI 0#4) (.andi r.rd r.ra r.imm)
    | 0x02, 2 => onlyIf (r.isSI 0#4) (.ori r.rd r.ra r.imm)
    | 0x02, 3 => onlyIf (r.isSI 0#4) (.xori r.rd r.ra r.imm)
    | 0x02, 4 => onlyIf (r.isSX && r.noRa && decide (r.imm = 0#32)) (.li r.rd ext)
    | 0x02, 5 => onlyIf (r.isSR 0#4 && r.noRb) (.mov r.rd r.ra)
    | 0x03, 0 => onlyIf (opOk r && !r.f1) (.shl r.rd r.ra (opOf r))
    | 0x03, 1 => onlyIf (opOk r && !r.f1) (.shr r.rd r.ra (opOf r))
    | 0x03, 2 => onlyIf (opOk r && !r.f1) (.sar r.rd r.ra (opOf r))
    | 0x03, 3 => onlyIf (opOk r) (.slt r.f1 r.rd r.ra (opOf r))
    | 0x04, 0 => onlyIf (r.isSI (flSize (szOf r))) (.ld (szOf r) r.rd r.ra r.imm)
    | 0x04, 1 => onlyIf (r.isSI (flSize (szOf r))) (.ldz (szOf r) r.rd r.ra r.imm)
    | 0x04, 2 => onlyIf (r.isSI (flSize (szOf r))) (.st (szOf r) r.rd r.ra r.imm)
    | 0x04, 3 => onlyIf (r.isSI (flSc r.sc) && r.noRd && r.noRa && decide (r.imm = 0#32)) (.fence r.sc)
    | 0x05, 0 => onlyIf (r.isSB) (.beq r.ra r.rb r.imm)
    | 0x05, 1 => onlyIf (r.isSB) (.bne r.ra r.rb r.imm)
    | 0x05, 2 => onlyIf (r.isSB) (.blt r.ra r.rb r.imm)
    | 0x05, 3 => onlyIf (r.isSB) (.bge r.ra r.rb r.imm)
    | 0x05, 4 => onlyIf (r.isSB) (.bltu r.ra r.rb r.imm)
    | 0x05, 5 => onlyIf (r.isSB) (.bgeu r.ra r.rb r.imm)
    | 0x05, 6 => onlyIf (r.isSB && r.noRa && r.noRb) (.jmp r.imm)
    | 0x05, 7 => onlyIf (r.isSB && r.noRa && r.noRb) (.jal r.imm)
    | 0x05, 8 => onlyIf (r.isSR 0#4 && r.noRd && r.noRb) (.jr r.ra)
    | 0x05, 9 => onlyIf (r.isSX && r.noRd && decide (ext.extractLsb' 0 16 = 0#16)) (.jtab r.ra r.imm (ext.extractLsb' 32 32) (ext.extractLsb' 16 16))
    | 0x06, 0 => onlyIf (r.isSI 0#4 && r.noRd && r.noRa) (.trap r.imm)
    | 0x06, 1 => onlyIf (r.isSI 0#4 && r.noRd && r.noRa) (.svc r.imm)
    | 0x06, 2 => onlyIf (r.isSR 0#4 && r.noRd && r.noRa && r.noRb) (.eret)
    | 0x06, 3 => onlyIf (r.isSI 0#4 && r.noRa) (.srr r.rd r.imm)
    | 0x06, 4 => onlyIf (r.isSI 0#4 && r.noRd) (.srw r.imm r.ra)
    | 0x06, 5 => onlyIf (r.isSR 0#4 && r.noRd && r.noRa && r.noRb) (.halt)
    | 0x06, 6 => onlyIf (r.isSR 0#4 && r.noRd && r.noRa && r.noRb) (.nop)
    | 0x07, 0 => onlyIf (r.isSR 0#4 && r.noRd && r.noRb) (.cfgld r.ra)
    | 0x07, 1 => onlyIf (r.isSR 0#4 && r.noRd && r.noRb) (.cfggo r.ra)
    | 0x07, 2 => onlyIf (r.isSR 0#4 && r.noRd && r.noRb) (.cfgwt r.ra)
    | 0x07, 3 => onlyIf (r.isSR 0#4 && r.noRb) (.cfgst r.rd r.ra)
    | 0x07, 4 =>
      onlyIf (r.isSI 0#4 && decide (r.imm.toNat < 2)) (if r.imm = 0#32 then .preDrain r.rd r.ra else .preMarker r.rd r.ra)
    | 0x07, 5 => onlyIf (r.isSR 0#4 && r.noRd && r.noRb) (.rsm r.ra)
    | 0x3C, 0 => onlyIf (r.isSR 0#4) (.dmov r.rd r.ra r.rb)
    | 0x20, 0 => onlyIf (r.isSR 0#4 && r.noRb) (.mxon r.rd r.ra)
    | 0x20, 1 => onlyIf (r.isSR 0#4 && r.noRa && r.noRb) (.mxoff r.rd)
    | 0x20, 2 => onlyIf (r.isSR r.fl) (.mxwl r.rd r.ra r.rb r.fl)
    | 0x20, 3 => onlyIf (r.isSR 0#4) (.mxrun r.rd r.ra r.rb)
    | 0x20, 4 => onlyIf (r.isSI (flU r.f1) && r.noRa) (.mxprm r.f1 r.rd r.imm)
    | 0x20, 5 => onlyIf (r.isSR r.fl) (.mxout r.rd r.ra r.rb r.fl)
    | 0x20, 6 => onlyIf (r.isSR 0#4 && r.noRd && r.noRa && r.noRb) (.mxzero)
    | 0x20, 7 => onlyIf (r.isSR 0#4 && r.noRb) (.mxsnap r.rd r.ra)
    | 0x20, 8 => onlyIf (r.isSR 0#4 && r.noRb) (.mxrest r.rd r.ra)
    | 0x21, 0 => onlyIf (r.isSR 0#4 && r.noRa && r.noRb) (.mxslot r.rd)
    | 0x21, 1 => onlyIf (r.isSI 0#4 && r.noRa) (.mxprio r.rd r.imm)
    | 0x26, 0 => onlyIf (r.isSI 0#4) (.bret r.rd r.ra r.imm)
    | 0x26, 1 => onlyIf (r.isSI 0#4) (.bscrb r.rd r.ra r.imm)
    | 0x26, 2 => onlyIf (r.isSI (flU r.f1)) (.bstat r.f1 r.rd r.ra r.imm)
    | 0x27, 0 => onlyIf (r.isSR 0#4 && r.noRb) (.mpin r.rd r.ra)
    | 0x27, 1 => onlyIf (r.isSR 0#4 && r.noRb) (.munpn r.rd r.ra)
    | 0x27, 2 => onlyIf (r.isSR 0#4 && r.noRb) (.mevct r.rd r.ra)
    | 0x2C, 0 => onlyIf (r.isSR 0#4 && r.noRb) (.spawn r.rd r.ra)
    | 0x2C, 1 => onlyIf (r.isSR 0#4) (.spwnc r.rd r.ra r.rb)
    | 0x2C, 2 => onlyIf (r.isSR 0#4 && r.noRb) (.reslv r.rd r.ra)
    | 0x2C, 3 => onlyIf (r.isSR 0#4 && r.noRa && r.noRb) (.commit r.rd)
    | 0x2C, 4 =>
      onlyIf (r.isSI 0#4 && r.noRd && r.noRa && decide (r.imm.toNat < 2))
        (if r.imm = 0#32 then .abortNorequeue else .abortRequeue)
    | 0x2C, 5 =>
      onlyIf (r.isSI 0#4 && r.noRa && decide (r.imm.toNat < 2))
        (if r.imm = 0#32 then .yield r.rd else .yieldIfWaiting r.rd)
    | 0x2C, 6 => onlyIf (r.isSR 0#4 && r.noRb) (.dline r.rd r.ra)
    | 0x2C, 7 => onlyIf (r.isSR 0#4 && r.noRb) (.budgt r.rd r.ra)
    | 0x2C, 8 => onlyIf (r.isSR 0#4 && r.noRb) (.segid r.rd r.ra)
    | 0x2C, 9 => onlyIf (r.isSR (flU r.f1) && (r.f1 || r.noRb)) (.pred r.f1 r.rd r.ra r.rb)
    | 0x2D, 0 => onlyIf (r.isSR 0#4) (.tailw r.rd r.ra r.rb)
    | 0x30, 0 => onlyIf (r.isSR (flSc r.sc) && yScopeOk r.sc) (.phnew r.sc r.rd r.ra r.rb)
    | 0x30, 1 => onlyIf (r.isSI (flSc r.sc) && yScopeOk r.sc) (.phreg r.sc r.rd r.ra r.imm)
    | 0x30, 2 => onlyIf (r.isSI (flSc r.sc) && yScopeOk r.sc) (.phdrp r.sc r.rd r.ra r.imm)
    | 0x30, 3 => onlyIf (r.isSR (flSc r.sc) && r.noRb && yScopeOk r.sc) (.phsig r.sc r.rd r.ra)
    | 0x30, 4 => onlyIf (r.isSR 0#4 && r.noRd && r.noRb) (.phwt r.ra)
    | 0x30, 5 => onlyIf (r.isSR (flSc r.sc) && r.noRb && yScopeOk r.sc) (.phsw r.sc r.rd r.ra)
    | 0x31, 0 => onlyIf (r.isSR (flSc r.sc) && r.noRd && yScopeOk r.sc) (.bexp r.sc r.ra r.rb)
    | 0x31, 1 => onlyIf (r.isSR (flSc r.sc) && yScopeOk r.sc) (.badd r.sc r.rd r.ra r.rb)
    | 0x32, 0 => onlyIf (r.isSR (flSc r.sc) && yScopeOk r.sc) (.aadd r.sc r.rd r.ra r.rb)
    | 0x32, 1 => onlyIf (r.isSR (flSc r.sc) && yScopeOk r.sc) (.aand r.sc r.rd r.ra r.rb)
    | 0x32, 2 => onlyIf (r.isSR (flSc r.sc) && yScopeOk r.sc) (.aor r.sc r.rd r.ra r.rb)
    | 0x32, 3 => onlyIf (r.isSR (flSc r.sc) && yScopeOk r.sc) (.axor r.sc r.rd r.ra r.rb)
    | 0x32, 6 => onlyIf (r.isSR (flSc r.sc) && yScopeOk r.sc) (.axch r.sc r.rd r.ra r.rb)
    | 0x32, 7 => onlyIf (r.isSR (flSc r.sc) && yScopeOk r.sc) (.acas r.sc r.rd r.ra r.rb)
    | 0x32, 4 => onlyIf (r.isSR (flScB r.f4 r.sc) && yScopeOk r.sc) (.amin r.f4 r.sc r.rd r.ra r.rb)
    | 0x32, 5 => onlyIf (r.isSR (flScB r.f4 r.sc) && yScopeOk r.sc) (.amax r.f4 r.sc r.rd r.ra r.rb)
    | 0x33, 0 => onlyIf (r.isSR (flSc r.sc) && r.noRd && yScopeOk r.sc) (.fbin r.sc r.ra r.rb)
    | 0x33, 1 => onlyIf (r.isSR 0#4 && r.noRb) (.fbrd r.rd r.ra)
    | 0x33, 2 => onlyIf (r.isSR (flSc r.sc) && r.noRd && yScopeOk r.sc) (.fbclr r.sc r.ra r.rb)
    | 0x33, 3 => onlyIf (r.isSR (flScB r.f4 r.sc) && r.noRd && yScopeOk r.sc) (.qpsh r.f4 r.sc r.ra r.rb)
    | 0x33, 4 => onlyIf (r.isSR (flScB r.f4 r.sc) && r.noRb && yScopeOk r.sc) (.qpop r.f4 r.sc r.rd r.ra)
    | 0x34, 0 => onlyIf (r.isCL && yScopeOk r.sc) (.cpy r.sc r.rd r.ra r.rs r.rl r.rbar)
    | 0x34, 1 => onlyIf (r.isCL && decide (r.rs = 0#5) && decide (r.rl = 0#5) && yScopeOk r.sc) (.cpy2 r.sc r.rd r.ra r.rbar)
    | 0x35, 0 => onlyIf (r.isCL && decide (r.sc = 0#3 ∨ r.sc = 7#3)) (.rcpy r.sc r.rd r.ra r.rs r.rl r.rbar)
    | 0x35, 1 => onlyIf (r.isSI 0#4 && r.noRa) (.cpyq r.rd r.imm)
    | 0x3D, 0 => onlyIf (r.isSR 0#4) (.tlbiPage r.rd r.ra r.rb)
    | 0x3D, 1 => onlyIf (r.isSR 0#4) (.wmode r.rd r.ra r.rb)
    | 0x3D, 2 => onlyIf (r.isSR 0#4) (.spareRead r.rd r.ra r.rb)
    | 0x3E, 0 => onlyIf (r.isSR 0#4) (.qctlRead r.rd r.ra r.rb)
    | 0x3E, 1 => onlyIf (r.isSR 0#4) (.dieqFence r.rd r.ra r.rb)
    | 0x3E, 2 => onlyIf (r.isSR 0#4) (.binjFlipOne r.rd r.ra r.rb)
    | _, _ => .error .illop

/-- Reads a Lantern instruction: its first parcel and the parcel after it, which only LI and JTAB use. -/
def decodeLantern (p ext : Word) : Except Reject Instr := decodeRaw (unpackRaw p) ext

/-- Whether an instruction takes two parcels (R64). -/
def twoParcels : Instr → Bool
  | .li _ _ => true
  | .jtab _ _ _ _ => true
  | _ => false

/-- Whether an instruction needs supervisor mode (R74, R134). -/
def needsSup : Instr → Bool
  | .eret => true
  | .halt => true
  | .bret _ _ _ => true
  | .bscrb _ _ _ => true
  | .bstat _ _ _ _ => true
  | .tlbiPage _ _ _ => true
  | .tlbiPasid _ _ _ => true
  | .tlbiAll _ _ _ => true
  | .wmode _ _ _ => true
  | .spareRead _ _ _ => true
  | .spareSetInterval _ _ _ => true
  | .spareRemap _ _ _ => true
  | .spareClear _ _ _ => true
  | .spareSetPos _ _ _ => true
  | .qctlRead _ _ _ => true
  | .qctlRevoke _ _ _ => true
  | .qctlKill _ _ _ => true
  | .qctlRelease _ _ _ => true
  | .dieqFence _ _ _ => true
  | .dieqRelease _ _ _ => true
  | .dieqStatus _ _ _ => true
  | .binjFlipOne _ _ _ => true
  | .binjFlipTwo _ _ _ => true
  | .binjSpare _ _ _ => true
  | _ => false

/-- The element instruction of an opcode (R73, R74), with its fields. -/
def slotInstr (maj min : Nat) (f : Slot) : Option Instr :=
  match maj, min with
  | 0x10, 0 => some (.fadd f)
  | 0x10, 1 => some (.fsub f)
  | 0x10, 2 => some (.fmul f)
  | 0x10, 3 => some (.fma f)
  | 0x10, 4 => some (.fms f)
  | 0x10, 5 => some (.fnma f)
  | 0x10, 6 => some (.fmin f)
  | 0x10, 7 => some (.fmax f)
  | 0x10, 8 => some (.fabs f)
  | 0x10, 9 => some (.fneg f)
  | 0x10, 10 => some (.fdiv f)
  | 0x10, 11 => some (.fsqrt f)
  | 0x10, 12 => some (.frcp f)
  | 0x10, 13 => some (.frsq f)
  | 0x10, 14 => some (.flg2 f)
  | 0x10, 15 => some (.fex2 f)
  | 0x10, 16 => some (.frnd f)
  | 0x10, 17 => some (.fcmp f)
  | 0x11, 0 => some (.iadd f)
  | 0x11, 1 => some (.isub f)
  | 0x11, 2 => some (.imul f)
  | 0x11, 3 => some (.imulh f)
  | 0x11, 4 => some (.idiv f)
  | 0x11, 5 => some (.irem f)
  | 0x11, 6 => some (.imin f)
  | 0x11, 7 => some (.imax f)
  | 0x11, 8 => some (.ineg f)
  | 0x11, 9 => some (.icmp f)
  | 0x12, 0 => some (.eAnd f)
  | 0x12, 1 => some (.eOr f)
  | 0x12, 2 => some (.eXor f)
  | 0x12, 3 => some (.andn f)
  | 0x12, 4 => some (.eNot f)
  | 0x12, 5 => some (.eShl f)
  | 0x12, 6 => some (.eShr f)
  | 0x12, 7 => some (.eSar f)
  | 0x12, 8 => some (.rol f)
  | 0x12, 9 => some (.popc f)
  | 0x12, 10 => some (.clz f)
  | 0x12, 11 => some (.ctz f)
  | 0x12, 12 => some (.bext f)
  | 0x12, 13 => some (.bins f)
  | 0x13, 0 => some (.cvtfi f)
  | 0x13, 1 => some (.cvtif f)
  | 0x13, 2 => some (.cvtfl f)
  | 0x13, 3 => some (.cvtlf f)
  | 0x13, 4 => some (.lget f)
  | 0x13, 5 => some (.lput f)
  | 0x13, 6 => some (.lspl f)
  | 0x14, 0 => some (.ldot f)
  | 0x14, 1 => some (.lsum f)
  | 0x14, 2 => some (.bdot f)
  | 0x14, 3 => some (.packedBadd f)
  | 0x15, 0 => some (.pass f)
  | 0x15, 1 => some (.sel f)
  | 0x15, 2 => some (.const f)
  | 0x15, 3 => some (.sink f)
  | 0x16, 0 => some (.cond f)
  | 0x16, 1 => some (.cand f)
  | 0x16, 2 => some (.cor f)
  | 0x16, 3 => some (.cnot f)
  | 0x16, 4 => some (.steer f)
  | 0x16, 5 => some (.merge f)
  | 0x16, 6 => some (.gate f)
  | 0x17, 0 => some (.talloc f)
  | 0x17, 1 => some (.tfree f)
  | 0x17, 2 => some (.tnext f)
  | 0x17, 3 => some (.titer f)
  | 0x17, 4 => some (.tcall f)
  | 0x17, 5 => some (.tret f)
  | 0x18, 0 => some (.eLd f)
  | 0x18, 1 => some (.eSt f)
  | 0x18, 2 => some (.ldv f)
  | 0x18, 3 => some (.stv f)
  | 0x18, 4 => some (.ldx f)
  | 0x18, 5 => some (.stx f)
  | 0x19, 0 => some (.eNop f)
  | 0x19, 1 => some (.cres f)
  | 0x32, 0 => some (.slotAadd f)
  | 0x32, 1 => some (.slotAand f)
  | 0x32, 2 => some (.slotAor f)
  | 0x32, 3 => some (.slotAxor f)
  | 0x32, 4 => some (.slotAmin f)
  | 0x32, 5 => some (.slotAmax f)
  | 0x32, 6 => some (.slotAxch f)
  | 0x32, 7 => some (.slotAcas f)
  | 0x30, 3 => some (.slotPhsig f)
  | 0x33, 0 => some (.slotFbin f)
  | 0x33, 3 => some (.slotQpsh f)
  | _, _ => none

/-- The opcode of an element instruction, and its fields. -/
def slotCode : Instr → Option (BitVec 6 × BitVec 6 × Slot)
  | .fadd f => some (0x10#6, 0#6, f)
  | .fsub f => some (0x10#6, 1#6, f)
  | .fmul f => some (0x10#6, 2#6, f)
  | .fma f => some (0x10#6, 3#6, f)
  | .fms f => some (0x10#6, 4#6, f)
  | .fnma f => some (0x10#6, 5#6, f)
  | .fmin f => some (0x10#6, 6#6, f)
  | .fmax f => some (0x10#6, 7#6, f)
  | .fabs f => some (0x10#6, 8#6, f)
  | .fneg f => some (0x10#6, 9#6, f)
  | .fdiv f => some (0x10#6, 10#6, f)
  | .fsqrt f => some (0x10#6, 11#6, f)
  | .frcp f => some (0x10#6, 12#6, f)
  | .frsq f => some (0x10#6, 13#6, f)
  | .flg2 f => some (0x10#6, 14#6, f)
  | .fex2 f => some (0x10#6, 15#6, f)
  | .frnd f => some (0x10#6, 16#6, f)
  | .fcmp f => some (0x10#6, 17#6, f)
  | .iadd f => some (0x11#6, 0#6, f)
  | .isub f => some (0x11#6, 1#6, f)
  | .imul f => some (0x11#6, 2#6, f)
  | .imulh f => some (0x11#6, 3#6, f)
  | .idiv f => some (0x11#6, 4#6, f)
  | .irem f => some (0x11#6, 5#6, f)
  | .imin f => some (0x11#6, 6#6, f)
  | .imax f => some (0x11#6, 7#6, f)
  | .ineg f => some (0x11#6, 8#6, f)
  | .icmp f => some (0x11#6, 9#6, f)
  | .eAnd f => some (0x12#6, 0#6, f)
  | .eOr f => some (0x12#6, 1#6, f)
  | .eXor f => some (0x12#6, 2#6, f)
  | .andn f => some (0x12#6, 3#6, f)
  | .eNot f => some (0x12#6, 4#6, f)
  | .eShl f => some (0x12#6, 5#6, f)
  | .eShr f => some (0x12#6, 6#6, f)
  | .eSar f => some (0x12#6, 7#6, f)
  | .rol f => some (0x12#6, 8#6, f)
  | .popc f => some (0x12#6, 9#6, f)
  | .clz f => some (0x12#6, 10#6, f)
  | .ctz f => some (0x12#6, 11#6, f)
  | .bext f => some (0x12#6, 12#6, f)
  | .bins f => some (0x12#6, 13#6, f)
  | .cvtfi f => some (0x13#6, 0#6, f)
  | .cvtif f => some (0x13#6, 1#6, f)
  | .cvtfl f => some (0x13#6, 2#6, f)
  | .cvtlf f => some (0x13#6, 3#6, f)
  | .lget f => some (0x13#6, 4#6, f)
  | .lput f => some (0x13#6, 5#6, f)
  | .lspl f => some (0x13#6, 6#6, f)
  | .ldot f => some (0x14#6, 0#6, f)
  | .lsum f => some (0x14#6, 1#6, f)
  | .bdot f => some (0x14#6, 2#6, f)
  | .packedBadd f => some (0x14#6, 3#6, f)
  | .pass f => some (0x15#6, 0#6, f)
  | .sel f => some (0x15#6, 1#6, f)
  | .const f => some (0x15#6, 2#6, f)
  | .sink f => some (0x15#6, 3#6, f)
  | .cond f => some (0x16#6, 0#6, f)
  | .cand f => some (0x16#6, 1#6, f)
  | .cor f => some (0x16#6, 2#6, f)
  | .cnot f => some (0x16#6, 3#6, f)
  | .steer f => some (0x16#6, 4#6, f)
  | .merge f => some (0x16#6, 5#6, f)
  | .gate f => some (0x16#6, 6#6, f)
  | .talloc f => some (0x17#6, 0#6, f)
  | .tfree f => some (0x17#6, 1#6, f)
  | .tnext f => some (0x17#6, 2#6, f)
  | .titer f => some (0x17#6, 3#6, f)
  | .tcall f => some (0x17#6, 4#6, f)
  | .tret f => some (0x17#6, 5#6, f)
  | .eLd f => some (0x18#6, 0#6, f)
  | .eSt f => some (0x18#6, 1#6, f)
  | .ldv f => some (0x18#6, 2#6, f)
  | .stv f => some (0x18#6, 3#6, f)
  | .ldx f => some (0x18#6, 4#6, f)
  | .stx f => some (0x18#6, 5#6, f)
  | .eNop f => some (0x19#6, 0#6, f)
  | .cres f => some (0x19#6, 1#6, f)
  | .slotAadd f => some (0x32#6, 0#6, f)
  | .slotAand f => some (0x32#6, 1#6, f)
  | .slotAor f => some (0x32#6, 2#6, f)
  | .slotAxor f => some (0x32#6, 3#6, f)
  | .slotAmin f => some (0x32#6, 4#6, f)
  | .slotAmax f => some (0x32#6, 5#6, f)
  | .slotAxch f => some (0x32#6, 6#6, f)
  | .slotAcas f => some (0x32#6, 7#6, f)
  | .slotPhsig f => some (0x30#6, 3#6, f)
  | .slotFbin f => some (0x33#6, 0#6, f)
  | .slotQpsh f => some (0x33#6, 3#6, f)
  | _ => none

/-- Reads an element instruction parcel (R65), with the checks of R68 that the parcel alone decides. -/
def decodeSlot (p : Word) : Option Instr :=
  let r := unpackSlot p
  match slotInstr r.maj.toNat r.min.toNat r.f with
  | none => none
  | some i => if !r.z && Machine.slotOk i then some i else none

/-- Whether a stream-program instruction takes two parcels (R266). -/
def streamTwo : Instr → Bool
  | .sopen _ _ _ _ _ _ _ _ _ _ _ => true
  | .sgath _ _ _ _ => true
  | .sscat _ _ _ _ => true
  | .swait _ => true
  | .ssig _ _ _ _ _ => true
  | _ => false

/-- The instruction that a stream-program parcel's fields name (R266), without the checks on them. -/
def streamInstr (p x : Word) : Option Instr :=
  let h : BitVec 2 := p.extractLsb' 50 2
  let n : BitVec 24 := p.extractLsb' 13 24
  let addr : BitVec 48 := x.extractLsb' 0 48
  match (p.extractLsb' 58 6).toNat, (p.extractLsb' 52 6).toNat with
  | 0x24, 0 => some (.sopen h (p.getLsbD 49) (p.extractLsb' 45 4) (p.extractLsb' 43 2) (p.getLsbD 42) (p.getLsbD 41)
      (p.getLsbD 40) (p.extractLsb' 37 3) n (x.extractLsb' 48 16) addr)
  | 0x24, 1 => some (.sclose h)
  | 0x24, 2 => some (.spush h n)
  | 0x24, 3 => some (.sacpt h n)
  | 0x24, 4 => some (.sgath h (p.extractLsb' 45 4) n addr)
  | 0x24, 5 => some (.sscat h (p.extractLsb' 45 4) n addr)
  | 0x24, 6 => some (.sloop h (p.getLsbD 49) (p.extractLsb' 43 6) (p.extractLsb' 27 16) (p.extractLsb' 3 24))
  | 0x24, 7 => some (.swait addr)
  | 0x24, 8 => some (.ssig h (p.getLsbD 49) (p.extractLsb' 46 3) (p.extractLsb' 5 32) addr)
  | 0x25, 0 => some (.wload (p.extractLsb' 36 16))
  | 0x25, 1 => some (.wdrop (p.extractLsb' 36 16))
  | 0x25, 2 => some (.vopen h (p.extractLsb' 39 11) (p.extractLsb' 22 17) (p.extractLsb' 5 17))
  | 0x25, 3 => some (.vrecl h (p.getLsbD 49) (p.extractLsb' 5 32))
  | 0x25, 4 => some (.mlay (p.extractLsb' 44 8) (p.getLsbD 43) (p.getLsbD 42))
  | _, _ => none

/-- The two parcels of a stream-program instruction (R266); the second is zero where there is none. -/
def encodeStream : Instr → Option (Word × Word)
  | .sopen h input fmt lay rtz ord grp uni count stride base =>
    some (0x24#6 ++ (0#6 ++ (h ++ (bit1 input ++ (fmt ++ (lay ++ (bit1 rtz ++ (bit1 ord ++ (bit1 grp ++ (uni ++
      (count ++ (0#12 ++ 1#1))))))))))), stride ++ base)
  | .sclose h => some (0x24#6 ++ (1#6 ++ (h ++ 0#50)), 0#64)
  | .spush h n => some (0x24#6 ++ (2#6 ++ (h ++ (0#13 ++ (n ++ 0#13)))), 0#64)
  | .sacpt h n => some (0x24#6 ++ (3#6 ++ (h ++ (0#13 ++ (n ++ 0#13)))), 0#64)
  | .sgath h f n a => some (0x24#6 ++ (4#6 ++ (h ++ (0#1 ++ (f ++ (0#8 ++ (n ++ (0#12 ++ 1#1))))))), 0#16 ++ a)
  | .sscat h f n a => some (0x24#6 ++ (5#6 ++ (h ++ (0#1 ++ (f ++ (0#8 ++ (n ++ (0#12 ++ 1#1))))))), 0#16 ++ a)
  | .sloop h adv back times stp =>
    some (0x24#6 ++ (6#6 ++ (h ++ (bit1 adv ++ (back ++ (times ++ (stp ++ 0#3)))))), 0#64)
  | .swait a => some (0x24#6 ++ (7#6 ++ (0#51 ++ 1#1)), 0#16 ++ a)
  | .ssig h aft sc bytes a =>
    some (0x24#6 ++ (8#6 ++ (h ++ (bit1 aft ++ (sc ++ (0#9 ++ (bytes ++ (0#4 ++ 1#1))))))), 0#16 ++ a)
  | .wload m => some (0x25#6 ++ (0#6 ++ (m ++ 0#36)), 0#64)
  | .wdrop m => some (0x25#6 ++ (1#6 ++ (m ++ 0#36)), 0#64)
  | .vopen w ent first nw => some (0x25#6 ++ (2#6 ++ (w ++ (ent ++ (first ++ (nw ++ 0#5))))), 0#64)
  | .vrecl w rel v => some (0x25#6 ++ (3#6 ++ (w ++ (bit1 rel ++ (0#12 ++ (v ++ 0#5))))), 0#64)
  | .mlay segs xs chk => some (0x25#6 ++ (4#6 ++ (segs ++ (bit1 xs ++ (bit1 chk ++ 0#42)))), 0#64)
  | _ => none

/-- Reads a stream-program instruction: its parcel and the parcel after it. A parcel is one exactly when it has no bit
set beside its instruction's fields, and the fields hold legal values (R266, R267). -/
def decodeStream (p x : Word) : Option Instr :=
  match streamInstr p x with
  | none => none
  | some i =>
    if wellFormed i && (match encodeStream i with
        | some (p', x') => decide (p' = p) && (!streamTwo i || decide (x' = x))
        | none => false)
    then some i else none

/-- The Lantern parcel fields of an instruction (R62 to R64, R73). -/
def lanternRaw : Instr → Option Raw
  | .add rd ra rb => some ⟨0x01#6, 0#6, rd, ra, rb, 0#32, 0#4, false⟩
  | .sub rd ra rb => some ⟨0x01#6, 1#6, rd, ra, rb, 0#32, 0#4, false⟩
  | .mul rd ra rb => some ⟨0x01#6, 2#6, rd, ra, rb, 0#32, 0#4, false⟩
  | .mulh u rd ra rb => some ⟨0x01#6, 3#6, rd, ra, rb, 0#32, flU u, false⟩
  | .div u rd ra rb => some ⟨0x01#6, 4#6, rd, ra, rb, 0#32, flU u, false⟩
  | .rem u rd ra rb => some ⟨0x01#6, 5#6, rd, ra, rb, 0#32, flU u, false⟩
  | .and rd ra rb => some ⟨0x01#6, 6#6, rd, ra, rb, 0#32, 0#4, false⟩
  | .or rd ra rb => some ⟨0x01#6, 7#6, rd, ra, rb, 0#32, 0#4, false⟩
  | .xor rd ra rb => some ⟨0x01#6, 8#6, rd, ra, rb, 0#32, 0#4, false⟩
  | .addi rd ra imm => some ⟨0x02#6, 0#6, rd, ra, 0#5, imm, 0#4, false⟩
  | .andi rd ra imm => some ⟨0x02#6, 1#6, rd, ra, 0#5, imm, 0#4, false⟩
  | .ori rd ra imm => some ⟨0x02#6, 2#6, rd, ra, 0#5, imm, 0#4, false⟩
  | .xori rd ra imm => some ⟨0x02#6, 3#6, rd, ra, 0#5, imm, 0#4, false⟩
  | .li rd _ => some ⟨0x02#6, 4#6, rd, 0#5, 0#5, 0#32, 0#4, true⟩
  | .mov rd ra => some ⟨0x02#6, 5#6, rd, ra, 0#5, 0#32, 0#4, false⟩
  | .shl rd ra op => some ⟨0x03#6, 0#6, rd, ra, opRb op, opImm op, flOp false op, false⟩
  | .shr rd ra op => some ⟨0x03#6, 1#6, rd, ra, opRb op, opImm op, flOp false op, false⟩
  | .sar rd ra op => some ⟨0x03#6, 2#6, rd, ra, opRb op, opImm op, flOp false op, false⟩
  | .slt u rd ra op => some ⟨0x03#6, 3#6, rd, ra, opRb op, opImm op, flOp u op, false⟩
  | .ld sz rd ra imm => some ⟨0x04#6, 0#6, rd, ra, 0#5, imm, flSize sz, false⟩
  | .ldz sz rd ra imm => some ⟨0x04#6, 1#6, rd, ra, 0#5, imm, flSize sz, false⟩
  | .st sz rd ra imm => some ⟨0x04#6, 2#6, rd, ra, 0#5, imm, flSize sz, false⟩
  | .fence scope => some ⟨0x04#6, 3#6, 0#5, 0#5, 0#5, 0#32, flSc scope, false⟩
  | .beq ra rb off => some ⟨0x05#6, 0#6, 0#5, ra, rb, off, 0#4, false⟩
  | .bne ra rb off => some ⟨0x05#6, 1#6, 0#5, ra, rb, off, 0#4, false⟩
  | .blt ra rb off => some ⟨0x05#6, 2#6, 0#5, ra, rb, off, 0#4, false⟩
  | .bge ra rb off => some ⟨0x05#6, 3#6, 0#5, ra, rb, off, 0#4, false⟩
  | .bltu ra rb off => some ⟨0x05#6, 4#6, 0#5, ra, rb, off, 0#4, false⟩
  | .bgeu ra rb off => some ⟨0x05#6, 5#6, 0#5, ra, rb, off, 0#4, false⟩
  | .jmp off => some ⟨0x05#6, 6#6, 0#5, 0#5, 0#5, off, 0#4, false⟩
  | .jal off => some ⟨0x05#6, 7#6, 0#5, 0#5, 0#5, off, 0#4, false⟩
  | .jr ra => some ⟨0x05#6, 8#6, 0#5, ra, 0#5, 0#32, 0#4, false⟩
  | .jtab ra base _ _ => some ⟨0x05#6, 9#6, 0#5, ra, 0#5, base, 0#4, true⟩
  | .trap code => some ⟨0x06#6, 0#6, 0#5, 0#5, 0#5, code, 0#4, false⟩
  | .svc code => some ⟨0x06#6, 1#6, 0#5, 0#5, 0#5, code, 0#4, false⟩
  | .eret => some ⟨0x06#6, 2#6, 0#5, 0#5, 0#5, 0#32, 0#4, false⟩
  | .srr rd num => some ⟨0x06#6, 3#6, rd, 0#5, 0#5, num, 0#4, false⟩
  | .srw num ra => some ⟨0x06#6, 4#6, 0#5, ra, 0#5, num, 0#4, false⟩
  | .halt => some ⟨0x06#6, 5#6, 0#5, 0#5, 0#5, 0#32, 0#4, false⟩
  | .nop => some ⟨0x06#6, 6#6, 0#5, 0#5, 0#5, 0#32, 0#4, false⟩
  | .cfgld ra => some ⟨0x07#6, 0#6, 0#5, ra, 0#5, 0#32, 0#4, false⟩
  | .cfggo ra => some ⟨0x07#6, 1#6, 0#5, ra, 0#5, 0#32, 0#4, false⟩
  | .cfgwt ra => some ⟨0x07#6, 2#6, 0#5, ra, 0#5, 0#32, 0#4, false⟩
  | .cfgst rd ra => some ⟨0x07#6, 3#6, rd, ra, 0#5, 0#32, 0#4, false⟩
  | .preDrain rd ra => some ⟨0x07#6, 4#6, rd, ra, 0#5, 0#32, 0#4, false⟩
  | .preMarker rd ra => some ⟨0x07#6, 4#6, rd, ra, 0#5, 1#32, 0#4, false⟩
  | .rsm ra => some ⟨0x07#6, 5#6, 0#5, ra, 0#5, 0#32, 0#4, false⟩
  | .dmov rd ra rb => some ⟨0x3C#6, 0#6, rd, ra, rb, 0#32, 0#4, false⟩
  | .mxon rd ra => some ⟨0x20#6, 0#6, rd, ra, 0#5, 0#32, 0#4, false⟩
  | .mxoff rd => some ⟨0x20#6, 1#6, rd, 0#5, 0#5, 0#32, 0#4, false⟩
  | .mxwl rd ra rb fmt => some ⟨0x20#6, 2#6, rd, ra, rb, 0#32, fmt, false⟩
  | .mxrun rd ra rb => some ⟨0x20#6, 3#6, rd, ra, rb, 0#32, 0#4, false⟩
  | .mxprm c rd k => some ⟨0x20#6, 4#6, rd, 0#5, 0#5, k, flU c, false⟩
  | .mxout rd ra rb fmt => some ⟨0x20#6, 5#6, rd, ra, rb, 0#32, fmt, false⟩
  | .mxzero => some ⟨0x20#6, 6#6, 0#5, 0#5, 0#5, 0#32, 0#4, false⟩
  | .mxsnap rd ra => some ⟨0x20#6, 7#6, rd, ra, 0#5, 0#32, 0#4, false⟩
  | .mxrest rd ra => some ⟨0x20#6, 8#6, rd, ra, 0#5, 0#32, 0#4, false⟩
  | .mxslot rd => some ⟨0x21#6, 0#6, rd, 0#5, 0#5, 0#32, 0#4, false⟩
  | .mxprio rd level => some ⟨0x21#6, 1#6, rd, 0#5, 0#5, level, 0#4, false⟩
  | .bret rd ra imm => some ⟨0x26#6, 0#6, rd, ra, 0#5, imm, 0#4, false⟩
  | .bscrb rd ra imm => some ⟨0x26#6, 1#6, rd, ra, 0#5, imm, 0#4, false⟩
  | .bstat c rd ra imm => some ⟨0x26#6, 2#6, rd, ra, 0#5, imm, flU c, false⟩
  | .mpin rd ra => some ⟨0x27#6, 0#6, rd, ra, 0#5, 0#32, 0#4, false⟩
  | .munpn rd ra => some ⟨0x27#6, 1#6, rd, ra, 0#5, 0#32, 0#4, false⟩
  | .mevct rd ra => some ⟨0x27#6, 2#6, rd, ra, 0#5, 0#32, 0#4, false⟩
  | .spawn rd ra => some ⟨0x2C#6, 0#6, rd, ra, 0#5, 0#32, 0#4, false⟩
  | .spwnc rd ra rb => some ⟨0x2C#6, 1#6, rd, ra, rb, 0#32, 0#4, false⟩
  | .reslv rd ra => some ⟨0x2C#6, 2#6, rd, ra, 0#5, 0#32, 0#4, false⟩
  | .commit rd => some ⟨0x2C#6, 3#6, rd, 0#5, 0#5, 0#32, 0#4, false⟩
  | .abortNorequeue => some ⟨0x2C#6, 4#6, 0#5, 0#5, 0#5, 0#32, 0#4, false⟩
  | .abortRequeue => some ⟨0x2C#6, 4#6, 0#5, 0#5, 0#5, 1#32, 0#4, false⟩
  | .yield rd => some ⟨0x2C#6, 5#6, rd, 0#5, 0#5, 0#32, 0#4, false⟩
  | .yieldIfWaiting rd => some ⟨0x2C#6, 5#6, rd, 0#5, 0#5, 1#32, 0#4, false⟩
  | .dline rd ra => some ⟨0x2C#6, 6#6, rd, ra, 0#5, 0#32, 0#4, false⟩
  | .budgt rd ra => some ⟨0x2C#6, 7#6, rd, ra, 0#5, 0#32, 0#4, false⟩
  | .segid rd ra => some ⟨0x2C#6, 8#6, rd, ra, 0#5, 0#32, 0#4, false⟩
  | .pred w rd ra rb => some ⟨0x2C#6, 9#6, rd, ra, rb, 0#32, flU w, false⟩
  | .tailw rd ra rb => some ⟨0x2D#6, 0#6, rd, ra, rb, 0#32, 0#4, false⟩
  | .phnew scope rd ra rb => some ⟨0x30#6, 0#6, rd, ra, rb, 0#32, flSc scope, false⟩
  | .phreg scope rd ra mode => some ⟨0x30#6, 1#6, rd, ra, 0#5, mode, flSc scope, false⟩
  | .phdrp scope rd ra mode => some ⟨0x30#6, 2#6, rd, ra, 0#5, mode, flSc scope, false⟩
  | .phsig scope rd ra => some ⟨0x30#6, 3#6, rd, ra, 0#5, 0#32, flSc scope, false⟩
  | .phwt ra => some ⟨0x30#6, 4#6, 0#5, ra, 0#5, 0#32, 0#4, false⟩
  | .phsw scope rd ra => some ⟨0x30#6, 5#6, rd, ra, 0#5, 0#32, flSc scope, false⟩
  | .bexp scope ra rb => some ⟨0x31#6, 0#6, 0#5, ra, rb, 0#32, flSc scope, false⟩
  | .badd scope rd ra rb => some ⟨0x31#6, 1#6, rd, ra, rb, 0#32, flSc scope, false⟩
  | .aadd scope rd ra rb => some ⟨0x32#6, 0#6, rd, ra, rb, 0#32, flSc scope, false⟩
  | .aand scope rd ra rb => some ⟨0x32#6, 1#6, rd, ra, rb, 0#32, flSc scope, false⟩
  | .aor scope rd ra rb => some ⟨0x32#6, 2#6, rd, ra, rb, 0#32, flSc scope, false⟩
  | .axor scope rd ra rb => some ⟨0x32#6, 3#6, rd, ra, rb, 0#32, flSc scope, false⟩
  | .axch scope rd ra rb => some ⟨0x32#6, 6#6, rd, ra, rb, 0#32, flSc scope, false⟩
  | .acas scope rd ra rb => some ⟨0x32#6, 7#6, rd, ra, rb, 0#32, flSc scope, false⟩
  | .amin u scope rd ra rb => some ⟨0x32#6, 4#6, rd, ra, rb, 0#32, flScB u scope, false⟩
  | .amax u scope rd ra rb => some ⟨0x32#6, 5#6, rd, ra, rb, 0#32, flScB u scope, false⟩
  | .fbin scope ra rb => some ⟨0x33#6, 0#6, 0#5, ra, rb, 0#32, flSc scope, false⟩
  | .fbrd rd ra => some ⟨0x33#6, 1#6, rd, ra, 0#5, 0#32, 0#4, false⟩
  | .fbclr scope ra rb => some ⟨0x33#6, 2#6, 0#5, ra, rb, 0#32, flSc scope, false⟩
  | .qpsh b scope ra rb => some ⟨0x33#6, 3#6, 0#5, ra, rb, 0#32, flScB b scope, false⟩
  | .qpop b scope rd ra => some ⟨0x33#6, 4#6, rd, ra, 0#5, 0#32, flScB b scope, false⟩
  | .cpy scope rd ra rs rl rbar => some ⟨0x34#6, 0#6, rd, ra, 0#5, clImm rs rl rbar, flSc scope, false⟩
  | .cpy2 scope rd ra rbar => some ⟨0x34#6, 1#6, rd, ra, 0#5, clImm 0#5 0#5 rbar, flSc scope, false⟩
  | .rcpy scope rd ra rs rl rbar => some ⟨0x35#6, 0#6, rd, ra, 0#5, clImm rs rl rbar, flSc scope, false⟩
  | .cpyq rd k => some ⟨0x35#6, 1#6, rd, 0#5, 0#5, k, 0#4, false⟩
  | .tlbiPage rd ra rb => some ⟨0x3D#6, 0#6, rd, ra, rb, 0#32, 0#4, false⟩
  | .tlbiPasid rd ra rb => some ⟨0x3D#6, 0#6, rd, ra, rb, 0#32, 0#4, false⟩
  | .tlbiAll rd ra rb => some ⟨0x3D#6, 0#6, rd, ra, rb, 0#32, 0#4, false⟩
  | .wmode rd ra rb => some ⟨0x3D#6, 1#6, rd, ra, rb, 0#32, 0#4, false⟩
  | .spareRead rd ra rb => some ⟨0x3D#6, 2#6, rd, ra, rb, 0#32, 0#4, false⟩
  | .spareSetInterval rd ra rb => some ⟨0x3D#6, 2#6, rd, ra, rb, 0#32, 0#4, false⟩
  | .spareRemap rd ra rb => some ⟨0x3D#6, 2#6, rd, ra, rb, 0#32, 0#4, false⟩
  | .spareClear rd ra rb => some ⟨0x3D#6, 2#6, rd, ra, rb, 0#32, 0#4, false⟩
  | .spareSetPos rd ra rb => some ⟨0x3D#6, 2#6, rd, ra, rb, 0#32, 0#4, false⟩
  | .qctlRead rd ra rb => some ⟨0x3E#6, 0#6, rd, ra, rb, 0#32, 0#4, false⟩
  | .qctlRevoke rd ra rb => some ⟨0x3E#6, 0#6, rd, ra, rb, 0#32, 0#4, false⟩
  | .qctlKill rd ra rb => some ⟨0x3E#6, 0#6, rd, ra, rb, 0#32, 0#4, false⟩
  | .qctlRelease rd ra rb => some ⟨0x3E#6, 0#6, rd, ra, rb, 0#32, 0#4, false⟩
  | .dieqFence rd ra rb => some ⟨0x3E#6, 1#6, rd, ra, rb, 0#32, 0#4, false⟩
  | .dieqRelease rd ra rb => some ⟨0x3E#6, 1#6, rd, ra, rb, 0#32, 0#4, false⟩
  | .dieqStatus rd ra rb => some ⟨0x3E#6, 1#6, rd, ra, rb, 0#32, 0#4, false⟩
  | .binjFlipOne rd ra rb => some ⟨0x3E#6, 2#6, rd, ra, rb, 0#32, 0#4, false⟩
  | .binjFlipTwo rd ra rb => some ⟨0x3E#6, 2#6, rd, ra, rb, 0#32, 0#4, false⟩
  | .binjSpare rd ra rb => some ⟨0x3E#6, 2#6, rd, ra, rb, 0#32, 0#4, false⟩
  | _ => none

/-- The second parcel of a Lantern instruction, or zero (R64). -/
def lanternExt : Instr → Word
  | .li _ v => v
  | .jtab _ _ dflt len => dflt ++ (len ++ 0#16)
  | _ => 0#64

/-- The parcels of an instruction, first and second; the second is zero where there is none. -/
def encode (i : Instr) : Option (Word × Word) :=
  match lanternRaw i with
  | some r => some (packRaw r, lanternExt i)
  | none =>
    match slotCode i with
    | some (maj, min, f) => some (packSlot maj min f, 0#64)
    | none => encodeStream i

/-- The constructor that the decoder gives for the words of an instruction. A P-class word names its operation in
x(rb) or x(ra) (R435 to R440), so every form of it decodes to the first. -/
def canonical : Instr → Instr
  | .tlbiPasid rd ra rb => .tlbiPage rd ra rb
  | .tlbiAll rd ra rb => .tlbiPage rd ra rb
  | .spareSetInterval rd ra rb => .spareRead rd ra rb
  | .spareRemap rd ra rb => .spareRead rd ra rb
  | .spareClear rd ra rb => .spareRead rd ra rb
  | .spareSetPos rd ra rb => .spareRead rd ra rb
  | .qctlRevoke rd ra rb => .qctlRead rd ra rb
  | .qctlKill rd ra rb => .qctlRead rd ra rb
  | .qctlRelease rd ra rb => .qctlRead rd ra rb
  | .dieqRelease rd ra rb => .dieqFence rd ra rb
  | .dieqStatus rd ra rb => .dieqFence rd ra rb
  | .binjFlipTwo rd ra rb => .binjFlipOne rd ra rb
  | .binjSpare rd ra rb => .binjFlipOne rd ra rb
  | i => i

/-- What an instruction parcel and the parcel after it hold, whoever executes them: Lantern code first, then an
element slot, then a stream program. -/
def decodeAny (p x : Word) : Option Instr :=
  match decodeLantern p x with
  | .ok i => some i
  | .error _ =>
    match decodeSlot p with
    | some i => some i
    | none => decodeStream p x

/-- The instruction whose bits are `w`: the first parcel in bits 63 to 0, the second in bits 127 to 64. Bits from
`nbits` on are zero. -/
def decodeTableWord (nbits w : Nat) : Option Instr :=
  let v := w % 2 ^ nbits
  decodeAny (BitVec.ofNat 64 v) (BitVec.ofNat 64 (v / 2 ^ 64))

end Sys2Proof
end

