-- ==== Sys2Proof/Machine/Flags.lean ====
section
/-! DEFINITION. Sticky flags and rounding modes (R86 to R89, R92): the flag computations that every arithmetic
instruction shares. -/

namespace Sys2Proof.Machine

/-- Five sticky flags in the order of FPFLAGS [4:0] (R92): NV, DZ, OF, UF, NX. -/
abbrev Flags := BitVec 5

/-- Invalid. -/
def flagNV : Flags := 1#5
/-- Divide by zero. -/
def flagDZ : Flags := 2#5
/-- Overflow. -/
def flagOF : Flags := 4#5
/-- Underflow. -/
def flagUF : Flags := 8#5
/-- Inexact. -/
def flagNX : Flags := 16#5

/-- A flag raised when a condition holds. -/
def flagIf (c : Bool) (f : Flags) : Flags := if c then f else 0#5

/-- Rounding modes in the coding of FPMODE.RM (R86). -/
abbrev RM := BitVec 2

/-- Nearest, ties to even. -/
def rne : RM := 0#2
/-- Toward zero. -/
def rtz : RM := 1#2
/-- Toward plus infinity. -/
def rup : RM := 2#2
/-- Toward minus infinity. -/
def rdn : RM := 3#2

/-- Rounds `m / 2^sh`, with something nonzero below when `sticky`, to an integer in mode `rm`; the second value says
whether anything was lost (R88, `round_int`). With `sticky`, `sh` is at least 1. -/
def roundBits (m sh : Nat) (sticky neg : Bool) (rm : RM) : Nat × Bool :=
  let base := m >>> sh
  let low := m % 2 ^ sh
  let half := 2 ^ sh / 2
  let inexact := decide (low ≠ 0) || sticky
  let up :=
    if rm = rne then
      decide (sh ≠ 0) && (decide (half < low) || (decide (low = half) && (sticky || decide (base % 2 = 1))))
    else if rm = rup then inexact && !neg
    else if rm = rdn then inexact && neg
    else false
  (if up then base + 1 else base, inexact)

/-- Whether an overflowing result is infinite rather than the largest finite value (R89). -/
def overflowInf (rm : RM) (neg : Bool) : Bool :=
  if rm = rne then true else if rm = rtz then false else if rm = rup then !neg else neg

/-- The sign of an exact zero sum whose terms were not both zeros of one sign (R90). -/
def zeroSumNeg (rm : RM) : Bool := decide (rm = rdn)

/-- The rounding mode of an arithmetic slot (R87): RS, or the context's mode with RS 000. -/
def slotMode (rs : BitVec 3) (ctx : RM) : RM :=
  if rs = 1#3 then rne else if rs = 2#3 then rtz else if rs = 3#3 then rup else if rs = 4#3 then rdn else ctx

end Sys2Proof.Machine
end

