-- ==== Sys2Proof/Machine/Float.lean ====
section
/-! DEFINITION. The wide float W, its exact arithmetic and its one rounding (R82 to R91, R94, R178 to R182), the L6
lane (R98 to R100), and the storage formats (R101 to R106). Every result is the exact real value, rounded once. -/

namespace Sys2Proof.Machine

/-- The value of a W encoding (R83): `fin neg m e` is (−1)^neg × m × 2^e. -/
inductive WVal where
  | nan
  | inf (neg : Bool)
  | fin (neg : Bool) (m : Nat) (e : Int)
  deriving DecidableEq, Repr

/-- A result with the flags it raises. -/
structure Res (α : Type) where
  val   : α
  flags : Flags
  deriving DecidableEq, Repr

/-- Reads a W encoding (R83). -/
def wdec (w : Pay) : WVal :=
  let neg := w.getLsbD 79
  let e := (w.extractLsb' 64 15).toInt
  let m := (w.extractLsb' 0 64).toNat
  if e = 16383 then (if m = 0 then .inf neg else .nan)
  else if e = -16384 then .fin neg 0 0
  else if m = 0 then .fin neg 0 0
  else if (Nat.log2 m : Int) + (e - 63) < -16383 then .fin neg 0 0
  else .fin neg m (e - 63)

/-- Packs sign, exponent and significand (R82). -/
def wpack (neg : Bool) (e : Int) (sig : Nat) : Pay :=
  (if neg then 1#1 else 0#1) ++ BitVec.ofInt 15 e ++ BitVec.ofNat 64 sig

/-- The canonical NaN (R85). -/
def wNaN : Pay := 0x3FFFC000000000000000#80
/-- An infinity. -/
def wInf (neg : Bool) : Pay := wpack neg 16383 0
/-- A zero. -/
def wZero (neg : Bool) : Pay := wpack neg (-16384) 0
/-- The largest finite value of a sign. -/
def wMax (neg : Bool) : Pay := wpack neg 16382 (2 ^ 64 - 1)

/-- round_w (R88) of the nonzero real (−1)^neg × m × 2^e, with something nonzero below `m` when `sticky`; then `m` has
at least 66 bits. -/
def roundW (neg : Bool) (m : Nat) (e : Int) (sticky : Bool) (rm : RM) : Res Pay :=
  let k := Nat.log2 m
  let (n, inexact) := if 63 < k then roundBits m (k - 63) sticky neg rm else (m <<< (63 - k), sticky)
  let ex : Int := (k : Int) + e
  let (n, ex) := if n = 2 ^ 64 then (2 ^ 63, ex + 1) else (n, ex)
  if 16382 < ex then
    ⟨if overflowInf rm neg then wInf neg else wMax neg, flagOF ||| flagNX⟩
  else if ex < -16383 then ⟨wZero neg, flagUF ||| flagNX⟩
  else ⟨wpack neg ex n, flagIf inexact flagNX⟩

/-- The canonical encoding of a value that is exact in W (R84). -/
def wexact (v : WVal) : Pay :=
  match v with
  | .nan => wNaN
  | .inf n => wInf n
  | .fin n 0 _ => wZero n
  | .fin n m e => (roundW n m e false rne).val

/-- Whether a W operand is long (R94). -/
def wlong (w : Pay) : Bool :=
  match wdec w with
  | .fin _ 0 _ => false
  | .fin _ _ _ => decide ((w.extractLsb' 0 32) ≠ 0#32)
  | _ => false

/-- The signed integer `m × 2^(e − b)` for `b ≤ e`. -/
def scaled (neg : Bool) (m : Nat) (e b : Int) : Int :=
  let v : Int := (m <<< (e - b).toNat : Nat)
  if neg then -v else v

/-- The value of a signed integer times a power of two. -/
def ofScaled (v : Int) (b : Int) : WVal := .fin (decide (v < 0)) v.natAbs b

/-- Whether a value is NaN. -/
def WVal.isNaN : WVal → Bool
  | .nan => true
  | _ => false

/-- The sign of a value. -/
def WVal.neg : WVal → Bool
  | .nan => false
  | .inf n => n
  | .fin n _ _ => n

/-- Negation of a value; a NaN stays. -/
def WVal.negate : WVal → WVal
  | .nan => .nan
  | .inf n => .inf (!n)
  | .fin n m e => .fin (!n) m e

/-- An exact intermediate result: the value and the flags of R91 that reaching it raises. -/
abbrev Exact := Res WVal

/-- The exact sum of two values, with the zero rule of R90 and the special cases of R91. -/
def exactAdd (rm : RM) (a b : WVal) : Exact :=
  match a, b with
  | .nan, _ => ⟨.nan, 0#5⟩
  | _, .nan => ⟨.nan, 0#5⟩
  | .inf x, .inf y => if x = y then ⟨.inf x, 0#5⟩ else ⟨.nan, flagNV⟩
  | .inf x, _ => ⟨.inf x, 0#5⟩
  | _, .inf y => ⟨.inf y, 0#5⟩
  | .fin n1 m1 e1, .fin n2 m2 e2 =>
    if m1 = 0 ∧ m2 = 0 then ⟨.fin (if n1 = n2 then n1 else zeroSumNeg rm) 0 0, 0#5⟩
    else if m1 = 0 then ⟨.fin n2 m2 e2, 0#5⟩
    else if m2 = 0 then ⟨.fin n1 m1 e1, 0#5⟩
    else
      let b := min e1 e2
      let v := scaled n1 m1 e1 b + scaled n2 m2 e2 b
      if v = 0 then ⟨.fin (zeroSumNeg rm) 0 0, 0#5⟩ else ⟨ofScaled v b, 0#5⟩

/-- The exact product of two values (R90, R91). -/
def exactMul (a b : WVal) : Exact :=
  match a, b with
  | .nan, _ => ⟨.nan, 0#5⟩
  | _, .nan => ⟨.nan, 0#5⟩
  | .inf x, .inf y => ⟨.inf (x != y), 0#5⟩
  | .inf x, .fin y m _ => if m = 0 then ⟨.nan, flagNV⟩ else ⟨.inf (x != y), 0#5⟩
  | .fin x m _, .inf y => if m = 0 then ⟨.nan, flagNV⟩ else ⟨.inf (x != y), 0#5⟩
  | .fin n1 m1 e1, .fin n2 m2 e2 => ⟨.fin (n1 != n2) (m1 * m2) (e1 + e2), 0#5⟩

/-- Rounds an exact result once (R88) and joins the flags. -/
def finish (rm : RM) (x : Exact) : Res Pay :=
  match x.val with
  | .nan => ⟨wNaN, x.flags⟩
  | .inf n => ⟨wInf n, x.flags⟩
  | .fin n 0 _ => ⟨wZero n, x.flags⟩
  | .fin n m e => let r := roundW n m e false rm; ⟨r.val, x.flags ||| r.flags⟩

/-- a + b, rounded once (R178). -/
def wadd (rm : RM) (a b : WVal) : Res Pay := finish rm (exactAdd rm a b)

/-- a × b, rounded once. -/
def wmul (rm : RM) (a b : WVal) : Res Pay := finish rm (exactMul a b)

/-- ±(a × b) + c, rounded once: a NaN addend decides first, and 0 × ∞ is invalid whatever a number addend is (R91,
R178). -/
def wfma (rm : RM) (negProd : Bool) (a b c : WVal) : Res Pay :=
  if a.isNaN || b.isNaN || c.isNaN then ⟨wNaN, 0#5⟩
  else
    let p := exactMul a b
    match p.val with
    | .nan => ⟨wNaN, p.flags⟩
    | v => finish rm (exactAdd rm (if negProd then v.negate else v) c)

/-- Compares two finite values: the sign of a − b as an integer. -/
def cmpFin (n1 : Bool) (m1 : Nat) (e1 : Int) (n2 : Bool) (m2 : Nat) (e2 : Int) : Int :=
  if m1 = 0 ∧ m2 = 0 then 0
  else if m1 = 0 then (if n2 then 1 else -1)
  else if m2 = 0 then (if n1 then -1 else 1)
  else
    let b := min e1 e2
    scaled n1 m1 e1 b - scaled n2 m2 e2 b

/-- Compares two values neither of which is NaN; +0 equals −0 (R182). -/
def cmpW (a b : WVal) : Int :=
  match a, b with
  | .inf x, .inf y => if x = y then 0 else if x then -1 else 1
  | .inf x, _ => if x then -1 else 1
  | _, .inf y => if y then 1 else -1
  | .fin n1 m1 e1, .fin n2 m2 e2 => cmpFin n1 m1 e1 n2 m2 e2
  | _, _ => 0

/-- Whether a is the smaller for FMIN and FMAX, with −0 below +0 (R179). -/
def ltMinMax (a b : WVal) : Bool :=
  let c := cmpW a b
  if c ≠ 0 then decide (c < 0) else a.neg && !b.neg

/-- FMIN and FMAX (R179). -/
def wminmax (mx : Bool) (a b : WVal) : Res Pay :=
  if a.isNaN || b.isNaN then ⟨wNaN, 0#5⟩
  else ⟨wexact (if ltMinMax a b != mx then a else b), 0#5⟩

/-- Integer square root by bits from bit `k − 1` down. -/
def isqrtGo : Nat → Nat → Nat → Nat
  | 0, _, r => r
  | k + 1, n, r => if (r + 2 ^ k) * (r + 2 ^ k) ≤ n then isqrtGo k n (r + 2 ^ k) else isqrtGo k n r

/-- The integer square root. -/
def isqrt (n : Nat) : Nat := isqrtGo (Nat.log2 n / 2 + 1) n 0

/-- a / b correctly rounded, with the special cases of R91 and R180. -/
def wdiv (rm : RM) (a b : WVal) : Res Pay :=
  match a, b with
  | .nan, _ => ⟨wNaN, 0#5⟩
  | _, .nan => ⟨wNaN, 0#5⟩
  | .inf _, .inf _ => ⟨wNaN, flagNV⟩
  | .inf x, .fin y _ _ => ⟨wInf (x != y), 0#5⟩
  | .fin x _ _, .inf y => ⟨wZero (x != y), 0#5⟩
  | .fin n1 m1 e1, .fin n2 m2 e2 =>
    if m2 = 0 then (if m1 = 0 then ⟨wNaN, flagNV⟩ else ⟨wInf (n1 != n2), flagDZ⟩)
    else if m1 = 0 then ⟨wZero (n1 != n2), 0#5⟩
    else
      let s := 130 + Nat.log2 m2
      let q := (m1 <<< s) / m2
      roundW (n1 != n2) q (e1 - e2 - s) (decide (q * m2 ≠ m1 <<< s)) rm

/-- √a correctly rounded (R180). -/
def wsqrt (rm : RM) (a : WVal) : Res Pay :=
  match a with
  | .nan => ⟨wNaN, 0#5⟩
  | .inf n => if n then ⟨wNaN, flagNV⟩ else ⟨wInf false, 0#5⟩
  | .fin n m e =>
    if m = 0 then ⟨wZero n, 0#5⟩
    else if n then ⟨wNaN, flagNV⟩
    else
      let odd := e % 2 ≠ 0
      let s : Nat := 280 + (if odd then 1 else 0)
      let x := m <<< s
      let r := isqrt x
      roundW false r ((e - s) / 2) (decide (r * r ≠ x)) rm

/-- 1 / √a correctly rounded (R180). -/
def wrsqrt (rm : RM) (a : WVal) : Res Pay :=
  match a with
  | .nan => ⟨wNaN, 0#5⟩
  | .inf n => if n then ⟨wNaN, flagNV⟩ else ⟨wZero false, 0#5⟩
  | .fin n m e =>
    if m = 0 then ⟨wInf n, flagDZ⟩
    else if n then ⟨wNaN, flagNV⟩
    else
      let odd := e % 2 ≠ 0
      let m := if odd then 2 * m else m
      let e := if odd then e - 1 else e
      let s : Nat := 140 + Nat.log2 m
      let num := 2 ^ (2 * s)
      let r := isqrt (num / m)
      roundW false r (-(e / 2) - s) (decide (r * r * m ≠ num)) rm

/-- The first `n` bits after the point of log2 of a value from 1 to 2 that lies between `lo` and `hi` in units of
2^−p. -/
def log2Bits (p : Nat) : Nat → Nat → Nat → Nat → Nat
  | 0, _, _, acc => acc
  | n + 1, lo, hi, acc =>
    let lo2 := (lo * lo) >>> p
    let hi2 := ((hi * hi) >>> p) + 1
    if 2 ^ (p + 1) ≤ lo2 then log2Bits p n (lo2 / 2) (hi2 / 2 + 1) (2 * acc + 1)
    else log2Bits p n lo2 hi2 (2 * acc)

/-- log2 a correctly rounded (R180). 220 bits after the point are computed exactly, with guard bits enough that no
double rounding of a 64-bit result arises: DEDUCED, log entry 10. -/
def wlog2 (rm : RM) (a : WVal) : Res Pay :=
  match a with
  | .nan => ⟨wNaN, 0#5⟩
  | .inf n => if n then ⟨wNaN, flagNV⟩ else ⟨wInf false, 0#5⟩
  | .fin n m e =>
    if m = 0 then ⟨wInf true, flagDZ⟩
    else if n then ⟨wNaN, flagNV⟩
    else
      let k := Nat.log2 m
      let ex : Int := (k : Int) + e
      let x := m <<< (1024 - k)
      if m = 2 ^ k then
        (if ex = 0 then ⟨wZero false, 0#5⟩ else finish rm ⟨ofScaled ex 0, 0#5⟩)
      else
        let frac := log2Bits 1024 220 x x 0
        let tot : Int := ex * 2 ^ 220 + frac
        if 0 ≤ tot then roundW false tot.toNat (-220) true rm
        else roundW true ((-tot).toNat - 1) (-220) true rm

/-- 2^f for the fraction whose bits, lowest first, are `bs`: each bit doubles under the root or not. `p` is the number
of places. -/
def exp2Bits (p : Nat) : List Bool → Nat → Nat
  | [], r => r
  | b :: bs, r => exp2Bits p bs (isqrt ((if b then 2 * r else r) <<< p))

/-- The lowest `n` bits of a number, lowest first. -/
def lowBits : Nat → Nat → List Bool
  | 0, _ => []
  | n + 1, v => decide (v % 2 = 1) :: lowBits n (v / 2)

/-- 2^a correctly rounded (R180). The fraction is computed to 256 places: DEDUCED, log entry 10. -/
def wexp2 (rm : RM) (a : WVal) : Res Pay :=
  match a with
  | .nan => ⟨wNaN, 0#5⟩
  | .inf n => if n then ⟨wZero false, 0#5⟩ else ⟨wInf false, 0#5⟩
  | .fin n m e =>
    if m = 0 then ⟨wpack false 0 (2 ^ 63), 0#5⟩
    else
      let k : Int := (Nat.log2 m : Int) + e
      if 15 ≤ k then
        (if n then ⟨wZero false, flagUF ||| flagNX⟩
         else ⟨if overflowInf rm false then wInf false else wMax false, flagOF ||| flagNX⟩)
      else if k < -80 then
        (if n then roundW false (2 ^ 200 - 1) (-200) true rm else roundW false (2 ^ 200) (-200) true rm)
      else
        let places := (-e).toNat
        let v : Int := if 0 ≤ e then scaled n m e 0 else (if n then -(m : Int) else m)
        let whole := if 0 ≤ e then v else v / 2 ^ places
        let fr := if 0 ≤ e then 0 else (v % 2 ^ places).toNat
        if fr = 0 then roundW false (2 ^ 63) (whole - 63) false rm
        else
          let r := exp2Bits 256 (lowBits places fr) (2 ^ 256)
          roundW false r (whole - 256) true rm

/-- Rounds a finite value to an integer (R88's round_int), with whether anything was lost. -/
def roundInt (rm : RM) (neg : Bool) (m : Nat) (e : Int) : Int × Bool :=
  if 0 ≤ e then (scaled neg m e 0, false)
  else
    let (n, ix) := roundBits m (-e).toNat false neg rm
    (if neg then -(n : Int) else n, ix)

/-- FRND (R181). -/
def wrnd (rm : RM) (a : WVal) : Res Pay :=
  match a with
  | .nan => ⟨wNaN, 0#5⟩
  | .inf n => ⟨wInf n, 0#5⟩
  | .fin n m e =>
    if m = 0 then ⟨wZero n, 0#5⟩
    else
      let (v, ix) := roundInt rm n m e
      if v = 0 then ⟨wZero n, flagIf ix flagNX⟩ else ⟨wexact (ofScaled v 0), flagIf ix flagNX⟩

/-- FCMP's predicate (R182). -/
def fcmpHolds (p : Nat) (a b : WVal) : Bool :=
  if a.isNaN || b.isNaN then decide (p = 1) || decide (p = 6)
  else
    let c := cmpW a b
    match p with
    | 0 => decide (c = 0)
    | 1 => decide (c ≠ 0)
    | 2 => decide (c < 0)
    | 3 => decide (c ≤ 0)
    | 4 => decide (0 < c)
    | 5 => decide (0 ≤ c)
    | 7 => true
    | _ => false

/-- An integer as a W value, exact (R97). -/
def wOfInt (v : Int) : WVal := ofScaled v 0

/-- W to an integer in a range, rounded in `rm`: saturates, NaN gives 0; NV and NX as R187 gives. -/
def wToInt (rm : RM) (lo hi : Int) (a : WVal) : Res Int :=
  match a with
  | .nan => ⟨0, flagNV⟩
  | .inf n => ⟨if n then lo else hi, flagNV⟩
  | .fin n m e =>
    let (v, ix) := roundInt rm n m e
    if v < lo then ⟨lo, flagNV⟩ else if hi < v then ⟨hi, flagNV⟩ else ⟨v, flagIf ix flagNX⟩

/-! ### The L6 lane -/

/-- The summation table T (R99). -/
def l6T (f : Nat) : Nat := match f with | 0 => 4096 | 1 => 4871 | 2 => 5793 | _ => 6889

/-- L of a lane: bits [4:0] as a signed number (R98). -/
def laneL (lane : BitVec 6) : Int := (lane.extractLsb' 0 5).toInt

/-- lane_value (R99). -/
def laneValue (lane : BitVec 6) (s : Int) : WVal :=
  let l := laneL lane
  if l = -16 then .fin false 0 0
  else
    let i := l / 4
    .fin (lane.getLsbD 5) (l6T (l - 4 * i).toNat) (i - 12 + s)

/-- l6prod (R99), in units of 2^(Sa + Sb − 20). -/
def l6prod (a b : BitVec 6) : Int :=
  let la := laneL a
  let lb := laneL b
  if la = -16 ∨ lb = -16 then 0
  else
    let i := (la + lb) / 4
    let v : Int := (l6T (la + lb - 4 * i).toNat <<< (i + 8).toNat : Nat)
    if a.getLsbD 5 != b.getLsbD 5 then -v else v

/-- Lane j of an L6X12 payload (R95). -/
def l6lane (p : Pay) (j : Nat) : BitVec 6 := p.extractLsb' (6 * j) 6

/-- The block scale of an L6X12 payload (R95). -/
def l6scale (p : Pay) : Int := (p.extractLsb' 72 8).toInt

/-- Lane j of an I8X10 payload (R95). -/
def i8lane (p : Pay) (j : Nat) : BitVec 8 := p.extractLsb' (8 * j) 8

/-- ldot_sum (R99). -/
def ldotSum (a b : Pay) : Int :=
  (List.range 12).foldl (fun acc j => acc + l6prod (l6lane a j) (l6lane b j)) 0

/-- The L6X12 payload of twelve lanes, lane 0 first, and a scale. -/
def l6pack (s : BitVec 8) (lanes : List (BitVec 6)) : Pay :=
  s ++ BitVec.ofNat 72 (lanes.foldr (fun l acc => l.toNat + 64 * acc) 0)

/-- The I8X10 payload of ten lanes, lane 0 first. -/
def i8pack (lanes : List (BitVec 8)) : Pay :=
  BitVec.ofNat 80 (lanes.foldr (fun l acc => l.toNat + 256 * acc) 0)

/-- One lane quantised (R188): the lane and the flags. -/
def l6quant (rm : RM) (s : Int) (v : WVal) : Res (BitVec 6) :=
  let zero : BitVec 6 := 0x10#6
  let vl (l : Int) : WVal := laneValue (BitVec.ofInt 6 (l % 32)) s
  let cands : List Int := (List.range 31).map (fun (i : Nat) => (i : Int) - 15)
  match v with
  | .nan => ⟨zero, flagNV⟩
  | .inf n => ⟨(if n then 32#6 else 0#6) ||| 15#6, flagOF ||| flagNX⟩
  | .fin n m e =>
    if m = 0 then ⟨zero, 0#5⟩
    else
      let x : WVal := .fin false m e
      if 0 < cmpW x (vl 15) then ⟨(if n then 32#6 else 0#6) ||| 15#6, flagOF ||| flagNX⟩
      else
        -- the greatest candidate not above x, −16 standing for zero, and the least not below x
        let below := cands.foldl (fun acc l => if cmpW (vl l) x ≤ 0 then l else acc) (-16)
        let above := cands.foldr (fun l acc => if 0 ≤ cmpW (vl l) x then l else acc) 15
        let val (l : Int) : WVal := if l = -16 then .fin false 0 0 else vl l
        let nearest :=
          -- the sign of 2x − (V(below) + V(above))
          let sum := (exactAdd rne (val below) (val above)).val
          let c := cmpW (.fin false m (e + 1)) sum
          if c < 0 then below else if 0 < c then above else if below % 2 = 0 then below else above
        let l :=
          if rm = rne then nearest
          else if rm = rtz then below
          else if rm = rup then (if n then below else above)
          else (if n then above else below)
        let exact := decide (cmpW (val l) x = 0)
        ⟨if l = -16 then zero else (if n then 32#6 else 0#6) ||| (BitVec.ofInt 6 (l % 32)),
          flagIf (!exact) flagNX ||| flagIf (decide (l = -16)) flagUF⟩

/-! ### Storage formats (R101 to R106) -/

/-- Exponent and fraction widths of the float storage codes 0 to 3: FP64, FP32, BF16, FP16. -/
def floatShape (code : Nat) : Nat × Nat :=
  match code with | 0 => (11, 52) | 1 => (8, 23) | 2 => (8, 7) | _ => (5, 10)

/-- Bytes of a storage format (R101). -/
def fmtSize (code : Nat) : Nat :=
  match code with
  | 0 => 8 | 1 => 4 | 2 => 2 | 3 => 2 | 4 => 8 | 5 => 4 | 6 => 2 | 7 => 1 | 8 => 4 | 9 => 2 | 10 => 1 | _ => 10

/-- Alignment of a storage format (R206). -/
def fmtAlign (code : Nat) : Nat := if 11 ≤ code then 2 else fmtSize code

/-- Reads a float storage pattern exactly (R103). -/
def floatLoad (code v : Nat) : WVal :=
  let (k, p) := floatShape code
  let neg := decide (v / 2 ^ (k + p) % 2 = 1)
  let ex := v / 2 ^ p % 2 ^ k
  let fr := v % 2 ^ p
  let bias : Int := 2 ^ (k - 1) - 1
  if ex = 2 ^ k - 1 then (if fr = 0 then .inf neg else .nan)
  else if ex = 0 then .fin neg fr (1 - bias - p)
  else .fin neg (2 ^ p + fr) (ex - bias - p)

/-- The target's quiet NaN (R104). -/
def floatNaN (code : Nat) : Nat :=
  match code with | 0 => 0x7FF8000000000000 | 1 => 0x7FC00000 | 2 => 0x7FC0 | _ => 0x7E00

/-- Rounds into a float storage format (R104): the pattern and the flags. -/
def floatStore (code : Nat) (rm : RM) (v : WVal) : Res Nat :=
  let (k, p) := floatShape code
  let sgn (n : Bool) : Nat := if n then 2 ^ (k + p) else 0
  let infBits := (2 ^ k - 1) * 2 ^ p
  match v with
  | .nan => ⟨floatNaN code, 0#5⟩
  | .inf n => ⟨sgn n + infBits, 0#5⟩
  | .fin n 0 _ => ⟨sgn n, 0#5⟩
  | .fin n m e =>
    let bias : Int := 2 ^ (k - 1) - 1
    let top : Int := (Nat.log2 m : Int) + e
    let qe : Int := max (top - p) (1 - bias - p)
    let (r, ix) := if qe ≤ e then (m <<< (e - qe).toNat, false) else roundBits m (qe - e).toNat false n rm
    let (r, qe) := if r = 2 ^ (p + 1) then (2 ^ p, qe + 1) else (r, qe)
    if r < 2 ^ p then ⟨sgn n + r, flagIf ix (flagUF ||| flagNX)⟩
    else
      let be : Int := qe + p + bias
      if 2 ^ k - 1 ≤ be then
        ⟨sgn n + (if overflowInf rm n then infBits else infBits - 1), flagOF ||| flagNX⟩
      else ⟨sgn n + be.toNat * 2 ^ p + (r - 2 ^ p), flagIf ix flagNX⟩

/-- The range of an integer storage format (R101, R105). -/
def intRange (code : Nat) : Int × Int :=
  match code with
  | 4 => (-(2 ^ 63), 2 ^ 63 - 1) | 5 => (-(2 ^ 31), 2 ^ 31 - 1) | 6 => (-(2 ^ 15), 2 ^ 15 - 1)
  | 7 => (-(2 ^ 7), 2 ^ 7 - 1) | 8 => (0, 2 ^ 32 - 1) | 9 => (0, 2 ^ 16 - 1) | _ => (0, 2 ^ 8 - 1)

/-- Saturates an integer into a range. -/
def clampInt (lo hi v : Int) : Int := if v < lo then lo else if hi < v then hi else v

end Sys2Proof.Machine
end

