-- ==== Sys2Proof/Machine/Tab.lean ====
section
/-! DEFINITION. Sparse tables: the units of the package, and its memory, are lists of (number, contents) pairs with
rising numbers. Memory has one canonical form: no listed byte equals what an unlisted address reads as. -/

namespace Sys2Proof.Machine

/-- A table from unit numbers to contents. -/
abbrev Tab (α : Type) := List (Nat × α)

/-- The entry of number `k`. -/
def Tab.find {α : Type} : Tab α → Nat → Option α
  | [], _ => none
  | (k', v) :: r, k => if k = k' then some v else Tab.find r k

/-- The entry of number `k`, or `d` where none is listed. -/
def Tab.get {α : Type} (d : α) (t : Tab α) (k : Nat) : α := (t.find k).getD d

/-- Writes the entry of number `k`, keeping the numbers rising. -/
def Tab.put {α : Type} : Tab α → Nat → α → Tab α
  | [], k, v => [(k, v)]
  | (k', v') :: r, k, v =>
    if k < k' then (k, v) :: (k', v') :: r
    else if k = k' then (k, v) :: r
    else (k', v') :: Tab.put r k v

/-- Removes the entry of number `k`. -/
def Tab.del {α : Type} : Tab α → Nat → Tab α
  | [], _ => []
  | (k', v') :: r, k => if k = k' then Tab.del r k else (k', v') :: Tab.del r k

/-- The numbers of a table rise strictly. -/
def Tab.rising {α : Type} : Tab α → Bool
  | [] => true
  | [_] => true
  | (k, _) :: (k', v') :: r => decide (k < k') && Tab.rising ((k', v') :: r)

/-- Memory: listed bytes at rising addresses. -/
abbrev Memory := List Host.Cell

/-- What an address that nothing has written reads as. Memory tiles are zeroed at bring-up (R477); for every other
memory the spec gives no contents: DESIGN CHOICE, unsafe, log entry 2. -/
def Memory.unlisted : Byte := 0#8

/-- The byte at an address. -/
def Memory.read (m : Memory) (a : Nat) : Byte := Tab.get Memory.unlisted m a

/-- Writes one byte, keeping the canonical form. -/
def Memory.write (m : Memory) (a : Nat) (b : Byte) : Memory :=
  if b = Memory.unlisted then Tab.del m a else Tab.put m a b

/-- The canonical form: addresses strictly rising, and no listed byte equal to what an unlisted address reads as. -/
def Memory.wf (m : Memory) : Bool := Tab.rising m && m.all fun c => decide (c.2 ≠ Memory.unlisted)

/-- `n` bytes from address `a`, lowest address first. -/
def Memory.bytes (m : Memory) (a : Nat) : Nat → List Byte
  | 0 => []
  | n + 1 => m.read a :: Memory.bytes m (a + 1) n

/-- Writes bytes from address `a` on. -/
def Memory.store (m : Memory) (a : Nat) : List Byte → Memory
  | [] => m
  | b :: r => Memory.store (m.write a b) (a + 1) r

/-- Memory with `n` bytes from address `a` on as they are where nothing has been written. -/
def Memory.forget (m : Memory) (a n : Nat) : Memory := m.filter fun c => !decide (a ≤ c.1 ∧ c.1 < a + n)

/-- The number that bytes stand for, little-endian (R4). -/
def leNat : List Byte → Nat
  | [] => 0
  | b :: r => b.toNat + 256 * leNat r

/-- The `n` bytes of a number, little-endian (R4). -/
def leBytes : Nat → Nat → List Byte
  | 0, _ => []
  | n + 1, v => BitVec.ofNat 8 v :: leBytes n (v / 256)

end Sys2Proof.Machine
end

