-- ==== Sys2Proof/Machine/Operands.lean ====
section
/-! DEFINITION. Every operand form: what a selector names (R70 to R72), how a token decodes into the wide float, an
integer or lanes (R97, R177, R183), what a token stores as and loads from (R101 to R107), and the Lantern's operands
(R129). -/

namespace Sys2Proof.Machine

/-- Format tags (R95). -/
def fmtW : BitVec 3 := 0#3
/-- 64-bit integer. -/
def fmtI64 : BitVec 3 := 1#3
/-- Twelve logarithmic lanes. -/
def fmtL6 : BitVec 3 := 2#3
/-- Ten int8 lanes. -/
def fmtI8 : BitVec 3 := 3#3
/-- A marker. -/
def fmtMark : BitVec 3 := 4#3

/-- An operand as delivered: a format tag and 80 bits. -/
structure Operand where
  fmt : BitVec 3
  pay : Pay
  deriving DecidableEq, Repr

/-- An I64 operand. -/
def Operand.i64 (v : Word) : Operand := ⟨fmtI64, v.setWidth 80⟩

/-- A W operand. -/
def Operand.w (v : Pay) : Operand := ⟨fmtW, v⟩

/-- Inline constant `k` as a W value (R71, R72). -/
def constW (k : Nat) : Pay :=
  match constInt k with
  | some v => wexact (wOfInt v)
  | none =>
    if 24 ≤ k ∧ k < 40 then wexact (.fin false 1 ((k : Int) - 40))
    else (wdiv rne (.fin false 1 0) (.fin false (constRecip k) 0)).val

/-- How an instruction takes an integer-valued constant (R72): as W in the float family and as operand A of CVTFI and
CVTFL, as I64 everywhere else. -/
inductive ConstForm where
  | w | i64
  deriving DecidableEq, Repr

/-- Inline constant `k` as an operand. -/
def constOperand (form : ConstForm) (k : Nat) : Operand :=
  match form, constInt k with
  | .w, _ => .w (constW k)
  | .i64, some v => .i64 (BitVec.ofInt 64 v)
  | .i64, none => .w (constW k)

/-- The operand that a selector names (R70): a consumed token, the iteration, a hold register, a constant. -/
def selOperand (form : ConstForm) (data : BitVec 2 → Operand) (iter : Nat) (hold : BitVec 2 → Operand)
    (sel : BitVec 7) : Operand :=
  let n := sel.toNat
  if n < 3 then data (BitVec.ofNat 2 n)
  else if n = 3 then .i64 (BitVec.ofNat 64 iter)
  else if n < 8 then hold (BitVec.ofNat 2 (n - 4))
  else constOperand form (n - 64)

/-- The integer of a dword, signed or unsigned (R183's sv). -/
def sv (u : Bool) (v : Word) : Int := if u then v.toNat else v.toInt

/-- The integer of an int8 lane, signed or unsigned. -/
def sv8 (u : Bool) (v : BitVec 8) : Int := if u then v.toNat else v.toInt

/-- Payload [63:0]. -/
def Operand.low (o : Operand) : Word := o.pay.setWidth 64

/-- fw: an operand decoded to the wide float (R97, R177). `u` reads int8 lanes unsigned. -/
def Operand.asW (u : Bool) (o : Operand) : WVal :=
  if o.fmt = fmtW then wdec o.pay
  else if o.fmt = fmtI64 then wOfInt o.low.toInt
  else if o.fmt = fmtI8 then wOfInt (sv8 u (i8lane o.pay 0))
  else laneValue (l6lane o.pay 0) (l6scale o.pay)

/-- The range of R183: signed, or unsigned with .U. -/
def irange (u : Bool) : Int × Int := if u then (0, 2 ^ 64 - 1) else (-(2 ^ 63), 2 ^ 63 - 1)

/-- fi: an operand decoded to an integer (R183), or `none` where its format is an error (R177). -/
def Operand.asI (u : Bool) (o : Operand) : Option (Res Word) :=
  if o.fmt = fmtI64 then some ⟨o.low, 0#5⟩
  else if o.fmt = fmtW then
    let r := wToInt rtz (irange u).1 (irange u).2 (wdec o.pay)
    some ⟨BitVec.ofInt 64 r.val, r.flags⟩
  else none

/-- Payload [63:0] of an I64 operand, the only format of the logic family (R177). -/
def Operand.asBits (o : Operand) : Option Word := if o.fmt = fmtI64 then some o.low else none

/-- The twelve lanes of an LDOT or LSUM operand as W values (R177). -/
def Operand.lanes12 (o : Operand) : List WVal :=
  if o.fmt = fmtL6 then (List.range 12).map fun j => laneValue (l6lane o.pay j) (l6scale o.pay)
  else if o.fmt = fmtI8 then
    (List.range 10).map (fun j => wOfInt (i8lane o.pay j).toInt) ++ [wOfInt 0, wOfInt 0]
  else List.replicate 12 (o.asW false)

/-- Lanes 0 to 9 of a BDOT operand on its W path (R191). -/
def Operand.lanes10W (u : Bool) (o : Operand) : List WVal :=
  if o.fmt = fmtI8 then (List.range 10).map fun j => wOfInt (sv8 u (i8lane o.pay j))
  else if o.fmt = fmtL6 then (List.range 10).map fun j => laneValue (l6lane o.pay j) (l6scale o.pay)
  else if o.fmt = fmtI64 then List.replicate 10 (wOfInt (sv u o.low))
  else List.replicate 10 (wdec o.pay)

/-- Lanes 0 to 9 of a BDOT operand on its integer path (R191). -/
def Operand.lanes10I (u : Bool) (o : Operand) : List Int :=
  if o.fmt = fmtI8 then (List.range 10).map fun j => sv8 u (i8lane o.pay j)
  else List.replicate 10 (sv u o.low)

/-- nonzero(t) of R197. -/
def Operand.nonzero (o : Operand) : Bool :=
  if o.fmt = fmtW then
    (match wdec o.pay with
     | .fin _ m _ => decide (m ≠ 0)
     | _ => true)
  else if o.fmt = fmtI64 then decide (o.low ≠ 0#64)
  else if o.fmt = fmtL6 then (List.range 12).any fun j => decide (laneL (l6lane o.pay j) ≠ -16)
  else (List.range 10).any fun j => decide (i8lane o.pay j ≠ 0#8)

/-- The operand that bytes of a storage format load as (R101, R103, R106); `group` is lane grouping. -/
def loadOperand (code : Nat) (group : Bool) (bs : List Byte) : Operand :=
  let v := leNat bs
  if group then ⟨fmtI8, BitVec.ofNat 80 v⟩
  else if code < 4 then .w (wexact (floatLoad code v))
  else if code < 11 then
    let bits := 8 * fmtSize code
    let neg := decide (code < 8 ∧ 2 ^ (bits - 1) ≤ v)
    .i64 (BitVec.ofInt 64 (if neg then (v : Int) - 2 ^ bits else v))
  else if code = 11 then ⟨fmtL6, BitVec.ofNat 80 (v / 256 + (v % 256) * 2 ^ 72)⟩
  else .w (BitVec.ofNat 80 v)

/-- The format that a load of a storage format gives (R101). -/
def loadFmt (code : Nat) (group : Bool) : BitVec 3 :=
  if group then fmtI8
  else if code < 4 ∨ code = 12 then fmtW
  else if code = 11 then fmtL6
  else fmtI64

/-- Whether a port of a storage format accepts a token format (R101, R102). -/
def acceptsFmt (code : Nat) (group : Bool) (fmt : BitVec 3) : Bool :=
  if group then decide (fmt = fmtI8)
  else if code = 11 then decide (fmt = fmtL6)
  else if code = 12 then decide (fmt = fmtW)
  else decide (fmt = fmtW) || decide (fmt = fmtI64)

/-- The bytes that an accepted operand stores as, with the conversion's flags (R104 to R106). -/
def storeBytes (code : Nat) (group : Bool) (rm : RM) (o : Operand) : Res (List Byte) :=
  let size := fmtSize code
  if group then ⟨leBytes 10 o.pay.toNat, 0#5⟩
  else if code < 4 then
    let v := if o.fmt = fmtI64 then wOfInt o.low.toInt else wdec o.pay
    let r := floatStore code rm v
    ⟨leBytes size r.val, r.flags⟩
  else if code < 11 then
    let (lo, hi) := intRange code
    if o.fmt = fmtI64 then ⟨leBytes size (clampInt lo hi o.low.toInt % 2 ^ 64).toNat, 0#5⟩
    else
      let r := wToInt rm lo hi (wdec o.pay)
      ⟨leBytes size (r.val % 2 ^ 64).toNat, r.flags⟩
  else if code = 11 then
    let v := o.pay.toNat
    ⟨leBytes 10 (v / 2 ^ 72 + (v % 2 ^ 72) * 256), 0#5⟩
  else ⟨leBytes 10 o.pay.toNat, 0#5⟩

/-- Sign extension of a 32-bit immediate (R62). -/
def sext (imm : BitVec 32) : Word := imm.signExtend 64

/-- Bytes of a Lantern access. -/
def sizeBytes : Size → Nat
  | .b8 => 1 | .b16 => 2 | .b32 => 4 | .b64 => 8

/-- A Lantern effective address (R129). -/
def effAddr (base : Word) (imm : BitVec 32) : Word := base + sext imm

/-- The value that a load of `n` bytes gives (R129). -/
def extendLoad (signed : Bool) (n v : Nat) : Word :=
  if signed then (BitVec.ofNat (8 * n) v).signExtend 64 else BitVec.ofNat 64 v

end Sys2Proof.Machine
end

