-- ==== Sys2Proof/Config.lean ====
section
/-! DEFINITION. What the spec leaves to the implementation or leaves open. The opaque constants are free values: no
proof can see what they are, so a statement about the model holds whatever they are. `State.free` counts the free
values a run has used, so that each use is a fresh one. -/

namespace Sys2Proof.Config

/-- Whether a fetch takes the old copy of a line that the instruction cache holds and memory no longer agrees with
(R61). Log entry 8. -/
opaque staleLine : Nat → Bool

/-- Bytes of padding in the body of a save area: the body belongs to the part (R143). Log entry 14. -/
opaque savePad : Nat → Nat

/-- What marks the bodies of save areas, so that no two of them are alike (R143). Log entry 14. -/
opaque saveMark : BitVec 64

/-- The padding bytes of the body of save area `n` (R143). Log entry 14. -/
opaque saveByte : Nat → Nat → Byte

/-- Whether a byte of a copy that ends with an error was written (R328). Log entry 20. -/
opaque copyWritten : Nat → Nat → Bool

/-- For an overlapping copy other than CPY's virtual overlap, whether byte `i` shows the source as it was before the
copy (true) or as the copy itself has already overwritten it (R324). Log entry 20. -/
opaque copyOld : Nat → Nat → Bool

/-- Which entry of a CONT group whose entries differ translates an access: 0 to 15, or 16 for the access's own entry
(R257). Log entry 17. -/
opaque contChoice : Nat → Nat

/-- What SEC-DED makes of a codeword with three or more flipped bits: none, reported as uncorrectable; or some word it
takes for the data. The code itself is not given (R239, R244). Log entry 21. -/
opaque secdedMany : BitVec 39 → Option (BitVec 32)

/-- What the x or y field of a destination holds for a tile off the grid whose coordinate, cut to the field, would name one on
it (R26). Log entry 73. -/
opaque offGrid : Int → Nat

/-- Which memory tile of the region made an access of the matrix feed: its number in the region (R357).
Log entry 26. -/
opaque feedTile : Nat → Nat

/-- Where the host places a launch buffer whose line names no tile, under MODE.PLACE = 1: on a memory tile of its die, or in
the die's HBM (R260). Log entry 29. -/
opaque placeTile : Nat → Option (Nat × Nat)

/-- The signature that the device key makes over an attestation report (R481). Log entry 33. -/
opaque deviceSign : List Byte → List Byte

/-- Whether a signature of a firmware image verifies under the vendor key (R478, R479). Log entry 33. -/
opaque imageVerifies : List Byte → Bool

/-- The measurement of the firmware image that the part boots with, until an UPDATE (R479). Log entry 33. -/
opaque firmwareMeasurement : List Byte

/-- Whether the loader finds that every TALLOC and TCALL slot of an image fires at most once per tag of its space
(R234), where the edges of the image do not show it. Log entry 40. -/
opaque firesOnce : List Byte → Bool

/-- The boot ROM measurement of the attestation report (R481). Log entry 33. -/
opaque bootMeasurement : List Byte

/-- The value an instruction's operand-dependent result takes where the spec states none. -/
opaque freeWord : Nat → Word

/-- The address of the firmware's trap entry, which step 3 of bring-up puts into every TVEC (R124). The address
itself belongs to the firmware: DESIGN CHOICE, log entry 4. -/
def firmwareEntry : Word := 0x00007FFFFFFF0008#64

/-- The first 4 KiB page of each die's HBM that the loader and the Beacon allocate from. DESIGN CHOICE, log entry 29. -/
def firstPage : Nat := 0x40000

/-- The bytes of the repair log, whose entries' layout is not given: of its kinds, dies and places (R434, R481). Log
entry 5. -/
opaque repairBytes : List (Nat × Nat × Nat) → List Byte

end Sys2Proof.Config
end

