-- ==== Sys2Proof/Machine/State.lean ====
section
/-! DEFINITION. The state of the whole package, as plain data: every register, table, queue and memory the spec gives
it. Units that hold nothing but their reset contents are not listed in their tables. -/

namespace Sys2Proof.Machine

/-! ### Tokens, records -/

/-- A token without its destination (R25). -/
structure Token where
  tag    : Tag
  fmt    : BitVec 3
  pay    : Pay
  last   : Bool
  poison : Bool
  marker : Bool
  deriving DecidableEq, Repr

/-- A token on its way to an element or port, in the skid buffer of its input link. `src` names the sending element
or port (element number, or 2^32 + port number), which is one channel of R168. A condition token is the same with
`cond` set, its control input port in `port` and its condition in bit 0 of the payload (R150); `bad` says that its
parity is wrong (R166). `old` marks a reply to a request made before its element's marker snapshot (R168). `logged` says
that its record has been raised and is held for a full ring: it waits where it stands (R125). -/
structure Arrival where
  cond : Bool
  bad  : Bool
  slot : BitVec 5
  port : BitVec 2
  tok  : Token
  src  : Nat
  old  : Bool
  logged : Bool := false
  deriving DecidableEq, Repr

/-- A fault record's fields (R226). `cfg` says that it was raised for a token, slot, stream port or request of a
configuration (R138); the record's bytes do not hold it. -/
structure Record where
  rep  : Nat
  spec : Bool
  wait : Bool
  unit : BitVec 3
  ctx  : BitVec 3
  slot : BitVec 5
  el   : BitVec 4
  y    : BitVec 7
  x    : BitVec 6
  die  : BitVec 4
  kind : Byte
  tag  : Tag
  addr : Word
  tick : BitVec 32
  info : BitVec 32
  cfg  : Bool
  deriving DecidableEq, Repr

/-! ### The fabric element (R147 to R150) -/

/-- A slot of a bank and the context that owns it. -/
structure SlotImg where
  ctx   : Nat
  instr : Word
  route : Word
  deriving DecidableEq, Repr

/-- A hold register: format, payload, owner (R147). -/
structure HoldImg where
  ctx : Nat
  fmt : BitVec 3
  pay : Pay
  deriving DecidableEq, Repr

/-- A control routing table entry: a destination laid out as R67, and its owner. -/
structure CtrlImg where
  ctx  : Nat
  dest : BitVec 31
  deriving DecidableEq, Repr

/-- A matching-store or overflow-store entry (R150). `cond` tells a parked condition from a parked data token. -/
structure MatchEntry where
  kind  : BitVec 2
  slot  : BitVec 5
  port  : BitVec 2
  tok   : Token
  seq   : BitVec 12
  dest  : Dest
  cond  : Bool
  owner : Nat
  deriving DecidableEq, Repr

/-- The state of one context at an element that is not told by ownership (R149). -/
structure CtxState where
  valid   : Bool
  loaded  : Bool
  armed   : Bool
  marked  : Bool
  rm      : BitVec 2
  flags   : BitVec 5
  quota   : Nat
  mrem    : Nat
  spilled : BitVec 32
  snap    : BitVec 32
  lastDone : BitVec 32
  deriving DecidableEq, Repr

/-- A complete operand set (R153): its slot, its tag, its data tokens by port and its conditions by control port. -/
structure OpSet where
  slot  : BitVec 5
  tag   : Tag
  data  : List (BitVec 2 × Token)
  conds : List (BitVec 2 × Bool)
  deriving DecidableEq, Repr

/-- The tag firings that can wait (R486). -/
inductive TagOp where
  | alloc | call | free | ret
  deriving DecidableEq, Repr

/-- A tag firing that waits beside the integer unit (R486). -/
structure WaitFiring where
  op    : TagOp
  f     : Slot
  route : Word
  set   : OpSet
  deriving DecidableEq, Repr

/-- What a result of a firing waits for: a place to be parked in (R158), room on its output link (R154), or a place in the
fault ring for its firing's record (R125). -/
inductive HeldFor where
  | place | link | record
  deriving DecidableEq, Repr

/-- One emission that waits among a firing's results: destination and token, whether it is a condition, and what it waits
for. One that waits for a record is no emission: it holds those behind it back. -/
structure Emission where
  dest : Dest
  tok  : Token
  cond : Bool
  why  : HeldFor
  deriving DecidableEq, Repr

/-- What an element holds beside its links (R147). `busy` lists by number the units that have taken a set, and the tick at
which each can take its next one (R154, R486). -/
structure ElemCore where
  slots  : Tab SlotImg
  pslots : Tab SlotImg
  holds  : Tab HoldImg
  pholds : Tab HoldImg
  ctrls  : Tab CtrlImg
  pctrls : Tab CtrlImg
  store  : Tab MatchEntry
  seq    : BitVec 12
  ctxs   : Tab CtxState
  ready  : List OpSet
  waits  : List WaitFiring
  heldOut : List Emission
  busy   : Tab Nat
  deriving DecidableEq, Repr

/-- A control link's credit state at one element's input (R164, R165): the sender's counter C; which of C's three bits, the
low ones, and three check bits stand flipped; INFO of the CTRLSYNC record of a resynchronisation in progress; the
sender's count of credits received, the receiver's count of credits sent, the credits on the reverse wire, and the
condition tokens the sender holds. -/
structure CtlLink where
  c      : BitVec 3
  err    : BitVec 6
  sync   : Option (BitVec 32)
  got    : BitVec 8
  sent   : BitVec 8
  flight : Nat
  held   : List Arrival
  deriving DecidableEq, Repr

/-- An element: its own state; the tokens in the skid buffers of its input links, data links 0 to 4 (north, east,
south, west, local) and control links 5 to 9; the tokens behind those of a data link, in the routers' buffers on the way
(R167); its control links' credits; its latch for the operand set that has just
issued; its marker snapshot with its entries of the overflow store, the channel tokens recorded since, the channels whose marker has come and the inbound
channels of its contexts as (context, channel) pairs (R168), a channel being twice the sender's number, plus one on the
control network; its clock gate (R163). -/
structure Element where
  core   : ElemCore
  links  : Tab (List Arrival)
  road   : Tab (List Arrival)
  ctl    : Tab CtlLink
  firing : Option OpSet
  snap   : Option ElemCore
  snapOv : List MatchEntry
  recd   : List Arrival
  marked : List Nat
  inch   : List (Nat × Nat)
  gated  : Bool
  deriving DecidableEq, Repr

/-! ### Tag spaces and configurations -/

/-- State of a tag-space table entry (R199). -/
inductive SpaceSt where
  | free | open | closing
  deriving DecidableEq, Repr

/-- A tag-space table entry (R199), with the iterations at or above the base that have been emitted (R157). -/
structure SpaceEntry where
  st      : SpaceSt
  k       : Nat
  base    : Nat
  next    : Nat
  emitted : List Nat
  parent  : Option Tag
  ret     : Option Dest
  deriving DecidableEq, Repr

/-- A slot, hold or control record's place (R135). -/
structure PlaceRec where
  dx : Nat
  dy : Nat
  e  : Nat
  n  : Nat
  lo : Word
  hi : Word
  deriving DecidableEq, Repr

/-- A stream record (R135, R484). -/
structure StreamRec where
  dx : Nat
  dy : Nat
  p  : Nat
  binds   : List Word
  parcels : List Word
  deriving DecidableEq, Repr

/-- A configuration image's contents as CFGLD has read them (R135). -/
structure Image where
  ctx    : Nat
  quota  : Nat
  width  : Nat
  height : Nat
  iters  : Nat
  slots  : List PlaceRec
  streams : List StreamRec
  far    : List Dest
  spaces : List (Nat × Nat)
  holds  : List PlaceRec
  ctrls  : List PlaceRec
  deriving DecidableEq, Repr

/-- An entry of the Lantern's configuration table (R136), with the flags of the elements that have switched (R93,
R161). -/
structure CfgEntry where
  addr  : Word
  ctx   : Nat
  armed : Bool
  done  : Bool
  flags : BitVec 5
  img   : Image
  deriving DecidableEq, Repr

/-- The tag spaces and configurations of a region as they belong to its marker snapshot (R142, R168, R199). -/
structure Cut where
  spaces : Tab SpaceEntry
  cfgs   : List CfgEntry
  deriving DecidableEq, Repr

/-! ### Matrix mode (chapter 17) -/

/-- A block of twelve values (R346): one L6X12 token, or twelve W values. -/
structure Block where
  l6   : Bool
  vals : List Pay
  deriving DecidableEq, Repr

/-- An accumulator (R350). -/
structure Acc where
  wacc : Pay
  nacc : Int
  v    : Bool
  eref : Int
  deriving DecidableEq, Repr

/-- The translation failures of a waiting access (R229, R231): how often the address `va` has failed; when it last began to
wait, one above the tick, 0 while it does not (R230); the tick of its first record (R226); the pages whose walks REPLAYs have
let it make (R257); for an instruction, whether a REPLAY asks for its retry. -/
structure Miss where
  rep   : Nat
  va    : Nat
  at_   : Nat
  first : BitVec 32
  pages : List Nat
  ask   : Bool
  deriving DecidableEq, Repr

/-- No failure. -/
def Miss.zero : Miss := { rep := 0, va := 0, at_ := 0, first := 0#32, pages := [], ask := false }

/-- A run (R346, R359): the descriptor's 64 bytes, the k-steps asked for and done, its token register, whether it
waits for a grant, since when and at what level, and whether it holds capacity for k-step `done` (`granted`) and for the one
after it (`ahead`, R369). `loaded`: k-step 0 uses a weight set of MXWL (R358). `fed`: the active weights are those of k-step
`done`; `entered`: its blocks have entered the array; `ready`: the shadow holds the weights of the next one (R349). `held` is
set while the feed waits for a translation (R357). -/
structure MxRun where
  desc    : List Byte
  n       : Nat
  done    : Nat
  rd      : Reg
  waiting : Bool
  since   : Nat
  level   : Nat
  granted : Bool
  ahead   : Bool
  loaded  : Bool
  fed     : Bool
  entered : Bool
  ready   : Bool
  held    : Option Miss
  deriving DecidableEq, Repr

/-- The asynchronous matrix commands other than a run (R355). -/
inductive MxKind where
  | wl (fmt : BitVec 4) | out (fmt : BitVec 4) | snap | rest
  deriving DecidableEq, Repr

/-- An asynchronous matrix command that the unit has accepted (R356): operand values and token
register; `held` as in a run; `fin` once its writes are all made and only posted ones are still to be performed;
`wants` names the tile where its staged writes wait for an entry (R254). -/
structure MxCmd where
  kind : MxKind
  rd   : Reg
  a    : Word
  b    : Word
  held : Option Miss
  fin  : Bool
  wants : Option Nat
  deriving DecidableEq, Repr

/-- A region's array (R342, R343, R349 to R352, R360). `susp` is the run that a snapshot has stopped, until its area is
written; `stop` says that a PRE asks the run to stop at its next boundary. -/
structure Array2 where
  row0 : Nat
  col0 : Nat
  r    : Nat
  c    : Nat
  active : Tab Block
  shadow : Tab Block
  shv   : Bool
  slow  : Bool
  acc   : Tab Acc
  mxks  : Word
  mxovf : Word
  flags : BitVec 5
  lastM : Nat
  run   : Option MxRun
  cmd   : Option MxCmd
  snapq : Option MxCmd
  susp  : Option MxRun
  stop  : Bool
  deriving DecidableEq, Repr

/-! ### The Lantern (chapter 05) -/

/-- What a Lantern is doing. -/
inductive LanSt where
  | idle      -- no segment: waits for a dispatch
  | run       -- executes instructions
  | ending    -- the wait at the end of a segment (R141)
  | halted    -- HALT (R134)
  | stopped   -- the fetch at TVEC failed (R121), or fenced (R433)
  deriving DecidableEq, Repr

/-- How control came to the program counter (R59, R60). -/
inductive Came where
  | seq | jump | afterJal | eret | start
  deriving DecidableEq, Repr

/-- A load whose data has not returned (R114, R129). `data` is its value once the access is performed. -/
structure PendLoad where
  rd   : Reg
  sext : Bool
  va   : Word
  pa   : Nat
  size : Nat
  at_  : Word
  tso  : Bool
  data : Option (Word × Bool)
  deriving DecidableEq, Repr

/-- A wait-table entry (R309): synchronisation address (die in bits [35:32]) and SIG. -/
structure WaitEnt where
  addr : Nat
  sig  : BitVec 32
  deriving DecidableEq, Repr

/-- Per-cluster trace state (R473 to R475). -/
structure Day where
  fifo  : List (Word × Word)
  lost  : Bool
  conds : List Bool
  fires : Nat
  deriving DecidableEq, Repr

/-- A Lantern, the cluster's overflow store, and, at the lead cluster, what belongs to the region. `xheld` is set while
an instruction is held for a translation (R122).
`stWait` names the tile where its store waits for a staging entry (R254). `phsw` is the PHSW that has
signalled, by its address, and the phase it signalled (R308, R314). `sb` lists the scoreboarded registers (R115), `dpoi` the load that returned uncorrectable data (R129): its address and
its parcel. `fqCfg` lists the ring's places whose records were raised for a configuration (R138). `cut` is set while a marker
PRE runs. -/
structure Lantern where
  st     : LanSt
  regs   : Tab Word
  pc     : Word
  came   : Came
  prev   : Word
  status : Word
  epc    : Word
  ecause : Word
  evalr  : Word
  emicro : Word
  tvec   : Word
  segid  : Word
  region : Word
  deadln : Word
  budget : Word
  cost   : Word
  fqsize : BitVec 4
  fqbase : BitVec 12
  head   : BitVec 16
  tail   : BitVec 16
  fqCfg  : List Nat
  fpmode : Word
  fpflags : Word
  launch : Word
  pasid  : Nat
  retFirst : Word
  retNext  : Word
  icache : Tab (List Word)
  loads  : List PendLoad
  sb     : List Reg
  dpoi   : Option (Word × Word)
  waits  : List WaitEnt
  phsw   : Option (Word × BitVec 32)
  snapNo : BitVec 32
  cfgs   : List CfgEntry
  xheld  : Option Miss
  stWait : Option Nat
  heldRecs : List Record
  spaces : Tab SpaceEntry
  ovfl   : List MatchEntry
  mx     : Option Array2
  mxPrio : Nat
  draining : Bool
  prePend : Bool
  cut    : Option Cut
  day    : Day
  deriving DecidableEq, Repr

/-! ### The memory tile (chapters 11 and 12) -/

/-- A version-buffer entry that is not free (R249). -/
inductive VEnt where
  | version (word : Nat) (ver : Nat) (staged : Option Nat) (data : BitVec 32)
  | staged (set word : Nat) (mask : BitVec 4) (data : BitVec 32)
  | far (set pa : Nat) (mask : BitVec 4) (data : BitVec 32)
  deriving DecidableEq, Repr

/-- An open versioned window (R250): its words, reserved entries, reclaim point and opening port. -/
structure Win where
  first : Nat
  nw    : Nat
  ent   : Nat
  p     : Nat
  port  : Nat
  deriving DecidableEq, Repr

/-- Memory operations of element slots (R208, R209, R213). -/
inductive MemOp where
  | ld | st | ldv | stv | ldx | stx
  | phsig | aadd | aand | aor | axor | amin (u : Bool) | amax (u : Bool) | axch | acas | fbin | qpsh
  deriving DecidableEq, Repr

/-- How far an element request has come: new; waiting on a translation fault (R229); waiting in the tile for a
version, an entry or a bank; held at the engine until commit (R214); done, its completion due (R210); or answered, its
replies waiting to leave (R154, R125). -/
inductive ReqSt where
  | new | xlate | version | entry | bank | held | done | reply
  deriving DecidableEq, Repr

/-- An element request at its serving tile (R205 to R210): its number at the tile, the firing that made it, its operands,
how far it has come, its translation failures, whether it was made before its element's marker
snapshot (R168), the replies that wait to leave, by destination, and whether they follow a fault record; for an LDV or STV
that waits, the tile and word whose version it waits for (R251); for a staged write, the tile where it finds no entry
(R254). -/
structure EReq where
  id    : Nat
  el    : Nat
  slot  : BitVec 5
  tag   : Tag
  last  : Bool
  op    : MemOp
  fmt   : Nat
  rtz   : Bool
  scope : BitVec 3
  o     : Bool
  va    : Word
  b     : Token
  c     : Token
  d0    : BitVec 31
  d1    : BitVec 31
  st    : ReqSt
  miss  : Miss
  old   : Bool
  outs  : List (BitVec 31 × Token)
  fault : Bool
  word  : Option (Nat × Nat)
  deriving DecidableEq, Repr

/-- One word of a bank access asked of a tile (R241), by the element request port (`src` 0), stream ports 0 to 3 (1 to
4), the window port (5) or the write-backs (6): the request it serves and the word's place in it, the word's group, bank
(4 is the parity bank) and row, and for a store its mask and data. -/
structure BankReq where
  src    : Nat
  client : Nat
  pos    : Nat
  g      : Nat
  b      : Nat
  row    : Nat
  store  : Bool
  mask   : BitVec 4
  data   : BitVec 32
  waited : Bool
  lead   : Option Nat
  deriving DecidableEq, Repr

/-- A word that a granted read has returned, or, for the window port, a granted access, with the records it owes: kind,
address, INFO. -/
structure BankRes where
  src    : Nat
  client : Nat
  pos    : Nat
  word   : BitVec 32
  bad    : Bool
  owed   : List (Byte × Word × Nat)
  deriving DecidableEq, Repr

/-- A store whose parity update is in flight (R243): its group, bank and row, and the cycles it has left. -/
structure ParPipe where
  g    : Nat
  b    : Nat
  row  : Nat
  left : Nat
  deriving DecidableEq, Repr

/-- What a command asks of a tile over more than one cycle (R286, R287): to retire bank `b` of group `g`, or to scrub
`left` rows from `row` on, `n` corrections so far; or, when it is done, to answer. -/
inductive TileWork where
  | retire (g b : Nat)
  | scrub (row left n : Nat)
  | reply (v : Word)
  deriving DecidableEq, Repr

/-- A command that a tile has under way: the Lantern it came from, its scoreboarded register (R285; s0 once nobody waits for
it), its work. -/
structure TileJob where
  lan   : Nat
  rd    : Reg
  work  : TileWork
  deriving DecidableEq, Repr

/-- A word that a commit or a version fold writes home (R253, R281). -/
structure WBack where
  pa    : Nat
  mask  : BitVec 4
  data  : BitVec 32
  set   : Option Nat
  deriving DecidableEq, Repr

/-- An extent of a port (R256). -/
structure Extent where
  len   : Nat
  vbase : Nat
  pbase : Nat
  c     : Bool
  tso   : Bool
  w     : Bool
  r     : Bool
  deriving DecidableEq, Repr

/-- A memory tile: layout map and check bits (R240), counters (R247), next row to scrub (R248), version buffer and windows
(R249, R250), requests (R205), bank accesses waiting and granted (R241), stores whose parity is under way (R243), words
noted for the write-back of R244, words that wait to be written home (R253), when each page was last accessed
(R261), and commands under way (R285). -/
structure Tile where
  xs    : BitVec 8
  chk   : BitVec 8
  cnt   : Tab Word
  scrub : Nat
  ver   : Tab VEnt
  wins  : Tab Win
  reqs  : List EReq
  bankq : List BankReq
  bankd : List BankRes
  nextId : Nat
  rot   : Nat
  pipe  : List ParPipe
  corr  : List Nat
  wb    : List WBack
  seen  : Tab Nat
  jobs  : List TileJob
  deriving DecidableEq, Repr

/-- The last translation of a stream (R256): virtual page, physical page, permissions, and the extent it came from. -/
structure TrEnt where
  pasid : Nat
  vpn   : Nat
  ppn   : Nat
  r     : Bool
  w     : Bool
  tso   : Bool
  ext   : Option Nat
  deriving DecidableEq, Repr

/-- A release of SGATH or SSCAT (R273): the first element it releases, how many, the index vector and its format. -/
structure IdxRel where
  first : Nat
  count : Nat
  ibase : Nat
  ifmt  : Nat
  deriving DecidableEq, Repr

/-- A stream handle (R265). -/
structure Handle where
  input : Bool
  fmt   : Nat
  lay   : BitVec 2
  rtz   : Bool
  ord   : Bool
  grp   : Bool
  uni   : Nat
  count : Nat
  stride : BitVec 16
  line  : Word
  cur   : Word
  pos   : Nat
  limit : Nat
  idx   : List IdxRel
  nextW : Nat
  written : List Nat
  tr    : Option TrEnt
  flags : BitVec 5
  deriving DecidableEq, Repr

/-- An element that a port has issued (R255, R269): its handle, its number, its address, LINE as it was at issue, and the index read
that comes first (R273); how far it has come; the bytes that its read returned, and whether it is poisoned; for an element of a
unified group, whether the group has been unified (R107). An input element stays listed until its stream closes. -/
structure StreamReq where
  h    : Nat
  n    : Nat
  va   : Word
  line : Word
  idx  : Option (Word × Nat)
  gath : Bool
  st   : ReqSt
  data : List Byte
  bad  : Bool
  miss : Miss
  uni  : Bool
  deriving DecidableEq, Repr

/-- A stream program in a port (R264, R487): its parcels and position, its context and region, its bindings (R484), its
loop counters by parcel, the windows it opened, the phase it waits for, and the failures of an instruction that waits for a
translation (R277). -/
structure Prog where
  parcels : List Word
  pc      : Nat
  ctx     : Nat
  lan     : Nat
  armed   : Bool
  binds   : List Word
  loops   : Tab Nat
  wins    : List Nat
  waitPh  : Option (Nat × BitVec 32)
  xheld   : Option Miss
  deriving DecidableEq, Repr

/-- A stream port: its running and pending programs, handles, extents, issued elements, tokens waiting on its link;
whether it is stopped for a pre-emption or reserved for an array; and for a marker snapshot the tokens recorded, its
inbound channels, and those whose marker has come (R290); and the tile where a staged write of its waits for an entry
(R254). In a port's snapshot, `cutWins` holds the windows that its program opened, with their entries. -/
structure Port where
  prog  : Option Prog
  pend  : Option Prog
  hs    : Tab Handle
  ext   : Tab Extent
  outq  : List StreamReq
  inq   : List Arrival
  stopped : Bool
  matrix : Bool
  recd  : List Arrival
  inch  : List Nat
  marked : List Nat
  entWait : Option Nat
  cutWins : List (Nat × Nat × Win × List VEnt)
  deriving DecidableEq, Repr

/-! ### Die-wide units -/

/-- A leaf translation held by an edge TLB (R258). -/
structure TlbEnt where
  pasid : Nat
  vbase : Nat
  size  : Nat
  pbase : Nat
  r     : Bool
  w     : Bool
  x     : Bool
  c     : Bool
  tso   : Bool
  deriving DecidableEq, Repr

/-- An arrival or byte addition (`add` bytes; 0 an arrival) that the engine holds for a segment (R276, R331): until the
segment commits, or, if `copy` is set, until its staged writes are released; the segment, the object's address in the
engine's space, the record if it is refused; `none_` is set where the address named no object (R329). -/
structure SyncHeld where
  copy : Bool
  none_ : Bool
  seg  : Nat
  addr : Nat
  add  : Nat
  log  : Record
  deriving DecidableEq, Repr

/-- Who waits at the engine: a Lantern, with the register that the reply writes; a stream port; an element request in
its serving tile. -/
inductive WaitWho where
  | lan (k : Nat) (rd : Reg)
  | port (p : Nat)
  | slot (tile : Nat) (r : EReq)
  deriving DecidableEq, Repr

/-- What it waits for: the completion of a phase, room to push an entry, an entry to pop for the queue at `va`. -/
inductive WaitWhat where
  | phase (p : BitVec 32)
  | push (fmt : BitVec 3) (pay : Pay)
  | pop (va : Word)
  deriving DecidableEq, Repr

/-- A request that waits at the engine, in arrival order (R308, R314, R321). -/
structure SyncWait where
  who   : WaitWho
  what  : WaitWhat
  addr  : Nat
  deriving DecidableEq, Repr

/-- A die's synchronisation engine beside its SRAM. -/
structure Sync where
  waits : List SyncWait
  held  : List SyncHeld
  deriving DecidableEq, Repr

/-- What a copy channel does (R333 to R335). -/
inductive CopyKind where
  | flat
  | block (row rows : Nat) (dstr sstr : BitVec 32)
  | remote
  deriving DecidableEq, Repr

/-- A busy copy channel (R323): the issuing Lantern, its segment, launch and PASID, and whether it issued in supervisor
mode; the command; while it waits for a translation, `wait` is set; its translation failures; `moved` counts the bytes that
an RCPY has put into packets; `entWait` names the tile where a staged write waits for an entry (R254); `fin` is set once every
byte has been written and only posted writes are still to be performed (R327). -/
structure Chan where
  lan    : Nat
  seg    : Word
  launch : Nat
  pasid  : Nat
  sup    : Bool
  kind   : CopyKind
  rd     : Reg
  dst    : Word
  src    : Word
  len    : Nat
  bar    : Option Word
  scope  : BitVec 3
  wait   : Bool
  miss   : Miss
  moved  : Nat
  entWait : Option Nat
  fin    : Bool
  deriving DecidableEq, Repr

/-! ### The Beacon (chapter 19) -/

/-- Segment states (R379). -/
inductive SegSt where
  | pendc | pends | runc | runs | ends
  deriving DecidableEq, Repr

/-- A factor (R389). -/
structure Factor where
  site : Nat
  side : Bool
  cost : Nat
  deriving DecidableEq, Repr

/-- A segment's descriptor fields (R374, R375). -/
structure SegDesc where
  wm1    : Nat
  hm1    : Nat
  cluster : Nat
  die    : Nat
  entry  : Word
  like   : Nat
  stack  : Word
  deadline : Word
  budget : Nat
  ranges : List (Nat × Nat × BitVec 2)
  deriving DecidableEq, Repr

/-- A region's matrix run as a save area keeps it (R363, R367), and the M of the last run. -/
structure SavedMx where
  row0 : Nat
  col0 : Nat
  r    : Nat
  c    : Nat
  acc  : Tab Acc
  mxks : Word
  mxovf : Word
  flags : BitVec 5
  prio : Nat
  slow : Bool
  lastM : Nat
  run  : Option MxRun
  deriving DecidableEq, Repr

/-- The contents of a save area (R142, R143, R290, R367): what RSM restores. `hdr` is the area's header and `body` the
length of its body. Elements, tiles and ports stand under the numbers they had in the region led by `origin`, `w` by `h`
clusters; `ring` is the fault ring that `local_` leaves out; `chans` and `ports` hold the recorded tokens; `recs` the
unread records; `lanst` the trap registers that a pre-emption by the Beacon keeps. -/
structure Saved where
  hdr    : List Byte
  body   : Nat
  origin : Nat
  w      : Nat
  h      : Nat
  regs   : Tab Word
  fpmode : Word
  fpflags : Word
  ring   : Nat × Nat
  local_ : List Host.Cell
  cfgs   : List CfgEntry
  spaces : Tab SpaceEntry
  waits  : List WaitEnt
  phsw   : Option (Word × BitVec 32)
  ports  : Tab Port
  wins   : List (Nat × Nat × Win × List VEnt)
  elems  : Tab ElemCore
  inch   : Tab (List (Nat × Nat))
  chans  : Tab (List Arrival)
  ovfl   : List MatchEntry
  reqs   : List (Nat × EReq)
  recs   : List (List Byte × Bool)
  mx     : Option SavedMx
  lanst  : Option (List Word)
  deriving DecidableEq, Repr

/-- A pending-table entry (R379). `saveAt` is its area in the save pool, as first page and pages, while it is pre-empted
(R386); `heldRes` the outcomes of its CRES, held until commit (R216); `heldSt` its stores to homes that staging does not take, held until commit (R252). `abortDue` is set once the segment is to be aborted (R396): whether a re-queue was
asked for; `preempt` while it is being pre-empted, `yieldSup` by a YIELD of its own in supervisor mode. -/
structure Seg where
  st     : SegSt
  serial : Nat
  desc   : SegDesc
  descVa : Word
  launch : Nat
  pasid  : Nat
  cost   : Nat
  factors : List Factor
  parent : Option Word
  deadline : Word
  budget : Word
  requeues : Nat
  exts   : Tab Extent
  origin : Option Nat
  staged : Bool
  set    : Option Nat
  stageAt : Option Nat
  saveAt : Option (Nat × Nat)
  heldSt : List (Nat × List Byte)
  since  : Nat
  preempt : Bool
  yieldSup : Bool
  heldRes : List (Nat × Bool)
  abortDue : Option Bool
  deriving DecidableEq, Repr

/-- A remote ring being pulled (R399): its header's address, BASE and LOG2N, HEAD and the tail; the sender's PASID, launch
and segment; and whether its access waits on a fault, with its failures. -/
structure Pull where
  hdr   : Word
  base  : Nat
  log   : Nat
  head  : Nat
  tail  : Nat
  pasid : Nat
  launch : Nat
  sender : Word
  miss  : Miss
  wait  : Bool
  deriving DecidableEq, Repr

/-- A commit that awaits its release (R253, R394): the staging set, its segment's entry, and whether the segment retires
then. -/
structure CommitJob where
  set  : Nat
  idx  : Nat
  retire : Bool
  deriving DecidableEq, Repr

/-- A die's Beacon: `due` is set when a region is freed or a segment begins to wait, until the next decision (R381); its tables, the registers of its page (R384, R471), predictor (R393). -/
structure Beacon where
  segs     : Tab Seg
  serial   : Nat
  due      : Bool
  quantum  : Nat
  savebase : Nat
  savepg   : Nat
  syncbase : Nat
  syncpg   : Nat
  place    : Word
  pred     : Tab (BitVec 16 × Option Nat)
  pulls    : List Pull
  commits  : List CommitJob
  fenced   : List Nat
  fencing  : List Nat
  dayCtl   : Word
  dayBase  : Word
  dayPages : Word
  dayHead  : Word
  cmask0   : Word
  cmask1   : Word
  deriving DecidableEq, Repr

/-- A die's matrix arbiter (R368); `due` is set when a run starts waiting or a k-step ends (R369). -/
structure Arbiter where
  smode   : Bool
  pmax    : Nat
  cap     : Nat
  slotptr : Nat
  slots   : Tab Word
  due     : Bool
  deriving DecidableEq, Repr

/-! ### The hub (chapters 16 and 21) -/

/-- A launch's buffer (R38, R289): `tile` is the tile it names (R295), `pa` its place, `onTiles` and `wasTiles` whether it
stands, and was placed, on a memory tile. -/
structure Buffer where
  va    : Nat
  size  : Nat
  phaser : Bool
  die   : Nat
  tile  : Option (Nat × Nat)
  members : Nat
  pa    : Nat
  onTiles : Bool
  wasTiles : Bool
  pins  : Nat
  deriving DecidableEq, Repr

/-- An accepted launch (R35, R38 to R41, R385): `next` entry segments have been entered; `status` is set once it is ended. -/
structure Launch where
  id     : Nat
  iface  : Nat
  pasid  : Nat
  tag    : Nat
  compl  : Word
  irq    : Bool
  contained : Bool
  rm     : BitVec 2
  maint  : Bool
  dies   : Nat
  hasDie : Bool
  regMax : Option Nat
  clMax  : Option Nat
  deadline : Word
  pool   : Nat
  bufs   : List Buffer
  entries : List (Word × SegDesc)
  next   : Nat
  placed : Bool
  status : Option Nat
  slices : Tab Nat
  deriving DecidableEq, Repr

/-- An interface entry (R415) with its status counters (R421) and the interrupts owed (R422). -/
structure Iface where
  d0     : Word
  d1     : Word
  d2     : Word
  d3     : Word
  pend   : Bool
  tail   : BitVec 16
  head   : BitVec 16
  sHead  : Word
  done   : Word
  refused : Word
  ignored : Word
  lost   : Word
  owed   : Nat
  stopped : Bool
  deriving DecidableEq, Repr

/-- What a receiver answers on a package link: an acknowledgement, one that says that the packet's window was refused
(R337), or a request for replay. -/
inductive AckKind where
  | ack | refused | nak
  deriving DecidableEq, Repr

/-- A package link (R336, R339, R340, R427). `width` is 0 down, 1 full, 2 lanes 0 to 7, 3 lanes 8 to 15; `next` the width
that a retraining leads to. `rbuf` is the replay buffer, `wire` what has been put on the link, replays among it; `since` is
the tick of the last new acknowledgement or replay. `ackOut` lists the acknowledgements sent; `dead` the sequence numbers in the replay buffer whose copy has ended; `inward` the
copies of the far end that are under way, by channel and window: some packet of theirs has been accepted, and the last has
not. -/
structure Link where
  width   : Nat
  next    : Nat
  retrain : Bool
  pend    : Bool
  hostrt  : Bool
  nextSeq : BitVec 12
  lastAck : BitVec 12
  rbuf    : List Packet
  wire    : List Packet
  since   : Nat
  expect  : BitVec 12
  ackOut  : List (BitVec 12 × AckKind)
  dead    : List (BitVec 12)
  inward  : List (BitVec 4 × BitVec 4 × BitVec 8)
  deriving DecidableEq, Repr

/-- A placement request that a Beacon has sent to the host (R383): the segment's entry, its identifier and its shape;
`sent` is false where it is to be sent again. -/
structure PlaceReq where
  die   : Nat
  idx   : Nat
  segid : Word
  wm1   : Nat
  hm1   : Nat
  sent  : Bool
  deriving DecidableEq, Repr

/-- A hub: HSTROOT, IRQDROP, the inbound windows, remap entries, interfaces and launches. -/
structure Hub where
  hstroot : Word
  irqdrop : Word
  wins    : Tab (Word × Word × Word)
  irtes   : Tab (Word × Word)
  ifaces  : Tab Iface
  served  : Nat
  count   : Nat
  launches : Tab Launch
  links   : Tab Link
  mc      : List Record
  refusedWrites : List (Nat × Word)
  hostLog : List Record
  placeReq : List PlaceReq
  askHost : List (Nat × Nat)
  askEdge : List Nat
  irqs    : List (Nat × BitVec 32)
  replays : List (Nat × Word)
  deriving DecidableEq, Repr

/-- The management cores and the module (R447, R477 to R483): the fused minimum SVN, which is the running firmware's too;
the measurement of an image that UPDATE has put in the place of the one fused with the part; the mailbox's COMMAND, STATUS,
ADDR and LEN; the last load status word; whether the clock runs; each die's CAP before the power limit lowered it; and the step of bring-up that
failed, 0 when the part has come up. -/
structure Mgmt where
  svn     : Nat
  measure : Option (List Byte)
  command : Nat
  cmdStatus : Nat
  cmdAddr : Word
  cmdLen : Nat
  loadStatus : Word
  clockOn : Bool
  capSaved : Tab Nat
  bootFail : Nat
  deriving DecidableEq, Repr

/-- A write that one unit has posted to another's window, to take effect as that unit's own event (R31, R33, R414), or a
comparison of a row's spare that mismatches (R431, R440). -/
inductive Post where
  | gpr (lan : Nat) (r : Reg) (v : Word)
  | sreg (lan num : Nat) (v : Word)
  | debug (el area off : Nat) (v : Word)
  | hub (view : View) (off : Nat) (v : Word)
  | mismatch (die row : Nat)
  deriving DecidableEq, Repr

/-- Whose turn it is. -/
inductive Turn where
  | lantern (lan : Nat)
  | element (el : Nat)
  | port (port : Nat)
  | event (i : Instr)
  | post (p : Post)
  | idle (cycles : Nat)
  deriving DecidableEq, Repr

/-- The state of the package. `agenda` says which agents move next; with an empty agenda the model's own scheduler
picks. `portSnaps` holds the snapshots of
ports while a marker PRE runs (R290). `focus`, `elem` and `prt` are the Lantern, element and port whose turn it is. `free` counts the free values
used. `copyq` lists, by die, the Lanterns whose copy command waits for a channel, in arrival order, each with the command's
address (R323); `spareq` the Lanterns whose SPARE waits for an element, with their addresses and the elements (R437);
`spareForce` the rows whose spare's next comparison mismatches (R440); `spareAt` when each row's interval began. -/
structure State where
  tick     : Nat
  agenda   : List Turn
  focus    : Nat
  elem     : Nat
  prt      : Nat
  free     : Nat
  mem      : Memory
  ecc      : Tab (BitVec 39 × Bool)
  hbmBad   : List Nat
  mode     : Tab Word
  roots    : Tab Nat
  nextPage : Tab Nat
  tlbs     : Tab (List TlbEnt)
  lans     : Tab Lantern
  elems    : Tab Element
  tiles    : Tab Tile
  ports    : Tab Port
  syncs    : Tab Sync
  chans    : Tab Chan
  copyq    : Tab (List (Nat × Word))
  beacons  : Tab Beacon
  arbs     : Tab Arbiter
  spares   : Tab Word
  spareForce : List Nat
  spareAt  : Tab Nat
  spareq   : List (Nat × Word × Nat)
  edges    : Tab Nat
  saves    : Tab Saved
  portSnaps : Tab Port
  hub      : Hub
  mgmt     : Mgmt
  deriving DecidableEq, Repr

/-- Why the machine stops with a fault. -/
inductive Fault where
  /-- Raised by the step of every agent once POWER_LIMIT has stopped the module's clock (R483). Safe: nothing runs
  on the part either. -/
  | clockStopped
  /-- Raised by the step of every agent while bring-up has not completed (R477): the part runs nothing. Safe. -/
  | notBroughtUp
  deriving DecidableEq, Repr

/-- Why the model gives a step no meaning. -/
inductive Refusal where
  /-- Answered by `exec`'s arm of an instruction that has no meaning yet. Safe. -/
  | notModelled (mnemonic : String)
  /-- Answered by an element instruction that is executed with no operand set issued to it: no firing takes place on
  the part either (R151). Safe. -/
  | noOperandSet
  /-- Answered by a stream instruction executed with no running program in the port whose turn it is (R264). Safe. -/
  | noProgram
  deriving DecidableEq, Repr

/-! ### Units as they stand after reset -/

/-- A free element (R148): nothing loaded, no token anywhere. -/
def ElemCore.empty : ElemCore :=
  { slots := [], pslots := [], holds := [], pholds := [], ctrls := [], pctrls := [], store := [], seq := 0#12,
    ctxs := [], ready := [], waits := [], heldOut := [], busy := [] }

/-- A free element with empty links. -/
def Element.empty : Element :=
  { core := ElemCore.empty, links := [], road := [], ctl := [], firing := none, snap := none, snapOv := [], recd := [], marked := [],
    inch := [], gated := false }

/-- A control link after reset: C = 4 and nothing in flight (R165). -/
def CtlLink.empty : CtlLink := { c := 4#3, err := 0#6, sync := none, got := 0#8, sent := 0#8, flight := 0, held := [] }

/-- A context not in use. -/
def CtxState.empty : CtxState :=
  { valid := false, loaded := false, armed := false, marked := false, rm := 0#2, flags := 0#5, quota := 0, mrem := 0,
    spilled := 0#32, snap := 0#32, lastDone := 0#32 }

/-- A free tag-space entry. -/
def SpaceEntry.empty : SpaceEntry :=
  { st := .free, k := 0, base := 0, next := 0, emitted := [], parent := none, ret := none }

/-- A Lantern after bring-up: idle, with TVEC, FQBASE and FQHEAD as R124 gives. The spec gives no reset value for the
other registers, which a dispatch writes (R110): zero, DESIGN CHOICE, log entry 3. -/
def Lantern.reset : Lantern :=
  { st := .idle, regs := [], pc := 0#64, came := .start, prev := 0#64, status := 0#64, epc := 0#64, ecause := 0#64,
    evalr := 0#64, emicro := 0#64, tvec := Config.firmwareEntry, segid := 0#64, region := 0#64, deadln := 0#64,
    budget := 0#64, cost := 0#64, fqsize := 7#4, fqbase := 0x780#12, head := 0#16, tail := 0#16, fqCfg := [], fpmode := 0#64,
    fpflags := 0#64, launch := 0#64, pasid := 0, retFirst := 0#64, retNext := 0#64, icache := [], loads := [],
    sb := [], dpoi := none, waits := [], phsw := none, snapNo := 0#32, cfgs := [], xheld := none, stWait := none, heldRecs := [],
    spaces := [], ovfl := [], mx := none, mxPrio := 0, draining := false, prePend := false, cut := none,
    day := { fifo := [], lost := false, conds := [], fires := 0 } }

/-- A memory tile after bring-up: every segment LIN with its check bit clear (R282), counters and version buffer
clear (R477). -/
def Tile.reset : Tile :=
  { xs := 0#8, chk := 0#8, cnt := [], scrub := 0, ver := [], wins := [], reqs := [], bankq := [], bankd := [],
    nextId := 0, rot := 0, pipe := [], corr := [], wb := [], seen := [], jobs := [] }

/-- A stream port with no program. -/
def Port.reset : Port :=
  { prog := none, pend := none, hs := [], ext := [], outq := [], inq := [], stopped := false,
    matrix := false, recd := [], inch := [], marked := [], entWait := none, cutWins := [] }

/-- A synchronisation engine with nothing waiting. -/
def Sync.reset : Sync := { waits := [], held := [] }

/-- A Beacon after reset (R384, R393, R471): QUANTUM 2^20, SAVEPG and SYNCPG 0. SAVEBASE and SYNCBASE have no reset
value: zero, DESIGN CHOICE, log entry 3. -/
def Beacon.reset : Beacon :=
  { segs := [], serial := 0, due := false, quantum := 1048576, savebase := 0, savepg := 0, syncbase := 0, syncpg := 0, place := 0#64,
    pred := [], pulls := [], commits := [], fenced := [], fencing := [], dayCtl := 0#64,
    dayBase := 0#64, dayPages := 0#64, dayHead := 0#64, cmask0 := 0#64, cmask1 := 0#64 }

/-- A matrix arbiter after reset (R368). -/
def Arbiter.reset : Arbiter := { smode := false, pmax := 7, cap := 50176, slotptr := 0, slots := [], due := false }

/-- A row's spare after reset: INTERVAL 2^20, every other field zero (R429; zero where the spec gives no value, log
entry 3). -/
def spareReset : Word := 0x0000001000000000#64

/-- A package link after bring-up: trained at full width, nothing in its replay buffer. The SEQ values have no reset
value: first SEQ 0 and last acknowledged SEQ 0xFFF, DESIGN CHOICE, log entry 3. -/
def Link.reset : Link :=
  { width := 1, next := 1, retrain := false, pend := false, hostrt := false, nextSeq := 0#12, lastAck := 0xFFF#12,
    rbuf := [], wire := [], since := 0, expect := 0#12, ackOut := [], dead := [], inward := [] }

/-- An unassigned interface (R477 step 5). -/
def Iface.reset : Iface :=
  { d0 := 0#64, d1 := 0#64, d2 := 0#64, d3 := 0#64, pend := false, tail := 0#16, head := 0#16, sHead := 0#64,
    done := 0#64, refused := 0#64, ignored := 0#64, lost := 0#64, owed := 0, stopped := false }

/-- The hub after bring-up. HSTROOT and the tables have no reset value beyond V = 0: zero, log entry 3. -/
def Hub.reset : Hub :=
  { hstroot := 0#64, irqdrop := 0#64, wins := [], irtes := [], ifaces := [], served := 4095, count := 0,
    launches := [], links := [], mc := [], refusedWrites := [], hostLog := [], placeReq := [], askHost := [], askEdge := [],
    irqs := [], replays := [] }

/-- The management cores after bring-up. The spec gives the fused minimum SVN no value: zero, DESIGN CHOICE, log
entry 3. -/
def Mgmt.reset : Mgmt :=
  { svn := 0, measure := none, command := 0, cmdStatus := 0, cmdAddr := 0#64, cmdLen := 0, loadStatus := 0#64, clockOn := true, capSaved := [], bootFail := 0 }

/-- The package when bring-up has completed and the hub accepts packets (R477): the tick counter as package reset
leaves it (R9), no launch, every memory tile zeroed, MODE 0, every Lantern idle. -/
def State.reset : State :=
  { tick := 0, agenda := [], focus := 0, elem := 0, prt := 0, free := 0, mem := [], ecc := [], hbmBad := [],
    mode := [], roots := [], nextPage := [], tlbs := [], lans := [], elems := [], tiles := [], ports := [],
    syncs := [], chans := [], copyq := [], beacons := [], arbs := [], spares := [], spareForce := [], spareAt := [], spareq := [], edges := [], saves := [], portSnaps := [],
    hub := Hub.reset, mgmt := Mgmt.reset }

end Sys2Proof.Machine
end

