-- ==== Sys2Proof/Machine/Ops.lean ====
section
/-! DEFINITION. The named operations that every meaning shares: places on a die, the units' tables, Lantern registers,
the program counter, taking and leaving a trap, state registers, the fault queue, the trace. -/

namespace Sys2Proof.Machine

/-- What a step answers. -/
abbrev Out := Host.Outcome State Fault Refusal

/-! ### Places (R20 to R24) -/

/-- The die of a Lantern. -/
def lanDie (k : Nat) : Nat := k / 128
/-- The cluster index of a Lantern. -/
def lanCl (k : Nat) : Nat := k % 128
/-- The Lantern of a die's cluster. -/
def lanOf (die cl : Nat) : Nat := die * 128 + cl
/-- Cluster column. -/
def clX (cl : Nat) : Nat := cl % 7
/-- Cluster row. -/
def clY (cl : Nat) : Nat := cl / 7
/-- The number of a tile. -/
def tileOf (die x y : Nat) : Nat := die * 8192 + y * 64 + x
/-- The die of a tile. -/
def tileDie (t : Nat) : Nat := t / 8192
/-- Tile column. -/
def tileX (t : Nat) : Nat := t % 64
/-- Tile row. -/
def tileY (t : Nat) : Nat := t / 64 % 128
/-- Whether a memory tile stands at (x, y) (R22). -/
def isMemTile (x y : Nat) : Bool := decide (x < 56 ∧ y < 112) && decide ((x + y) % 2 = 1)
/-- Whether a compute tile stands at (x, y) (R22). -/
def isCompTile (x y : Nat) : Bool := decide (x < 56 ∧ y < 112) && decide ((x + y) % 2 = 0)
/-- The Lantern of the cluster that covers a tile (R24). -/
def clusterAt (die x y : Nat) : Nat := lanOf die (y / 8 * 7 + x / 8)
/-- The Lantern of the cluster that covers a tile. -/
def tileLan (t : Nat) : Nat := clusterAt (tileDie t) (tileX t) (tileY t)
/-- The number of an element. -/
def elOf (tile e : Nat) : Nat := tile * 16 + e
/-- The tile of an element. -/
def elTile (el : Nat) : Nat := el / 16
/-- The number of an element in its tile. -/
def elNum (el : Nat) : Nat := el % 16
/-- The tile of a port. -/
def portTile (p : Nat) : Nat := p / 4
/-- The number of a port in its tile. -/
def portNum (p : Nat) : Nat := p % 4
/-- The number of a port. -/
def portOf (tile p : Nat) : Nat := tile * 4 + p

/-! ### The units' tables -/

/-- A Lantern. -/
def State.lan (s : State) (k : Nat) : Lantern := s.lans.get Lantern.reset k
/-- Changes a Lantern. -/
def State.setLan (s : State) (k : Nat) (l : Lantern) : State := { s with lans := s.lans.put k l }
/-- Changes a Lantern by a function of it. -/
def State.modLan (s : State) (k : Nat) (f : Lantern → Lantern) : State := s.setLan k (f (s.lan k))
/-- The Lantern whose turn it is. -/
def State.cur (s : State) : Lantern := s.lan s.focus
/-- Changes the Lantern whose turn it is. -/
def State.modCur (s : State) (f : Lantern → Lantern) : State := s.modLan s.focus f
/-- An element. -/
def State.el (s : State) (k : Nat) : Element := s.elems.get Element.empty k
/-- Changes an element. -/
def State.setEl (s : State) (k : Nat) (e : Element) : State := { s with elems := s.elems.put k e }
/-- Changes an element by a function of it. -/
def State.modEl (s : State) (k : Nat) (f : Element → Element) : State := s.setEl k (f (s.el k))
/-- Changes an element's own state. -/
def State.modCore (s : State) (k : Nat) (f : ElemCore → ElemCore) : State :=
  s.modEl k fun e => { e with core := f e.core }
/-- A memory tile. -/
def State.tile (s : State) (k : Nat) : Tile := s.tiles.get Tile.reset k
/-- Changes a memory tile by a function of it. -/
def State.modTile (s : State) (k : Nat) (f : Tile → Tile) : State := { s with tiles := s.tiles.put k (f (s.tile k)) }
/-- A stream port. -/
def State.port (s : State) (k : Nat) : Port := s.ports.get Port.reset k
/-- Changes a stream port by a function of it. -/
def State.modPort (s : State) (k : Nat) (f : Port → Port) : State := { s with ports := s.ports.put k (f (s.port k)) }
/-- A synchronisation engine. -/
def State.sync (s : State) (d : Nat) : Sync := s.syncs.get Sync.reset d
/-- Changes a synchronisation engine by a function of it. -/
def State.modSync (s : State) (d : Nat) (f : Sync → Sync) : State := { s with syncs := s.syncs.put d (f (s.sync d)) }
/-- A Beacon. -/
def State.beacon (s : State) (d : Nat) : Beacon := s.beacons.get Beacon.reset d
/-- Changes a Beacon by a function of it. -/
def State.modBeacon (s : State) (d : Nat) (f : Beacon → Beacon) : State :=
  { s with beacons := s.beacons.put d (f (s.beacon d)) }
/-- A matrix arbiter. -/
def State.arb (s : State) (d : Nat) : Arbiter := s.arbs.get Arbiter.reset d
/-- Changes a matrix arbiter by a function of it. -/
def State.modArb (s : State) (d : Nat) (f : Arbiter → Arbiter) : State := { s with arbs := s.arbs.put d (f (s.arb d)) }
/-- The capacity that the granted k-steps of a die hold (R369): one that is in the array, and one granted to follow it. -/
def State.mxHeld (s : State) (die : Nat) : Nat :=
  s.lans.foldl (fun acc e =>
    if lanDie e.1 = die then
      match e.2.mx with
      | some a =>
        (match a.run with
         | some r => acc + (if r.granted then a.r * a.c else 0) + (if r.ahead then a.r * a.c else 0)
         | none => acc)
      | none => acc
    else acc) 0
/-- Changes the hub by a function of it. -/
def State.modHub (s : State) (f : Hub → Hub) : State := { s with hub := f s.hub }
/-- MODE of a die (R42). -/
def State.modeOf (s : State) (d : Nat) : Word := s.mode.get 0#64 d
/-- MODE bits (R42). -/
def modeWalk (m : Word) : Bool := m.getLsbD 0
/-- MODE.XFAULT. -/
def modeXfault (m : Word) : Bool := m.getLsbD 1
/-- MODE.SCRUB. -/
def modeScrub (m : Word) : Bool := m.getLsbD 2
/-- MODE.ROTATE. -/
def modeRotate (m : Word) : Bool := m.getLsbD 3
/-- MODE.RETRAIN. -/
def modeRetrain (m : Word) : Bool := m.getLsbD 4
/-- MODE.PLACE. -/
def modePlace (m : Word) : Bool := m.getLsbD 5
/-- Writes MODE; its reserved bits stay zero (R14, R42). -/
def State.setMode (s : State) (d : Nat) (v : Word) : State := { s with mode := s.mode.put d (v &&& 0x3F#64) }

/-- An agenda with a posted write behind those that stand at its head. -/
def postInto (p : Post) : List Turn → List Turn
  | .post q :: r => .post q :: postInto p r
  | r => .post p :: r

/-- Posts a write: the written unit performs it next, after the writes posted before. -/
def State.post (s : State) (p : Post) : State := { s with agenda := postInto p s.agenda }

/-- Counts one free value as used. -/
def State.spend (s : State) : State := { s with free := s.free + 1 }

/-- The lowest number below `n` for which `f` holds. -/
def lowest (n : Nat) (f : Nat → Bool) : Option Nat := (List.range n).find? f

/-! ### Lantern registers (R109, R115) -/

/-- A general register; s0 reads as zero (R109). -/
def Lantern.reg (l : Lantern) (r : Reg) : Word := if r = 0#5 then 0#64 else l.regs.get 0#64 r.toNat
/-- Writes a general register; a write to s0 is discarded (R109). -/
def Lantern.setReg (l : Lantern) (r : Reg) (v : Word) : Lantern :=
  if r = 0#5 then l else { l with regs := l.regs.put r.toNat v }
/-- Whether a register is scoreboarded. -/
def Lantern.busy (l : Lantern) (r : Reg) : Bool := l.sb.contains r
/-- Scoreboards a register; s0 never is. -/
def Lantern.block (l : Lantern) (r : Reg) : Lantern := if r = 0#5 then l else { l with sb := r :: l.sb }
/-- Releases a register's scoreboard. -/
def Lantern.unblock (l : Lantern) (r : Reg) : Lantern := { l with sb := l.sb.filter fun x => decide (x ≠ r) }

/-- Nobody waits any more for what a Lantern's commands to memory tiles answer. -/
def State.dropReplies (s : State) (k : Nat) : State :=
  { s with tiles := s.tiles.map fun t =>
      if t.2.jobs.isEmpty then t
      else (t.1, { t.2 with jobs := t.2.jobs.map fun j => if j.lan = k then { j with rd := 0#5 } else j }) }

/-- Whether posted writes of windows are still to be performed (R31, R33). -/
def State.postsDue (s : State) : Bool := match s.agenda with
  | .post _ :: _ => true
  | _ => false

/-- Whether a load of a Lantern, or the reply of a memory tile to a command of it, has not returned (R114, R285). -/
def State.loadsOut (s : State) (k : Nat) : Bool :=
  !(s.lan k).loads.isEmpty || s.tiles.any fun t => t.2.jobs.any fun j => decide (j.lan = k ∧ j.rd ≠ 0#5)
/-- x(r) of the Lantern whose turn it is. -/
def State.x (s : State) (r : Reg) : Word := s.cur.reg r

/-- Supervisor mode (R112). -/
def Lantern.sup (l : Lantern) : Bool := l.status.getLsbD 0
/-- STATUS.IE. -/
def Lantern.ie (l : Lantern) : Bool := l.status.getLsbD 2

/-! ### The program counter (R56, R58) -/

/-- The address of the parcel after the one at `a`: position 15 is followed by position 1 of the next line. -/
def nextParcel (a : Word) : Word := if a.toNat % 128 = 120 then a + 16#64 else a + 8#64
/-- The address `n` parcels on. -/
def afterParcels (a : Word) : Nat → Word
  | 0 => a
  | n + 1 => afterParcels (nextParcel a) n
/-- The parcel index of an address (R58). -/
def parcelIndex (a : Word) : Int := (a.toNat / 128 : Nat) * 15 + ((a.toNat % 128 / 8 : Nat) : Int) - 1
/-- The address of a parcel index (R58). -/
def parcelAddr (n : Int) : Word := BitVec.ofInt 64 (n / 15 * 128 + (n % 15 + 1) * 8)
/-- The end address of a segment (R110). -/
def endAddr : Word := 0xFFFFFFFFFFFFFFF8#64

/-- Retires an instruction of `n` parcels: control goes on in sequence. -/
def Lantern.advance (l : Lantern) (n : Nat) : Lantern :=
  { l with pc := afterParcels l.pc n, prev := l.pc, came := .seq, xheld := none, stWait := none }
/-- Retires the instruction of the Lantern whose turn it is. -/
def State.retire (s : State) (n : Nat) : State := s.modCur fun l => l.advance n
/-- Writes a register and retires. -/
def State.retireReg (s : State) (r : Reg) (v : Word) (n : Nat) : State :=
  s.modCur fun l => (l.setReg r v).advance n
/-- Transfers control. -/
def State.jumpTo (s : State) (came : Came) (a : Word) : State :=
  s.modCur fun l => { l with pc := a, prev := l.pc, came := came, xheld := none }

/-! ### Local memory and the fault ring (R28, R30, R123) -/

/-- The physical address of byte `off` of an area of a Lantern's windows (R28, R30). -/
def lanPa (k area off : Nat) : Nat := 5 * 2 ^ 48 + lanDie k * 2 ^ 44 + lanCl k * 2 ^ 37 + area * 2 ^ 17 + off
/-- Record places of the ring. -/
def Lantern.ringSize (l : Lantern) : Nat := 2 ^ l.fqsize.toNat
/-- Local-memory offset of record 0. -/
def Lantern.ringBase (l : Lantern) : Nat := l.fqbase.toNat * 32
/-- Whether a local-memory byte lies in the ring. -/
def Lantern.inRing (l : Lantern) (off : Nat) : Bool :=
  decide (l.ringBase ≤ off ∧ off < l.ringBase + 32 * l.ringSize)
/-- STATUS.FQP: HEAD ≠ TAIL, as indices modulo 2^SIZE (R123, R125). -/
def Lantern.fqp (l : Lantern) : Bool := decide (l.head.toNat % l.ringSize ≠ l.tail.toNat % l.ringSize)
/-- Whether the ring is full (R125). -/
def Lantern.ringFull (l : Lantern) : Bool :=
  decide ((l.tail.toNat + 1) % l.ringSize = l.head.toNat % l.ringSize)

/-- The first dword of a record (R226). -/
def Record.word0 (r : Record) : Word :=
  BitVec.ofNat 64 (min r.rep 0xFFFF * 2 ^ 48 + (if r.spec then 2 ^ 41 else 0) + (if r.wait then 2 ^ 40 else 0)
    + r.unit.toNat * 2 ^ 37 + r.ctx.toNat * 2 ^ 34 + r.slot.toNat * 2 ^ 29 + r.el.toNat * 2 ^ 25 + r.y.toNat * 2 ^ 18
    + r.x.toNat * 2 ^ 12 + r.die.toNat * 2 ^ 8 + r.kind.toNat)
/-- The 32 bytes of a record (R226). -/
def Record.toBytes (r : Record) : List Byte :=
  leBytes 8 r.word0.toNat ++ leBytes 8 r.tag.toNat ++ leBytes 8 r.addr.toNat
    ++ leBytes 4 r.info.toNat ++ leBytes 4 r.tick.toNat

/-- A record with nothing in it. -/
def Record.blank : Record :=
  { rep := 1, spec := false, wait := false, unit := 0#3, ctx := 0#3, slot := 0#5, el := 0#4, y := 0#7, x := 0#6,
    die := 0#4, kind := 0#8, tag := 0#36, addr := 0#64, tick := 0#32, info := 0#32, cfg := false }

/-- The record kinds (R227). -/
def kXLATE : Byte := 0x20#8
/-- A format record. -/
def kFMT : Byte := 0x21#8
/-- A slot record. -/
def kSLOTCTX : Byte := 0x22#8
/-- A tag record. -/
def kTAGUSE : Byte := 0x23#8
/-- An overflow record. -/
def kOVFL : Byte := 0x24#8
/-- A poison record. -/
def kPOISON : Byte := 0x25#8
/-- A control-link record. -/
def kCTRLSYNC : Byte := 0x26#8
/-- A version record. -/
def kVERREC : Byte := 0x27#8
/-- A layout record. -/
def kLAYOUT : Byte := 0x28#8
/-- A reconstruction record. -/
def kRECON : Byte := 0x29#8
/-- A suspect record. -/
def kSUSPECT : Byte := 0x2A#8
/-- A synchronisation record. -/
def kSYNC : Byte := 0x2B#8
/-- A routing record. -/
def kLINK : Byte := 0x2C#8
/-- A record of a fetch that failed at TVEC. -/
def kTVEC : Byte := 0x2D#8

/-- The bits of a record's first dword that R125 compares: kind, die, tile, element, slot, context. -/
def sameKey : Word := 0x0000001FFFFFFFFF#64

/-! ### The trace (R471 to R475) -/

/-- Whether a cluster is traced for the packets of a control bit. -/
def State.traced (s : State) (lan bit : Nat) : Bool :=
  let b := s.beacon (lanDie lan)
  let c := lanCl lan
  decide (b.dayPages ≠ 0#64) && b.dayCtl.getLsbD bit
    && (if c < 64 then b.cmask0.getLsbD c else b.cmask1.getLsbD (c - 64))

/-- Puts one packet into a cluster's FIFO (R472, R475). -/
def State.packet (s : State) (lan typ : Nat) (body : Word) : State :=
  s.modLan lan fun l =>
    if 32 ≤ l.day.fifo.length then { l with day := { l.day with lost := true } }
    else
      let w0 := BitVec.ofNat 64 (typ * 2 ^ 60 + lanCl lan * 2 ^ 53 + lanDie lan * 2 ^ 49
        + (if l.day.lost then 2 ^ 48 else 0) + s.tick % 2 ^ 48)
      { l with day := { l.day with fifo := l.day.fifo ++ [(w0, body)], lost := false } }

/-- Emits the branch outcomes held (R474). -/
def State.flushConds (s : State) (lan : Nat) : State :=
  let cs := (s.lan lan).day.conds
  if cs.isEmpty then s
  else
    let bits := cs.foldr (fun b acc => (if b then 1 else 0) + 2 * acc) 0
    let s := s.packet lan 2 (BitVec.ofNat 64 (cs.length * 2 ^ 58 + bits))
    s.modLan lan fun l => { l with day := { l.day with conds := [] } }

/-- A conditional branch's outcome (R474). -/
def State.traceCond (s : State) (lan : Nat) (taken : Bool) : State :=
  if s.traced lan 0 then
    let s := s.modLan lan fun l => { l with day := { l.day with conds := l.day.conds ++ [taken] } }
    if 58 ≤ (s.lan lan).day.conds.length then s.flushConds lan else s
  else s

/-- An INDIRECT packet (R473, R474). -/
def State.traceIndirect (s : State) (lan reason ecause : Nat) (target : Word) : State :=
  if s.traced lan 0 then
    (s.flushConds lan).packet lan 3
      (BitVec.ofNat 64 (ecause * 2 ^ 56 + reason * 2 ^ 48 + target.toNat % 2 ^ 48))
  else s

/-- A CONFIG packet (R473). -/
def State.traceConfig (s : State) (lan event ctx : Nat) (img : Word) : State :=
  if s.traced lan 1 then
    s.packet lan 4 (BitVec.ofNat 64 (event * 2 ^ 60 + ctx * 2 ^ 57 + img.toNat % 2 ^ 48))
  else s

/-- A PREEMPT packet (R473). -/
def State.tracePreempt (s : State) (lan kind : Nat) (snap : BitVec 32) : State :=
  if s.traced lan 4 then s.packet lan 7 (BitVec.ofNat 64 (kind * 2 ^ 56 + snap.toNat)) else s

/-- A FAULT packet (R473, R474). -/
def State.traceFault (s : State) (lan : Nat) (r : Record) : State :=
  if s.traced lan 3 then s.packet lan 6 r.word0 else s

/-! ### Segments and regions -/

/-- The number of a pending-table entry of a die. -/
def segKey (die idx : Nat) : Nat := die * 2 ^ 20 + idx

/-- The resident segment of a lead Lantern: its entry number and the entry (R379). -/
def State.resident (s : State) (lead : Nat) : Option (Nat × Seg) :=
  (s.beacon (lanDie lead)).segs.find? fun e =>
    (match e.2.st with | .runc => true | .runs => true | _ => false) && decide (e.2.origin = some lead)

/-- Whether a lead Lantern's segment is speculative. -/
def State.speculative (s : State) (lead : Nat) : Bool :=
  match s.resident lead with
  | some (_, g) => decide (g.st = .runs)
  | none => false

/-- Changes an entry of a die's pending table. -/
def State.modSeg (s : State) (die idx : Nat) (f : Seg → Seg) : State :=
  s.modBeacon die fun b =>
    match b.segs.find idx with
    | some g => { b with segs := b.segs.put idx (f g) }
    | none => b

/-- A region's width in clusters, from REGION (R113). -/
def Lantern.regW (l : Lantern) : Nat := (l.region.extractLsb' 8 8).toNat
/-- A region's height in clusters. -/
def Lantern.regH (l : Lantern) : Nat := (l.region.extractLsb' 16 8).toNat

/-- Whether the region led by `lead` covers cluster (cx, cy) of its die. -/
def State.covers (s : State) (lead cx cy : Nat) : Bool :=
  let l := s.lan lead
  let x0 := clX (lanCl lead)
  let y0 := clY (lanCl lead)
  decide (x0 ≤ cx ∧ cx < x0 + l.regW ∧ y0 ≤ cy ∧ cy < y0 + l.regH)

/-- The lead Lantern of the running region that covers a cluster. -/
def State.leadOf (s : State) (cluster : Nat) : Option Nat :=
  (s.lans.find? fun e =>
    decide (e.2.st ≠ .idle) && decide (lanDie e.1 = lanDie cluster)
      && s.covers e.1 (clX (lanCl cluster)) (clY (lanCl cluster))).map (·.1)

/-- The lead Lantern of the running region that covers a tile. -/
def State.leadOfTile (s : State) (t : Nat) : Option Nat := s.leadOf (tileLan t)

/-- Tiles (x, y) of a region's box: its first column and row, and its width and height in tiles. -/
def State.box (s : State) (lead : Nat) : Nat × Nat × Nat × Nat :=
  let l := s.lan lead
  (8 * clX (lanCl lead), 8 * clY (lanCl lead), 8 * l.regW, 8 * l.regH)

/-- The PASID of a lead Lantern's segment. -/
def State.pasidOf (s : State) (lead : Nat) : Nat := (s.lan lead).pasid

/-- The launch of a lead Lantern's segment. -/
def State.launchOf (s : State) (lead : Nat) : Option Launch :=
  match s.resident lead with
  | some (_, g) => s.hub.launches.find g.launch
  | none => none

/-- Whether a lead Lantern's segment is staged, and its staging set (R211, R253). -/
def State.stagedSet (s : State) (lead : Nat) : Option Nat :=
  match s.resident lead with
  | some (_, g) => if g.staged then g.set else none
  | none => none

/-! ### The fault queue (R125, R228) -/

/-- Sends a record to the management controller (R228). -/
def State.toMc (s : State) (r : Record) : State := s.modHub fun h => { h with mc := h.mc ++ [r] }

/-- The places of configurations' records once a record stands at `place`. -/
def Lantern.noteCfg (l : Lantern) (place : Nat) (cfg : Bool) : List Nat :=
  (if cfg then [place] else []) ++ l.fqCfg.filter fun p => decide (p ≠ place)

/-- Writes a record at TAIL of a lead Lantern's ring, or folds it into the newest unread record (R125). -/
def State.writeRecord (s : State) (lead : Nat) (r : Record) : State :=
  let l := s.lan lead
  let newest := lanPa lead 1 (l.ringBase + 32 * ((l.tail.toNat + l.ringSize - 1) % l.ringSize))
  let w0 := BitVec.ofNat 64 (leNat (s.mem.bytes newest 8))
  let same := l.fqp && decide (w0 &&& sameKey = r.word0 &&& sameKey)
    && decide (leNat (s.mem.bytes (newest + 8) 8) = r.tag.toNat)
    && decide (leNat (s.mem.bytes (newest + 16) 8) = r.addr.toNat)
  if same then
    let n := min (w0.toNat / 2 ^ 48 + 1) 0xFFFF
    let s := { s with mem := s.mem.store (newest + 6) (leBytes 2 n) }
    if r.cfg then s.modLan lead fun l => { l with fqCfg := l.noteCfg ((l.tail.toNat + l.ringSize - 1) % l.ringSize) true } else s
  else
    let s := { s with mem := s.mem.store (lanPa lead 1 (l.ringBase + 32 * (l.tail.toNat % l.ringSize))) r.toBytes }
    let s := s.modLan lead fun l =>
      { l with tail := BitVec.ofNat 16 ((l.tail.toNat + 1) % l.ringSize), fqCfg := l.noteCfg (l.tail.toNat % l.ringSize) r.cfg }
    s.traceFault lead r

/-- Whether a record would fold into the newest unread record of a ring. -/
def State.foldsInto (s : State) (lead : Nat) (r : Record) : Bool :=
  let l := s.lan lead
  let newest := lanPa lead 1 (l.ringBase + 32 * ((l.tail.toNat + l.ringSize - 1) % l.ringSize))
  l.fqp && decide (BitVec.ofNat 64 (leNat (s.mem.bytes newest 8)) &&& sameKey = r.word0 &&& sameKey)
    && decide (leNat (s.mem.bytes (newest + 8) 8) = r.tag.toNat)
    && decide (leNat (s.mem.bytes (newest + 16) 8) = r.addr.toNat)

/-- Hands a record to a region: into the ring, or held while the ring is full or older records are held (R125). -/
def State.toQueue (s : State) (lead : Nat) (r : Record) : State :=
  let l := s.lan lead
  if !l.heldRecs.isEmpty || (l.ringFull && !s.foldsInto lead r) then
    s.modLan lead fun l => { l with heldRecs := l.heldRecs ++ [r] }
  else s.writeRecord lead r

/-- One more failure of an access, at address `va`. Another address than before begins anew (R231). -/
def Miss.next (m : Miss) (now va : Nat) : Miss :=
  let again := decide (0 < m.rep ∧ m.va = va)
  { rep := if again then m.rep + 1 else 1, va := va, at_ := if m.at_ = 0 then now + 1 else m.at_,
    first := if again then m.first else BitVec.ofNat 32 now,
    pages := if m.pages.contains (va / 4096) then m.pages else va / 4096 :: m.pages, ask := false }

/-- Whether an access may make the walk for an address under MODE.WALK = 1: a REPLAY has come for its page (R257). -/
def Miss.may (m : Miss) (va : Nat) : Bool := m.pages.contains (va / 4096)

/-- One more failure of an instruction. -/
def heldNext (h : Option Miss) (now va : Nat) : Miss := (h.getD Miss.zero).next now va
/-- Whether a held instruction may not be retried yet. -/
def heldWaits (h : Option Miss) : Bool := h.any fun m => !m.ask
/-- Whether an instruction may make a walk (R257). -/
def heldMay (h : Option Miss) (va : Nat) : Bool := h.any fun m => m.ask && m.may va

/-- The record of a failure: it waits, and carries REPEAT and the tick of the first (R226, R229, R231). -/
def Record.missed (r : Record) (m : Miss) : Record := { r with rep := m.rep, wait := true, tick := m.first }

/-- Raises a record for a region, or for none (R228): SPEC is filled in, and TICK in a first record; with MODE.XFAULT = 1 an XLATE
record also goes to the host, with WAIT set, and so does a walk asked of the host (reason 5, R257). -/
def State.raise (s : State) (lead : Option Nat) (die : Nat) (r : Record) : State :=
  let r := { r with tick := if r.rep ≤ 1 then BitVec.ofNat 32 s.tick else r.tick, die := BitVec.ofNat 4 die }
  match lead with
  | none => (s.toMc r).traceFault (lanOf die 0) r
  | some k =>
    let r := { r with spec := s.speculative k }
    if r.kind = kXLATE && (modeXfault (s.modeOf die) || decide (r.info.toNat % 16 = 5)) then
      let r := { r with wait := true }
      (s.modHub fun h => { h with hostLog := h.hostLog ++ [r] }).toQueue k r
    else s.toQueue k r

/-- A record of an element (R226). -/
def elRecord (el : Nat) (kind : Byte) (slot : BitVec 5) (tag : Tag) (addr : Word) (info : Nat) : Record :=
  let t := elTile el
  { Record.blank with
    kind := kind, unit := 0#3, ctx := tag.extractLsb' 29 3, slot := slot, el := BitVec.ofNat 4 (elNum el),
    y := BitVec.ofNat 7 (tileY t), x := BitVec.ofNat 6 (tileX t), tag := tag, addr := addr,
    info := BitVec.ofNat 32 info, cfg := true }

/-- A record of a stream port (R283). -/
def portRecord (p : Nat) (kind : Byte) (ctx : Nat) (tag : Tag) (addr : Word) (info : Nat) : Record :=
  let t := portTile p
  { Record.blank with
    kind := kind, unit := 2#3, ctx := BitVec.ofNat 3 ctx, el := BitVec.ofNat 4 (portNum p),
    y := BitVec.ofNat 7 (tileY t), x := BitVec.ofNat 6 (tileX t), tag := tag, addr := addr,
    info := BitVec.ofNat 32 info, cfg := true }

/-- A record of a memory tile acting for itself (R226). -/
def tileRecord (t : Nat) (kind : Byte) (addr : Word) (info : Nat) : Record :=
  { Record.blank with
    kind := kind, unit := 7#3, y := BitVec.ofNat 7 (tileY t), x := BitVec.ofNat 6 (tileX t), addr := addr,
    info := BitVec.ofNat 32 info }

/-- A record of a Lantern (R226). -/
def lanRecord (k : Nat) (kind : Byte) (addr : Word) (info : Nat) : Record :=
  { Record.blank with
    kind := kind, unit := 7#3, el := 1#4, y := BitVec.ofNat 7 (8 * clY (lanCl k)),
    x := BitVec.ofNat 6 (8 * clX (lanCl k)), addr := addr, info := BitVec.ofNat 32 info }

/-- A record of a unit that has no place on the grid: a copy channel (4), an engine (3), a Beacon (5). -/
def unitRecord (unit : BitVec 3) (el : Nat) (kind : Byte) (addr : Word) (info : Nat) : Record :=
  { Record.blank with kind := kind, unit := unit, el := BitVec.ofNat 4 el, addr := addr, info := BitVec.ofNat 32 info }

/-! ### UCIe edges (R20, R21, R428) -/

/-- The edges between two dies on the way from `a` to `b`: package column first, then package row (R21). -/
def diePath (a b : Nat) : List Nat :=
  let lo := min (a / 2) (b / 2)
  let hi := max (a / 2) (b / 2)
  (if a % 2 ≠ b % 2 then [17 * (a / 2 * 2) + 1] else [])
    ++ (List.range (hi - lo)).map fun i => 17 * (2 * (lo + i) + b % 2) + 2

/-- The edges between a die and the hub, which stands beside dies 0 and 1 (R21). -/
def hubPath (d : Nat) : List Nat := diePath d (d % 2) ++ [16 * (d % 2) + 8]

/-- Whether an edge among some holds its traffic (R428). -/
def State.edgeHolds (s : State) (ks : List Nat) : Bool := ks.any fun k => decide (s.edges.get 0 k = 1)

/-- Whether traffic from die `a` to die `b` is held at an edge. -/
def State.cutOff (s : State) (a b : Nat) : Bool := !s.edges.isEmpty && s.edgeHolds (diePath a b)

/-- Whether an access of a die at another die, there or back, is held at an edge. -/
def State.diesCut (s : State) (a b : Nat) : Bool := s.cutOff a b || s.cutOff b a

/-- Whether traffic between a die and the hub is held at an edge. -/
def State.hubCut (s : State) (d : Nat) : Bool := !s.edges.isEmpty && s.edgeHolds (hubPath d)

/-! ### Traps (R117 to R120) -/

/-- The causes of R118. -/
def cILLOP : Nat := 0x01
/-- A reserved major. -/
def cRESMAJ : Nat := 0x02
/-- A landing that the line does not allow. -/
def cCFI : Nat := 0x03
/-- A line that cannot be fetched. -/
def cFETCH : Nat := 0x04
/-- A load that cannot be performed. -/
def cLDF : Nat := 0x05
/-- A store that cannot be performed. -/
def cSTF : Nat := 0x06
/-- A misaligned address. -/
def cALIGN : Nat := 0x07
/-- A permission fault. -/
def cPERM : Nat := 0x08
/-- SVC. -/
def cSVC : Nat := 0x09
/-- TRAP. -/
def cTRAP : Nat := 0x0A
/-- The budget is used up. -/
def cBUDGET : Nat := 0x0B
/-- A full or empty queue. -/
def cQWAIT : Nat := 0x0C
/-- A privileged instruction in user mode. -/
def cPRIV : Nat := 0x0D
/-- A configuration that fails its checks. -/
def cCFGBAD : Nat := 0x0E
/-- Uncorrectable load data. -/
def cDPOISON : Nat := 0x0F

/-- STATUS on taking a trap: SUP and IE move to PSUP and PIE, SUP becomes 1 and IE 0 (R117). -/
def trapStatus (v : Word) : Word :=
  (v &&& 0xFFFFFFFFFFFFFFF0#64) ||| (if v.getLsbD 0 then 2#64 else 0#64) ||| (if v.getLsbD 2 then 8#64 else 0#64)
    ||| 1#64

/-- STATUS on ERET: PSUP and PIE move back (R134). -/
def eretStatus (v : Word) : Word :=
  (v &&& 0xFFFFFFFFFFFFFFFA#64) ||| (if v.getLsbD 1 then 1#64 else 0#64) ||| (if v.getLsbD 3 then 4#64 else 0#64)

/-- take_trap (R117). `next` is the address of the parcel after the instruction at `epc`. -/
def Lantern.takeTrap (l : Lantern) (cause : Nat) (epc val micro next : Word) : Lantern :=
  { l with
    epc := epc, ecause := BitVec.ofNat 64 cause, evalr := val, emicro := micro, status := trapStatus l.status,
    retFirst := epc, retNext := next, pc := l.tvec, prev := epc, came := .start, xheld := none,
    st := .run }

/-- Whether a waiting request is a Lantern's. -/
def SyncWait.ofLan (w : SyncWait) (k : Nat) : Bool :=
  match w.who with
  | .lan j _ => decide (j = k)
  | _ => false

/-- Withdraws a Lantern's waiting request from the engines (R308). -/
def State.withdraw (s : State) (k : Nat) : State :=
  if s.syncs.any fun e => e.2.waits.any fun w => w.ofLan k then
    { s with syncs := s.syncs.map fun e => (e.1, { e.2 with waits := e.2.waits.filter fun w => !w.ofLan k }) }
  else s

/-- Takes a trap on a Lantern, with its trace packet (R474); a request that waits at an engine is withdrawn (R308). -/
def State.trapAt (s : State) (k cause : Nat) (epc val micro next : Word) : State :=
  ((s.withdraw k).modLan k fun l => l.takeTrap cause epc val micro next).traceIndirect k 2 cause (s.lan k).tvec

/-- A trap of the instruction at the program counter, which is `n` parcels long. -/
def State.trap (s : State) (cause : Nat) (val : Word) (n : Nat := 1) : State :=
  let pc := s.cur.pc
  s.trapAt s.focus cause pc val 0#64 (afterParcels pc n)

/-- The return from a trap (R120, R134): control goes to EPC with the mode that STATUS kept. -/
def Lantern.leaveTrap (l : Lantern) : Lantern :=
  { l with pc := l.epc, prev := 0#64, came := .eret, status := eretStatus l.status, xheld := none }

/-! ### State registers (R111 to R113, R123) -/

/-- What a read of a state register gives; `none` for a number that names none (R111). -/
def State.srValue (s : State) (k n : Nat) : Option Word :=
  let l := s.lan k
  match n with
  | 0x000 =>
    some ((l.status &&& 0xF#64) ||| (if l.fqp then 0x10#64 else 0#64)
      ||| (if s.speculative k then 0x20#64 else 0#64))
  | 0x001 => some l.epc
  | 0x002 => some l.ecause
  | 0x003 => some l.evalr
  | 0x004 => some l.emicro
  | 0x005 => some l.tvec
  | 0x006 => some l.segid
  | 0x007 => some l.region
  | 0x008 => some (BitVec.ofNat 64 s.tick)
  | 0x009 => some l.deadln
  | 0x00A => some l.budget
  | 0x00B => some l.cost
  | 0x00C => some (BitVec.ofNat 64 (l.fqsize.toNat * 2 ^ 20 + l.fqbase.toNat * 2 ^ 5))
  | 0x00D => some (BitVec.ofNat 64 (l.tail.toNat * 2 ^ 32 + l.head.toNat))
  | 0x00E => some l.fpmode
  | 0x00F => some l.fpflags
  | 0x010 => some (s.modeOf (lanDie k))
  | 0x011 => some l.launch
  | _ => none

/-- Whether user mode may read a state register (R111). -/
def srUserReads (n : Nat) : Bool :=
  decide (n = 0 ∨ (6 ≤ n ∧ n ≤ 0xB) ∨ n = 0xE ∨ n = 0xF ∨ n = 0x11)
/-- Whether user mode may write a state register (R111). -/
def srUserWrites (n : Nat) : Bool := decide (n = 0xE ∨ n = 0xF)
/-- Whether SRW writes a state register in any mode (R111). -/
def srWritable (n : Nat) : Bool := decide (n < 0x12) && !(decide ((6 ≤ n ∧ n ≤ 0xB) ∨ n = 0x11))

/-- Whether FQBASE keeps the ring inside the local memory (R123). -/
def fqbaseOk (v : Word) : Bool :=
  let sz := (v.extractLsb' 20 4).toNat
  let base := (v.extractLsb' 5 12).toNat * 32
  decide (sz ≤ 11) && decide (base + 32 * 2 ^ sz ≤ 0x10000)

/-- Writes a state register that SRW may write (R111, R112, R123, R134): reserved fields under R14, the read-only
fields unchanged. FQBASE has been checked. -/
def State.srWrite (s : State) (k n : Nat) (v : Word) : State :=
  match n with
  | 0x000 => s.modLan k fun l => { l with status := v &&& 0xF#64 }
  | 0x001 => s.modLan k fun l => { l with epc := v }
  | 0x002 => s.modLan k fun l => { l with ecause := v &&& 0xFF#64 }
  | 0x003 => s.modLan k fun l => { l with evalr := v }
  | 0x004 => s.modLan k fun l => { l with emicro := v }
  | 0x005 => s.modLan k fun l => { l with tvec := v }
  | 0x00C => s.modLan k fun l => { l with fqsize := v.extractLsb' 20 4, fqbase := v.extractLsb' 5 12 }
  | 0x00D => s.modLan k fun l => { l with head := v.extractLsb' 0 16 }
  | 0x00E => s.modLan k fun l => { l with fpmode := v &&& 3#64 }
  | 0x00F => s.modLan k fun l => { l with fpflags := v &&& 0x1F#64 }
  | 0x010 => s.setMode (lanDie k) v
  | _ => s

/-- ORs flags into a Lantern's FPFLAGS (R93). -/
def State.accrue (s : State) (lead : Nat) (f : Flags) : State :=
  s.modLan lead fun l => { l with fpflags := l.fpflags ||| f.setWidth 64 }

end Sys2Proof.Machine
end

