-- ==== Sys2Proof/Machine/Tiles.lean ====
section
/-! DEFINITION. The words of a memory tile: layout (R239, R240), SEC-DED (R244), parity and reconstruction (R242, R243,
R245, R246), counters (R247) and the scrub (R248). -/

namespace Sys2Proof.Machine

/-- Where a word of a tile stands: parity group, bank within it, row. -/
structure WordLoc where
  g   : Nat
  b   : Nat
  row : Nat
  deriving DecidableEq, Repr

/-- The physical word that a layout mode computes for word index `w` (R239, R240). -/
def locOf (xs : Bool) (w : Nat) : WordLoc :=
  let row := w / 12
  let b := w % 4
  { g := w / 4 % 3, b := if xs then b ^^^ (row % 4) else b, row := row }

/-- The physical base of a tile's window (R28). -/
def tileBase (t : Nat) : Nat := 4 * 2 ^ 48 + tileDie t * 2 ^ 44 + tileX t * 2 ^ 38 + tileY t * 2 ^ 31

/-- The address that memory keeps a data word at: the LIN address of its bank and row. -/
def dataPa (t : Nat) (l : WordLoc) : Nat := tileBase t + 4 * (12 * l.row + 4 * l.g + l.b)
/-- The address of a parity word (R239). -/
def parityPa (t g row : Nat) : Nat := tileBase t + 0x60000 + g * 0x8000 + 4 * row

/-- The word index that LIN gives a physical word. -/
def linWord (l : WordLoc) : Nat := 12 * l.row + 4 * l.g + l.b

/-- The 32-bit word stored at a physical address. -/
def State.word (s : State) (pa : Nat) : BitVec 32 := BitVec.ofNat 32 (leNat (s.mem.bytes pa 4))
/-- Stores a 32-bit word. -/
def State.setWord (s : State) (pa : Nat) (v : BitVec 32) : State := { s with mem := s.mem.store pa (leBytes 4 v.toNat) }

/-- Number of set bits below bit `n`. -/
def popBits (v n : Nat) : Nat := (List.range n).foldl (fun acc i => acc + v / 2 ^ i % 2) 0

/-- What SEC-DED finds in a codeword. -/
inductive Sec where
  | good (v : BitVec 32)
  | fixed (v : BitVec 32)
  | bad
  deriving DecidableEq, Repr

/-- SEC-DED over a stored word (R244): no flip, one, two, or more; or the pattern that it reports as uncorrectable. -/
def State.secded (s : State) (pa : Nat) : Sec :=
  let v := s.word pa
  match s.ecc.find (pa / 4) with
  | none => .good v
  | some (mask, pat) =>
    if pat then .bad
    else
      let n := popBits mask.toNat 39
      if n = 0 then .good v
      else if n = 1 then .fixed v
      else if n = 2 then .bad
      else match Config.secdedMany mask with
        | none => .bad
        | some d => .good (v ^^^ d)

/-- The word, where SEC-DED can give it. -/
def Sec.val : Sec → Option (BitVec 32)
  | .good v => some v
  | .fixed v => some v
  | .bad => none

/-- Writes a word with fresh check bits. -/
def State.putWord (s : State) (pa : Nat) (v : BitVec 32) : State :=
  { s.setWord pa v with ecc := s.ecc.del (pa / 4) }

/-- Writes a word with the check pattern that SEC-DED reports as uncorrectable (R244). -/
def State.putBad (s : State) (pa : Nat) (v : BitVec 32) : State :=
  { s.setWord pa v with ecc := s.ecc.put (pa / 4) (0#39, true) }

/-- A counter plus `n`, saturating (R247). -/
def satAdd (v : Word) (n : Nat) : Word := BitVec.ofNat 64 (min (v.toNat + n) (2 ^ 64 - 1))

/-- Adds to a counter of a tile (R247). -/
def State.count (s : State) (t off n : Nat) : State :=
  s.modTile t fun x => { x with cnt := x.cnt.put off (satAdd (x.cnt.get 0#64 off) n) }

/-- GROUPS of a tile (R247). -/
def Tile.groups (x : Tile) : Word := x.cnt.get 0#64 0x38
/-- The retired bank of a group, if the group is degraded (R245). -/
def Tile.retired (x : Tile) (g : Nat) : Option Nat :=
  let v := x.groups.toNat / 2 ^ (8 * g) % 256
  if v / 8 % 2 = 1 then some (v % 4) else none

/-- The other banks of a group. -/
def otherBanks (b : Nat) : List Nat := (List.range 4).filter fun i => decide (i ≠ b)

/-- The words that a reconstruction reads: the three other banks, then parity. -/
def rebuildPas (t : Nat) (l : WordLoc) : List Nat :=
  (otherBanks l.b).map (fun b => dataPa t { l with b := b }) ++ [parityPa t l.g l.row]

/-- The XOR of words that SEC-DED can all give (R242). -/
def State.xorOf (s : State) (pas : List Nat) : Option (BitVec 32) :=
  pas.foldl (fun acc pa =>
    match acc, (s.secded pa).val with
    | some a, some v => some (a ^^^ v)
    | _, _ => none) (some 0#32)

/-- The first of some words that SEC-DED cannot give. -/
def State.firstBad (s : State) (pas : List Nat) : Option Nat :=
  pas.find? fun pa => decide ((s.secded pa).val = none)

/-- Notes a word for the write-back of R244, and counts it once. -/
def State.noteFix (s : State) (t pa counter : Nat) : State :=
  if (s.tile t).corr.contains pa then s else (s.modTile t fun x => { x with corr := x.corr ++ [pa] }).count t counter 1

/-- Notes a word that SEC-DED corrected, counting the correction (R244). -/
def State.fixWord (s : State) (t pa : Nat) : State :=
  match s.secded pa with
  | .fixed _ => s.noteFix t pa 0x00
  | _ => s

/-- Notes the corrections of some words that are read (R242, R244). -/
def State.fixWords (s : State) (t : Nat) (pas : List Nat) : State := pas.foldl (fun s pa => s.fixWord t pa) s

/-- A record owed by an access: kind, address, INFO. -/
abbrev Owed := Byte × Word × Nat

/-- What reading a word gives: the value, whether it is poison, the records owed, the state. -/
structure WordRead where
  val : BitVec 32
  bad : Bool
  owed : List Owed
  s : State
  deriving DecidableEq, Repr

/-- The RECON record of an uncorrectable word (R227, R246). `want` is the bank the access wanted. -/
def reconOwed (t : Nat) (l : WordLoc) (pa want : Nat) : Owed :=
  let par := decide (pa = parityPa t l.g l.row)
  let bank := if par then 0 else (pa - tileBase t) / 4 % 4
  (kRECON, BitVec.ofNat 64 pa,
    l.g + bank * 4 + l.row * 16 + (if par then 2 ^ 17 else 0) + want * 2 ^ 18)

/-- The POISON record of reason 2 (R227, R244). -/
def poisonOwed (pa : Nat) : Owed := (kPOISON, BitVec.ofNat 64 pa, 2)

/-- Reads one word of a tile (R244 to R246). -/
def State.readWord (s : State) (t : Nat) (l : WordLoc) : WordRead :=
  let pa := dataPa t l
  match (s.tile t).retired l.g with
  | some rb =>
    if rb = l.b then
      let s := s.count t 0x20 1
      let pas := rebuildPas t l
      match s.xorOf pas with
      | some v => ⟨v, false, [], s.fixWords t pas⟩
      | none =>
        let bad := (s.firstBad pas).getD pa
        ⟨s.word pa, true, [reconOwed t l bad l.b], (s.fixWords t pas).count t 0x30 1⟩
    else
      match s.secded pa with
      | .good v => ⟨v, false, [], s⟩
      | .fixed v => ⟨v, false, [], s.fixWord t pa⟩
      | .bad => ⟨s.word pa, true, [reconOwed t l pa l.b], s.count t 0x30 1⟩
  | none =>
    match s.secded pa with
    | .good v => ⟨v, false, [], s⟩
    | .fixed v => ⟨v, false, [], s.fixWord t pa⟩
    | .bad =>
      let pas := rebuildPas t l
      match s.xorOf pas with
      | some v => ⟨v, false, [], (s.fixWords t pas).noteFix t pa 0x08⟩
      | none => ⟨s.word pa, true, [poisonOwed pa], s⟩

/-- The data words of a row of a group. -/
def rowWords (t g row : Nat) : List Nat := (List.range 4).map fun b => dataPa t { g := g, b := b, row := row }

/-- Recomputes an uncorrectable parity word from its row, where the four words are readable, which they are not in a group
that is degraded (R244, R246). -/
def State.remakeParity (s : State) (t g row : Nat) : State :=
  match (s.tile t).retired g, s.xorOf (rowWords t g row) with
  | none, some v => (s.fixWords t (rowWords t g row)).putWord (parityPa t g row) v
  | _, _ => s

/-- Reads a parity word through the tile's window (R29, R244, R246). -/
def State.readParity (s : State) (t g row : Nat) : WordRead :=
  let pp := parityPa t g row
  match s.secded pp with
  | .good v => ⟨v, false, [], s⟩
  | .fixed v => ⟨v, false, [], s.fixWord t pp⟩
  | .bad =>
    match (s.tile t).retired g with
    | some rb => ⟨s.word pp, true, [reconOwed t { g := g, b := rb, row := row } pp rb], s.count t 0x30 1⟩
    | none =>
      let u := s.remakeParity t g row
      match (u.secded pp).val with
      | some v => ⟨v, false, [], u⟩
      | none => ⟨s.word pp, true, [poisonOwed pp], u⟩

/-- Merges the bytes of `mask` from `new` into `old`. -/
def mergeWord (mask : BitVec 4) (old new : BitVec 32) : BitVec 32 :=
  let m := (List.range 4).foldl (fun acc i => if mask.getLsbD i then acc ||| (0xFF#32 <<< (8 * i)) else acc) 0#32
  (old &&& ~~~m) ||| (new &&& m)

/-- Writes the parity word of a row after a data word has changed from `old` to `new` (R243, R244): the old parity, the
old word and the new one; an uncorrectable parity word is recomputed from the row where the row is readable, and is left as it
is otherwise. -/
def State.updateParity (s : State) (t : Nat) (l : WordLoc) (old new : BitVec 32) : State :=
  let pp := parityPa t l.g l.row
  match (s.secded pp).val with
  | some p => (s.fixWord t pp).putWord pp (p ^^^ old ^^^ new)
  | none => s.remakeParity t l.g l.row

/-- Writes the bytes of `mask` of one word of a tile (R243 to R246): the state and the records owed. -/
def State.writeWord (s : State) (t : Nat) (l : WordLoc) (mask : BitVec 4) (data : BitVec 32) : State × List Owed :=
  let pa := dataPa t l
  let pp := parityPa t l.g l.row
  let full := decide (mask = 0xF#4)
  match (s.tile t).retired l.g with
  | some rb =>
    if rb = l.b then
      let s := s.count t 0x28 1
      let others := (otherBanks l.b).map fun b => dataPa t { l with b := b }
      let ok := s.xorOf others
      let bad := (s.firstBad others).getD pa
      let s := s.fixWords t others
      match ok with
      | none => ((s.putBad pp (s.word pp)).count t 0x30 1, [reconOwed t l bad l.b])
      | some x =>
        if full then (s.putWord pp (x ^^^ data), [])
        else
          match (s.secded pp).val with
          | some p => ((s.fixWord t pp).putWord pp (x ^^^ mergeWord mask (p ^^^ x) data), [])
          | none => ((s.putBad pp (s.word pp)).count t 0x30 1, [reconOwed t l pp l.b])
    else
      match s.secded pa with
      | .good old =>
        let new := mergeWord mask old data
        ((s.putWord pa new).updateParity t l old new, [])
      | .fixed old =>
        let s := s.fixWord t pa
        let new := mergeWord mask old data
        ((s.putWord pa new).updateParity t l old new, [])
      | .bad =>
        let s := if full then s.putWord pa data else s.putBad pa (mergeWord mask (s.word pa) data)
        ((s.putBad pp (s.word pp)).count t 0x30 1, [reconOwed t l pa l.b])
  | none =>
    let r := s.readWord t l
    if r.bad then
      let s := if full then r.s.putWord pa data else r.s.putBad pa (mergeWord mask (r.s.word pa) data)
      (s.putBad pp (s.word pp), [poisonOwed pa])
    else
      let new := mergeWord mask r.val data
      ((r.s.putWord pa new).updateParity t l r.val new, [])

/-- The layout mode of a tile's segment that holds word `w`, and its check bit (R240). -/
def Tile.segMode (x : Tile) (w : Nat) : Bool × Bool :=
  let seg := w / 12 / 1024
  (x.xs.getLsbD seg, x.chk.getLsbD seg)

/-- The physical word of an access (R240): `lay` is the stream descriptor's mode, 0 for the segment's, 1 LIN, 2 XS.
`none` where the check bit refuses the mode. -/
def Tile.locFor (x : Tile) (lay : Nat) (w : Nat) : Option WordLoc :=
  let (m, chk) := x.segMode w
  if lay = 0 then some (locOf m w)
  else
    let want := decide (lay = 2)
    if chk && (want != m) then none else some (locOf want w)

/-! ### Byte ranges over a tile's words -/

/-- What reading bytes gives. -/
structure ByteRead where
  bytes : List Byte
  bad : Bool
  owed : List Owed
  s : State
  deriving DecidableEq, Repr

/-- The words that `n` bytes at offset `off` touch: word index, first byte in the word, bytes. -/
def wordSpans (off n : Nat) : List (Nat × Nat × Nat) :=
  let first := off / 4
  let last := (off + n + 3) / 4
  (List.range (last - first)).filterMap fun i =>
    let w := first + i
    let lo := max off (4 * w)
    let hi := min (off + n) (4 * w + 4)
    if lo < hi then some (w, lo - 4 * w, hi - lo) else none

/-- The byte mask of a span. -/
def spanMask (lo n : Nat) : BitVec 4 := BitVec.ofNat 4 ((2 ^ n - 1) * 2 ^ lo)

/-- Notes an access to byte offset `off` of a tile (R261). -/
def State.touch (s : State) (t off : Nat) : State := s.modTile t fun x => { x with seen := x.seen.put (off / 4096) s.tick }

/-- Whether every word of a byte range may be accessed in layout `lay` (R240). -/
def Tile.layoutOk (x : Tile) (lay off n : Nat) : Bool :=
  (wordSpans off n).all fun sp => (x.locFor lay sp.1).isSome

/-! ### Write-back of corrected and rebuilt words (R244) -/

/-- What a word noted for the write-back is written back as, if it still needs it. -/
def State.fixValue (s : State) (t pa : Nat) : Option (BitVec 32) :=
  match s.secded pa with
  | .good _ => none
  | .fixed v => some v
  | .bad =>
    let n := (pa - tileBase t) / 4
    if n < 98304 then
      let l : WordLoc := { g := n / 4 % 3, b := n % 4, row := n / 12 }
      if (s.tile t).retired l.g = none then s.xorOf (rebuildPas t l) else none
    else none

/-- Writes a corrected or rebuilt word back. -/
def State.writeFix (s : State) (t pa : Nat) : State :=
  let s' := match s.fixValue t pa with
    | some v => s.putWord pa v
    | none => s
  s'.modTile t fun x => { x with corr := x.corr.filter fun a => decide (a ≠ pa) }

/-! ### Scrub (R248) -/

/-- The reads of a scrub of a row: it corrects and repairs the row's words, and rewrites a parity word that differs
from its group. Answers the state, the records owed (DEDUCED, log entry 79) and the number of corrections, repairs and
rewrites. -/
def State.scrubRead (s : State) (t row : Nat) : State × List Owed × Nat :=
  (List.range 3).foldl (fun acc g =>
    let locs := (List.range 4).map fun b => ({ g := g, b := b, row := row } : WordLoc)
    let ret := (acc.1.tile t).retired g
    -- data words
    let acc := locs.foldl (fun acc l =>
      if ret = some l.b then acc
      else
        let before := acc.1.secded (dataPa t l)
        let r := acc.1.readWord t l
        let n := match before with | .good _ => 0 | .fixed _ => 1 | .bad => if r.bad then 0 else 1
        (r.s, acc.2.1 ++ r.owed, acc.2.2 + n)) acc
    -- the parity word
    let pp := parityPa t g row
    let s := acc.1
    match ret with
    | some _ =>
      let r := s.readParity t g row
      (r.s, acc.2.1 ++ r.owed, acc.2.2 + (match s.secded pp with | .fixed _ => 1 | _ => 0))
    | none =>
      let fixed := match s.secded pp with | .fixed _ => 1 | _ => 0
      let s := s.fixWord t pp
      match s.xorOf (rowWords t g row) with
      | none => (s, acc.2.1, acc.2.2 + fixed)
      | some v =>
        if (s.secded pp).val = some v then (s, acc.2.1, acc.2.2 + fixed)
        else (s.putWord pp v, acc.2.1, acc.2.2 + fixed + 1)) (s, [], 0)

/-- The words of a row, data and parity. -/
def rowPas (t row : Nat) : List Nat :=
  (List.range 3).flatMap fun g =>
    ((List.range 4).map fun b => dataPa t { g := g, b := b, row := row }) ++ [parityPa t g row]

/-- A scrub of a row (R248): what it corrects and rebuilds is written back in it. -/
def State.scrub (s : State) (t row : Nat) : State × List Owed × Nat :=
  let r := s.scrubRead t row
  ((rowPas t row).foldl (fun s pa => if (s.tile t).corr.contains pa then s.writeFix t pa else s) r.1, r.2)

/-- Raises the records owed by accesses of a unit (R228). -/
def State.raiseOwed (s : State) (lead : Option Nat) (die : Nat) (mk : Byte → Word → Nat → Record) (ow : List Owed) :
    State :=
  ow.foldl (fun s o => s.raise lead die (mk o.1 o.2.1 o.2.2)) s

end Sys2Proof.Machine
end

