-- ==== Sys2Proof/Machine/Bank.lean ====
section
/-! DEFINITION. The banks of a memory tile (R241 to R246, R299): a word waits for its bank, one cycle of the tile grants what
it can, and an access through the window port takes as many cycles as it waits. -/

namespace Sys2Proof.Machine

/-! ### Asking -/

/-- Whether every word of a client has been granted. -/
def Tile.granted (x : Tile) (src client : Nat) : Bool :=
  !(x.bankq.any fun q => decide (q.src = src ∧ q.client = client))

/-- The number of a data bank, or with `b` 4 of a parity bank, among the tile's fifteen. -/
def bankNo (g b : Nat) : Nat := if b = 4 then 12 + g else 4 * g + b
/-- A parity bank. -/
def parNo (g : Nat) : Nat := 12 + g

/-- The word of a tile at an address. -/
def locAt (t pa : Nat) : WordLoc :=
  let n := (pa - tileBase t) / 4
  { g := n / 4 % 3, b := n % 4, row := n / 12 }

/-- The parity word at byte offset `off` of a tile (R239). -/
def parAt (off : Nat) : WordLoc := { g := (off - 0x60000) / 0x8000, b := 4, row := (off - 0x60000) % 0x8000 / 4 }

/-- A word of an access, in line for its bank. -/
def bankAsk (src client pos : Nat) (l : WordLoc) (store : Bool) (mask : BitVec 4) (data : BitVec 32) (lead : Option Nat) : BankReq :=
  { src := src, client := client, pos := pos, g := l.g, b := l.b, row := l.row, store := store, mask := mask, data := data,
    waited := false, lead := lead }

/-- The words of a byte range of a tile, in layout `lay`: reads, or the writes of `bs`. A word that its segment's check bit
refuses is none of them. -/
def Tile.asks (x : Tile) (src client lay off n : Nat) (bs : Option (List Byte)) (lead : Option Nat) : List BankReq :=
  (wordSpans off n).filterMap fun sp =>
    (x.locFor lay sp.1).map fun l =>
      let data := match bs with
        | none => 0#32
        | some bs => BitVec.ofNat 32 (leNat ((bs.drop (4 * sp.1 + sp.2.1 - off)).take sp.2.2) * 2 ^ (8 * sp.2.1))
      bankAsk src client sp.1 l bs.isSome (spanMask sp.2.1 sp.2.2) data lead

/-- The parity words of a byte range: reads through the window port (R29). -/
def parityAsks (off n : Nat) : List BankReq :=
  (wordSpans off n).map fun sp => bankAsk 5 0 sp.1 (parAt (4 * sp.1)) false 0#4 0#32 none

/-- Puts words in line. -/
def State.enqueue (s : State) (t : Nat) (qs : List BankReq) : State := s.modTile t fun x => { x with bankq := x.bankq ++ qs }

/-- The bytes that a client's granted reads returned, and whether some word was poison. -/
def Tile.results (x : Tile) (src client off n : Nat) : List Byte × Bool :=
  let rs := x.bankd.filter fun r => decide (r.src = src ∧ r.client = client)
  (((wordSpans off n).map fun sp =>
      let w := match rs.find? fun r => decide (r.pos = sp.1) with
        | some r => r.word
        | none => 0#32
      ((leBytes 4 w.toNat).drop sp.2.1).take sp.2.2).flatten,
    rs.any (·.bad))

/-- A client's results leave the tile. -/
def State.dropRes (s : State) (t src client : Nat) : State :=
  s.modTile t fun x => { x with bankd := x.bankd.filter fun r => !decide (r.src = src ∧ r.client = client) }

/-- Takes a client's results. -/
def State.takeBank (s : State) (t src client off n : Nat) : List Byte × Bool × State :=
  let r := (s.tile t).results src client off n
  (r.1, r.2, s.dropRes t src client)

/-! ### Granting -/

/-- What a cycle of the arbiter has done so far: the banks in use, the groups that have served a reconstruction, the
sources of the granted reads, and the state. -/
structure Grant where
  used : List Nat
  rec_ : List Nat
  reads : List Nat
  s    : State
  deriving DecidableEq, Repr

/-- The other banks of a request's group, and its parity bank. -/
def BankReq.others (q : BankReq) : List Nat := (otherBanks q.b).map (bankNo q.g) ++ [parNo q.g]

/-- The word that a request reaches. -/
def BankReq.loc (q : BankReq) : WordLoc := { g := q.g, b := q.b, row := q.row }

/-- Whether the parity of a request's row is being updated (R243). -/
def Tile.stale (x : Tile) (q : BankReq) : Bool := x.pipe.any fun p => decide (p.g = q.g ∧ p.row = q.row)

/-- The group whose grants a BRET has stopped (R286). -/
def Tile.stopped (x : Tile) : List Nat :=
  x.jobs.filterMap fun j => match j.work with
    | .retire g _ => some g
    | _ => none

/-- The banks that an access takes in its cycle; `none` while it may not be granted. An access to a retired bank claims the
others of its group (R299). A store needs no parity bank where its row's parity is in flight (R243). A word that must be
rebuilt waits for its row's parity (R244), and its group is read whole. -/
def State.bankNeeds (s : State) (t : Nat) (q : BankReq) : Option (List Nat) :=
  let x := s.tile t
  if x.stopped.contains q.g then none
  else if q.b = 4 then some [parNo q.g]
  else if x.retired q.g = some q.b then some q.others
  else if x.retired q.g = none ∧ (s.secded (dataPa t q.loc)).val = none then
    if x.stale q then none else some (bankNo q.g q.b :: q.others)
  else some (bankNo q.g q.b :: (if q.store && !x.stale q then [parNo q.g] else []))

/-- The word that a reconstruction gives (R242): the XOR of its sources, each corrected. -/
def State.rebuildWord (s : State) (t : Nat) (l : WordLoc) : WordRead :=
  match s.xorOf (rebuildPas t l) with
  | some v => ⟨v, false, [], s.fixWords t (rebuildPas t l)⟩
  | none => s.readWord t l

/-- What a granted read finds. -/
def State.grantedRead (s : State) (t : Nat) (q : BankReq) (rebuild : Bool) : WordRead :=
  if q.b = 4 then s.readParity t q.g q.row else if rebuild then s.rebuildWord t q.loc else s.readWord t q.loc

/-- Performs a granted access of a tile. The window port hands the records it owes to its requester. -/
def State.performBank (s : State) (t : Nat) (q : BankReq) (rebuild : Bool := false) : State :=
  let res (v : BitVec 32) (bad : Bool) (ow : List Owed) : BankRes :=
    { src := q.src, client := q.client, pos := q.pos, word := v, bad := bad, owed := if q.src = 5 then ow else [] }
  let owe (s : State) (ow : List Owed) : State :=
    if q.src = 5 then s else s.raiseOwed q.lead (tileDie t) (tileRecord t) ow
  if q.store then
    let r := s.writeWord t q.loc q.mask q.data
    (owe r.1 r.2).modTile t fun x =>
      { x with pipe := x.pipe ++ [{ g := q.g, b := q.b, row := q.row, left := 3 }],
               bankd := if q.src = 5 then x.bankd ++ [res 0#32 false r.2] else x.bankd }
  else
    let r := s.grantedRead t q rebuild
    (owe r.s r.owed).modTile t fun x => { x with bankd := x.bankd ++ [res r.val r.bad r.owed] }

/-- Whether a stream port has read its two words of this cycle (R255). -/
def Grant.full (g : Grant) (q : BankReq) : Bool :=
  decide (1 ≤ q.src ∧ q.src ≤ 4 ∧ q.store = false ∧ 2 ≤ g.reads.count q.src)

/-- Whether a read that lost its bank can be reconstructed in this cycle (R242). -/
def Grant.canRebuild (g : Grant) (t : Nat) (q : BankReq) : Bool :=
  let x := g.s.tile t
  !q.store && decide (q.b ≠ 4) && (x.retired q.g).isNone && !(q.others.any fun b => g.used.contains b) && !g.rec_.contains q.g
    && !x.stale q && (g.s.xorOf (rebuildPas t q.loc)).isSome

/-- Takes a request out of the line. -/
def State.dropReq (s : State) (t : Nat) (q : BankReq) : State :=
  s.modTile t fun x => { x with bankq := x.bankq.erase q }

/-- The sources of the reads once `q` is granted. -/
def Grant.note (g : Grant) (q : BankReq) : List Nat := if q.store then g.reads else q.src :: g.reads

/-- Tries to grant one request directly. -/
def Grant.direct (g : Grant) (t : Nat) (q : BankReq) : Grant :=
  match g.s.bankNeeds t q with
  | none => g
  | some need =>
    if g.full q || need.any fun b => g.used.contains b then g
    else { g with used := g.used ++ need, reads := g.note q, s := (g.s.dropReq t q).performBank t q }

/-- Serves a read that lost its bank by reconstruction, if it can be (R242); one that cannot waits, and so do the reads of a
store (R241, R247, R299). -/
def Grant.rebuild (g : Grant) (t : Nat) (q : BankReq) : Grant :=
  if !(g.s.tile t).bankq.contains q || g.full q || (g.s.bankNeeds t q).isNone then g
  else if g.canRebuild t q then
    { used := g.used ++ q.others, rec_ := q.g :: g.rec_, reads := g.note q,
      s := ((g.s.dropReq t q).performBank t q true).count t 0x10 1 }
  else { g with s := g.s.count t 0x18 1 }

/-- The banks that stores granted earlier write in this cycle (R243): the data word in cycle d, the parity in d + 2. -/
def Tile.writing (x : Tile) : List Nat :=
  x.pipe.filterMap fun p =>
    if p.left = 3 ∧ x.retired p.g ≠ some p.b then some (bankNo p.g p.b)
    else if p.left = 1 then some (parNo p.g)
    else none

/-- The order in which a cycle looks at requests (R241): those that waited, in order of arrival; then new ones in
rotation among the sources; then write-backs. -/
def Tile.order (x : Tile) : List BankReq :=
  let ports := x.bankq.filter fun q => decide (q.src < 6)
  (ports.filter fun q => q.waited)
    ++ ((List.range 6).map fun i => ports.filter fun q => !q.waited && decide (q.src = (x.rot + i) % 6)).flatten
    ++ x.bankq.filter fun q => decide (6 ≤ q.src)

/-- Bits [8g+7:8g] of GROUPS with bank `b` of group `g` retired (R247). -/
def retireBits (v : Word) (g b : Nat) : Word := v ||| BitVec.ofNat 64 ((8 + b) * 2 ^ (8 * g))

/-- Retires bank `b` of group `g` (R286): the tile, and what rd receives. A group that is degraded stays as it is. -/
def Tile.retire (x : Tile) (g b : Nat) : Tile × Word :=
  match x.retired g with
  | some rb => (x, if rb = b then 1#64 else 2#64)
  | none => ({ x with cnt := x.cnt.put 0x38 (retireBits x.groups g b) }, 0#64)

/-- Whether a granted store of a group has its parity still to write (R243). -/
def Tile.parityDue (x : Tile) (g : Nat) : Bool := x.pipe.any fun p => decide (p.g = g)

/-- The first job of retiring a bank whose group's granted stores have all written their parity is done (R286). -/
def Tile.retireStep (x : Tile) : Tile :=
  match x.jobs.findIdx? fun j => match j.work with | .retire g _ => !x.parityDue g | _ => false with
  | none => x
  | some i =>
    match x.jobs[i]? with
    | some j =>
      (match j.work with
       | .retire g b => let r := x.retire g b; { r.1 with jobs := x.jobs.set i { j with work := .reply r.2 } }
       | _ => x)
    | none => x

/-- One cycle of a memory tile's banks (R241 to R243). -/
def State.bankCycle (s : State) (t : Nat) : State :=
  let x := s.tile t
  let qs := x.order
  let g : Grant := { used := x.writing, rec_ := [], reads := [], s := s }
  let g := qs.foldl (fun g q => g.direct t q) g
  let g := qs.foldl (fun g q => g.rebuild t q) g
  g.s.modTile t fun y =>
    Tile.retireStep { y with
      rot := (x.rot + 1) % 6
      bankq := y.bankq.map fun q => { q with waited := true }
      pipe := y.pipe.filterMap fun p =>
        if !x.pipe.contains p then some p else if p.left ≤ 1 then none else some { p with left := p.left - 1 } }

/-- Cycles of a tile until a client's words have been granted. -/
def State.bankRun (t src client : Nat) : Nat → State → State
  | 0, s => s
  | n + 1, s => if (s.tile t).granted src client then s else State.bankRun t src client n (s.bankCycle t)

/-- The most cycles that the accesses in line and the jobs can take: each may wait for a row's parity. -/
def Tile.cycles (x : Tile) : Nat := 5 * (x.bankq.length + x.jobs.length) + 8

/-- Puts words in line and runs the tile until a client's words have been granted. -/
def State.bankDo (s : State) (t src client : Nat) (qs : List BankReq) : State :=
  let s := s.enqueue t qs
  s.bankRun t src client (s.tile t).cycles

/-! ### Write-backs (R253, R281) -/

/-- A write-back, in line for its bank. -/
def WBack.ask (t : Nat) (b : WBack) : BankReq := bankAsk 6 0 (b.pa / 4) (locAt t b.pa) true b.mask b.data none

/-- A write-back performed (R243), after everything of a higher priority. -/
def State.doWBack (s : State) (t : Nat) (b : WBack) : State := s.bankDo t 6 0 [b.ask t]

/-- Performs every write-back that waits in a tile: what an access that waits for them finds (R281). -/
def State.flushWb (s : State) (t : Nat) : State :=
  let bs := (s.tile t).wb
  if bs.isEmpty then s else (s.modTile t fun x => { x with wb := [] }).bankDo t 6 0 (bs.map (WBack.ask t))

/-! ### The tile's own ports and the window port -/

/-- Puts the words of a byte range of a tile in line for their banks, in layout `lay`: a read, or a write of `bs`.
Writes that a fold or commit still owes are performed first (R281). -/
def State.askBank (s : State) (t src client lay off n : Nat) (bs : Option (List Byte)) (lead : Option Nat) : State :=
  let s := (s.flushWb t).touch t off
  s.enqueue t ((s.tile t).asks src client lay off n bs lead)

/-- The records that the window port's accesses owe. -/
def Tile.owed (x : Tile) : List Owed := (x.bankd.filter fun r => decide (r.src = 5)).flatMap (·.owed)

/-- An access through the window port (R241): the words stand in line with every other port's, and the tile runs until
they have been granted. -/
def State.windowDo (s : State) (t off n : Nat) (qs : List BankReq) (refused : Bool) : ByteRead :=
  let s := s.bankDo t 5 0 qs
  let r := (s.tile t).results 5 0 off n
  ⟨r.1, r.2 || refused, (s.tile t).owed, s.dropRes t 5 0⟩

/-- Reads `n` bytes at byte offset `off` of a tile through its window port, every word in layout `lay`. -/
def State.readTile (s : State) (t lay off n : Nat) : ByteRead :=
  let s := (s.flushWb t).touch t off
  s.windowDo t off n ((s.tile t).asks 5 0 lay off n none none) (!(s.tile t).layoutOk lay off n)

/-- Reads parity words of a tile through its window port (R29). -/
def State.readParities (s : State) (t off n : Nat) : ByteRead := s.windowDo t off n (parityAsks off n) false

/-- Writes bytes at byte offset `off` of a tile through its window port. -/
def State.writeTile (s : State) (t lay off : Nat) (bs : List Byte) : State × List Owed :=
  let s := (s.flushWb t).touch t off
  let r := s.windowDo t off bs.length ((s.tile t).asks 5 0 lay off bs.length (some bs) none) false
  (r.s, r.owed)

end Sys2Proof.Machine
end

