-- ==== Sys2Proof/Machine/Debug.lean ====
section
/-! DEFINITION. Tags and destinations of tokens (R25), the numbering of a region's elements (R341), and the element
debug space (R33, R149, R150). -/

namespace Sys2Proof.Machine

/-! ### Tags and destinations (R25) -/

/-- TDIE. -/
def tagDie (t : Tag) : Nat := (t.extractLsb' 32 4).toNat
/-- TCTX. -/
def tagCtx (t : Tag) : Nat := (t.extractLsb' 29 3).toNat
/-- TSPACE. -/
def tagSpace (t : Tag) : Nat := (t.extractLsb' 24 5).toNat
/-- TITER. -/
def tagIter (t : Tag) : Nat := (t.extractLsb' 0 24).toNat
/-- A tag of its fields. -/
def mkTag (die ctx space iter : Nat) : Tag :=
  BitVec.ofNat 4 die ++ BitVec.ofNat 3 ctx ++ BitVec.ofNat 5 space ++ BitVec.ofNat 24 iter

/-- DDIE. -/
def dstDie (d : Dest) : Nat := (d.extractLsb' 24 4).toNat
/-- DX. -/
def dstX (d : Dest) : Nat := (d.extractLsb' 18 6).toNat
/-- DY. -/
def dstY (d : Dest) : Nat := (d.extractLsb' 11 7).toNat
/-- DEL. -/
def dstEl (d : Dest) : Nat := (d.extractLsb' 7 4).toNat
/-- DSLOT. -/
def dstSlot (d : Dest) : BitVec 5 := d.extractLsb' 2 5
/-- DPORT. -/
def dstPort (d : Dest) : BitVec 2 := d.extractLsb' 0 2
/-- A destination of its fields. -/
def mkDest (die x y el slot port : Nat) : Dest :=
  BitVec.ofNat 4 die ++ BitVec.ofNat 6 x ++ BitVec.ofNat 7 y ++ BitVec.ofNat 4 el ++ BitVec.ofNat 5 slot
    ++ BitVec.ofNat 2 port

/-! ### A region's element rows and columns (R341) -/

/-- Element (i, j) of a region whose origin tile is (x0, y0). -/
def arrayEl (die x0 y0 i j : Nat) : Nat :=
  let t := i / 4
  elOf (tileOf die (x0 + t % 2 + 2 * (j / 4)) (y0 + t)) (4 * (i % 4) + j % 4)

/-- The row and column of an element of a region whose origin tile is (x0, y0). -/
def elRowCol (x0 y0 el : Nat) : Nat × Nat :=
  let t := elTile el
  let dy := tileY t - y0
  let e := elNum el
  (4 * dy + e / 4, 4 * ((tileX t - x0 - dy % 2) / 2) + e % 4)

/-- The array position of an element, if the region that covers it has an array that holds it: the lead, the array, row
and column. -/
def State.arrayAt (s : State) (el : Nat) : Option (Nat × Array2 × Nat × Nat) :=
  match s.leadOfTile (elTile el) with
  | none => none
  | some lead =>
    match (s.lan lead).mx with
    | none => none
    | some a =>
      let (x0, y0, _, _) := s.box lead
      let (i, j) := elRowCol x0 y0 el
      if a.row0 ≤ i ∧ i < a.row0 + a.r ∧ a.col0 ≤ j ∧ j < a.col0 + a.c then
        some (lead, a, i - a.row0, j - a.col0)
      else none

/-! ### The element debug space -/

/-- The two dwords of a hold or weight register (R33). -/
def holdDwords (fmt : BitVec 3) (pay : Pay) : Word × Word :=
  (pay.setWidth 64, BitVec.ofNat 64 ((pay.toNat / 2 ^ 64) + fmt.toNat * 2 ^ 16))

/-- The four dwords of a matching-store entry (R150). -/
def matchDwords (m : MatchEntry) (owner : Bool) : List Word :=
  let t := m.tok
  let fl := (if t.last then 4 else 0) + (if t.poison then 2 else 0) + (if t.marker then 1 else 0)
  [BitVec.ofNat 64 (2 ^ 63 + m.kind.toNat * 2 ^ 61 + m.slot.toNat * 2 ^ 53 + m.port.toNat * 2 ^ 51
      + t.tag.toNat * 2 ^ 12 + m.seq.toNat),
   BitVec.ofNat 64 ((if m.kind = 1#2 then m.dest.toNat * 2 ^ 36 else 0)
      + (if owner then (tileX (elTile m.owner) % 8) * 2 ^ 13 + (tileY (elTile m.owner) % 8) * 2 ^ 10
          + elNum m.owner * 2 ^ 6 else 0) + t.fmt.toNat * 8 + fl),
   t.pay.setWidth 64, BitVec.ofNat 64 (t.pay.toNat / 2 ^ 64)]

/-- Bits for the entries of a table that a context owns. -/
def ownedBits {α : Type} (t : Tab α) (ctx : α → Nat) (c : Nat) : Nat :=
  t.foldl (fun acc e => if ctx e.2 = c then acc ||| 2 ^ e.1 else acc) 0

/-- Matching-store entries that a context holds (R149 USED). -/
def ElemCore.used (e : ElemCore) (c : Nat) : Nat := (e.store.filter fun m => decide (tagCtx m.2.tok.tag = c)).length

/-- A dword of context state (R149). -/
def ctxDword (e : ElemCore) (c k : Nat) : Word :=
  let x := e.ctxs.get CtxState.empty c
  match k with
  | 0 => BitVec.ofNat 64 (ownedBits e.slots SlotImg.ctx c * 2 ^ 32 + ownedBits e.ctrls CtrlImg.ctx c * 2 ^ 16
      + ownedBits e.holds HoldImg.ctx c * 2 ^ 12)
  | 1 => BitVec.ofNat 64 (ownedBits e.pslots SlotImg.ctx c * 2 ^ 32 + ownedBits e.pctrls CtrlImg.ctx c * 2 ^ 16
      + ownedBits e.pholds HoldImg.ctx c * 2 ^ 12)
  | 2 => BitVec.ofNat 64 (x.mrem * 2 ^ 40 + e.used c * 2 ^ 32 + x.quota * 2 ^ 24 + x.flags.toNat * 2 ^ 14
      + x.rm.toNat * 2 ^ 12 + (if x.marked then 8 else 0) + (if x.armed then 4 else 0) + (if x.loaded then 2 else 0)
      + (if x.valid then 1 else 0))
  | 3 => x.spilled.setWidth 64
  | 4 => x.snap.setWidth 64
  | _ => 0#64

/-- Whether an offset of a debug area exists (R33). -/
def debugOk (area off : Nat) : Bool :=
  match area with
  | 0 => decide (off < 0x800) | 1 => decide (off < 0x200) | 2 => decide (off < 0x200) | 3 => decide (off < 0x60)
  | 4 => decide (off < 0x200) | _ => false

/-- A weight block as a hold register shows it (R33). A block of twelve float values does not fit one payload: what the
debug space shows then is open (log entry 26). -/
def blockDwords (b : Option Block) : Word × Word :=
  match b with
  | none => (0#64, 0#64)
  | some b =>
    if b.l6 then holdDwords fmtL6 (b.vals.headD 0#80)
    else (Config.freeWord 0, BitVec.ofNat 64 ((Config.freeWord 1).toNat % 2 ^ 16))

/-- The dword at an 8-byte aligned offset of a debug area (R33). -/
def State.readDebug (s : State) (el area off : Nat) : Word :=
  let e := (s.el el).core
  match area with
  | 0 =>
    match e.store.find (off / 32) with
    | some m => (matchDwords m false).getD (off / 8 % 4) 0#64
    | none => 0#64
  | 1 =>
    match e.slots.find (off / 16) with
    | some i => if off / 8 % 2 = 0 then i.instr else i.route
    | none => 0#64
  | 2 =>
    match s.arrayAt el with
    | some (_, a, r, c) =>
      if r + 1 = a.r then
        match a.acc.find (c * 32 + off / 16) with
        | some x =>
          let n := (x.nacc % 2 ^ 48).toNat
          if off / 8 % 2 = 0 then BitVec.ofNat 64 (n + x.wacc.toNat % 2 ^ 16 * 2 ^ 48)
          else BitVec.ofNat 64 (x.wacc.toNat / 2 ^ 16)
        | none => if off / 8 % 2 = 0 then 0#64 else BitVec.ofNat 64 ((wZero false).toNat / 2 ^ 16)
      else 0#64
    | none => 0#64
  | 3 =>
    let two :=
      if off / 16 < 4 then
        match e.holds.find (off / 16) with
        | some h => holdDwords h.fmt h.pay
        | none => (0#64, 0#64)
      else
        match s.arrayAt el with
        | some (_, a, r, c) =>
          blockDwords (if off / 16 = 4 then a.active.find (r * 112 + c) else a.shadow.find (r * 112 + c))
        | none => (0#64, 0#64)
    if off / 8 % 2 = 0 then two.1 else two.2
  | 4 => ctxDword e (off / 64) (off / 8 % 8)
  | _ => 0#64

/-- Whether no token stands at an element. -/
def Element.drained (e : Element) : Bool :=
  e.core.store.isEmpty && e.core.ready.isEmpty && e.core.waits.isEmpty && e.core.heldOut.isEmpty && e.firing.isNone
    && (e.links.all fun l => l.2.isEmpty) && (e.road.all fun l => l.2.isEmpty) && e.ctl.all fun c => c.2.held.isEmpty

/-- Whether an element is stopped (R33): no context of it is armed, or its region drains and it holds no token. -/
def State.elStopped (s : State) (el : Nat) : Bool :=
  ((s.el el).core.ctxs.all fun c => !c.2.armed) ||
    ((s.el el).drained && (match s.leadOfTile (elTile el) with
      | some k => (s.lan k).draining && !(s.lan k).prePend
      | none => false))

/-- Whether an array has a run or a command under way. -/
def Array2.busy (a : Array2) : Bool := a.run.isSome || a.cmd.isSome

/-- Whether a write of the debug space is refused: the element is not stopped (R33), or the write is one of an accumulator or
a weight register while a matrix command runs (R344). -/
def State.debugRefused (s : State) (el area off : Nat) : Bool :=
  !s.elStopped el ||
    ((decide (area = 2) || decide (area = 3 ∧ 0x40 ≤ off)) && (match s.arrayAt el with
      | some (_, a, _, _) => a.busy
      | none => false))

/-- The matching-store entry that four dwords stand for. -/
def matchOf (w0 w1 w2 w3 : Word) : MatchEntry :=
  { kind := w0.extractLsb' 61 2, slot := w0.extractLsb' 53 5, port := w0.extractLsb' 51 2,
    tok := { tag := w0.extractLsb' 12 36, fmt := w1.extractLsb' 3 3,
             pay := BitVec.ofNat 80 (w2.toNat + w3.toNat % 2 ^ 16 * 2 ^ 64),
             last := w1.getLsbD 2, poison := w1.getLsbD 1, marker := w1.getLsbD 0 },
    seq := w0.extractLsb' 0 12, dest := w1.extractLsb' 36 28, cond := decide (w0.extractLsb' 61 2 = 3#2), owner := 0 }

/-- The owner of slot, hold or control entry `n` after a write of an ownership word: the context if its bit is set,
no change of another context's entry. -/
def claim {α : Type} (t : Tab α) (mk : α) (setCtx : α → Nat → α) (ctxOf : α → Nat) (c base : Nat) (v : Nat) (n : Nat) :
    Tab α :=
  if v / 2 ^ (base + n) % 2 = 1 then t.put n (setCtx ((t.find n).getD mk) c)
  else match t.find n with
    | some x => if ctxOf x = c then t.del n else t
    | none => t

/-- Writes a dword of the debug space of a stopped element (R33, R344). Reserved and derived fields keep their
values. -/
def State.writeDebug (s : State) (el area off : Nat) (v : Word) : State :=
  let k := off / 8 % 2
  match area with
  | 0 =>
    let n := off / 32
    let old := match (s.el el).core.store.find n with
      | some m => matchDwords m false
      | none => [0#64, 0#64, 0#64, 0#64]
    let ws := old.set (off / 8 % 4) v
    let w0 := ws.getD 0 0#64
    s.modCore el fun e =>
      if w0.getLsbD 63 then
        { e with store := e.store.put n { matchOf w0 (ws.getD 1 0#64) (ws.getD 2 0#64) (ws.getD 3 0#64) with owner := el } }
      else { e with store := e.store.del n }
  | 1 =>
    s.modCore el fun e =>
      let n := off / 16
      let i := (e.slots.find n).getD { ctx := 0, instr := 0#64, route := 0#64 }
      { e with slots := e.slots.put n (if k = 0 then { i with instr := v } else { i with route := v }) }
  | 2 =>
    match s.arrayAt el with
    | some (lead, a, r, c) =>
      if r + 1 = a.r then
        let key := c * 32 + off / 16
        let x := (a.acc.find key).getD { wacc := wZero false, nacc := 0, v := false, eref := 0 }
        let x :=
          if k = 0 then
            let n : Nat := v.toNat % 2 ^ 48
            { x with nacc := (if n < 2 ^ 47 then (n : Int) else (n : Int) - 2 ^ 48),
                     wacc := BitVec.ofNat 80 (x.wacc.toNat / 2 ^ 16 * 2 ^ 16 + v.toNat / 2 ^ 48) }
          else { x with wacc := BitVec.ofNat 80 (v.toNat * 2 ^ 16 + x.wacc.toNat % 2 ^ 16) }
        s.modLan lead fun l => { l with mx := some { a with acc := a.acc.put key x } }
      else s
    | none => s
  | 3 =>
    let n := off / 16
    if n < 4 then
      s.modCore el fun e =>
        let h := (e.holds.find n).getD { ctx := 0, fmt := 0#3, pay := 0#80 }
        let h :=
          if k = 0 then { h with pay := BitVec.ofNat 80 (h.pay.toNat / 2 ^ 64 * 2 ^ 64 + v.toNat) }
          else { h with pay := BitVec.ofNat 80 (v.toNat % 2 ^ 16 * 2 ^ 64 + h.pay.toNat % 2 ^ 64),
                        fmt := v.extractLsb' 16 3 }
        { e with holds := e.holds.put n h }
    else
      match s.arrayAt el with
      | some (lead, a, r, c) =>
        let key := r * 112 + c
        let t := if n = 4 then a.active else a.shadow
        let old := blockDwords (t.find key)
        let p := if k = 0 then (old.2.setWidth 16 : BitVec 16) ++ v else (v.setWidth 16 : BitVec 16) ++ old.1
        let t := t.put key { l6 := true, vals := [p] }
        let a := if n = 4 then { a with active := t } else { a with shadow := t }
        s.modLan lead fun l => { l with mx := some a }
      | none => s
  | 4 =>
    let c := off / 64
    s.modCore el fun e =>
      let x := e.ctxs.get CtxState.empty c
      match off / 8 % 8 with
      | 0 =>
        let claimSlots (t : Tab SlotImg) (n : Nat) : Tab SlotImg :=
          claim t ⟨c, 0#64, 0#64⟩ (fun i c => { i with ctx := c }) SlotImg.ctx c 32 v.toNat n
        let claimCtrls (t : Tab CtrlImg) (n : Nat) : Tab CtrlImg :=
          claim t ⟨c, 0#31⟩ (fun i c => { i with ctx := c }) CtrlImg.ctx c 16 v.toNat (n + 1)
        let claimHolds (t : Tab HoldImg) (n : Nat) : Tab HoldImg :=
          claim t ⟨c, 0#3, 0#80⟩ (fun i c => { i with ctx := c }) HoldImg.ctx c 12 v.toNat n
        { e with slots := (List.range 32).foldl claimSlots e.slots, ctrls := (List.range 15).foldl claimCtrls e.ctrls,
                 holds := (List.range 4).foldl claimHolds e.holds }
      | 2 =>
        let y := { x with mrem := (v.extractLsb' 40 8).toNat, quota := (v.extractLsb' 24 8).toNat,
                          flags := v.extractLsb' 14 5, rm := v.extractLsb' 12 2, marked := v.getLsbD 3,
                          armed := v.getLsbD 2, loaded := v.getLsbD 1, valid := v.getLsbD 0 }
        { e with ctxs := e.ctxs.put c y }
      | 3 => { e with ctxs := e.ctxs.put c { x with spilled := v.extractLsb' 0 32 } }
      | 4 => { e with ctxs := e.ctxs.put c { x with snap := v.extractLsb' 0 32 } }
      | _ => e
  | _ => s

end Sys2Proof.Machine
end

