-- ==== Sys2Proof/Machine/Phys.lean ====
section
/-! DEFINITION. The 52-bit physical map (R28 to R34): what an address names, which view reaches it, and reading and
writing it at its home. A write to another engine's window is posted: it becomes that engine's own event. -/

namespace Sys2Proof.Machine

/-- What a physical address names. -/
inductive PaKind where
  | hbm
  | tileData (tile off : Nat)
  | tileParity (tile off : Nat)
  | lanReg (lan r : Nat)
  | lanMem (lan off : Nat)
  | lanState (lan num : Nat)
  | sync (die addr : Nat)
  | debug (el area off : Nat)
  | host (hba : Nat)
  | hub (off : Nat)
  deriving DecidableEq, Repr

/-- Where the word at a synchronisation address stands (R32): the engine's SRAM, or the overflow area in HBM. -/
def State.syncPa (s : State) (die addr : Nat) : Option Nat :=
  if addr < 0x400000 then some (6 * 2 ^ 48 + die * 2 ^ 44 + addr)
  else
    let b := s.beacon die
    if addr < 0x400000 + 4096 * b.syncpg then some (b.syncbase + (addr - 0x400000)) else none

/-- What an access of `n` bytes at a physical address names; `none` where R34 refuses it. A state register is reached
only by an aligned access of 8 bytes (R30; DESIGN CHOICE, log entry 56). -/
def State.classify (s : State) (pa n : Nat) : Option PaKind :=
  let space := pa / 2 ^ 48
  let die := pa / 2 ^ 44 % 16
  if 2 ^ 52 ≤ pa then none
  else if space = 0 then (if pa < 2 ^ 40 then some .hbm else none)
  else if space = 4 then
    let x := pa / 2 ^ 38 % 64
    let y := pa / 2 ^ 31 % 128
    let off := pa % 2 ^ 31
    if decide (8 ≤ die) || !isMemTile x y then none
    else if off + n ≤ 0x60000 then some (.tileData (tileOf die x y) off)
    else if 0x60000 ≤ off ∧ off + n ≤ 0x78000 then some (.tileParity (tileOf die x y) off)
    else none
  else if space = 5 then
    let cl := pa / 2 ^ 37 % 128
    let area := pa / 2 ^ 17 % 8
    let off := pa % 2 ^ 17
    if 8 ≤ die ∨ 98 ≤ cl ∨ pa / 2 ^ 20 % 2 ^ 17 ≠ 0 then none
    else if area = 0 then (if off + n ≤ 0x100 ∧ off % 8 = 0 ∧ n ≤ 8 then some (.lanReg (lanOf die cl) (off / 8)) else none)
    else if area = 1 then (if off + n ≤ 0x10000 then some (.lanMem (lanOf die cl) off) else none)
    else if area = 2 then (if off + n ≤ 0x90 ∧ off % 8 = 0 ∧ n ≤ 8 then some (.lanState (lanOf die cl) (off / 8)) else none)
    else none
  else if space = 6 then
    let addr := pa % 2 ^ 32
    if 8 ≤ die ∨ pa / 2 ^ 32 % 2 ^ 12 ≠ 0 then none
    else if (s.syncPa die (addr + n - 1)).isSome then some (.sync die addr) else none
  else if space = 7 then
    let x := pa / 2 ^ 38 % 64
    let y := pa / 2 ^ 31 % 128
    let area := pa / 2 ^ 24 % 8
    let off := pa % 2 ^ 24
    if decide (8 ≤ die) || !isCompTile x y then none
    else if debugOk area (off + n - 1) then some (.debug (elOf (tileOf die x y) (pa / 2 ^ 27 % 16)) area off) else none
  else if space = 8 then some (.host (pa % 2 ^ 48))
  else if space = 12 then (if pa % 2 ^ 48 < 2 ^ 24 then some (.hub (pa % 2 ^ 24)) else none)
  else none

/-- Whether an access from a die to its home is held at a UCIe edge (R428). -/
def State.homeCut (s : State) (die pa : Nat) : PaKind → Bool
  | .hbm => s.diesCut die (pa / 2 ^ 37 % 8)
  | .host _ => s.hubCut die
  | .hub _ => s.hubCut die
  | .tileData t _ => s.diesCut die (tileDie t)
  | .tileParity t _ => s.diesCut die (tileDie t)
  | .lanReg k _ => s.diesCut die (lanDie k)
  | .lanMem k _ => s.diesCut die (lanDie k)
  | .lanState k _ => s.diesCut die (lanDie k)
  | .sync d _ => s.diesCut die d
  | .debug el _ _ => s.diesCut die (tileDie (elTile el))

/-- Whether the user view reaches a place (R28, R30, R45). -/
def userReaches : PaKind → Bool
  | .tileParity _ _ => false
  | .lanState _ _ => false
  | .debug _ _ _ => false
  | .hub _ => false
  | _ => true

/-- Whether a user-mode access is refused for the fault ring's sake (R124). -/
def State.hitsRing (s : State) (n : Nat) : PaKind → Bool
  | .lanMem k off => (List.range n).any fun i => (s.lan k).inRing (off + i)
  | _ => false

/-! ### The host-owned stage (R423, R424) -/

/-- The eight bytes at an address, as a number. -/
def State.dword (s : State) (pa : Nat) : Nat := leNat (s.mem.bytes pa 8)

/-- Whether an entry is a valid entry at a level (R257): V, the zero bits, LEAF not at level 0, the base aligned. -/
def entryOk (e level : Nat) : Bool :=
  let leaf := decide (level = 3) || decide (e / 128 % 2 = 1)
  decide (e % 2 = 1) && decide (e / 2 % 2 = 0) && decide (e / 256 % 2 = 0) && decide (e / 2 ^ 11 % 2 = 0)
    && decide (e / 2 ^ 52 = 0)
    && !(decide (level = 0) && decide (e / 128 % 2 = 1))
    && (!leaf || (match level with
        | 1 => decide (e / 2 ^ 12 % 2 ^ 18 = 0)
        | 2 => decide (e / 2 ^ 12 % 2 ^ 9 = 0)
        | _ => true))

/-- A table walk from level `4 - fuel`: the leaf entry and its level (R257). `rd` reads an entry. -/
def walkFrom (rd : Nat → Nat) (va : Nat) : Nat → Nat → Option (Nat × Nat)
  | 0, _ => none
  | fuel + 1, table =>
    let level := 3 - fuel
    let e := rd (table + 8 * (va / 2 ^ (39 - 9 * level) % 512))
    if !entryOk e level then none
    else if level = 3 ∨ e / 128 % 2 = 1 then some (e, level)
    else walkFrom rd va fuel (e / 2 ^ 12 % 2 ^ 40 * 2 ^ 12)

/-- Bytes of a page at a level. -/
def pageSize (level : Nat) : Nat := 2 ^ (39 - 9 * level)

/-- The host physical address that the host-owned stage gives a host bus address (R424); `none` where it refuses. -/
def State.hostStage (s : State) (hba : Nat) (wr : Bool) : Option Nat :=
  if s.hub.hstroot.getLsbD 63 then
    let root := (s.hub.hstroot.extractLsb' 12 40).toNat * 4096
    match walkFrom (fun a => s.dword (8 * 2 ^ 48 + a % 2 ^ 48)) hba 4 root with
    | none => none
    | some (e, level) =>
      let extra := decide (e / 16 % 2 = 1 ∨ e / 32 % 2 = 1 ∨ e / 64 % 2 = 1 ∨ e / 512 % 2 = 1 ∨ e / 1024 % 2 = 1)
      let perm := if wr then decide (e / 8 % 2 = 1) else decide (e / 4 % 2 = 1)
      if extra || !perm then none
      else some (e / 2 ^ 12 % 2 ^ 40 * 2 ^ 12 + hba % pageSize level)
  else some hba

/-- The address at which memory keeps a byte of host memory. -/
def hostPa (hpa : Nat) : Nat := 8 * 2 ^ 48 + hpa % 2 ^ 48

/-! ### Hub registers (R414) -/

/-- An interface entry's dword (R415). -/
def Iface.dword (f : Iface) (k : Nat) : Word :=
  match k with
  | 0 => f.d0
  | 1 => f.d1
  | 2 => f.d2
  | 3 => f.d3
  | 4 => BitVec.ofNat 64 ((if f.pend then 2 ^ 49 else 0) + f.tail.toNat * 2 ^ 16 + f.head.toNat)
  | _ => 0#64

/-- A row's state and registers of the hub, by offset (R337, R368, R384, R414, R422, R427, R471). -/
def State.hubRead (s : State) (off : Nat) : Word :=
  let h := s.hub
  if off = 0x10 then h.hstroot
  else if off = 0x20 then h.irqdrop
  else if off = 0x100 then
    BitVec.ofNat 64 ((List.range 2).foldl (fun acc k =>
      let l := h.links.get Link.reset k
      acc + (if l.pend then 2 ^ (16 + k) else 0) + (if l.hostrt then 2 ^ k else 0)) 0)
  else if 0x10000 ≤ off ∧ off < 0x12000 then
    let w := h.wins.get (0#64, 0#64, 0#64) ((off - 0x10000) / 32)
    match off / 8 % 4 with
    | 0 => w.1
    | 1 => w.2.1
    | 2 => w.2.2
    | _ => 0#64
  else if 0x20000 ≤ off ∧ off < 0x28000 then
    let a := s.arb (off / 0x1000 % 16)
    let o := off % 0x1000
    if o = 0 then BitVec.ofNat 64 ((if a.smode then 2 ^ 20 else 0) + a.pmax * 2 ^ 17 + a.cap)
    else if o = 8 then BitVec.ofNat 64 a.slotptr
    else if 0x100 ≤ o ∧ o < 0x300 then
      a.slots.get 0#64 ((o - 0x100) / 8)
    else 0#64
  else if 0x30000 ≤ off ∧ off < 0x38000 then
    let b := s.beacon (off / 0x1000 % 16)
    match off % 0x1000 with
    | 0x000 => BitVec.ofNat 64 b.quantum
    | 0x008 => BitVec.ofNat 64 b.savebase
    | 0x010 => BitVec.ofNat 64 b.savepg
    | 0x018 => b.place
    | 0x020 => BitVec.ofNat 64 b.syncbase
    | 0x028 => BitVec.ofNat 64 b.syncpg
    | 0x100 => b.dayCtl
    | 0x108 => b.dayBase
    | 0x110 => b.dayPages
    | 0x118 => b.dayHead
    | 0x120 => b.cmask0
    | 0x128 => b.cmask1
    | _ => 0#64
  else if 0x100000 ≤ off ∧ off < 0x140000 then
    (h.ifaces.get Iface.reset ((off - 0x100000) / 64)).dword (off / 8 % 8)
  else if 0x180000 ≤ off ∧ off < 0x190000 then
    let e := h.irtes.get (0#64, 0#64) ((off - 0x180000) / 16)
    if off / 8 % 2 = 0 then e.1 else e.2
  else 0#64

/-! ### Reading and writing at the home -/

/-- `n` bytes of a dword from byte `lo`. -/
def dwordBytes (v : Word) (lo n : Nat) : List Byte := ((leBytes 8 v.toNat).drop lo).take n

/-- The dwords that `n` bytes at offset `off` touch: offset, first byte in the dword, bytes. -/
def dwordSpans (off n : Nat) : List (Nat × Nat × Nat) :=
  (List.range ((off + n + 7) / 8 - off / 8)).map fun i =>
    let d := (off / 8 + i) * 8
    let lo := max off d
    (d, lo - d, min (off + n) (d + 8) - lo)

/-- Bytes of registers of eight bytes, each as `rd` reads it. -/
def dwordsRead (rd : Nat → Word) (off n : Nat) : List Byte :=
  (dwordSpans off n).flatMap fun sp => dwordBytes (rd sp.1) sp.2.1 sp.2.2

/-- Whether a range of HBM holds an uncorrectable word. -/
def State.hbmPoison (s : State) (pa n : Nat) : Bool :=
  s.hbmBad.any fun a => decide (a / 4 * 4 < pa + n ∧ pa < a / 4 * 4 + 4)

/-- Reads `n` bytes at their home. -/
def State.readHome (s : State) (pa n lay : Nat) : PaKind → ByteRead
  | .hbm => ⟨s.mem.bytes pa n, s.hbmPoison pa n, [], s⟩
  | .tileData t off => s.readTile t lay off n
  | .tileParity t off => s.readParities t off n
  | .lanReg k r => ⟨dwordBytes ((s.lan k).reg (BitVec.ofNat 5 r)) (pa % 8) n, false, [], s⟩
  | .lanMem _ _ => ⟨s.mem.bytes pa n, false, [], s⟩
  | .lanState k num => ⟨dwordBytes ((s.srValue k num).getD 0#64) (pa % 8) n, false, [], s⟩
  | .sync d addr =>
    let a := (s.syncPa d addr).getD pa
    ⟨s.mem.bytes a n, decide (0x400000 ≤ addr) && s.hbmPoison a n, [], s⟩
  | .debug el area off => ⟨dwordsRead (s.readDebug el area) off n, false, [], s⟩
  | .host hba =>
    match s.hostStage hba false with
    | some a => ⟨s.mem.bytes (hostPa a) n, false, [], s⟩
    | none => ⟨List.replicate n 0#8, false, [], s⟩
  | .hub off => ⟨dwordsRead s.hubRead off n, false, [], s⟩

/-- The bytes of a dword with some replaced. -/
def mergeDword (old : Word) (lo : Nat) (bs : List Byte) : Word :=
  BitVec.ofNat 64 (leNat ((leBytes 8 old.toNat).take lo ++ bs ++ (leBytes 8 old.toNat).drop (lo + bs.length)))

/-- Posts a write of registers of eight bytes: `old` reads one, and `mk` is the write of one. -/
def State.postDwords (s : State) (old : Nat → Word) (mk : Nat → Word → Post) (off : Nat) (bs : List Byte) : State :=
  (dwordSpans off bs.length).foldl (fun s sp =>
    s.post (mk sp.1 (mergeDword (old sp.1) sp.2.1 ((bs.drop (sp.1 + sp.2.1 - off)).take sp.2.2)))) s

/-- Writes bytes at their home: the state and the records owed. Another engine's window takes the write as that
engine's own event (R31, R33, R414). -/
def State.writeHome (s : State) (pa lay : Nat) (bs : List Byte) : PaKind → State × List Owed
  | .hbm =>
    ({ s with mem := s.mem.store pa bs, hbmBad := s.hbmBad.filter fun a => !decide (pa ≤ a / 4 * 4 ∧ a / 4 * 4 + 4 ≤ pa + bs.length) }, [])
  | .tileData t off => s.writeTile t lay off bs
  | .tileParity _ _ => (s, [])
  | .lanReg k r =>
    (s.post (.gpr k (BitVec.ofNat 5 r) (mergeDword ((s.lan k).reg (BitVec.ofNat 5 r)) (pa % 8) bs)), [])
  | .lanMem _ _ => ({ s with mem := s.mem.store pa bs }, [])
  | .lanState k num => (s.post (.sreg k num (mergeDword ((s.srValue k num).getD 0#64) (pa % 8) bs)), [])
  | .sync d addr => ({ s with mem := s.mem.store ((s.syncPa d addr).getD pa) bs }, [])
  | .debug el area off =>
    (s.postDwords (s.readDebug el area) (.debug el area) off bs, [])
  | .host hba =>
    match s.hostStage hba true with
    | some a => ({ s with mem := s.mem.store (hostPa a) bs }, [])
    | none => (s, [])
  | .hub off => (s.postDwords s.hubRead (.hub .supervisor) off bs, [])

/-- Whether a write to a place is refused under R34, R31 or R33 whatever the view. -/
def State.writeRefused (s : State) : PaKind → Bool
  | .tileParity _ _ => true
  | .lanState _ num => !srWritable num
  | .debug el area off => s.debugRefused el area off
  | .host hba => (s.hostStage hba true).isNone
  | _ => false

/-- Raises the records that an access at its home owes (R226, R228): the tile's for a tile, else those of the unit on die `die`
that makes the access. -/
def State.raiseHome (s : State) (lead : Option Nat) (die : Nat) (mk : Byte → Word → Nat → Record) (kind : PaKind) (ow : List Owed) :
    State :=
  match kind with
  | .tileData t _ => s.raiseOwed lead (tileDie t) (tileRecord t) ow
  | .tileParity t _ => s.raiseOwed lead (tileDie t) (tileRecord t) ow
  | _ => s.raiseOwed lead die mk ow

/-- Whether a read of a place is refused under R34 whatever the view. -/
def State.readRefused (s : State) : PaKind → Bool
  | .host hba => (s.hostStage hba false).isNone
  | _ => false

end Sys2Proof.Machine
end

