-- ==== Sys2Proof/Machine/Xlate.lean ====
section
/-! DEFINITION. Address translation: the radix table of a PASID (R257, R449), the extents of a segment (R256), the edge
TLB (R258), and removal of translations (R435). -/

namespace Sys2Proof.Machine

/-- A translation: the physical address of the byte asked for, its page and the page's permissions. -/
structure Leaf where
  pa    : Nat
  vbase : Nat
  size  : Nat
  pbase : Nat
  r     : Bool
  w     : Bool
  x     : Bool
  c     : Bool
  tso   : Bool
  deriving DecidableEq, Repr

/-- The number under which a die's PASID table lists the root of a PASID. -/
def rootKey (die pasid : Nat) : Nat := die * 2 ^ 20 + pasid

/-- The address of the level-3 table of a virtual address, where the walk reaches one. -/
def tableAt (rd : Nat → Nat) (va : Nat) : Nat → Nat → Option Nat
  | 0, table => some table
  | fuel + 1, table =>
    let level := 2 - fuel
    let e := rd (table + 8 * (va / 2 ^ (39 - 9 * level) % 512))
    if !entryOk e level || decide (e / 128 % 2 = 1) then none
    else tableAt rd va fuel (e / 2 ^ 12 % 2 ^ 40 * 2 ^ 12)

/-- The translation that a leaf entry gives on a die (R257, R449); `none` for a D entry that is not valid. -/
def leafOf (die e level va : Nat) : Option Leaf :=
  let size := pageSize level
  let base := e / 2 ^ 12 % 2 ^ 40 * 2 ^ 12
  let d := decide (e / 512 % 2 = 1)
  if d && (decide (2 ^ 40 ≤ base) || decide (e / 8 % 2 = 1)) then none
  else
    let base := if d then base / 2 ^ 40 * 2 ^ 40 + die * 2 ^ 37 + base % 2 ^ 37 else base
    some { pa := base + va % size, vbase := va / size * size, size := size, pbase := base,
           r := decide (e / 4 % 2 = 1), w := decide (e / 8 % 2 = 1), x := decide (e / 16 % 2 = 1),
           c := decide (e / 64 % 2 = 1), tso := decide (e / 32 % 2 = 1) }

/-- Whether a level-3 entry has CONT. -/
def hasCont (e : Nat) : Bool := decide (e / 1024 % 2 = 1)

/-- Whether sixteen entries agree (R257). -/
def contAgree (es : List Nat) : Bool :=
  let e0 := es.headD 0
  (List.range 16).all fun i =>
    let e := es.getD i 0
    entryOk e 3 && hasCont e && decide (e / 2 ^ 12 % 2 ^ 40 = e0 / 2 ^ 12 % 2 ^ 40 + i)
      && decide (e % 2 ^ 12 = e0 % 2 ^ 12)

/-- Translates a virtual address through the table of a PASID (R257). A CONT group whose entries differ is translated
as `Config.contChoice` picks. -/
def State.walk (s : State) (die pasid va : Nat) : Option Leaf × State :=
  match s.roots.find (rootKey die pasid) with
  | none => (none, s)
  | some root =>
    let own := match walkFrom s.dword va 4 root with
      | none => none
      | some (e, level) => leafOf die e level va
    match tableAt s.dword va 3 root with
    | none => (own, s)
    | some table =>
      let i := va / 4096 % 16
      let first := table + 8 * (va / 4096 % 512 / 16 * 16)
      let es := (List.range 16).map fun k => s.dword (first + 8 * k)
      if !(es.any fun e => decide (e % 2 = 1) && hasCont e) || contAgree es then (own, s)
      else
        let k := Config.contChoice s.free
        let e := es.getD k 0
        if k < 16 ∧ entryOk e 3 = true ∧ hasCont e = true then
          let base := e / 2 ^ 12 % 2 ^ 40
          let e' := e - base * 2 ^ 12 + (base + i - k) % 2 ^ 40 * 2 ^ 12
          (leafOf die e' 3 va, s.spend)
        else (own, s.spend)

/-- The tables that a walk reads from `table` on. -/
def walkTables (rd : Nat → Nat) (va : Nat) : Nat → Nat → List Nat
  | 0, _ => []
  | fuel + 1, table =>
    let level := 3 - fuel
    let e := rd (table + 8 * (va / 2 ^ (39 - 9 * level) % 512))
    table :: (if entryOk e level && decide (level < 3 ∧ e / 128 % 2 = 0) then walkTables rd va fuel (e / 2 ^ 12 % 2 ^ 40 * 2 ^ 12)
      else [])

/-- Whether a walk of a die reads a table that lies behind a UCIe edge that holds its traffic (R43, R428). -/
def State.walkCut (s : State) (die pasid va : Nat) : Bool :=
  !s.edges.isEmpty &&
    (match s.roots.find (rootKey die pasid) with
     | none => false
     | some root => (walkTables s.dword va 4 root).any fun a => s.diesCut die (a / 2 ^ 37 % 8))

/-- The model's own reason of an access whose walk, or whose own traffic, an edge holds: it waits, and nothing is recorded
(R43). -/
def xlCut : Nat := 6

/-- The translation that an extent list gives: the first extent that contains the address (R256). -/
def extentOf (exts : Tab Extent) (va : Nat) : Option (Nat × Leaf) :=
  match exts.find? fun e => decide (e.2.vbase ≤ va / 4096 ∧ va / 4096 ≤ e.2.vbase + e.2.len) with
  | none => none
  | some (k, e) =>
    some (k, { pa := (e.pbase + (va / 4096 - e.vbase)) * 4096 + va % 4096, vbase := va / 4096 * 4096, size := 4096,
               pbase := (e.pbase + (va / 4096 - e.vbase)) * 4096, r := e.r, w := e.w, x := false, c := e.c,
               tso := e.tso })

/-- The number of an edge-TLB set. -/
def tlbSet (die va : Nat) : Nat := die * 1024 + va / 4096 % 1024

/-- Looks a translation up in an edge-TLB set. -/
def tlbHit (es : List TlbEnt) (pasid va : Nat) : Option TlbEnt :=
  es.find? fun e => decide (e.pasid = pasid ∧ e.vbase ≤ va ∧ va < e.vbase + e.size)

/-- Translates through a die's edge TLB, filling it by a walk (R258). The most recently used entry stands first. -/
def State.viaTlb (s : State) (die pasid va : Nat) : Option Leaf × State :=
  let k := tlbSet die va
  let es := s.tlbs.get [] k
  match tlbHit es pasid va with
  | some e =>
    let s := { s with tlbs := s.tlbs.put k (e :: es.filter fun x => decide (x ≠ e)) }
    (some { pa := e.pbase + (va - e.vbase), vbase := e.vbase, size := e.size, pbase := e.pbase, r := e.r, w := e.w,
            x := e.x, c := e.c, tso := e.tso }, s)
  | none =>
    let (l, s) := s.walk die pasid va
    match l with
    | none => (none, s)
    | some l =>
      let e : TlbEnt := { pasid := pasid, vbase := l.vbase, size := l.size, pbase := l.pbase, r := l.r, w := l.w,
                          x := l.x, c := l.c, tso := l.tso }
      (some l, { s with tlbs := s.tlbs.put k ((e :: es).take 8) })

/-- Whether the edge TLB holds a translation. -/
def State.tlbHolds (s : State) (die pasid va : Nat) : Bool := (tlbHit (s.tlbs.get [] (tlbSet die va)) pasid va).isSome

/-- The extents that the Beacon keeps for a lead Lantern's segment. -/
def State.extentsOf (s : State) (lead : Nat) : Tab Extent :=
  match s.resident lead with
  | some (_, g) => g.exts
  | none => []

/-- Translates for an element's LD, ST, LDV or STV, or for a copy: the segment's extents, then the table (R207,
R324). -/
def State.viaExtents (s : State) (lead die va : Nat) : Option Leaf × State :=
  match extentOf (s.extentsOf lead) va with
  | some (_, l) => (some l, s)
  | none => s.walk die (s.pasidOf lead) va

/-! ### Removing translations (R435) -/

/-- Which translations a TLBI removes. -/
inductive TlbiKind where
  | page (va pasid : Nat)
  | pasid (p : Nat)
  | all
  deriving DecidableEq, Repr

/-- Whether a removal covers bytes `vbase` to `vbase + size - 1` of a PASID. -/
def TlbiKind.hits (k : TlbiKind) (pasid vbase size : Nat) : Bool :=
  match k with
  | .page va p => decide (p = pasid ∧ vbase ≤ va ∧ va < vbase + size)
  | .pasid p => decide (p = pasid)
  | .all => true

/-- Removes extents that cover a removed page. -/
def dropExtents (k : TlbiKind) (pasid : Nat) (exts : Tab Extent) : Tab Extent :=
  exts.filter fun e => !k.hits pasid (e.2.vbase * 4096) ((e.2.len + 1) * 4096)

/-- Removes translations from the edge TLBs, the stream translation entries, and the extents of the ports and of the
Beacon (R435). -/
def State.tlbi (s : State) (k : TlbiKind) : State :=
  let dropTr (t : Option TrEnt) : Option TrEnt :=
    match t with
    | some e => if k.hits e.pasid (e.vpn * 4096) 4096 then none else t
    | none => none
  { s with
    tlbs := s.tlbs.map fun e => (e.1, e.2.filter fun t => !k.hits t.pasid t.vbase t.size),
    ports := s.ports.map fun e =>
      let pasid := match e.2.prog with
        | some p => s.pasidOf p.lan
        | none => 0
      (e.1, { e.2 with ext := dropExtents k pasid e.2.ext,
                       hs := e.2.hs.map fun h => (h.1, { h.2 with tr := dropTr h.2.tr }) }),
    beacons := s.beacons.map fun b =>
      (b.1, { b.2 with segs := b.2.segs.map fun g => (g.1, { g.2 with exts := dropExtents k g.2.pasid g.2.exts }) }) }

end Sys2Proof.Machine
end

