-- ==== Sys2Proof/Machine/Stage.lean ====
section
/-! DEFINITION. The version buffer (R249 to R251, R279 to R284) and the staging of a speculative or contained segment's
writes (R252 to R254, R394). -/

namespace Sys2Proof.Machine

/-! ### Entries -/

/-- Entries of 8 bytes that a buffer entry takes (R249). -/
def VEnt.weight : VEnt → Nat
  | .version _ _ none _ => 1
  | .version _ _ (some _) _ => 2
  | .staged _ _ _ _ => 1
  | .far _ _ _ _ => 2

/-- The entries of a tile's buffer. -/
def Tile.ents (x : Tile) : List VEnt := x.ver.map (·.2)

/-- Whether `n` consecutive entries from `i` on are free. -/
def Tile.fits (x : Tile) (n i : Nat) : Bool :=
  decide (i + n ≤ 1024) && x.ver.all fun e => decide (e.1 + e.2.weight ≤ i ∨ i + n ≤ e.1)

/-- Where `n` consecutive entries are free (R249): the lowest place (DESIGN CHOICE, log entry 70). -/
def Tile.place (x : Tile) (n : Nat) : Option Nat :=
  ((0 :: x.ver.map fun e => e.1 + e.2.weight).filter (x.fits n)).min?

/-- Puts an entry into the buffer; `none` where it finds no place. -/
def Tile.addEnt (x : Tile) (v : VEnt) : Option Tile := (x.place v.weight).map fun i => { x with ver := x.ver.put i v }

/-- Keeps some of the buffer's entries. -/
def Tile.keepEnts (x : Tile) (f : VEnt → Bool) : Tile := { x with ver := x.ver.filter fun e => f e.2 }

/-- The open window that covers word `w` of a tile (R250). -/
def Tile.winOf (x : Tile) (w : Nat) : Option (Nat × Win) :=
  x.wins.find? fun e => decide (e.2.first ≤ w ∧ w < e.2.first + e.2.nw)

/-- Whether an entry is a version of a word of an open window. -/
def Tile.inWindow (x : Tile) : VEnt → Bool
  | .version w _ _ _ => (x.winOf w).isSome
  | _ => false

/-- Entries reserved by the open windows (R250). -/
def Tile.reserved (x : Tile) : Nat := x.wins.foldl (fun acc e => acc + e.2.ent) 0

/-- Entries free for staged writes: those that no window reserves and nothing holds (R250). -/
def Tile.freeEnts (x : Tile) : Nat :=
  1024 - x.reserved - (x.ents.filter fun e => !x.inWindow e).foldl (fun acc e => acc + e.weight) 0

/-- Entries of a window's own that are in use. -/
def Tile.winUsed (x : Tile) (win : Win) : Nat :=
  x.ents.foldl (fun acc e => match e with
    | .version w _ _ _ => if win.first ≤ w ∧ w < win.first + win.nw then acc + e.weight else acc
    | _ => acc) 0

/-- The staging set of an entry, if it is staged. -/
def VEnt.setOf : VEnt → Option Nat
  | .version _ _ st _ => st
  | .staged k _ _ _ => some k
  | .far k _ _ _ => some k

/-- Version `v` of a word that set `st` staged, or with `none` a committed one. -/
def Tile.versionOf (x : Tile) (w v : Nat) (st : Option Nat) : Option (BitVec 32) :=
  x.ents.findSome? fun e => match e with
    | .version w' v' st' d => if w' = w ∧ v' = v ∧ st' = st then some d else none
    | _ => none

/-- Version `v` of a word for a segment (R211): its own staged one, else the committed one. -/
def Tile.version? (x : Tile) (w v : Nat) (set : Option Nat) : Option (BitVec 32) :=
  (x.versionOf w v set).or (x.versionOf w v none)

/-! ### Folding (R251, R280, R281) -/

/-- The newest committed version of word `w` older than `v`: its number and data. -/
def Tile.newestOld (x : Tile) (w v : Nat) : Option (Nat × BitVec 32) :=
  x.ents.foldl (fun acc e => match e with
    | .version w' v' none d =>
      if w' = w ∧ v' < v then
        (match acc with
         | some (n, _) => if n < v' then some (v', d) else acc
         | none => some (v', d))
      else acc
    | _ => acc) none

/-- The words of a window that have committed versions older than `v`, without repeats. -/
def Tile.oldWords (x : Tile) (win : Win) (v : Nat) : List Nat :=
  (x.ents.filterMap fun e => match e with
    | .version w v' none _ => if win.first ≤ w ∧ w < win.first + win.nw ∧ v' < v then some w else none
    | _ => none).eraseDups

/-- VRECL (R251): the newest old version of each word is to be written home, every old one is freed, and the reclaim
point moves. -/
def State.vrecl (s : State) (t k : Nat) (win : Win) (v : Nat) : State :=
  if v ≤ win.p then s
  else
    s.modTile t fun x =>
      let folds := (x.oldWords win v).filterMap fun w => (x.newestOld w v).map fun n =>
        ({ pa := dataPa t (locOf (x.segMode w).1 w), mask := 0xF#4, data := n.2, set := none } : WBack)
      let y := x.keepEnts fun e => match e with
        | .version w v' none _ => !(decide (win.first ≤ w ∧ w < win.first + win.nw ∧ v' < v))
        | _ => true
      { y with wb := x.wb ++ folds, wins := x.wins.put k { win with p := v } }

/-- The home word of a tile's word `w`: its physical place in the mode of its segment (R240). -/
def Tile.homeWord (x : Tile) (w : Nat) : Nat := linWord (locOf (x.segMode w).1 w)

/-- Whether a buffer holds a version of a word that a set staged after version `v`. -/
def Tile.newer (x : Tile) (w v set : Nat) : Bool :=
  x.ents.any fun e => match e with
    | .version w' v' (some k) _ => decide (w' = w ∧ k = set ∧ v < v')
    | _ => false

/-- A version that a set staged, once its window has closed (R280): the newest of its word is a staged write of its home
word, over what the set has staged there before (DESIGN CHOICE, log entry 70); older ones are freed. -/
def Tile.unversion (x : Tile) (win : Win) : Tile :=
  let ver := x.ver.filterMap fun e => match e.2 with
    | .version w v (some set) d =>
      if w < win.first ∨ win.first + win.nw ≤ w then some e
      else if x.newer w v set then none
      else some (e.1, .staged set (x.homeWord w) 0xF#4 d)
    | _ => some e
  let taken : List (Nat × Nat) := x.ents.filterMap fun e => match e with
    | .version w _ (some set) _ => if win.first ≤ w ∧ w < win.first + win.nw then some (set, x.homeWord w) else none
    | _ => none
  { x with ver := ver.filter fun e => match e.2 with
    | .staged k w _ _ => !taken.contains (k, w) || (x.ver.find e.1).any (fun o => match o with | .version _ _ _ _ => true | _ => false)
    | _ => true }

/-- The newest committed version of a window's words; 0 where there is none. -/
def Tile.newestIn (x : Tile) (win : Win) : Nat :=
  x.ents.foldl (fun acc e => match e with
    | .version w v none _ => if win.first ≤ w ∧ w < win.first + win.nw then max acc v else acc
    | _ => acc) 0

/-- Closes a window (R280): the newest committed version of each word is folded, every committed version is freed; a
staged version stays as a staged write of its home word. -/
def State.closeWin (s : State) (t k : Nat) : State :=
  match (s.tile t).wins.find k with
  | none => s
  | some win =>
    let s := s.vrecl t k win ((s.tile t).newestIn win + 1)
    s.modTile t fun x => { x.unversion win with wins := x.wins.del k }

/-! ### Staging homes (R252) -/

/-- Memory tile number `n` of the region led by `lead` with its shape in clusters, counted by tile index, y major. -/
def memTileNo (lead w n : Nat) : Nat :=
  let row := n / (4 * w)
  let j := n % (4 * w)
  let y := 8 * clY (lanCl lead) + row
  tileOf (lanDie lead) (8 * clX (lanCl lead) + 2 * j + (if y % 2 = 0 then 1 else 0)) y

/-- Where a staged write is held. -/
inductive StageHome where
  | word (tile w : Nat)
  | far (tile pa : Nat)
  | hold
  deriving DecidableEq, Repr

/-- The staging home of the word at physical address `pa` for a segment (R252), for an access in layout `lay` (R240). -/
def State.stageHome (s : State) (lead : Nat) (g : Seg) (pa : Nat) (lay : Nat := 0) : StageHome :=
  match s.classify pa 1 with
  | some (.tileData t off) =>
    match (s.tile t).locFor lay (off / 4) with
    | some l => .word t (linWord l)
    | none => .hold
  | some .hbm =>
    let w := g.desc.wm1 + 1
    let m := 32 * w * (g.desc.hm1 + 1)
    .far (memTileNo (g.stageAt.getD lead) w (pa / 64 % m)) (pa / 4 * 4)
  | _ => .hold

/-- One word's worth of a write: its address, byte mask and data. -/
def wordParts (pa : Nat) (bs : List Byte) : List (Nat × BitVec 4 × BitVec 32) :=
  (wordSpans pa bs.length).map fun sp =>
    (4 * sp.1, spanMask sp.2.1 sp.2.2,
      BitVec.ofNat 32 (leNat ((bs.drop (4 * sp.1 + sp.2.1 - pa)).take sp.2.2) * 2 ^ (8 * sp.2.1)))

/-- Puts one staged word into a tile: merged into an entry of its own set, or new where an entry is free. -/
def Tile.stagePut (x : Tile) (set : Nat) (home : StageHome) (mask : BitVec 4) (data : BitVec 32) : Option Tile :=
  match home with
  | .word _ w =>
    if x.ents.any (fun e => match e with | .staged k w' _ _ => decide (k = set ∧ w' = w) | _ => false) then
      some { x with ver := x.ver.map fun e => match e.2 with
        | .staged k w' m d => if k = set ∧ w' = w then (e.1, .staged k w' (m ||| mask) (mergeWord mask d data)) else e
        | _ => e }
    else if 1 ≤ x.freeEnts then x.addEnt (.staged set w mask data)
    else none
  | .far _ pa =>
    if x.ents.any (fun e => match e with | .far k p _ _ => decide (k = set ∧ p = pa) | _ => false) then
      some { x with ver := x.ver.map fun e => match e.2 with
        | .far k p m d => if k = set ∧ p = pa then (e.1, .far k p (m ||| mask) (mergeWord mask d data)) else e
        | _ => e }
    else if 2 ≤ x.freeEnts then x.addEnt (.far set pa mask data)
    else none
  | .hold => some x

/-- The tile of a staging home. -/
def StageHome.tile? : StageHome → Option Nat
  | .word t _ => some t
  | .far t _ => some t
  | .hold => none

/-- Stages a write of a segment (R252): `none` where a tile has no free entry and the write waits (R254). -/
def State.stageWrite (s : State) (lead : Nat) (pa : Nat) (bs : List Byte) (lay : Nat := 0) : Option State :=
  match s.resident lead with
  | none => none
  | some (idx, g) =>
    match g.set with
    | none => none
    | some set =>
      let g := { g with stageAt := some (g.stageAt.getD lead) }
      let s := s.modSeg (lanDie lead) idx fun _ => g
      match s.stageHome lead g pa lay with
      | .hold => some (s.modSeg (lanDie lead) idx fun g => { g with heldSt := g.heldSt ++ [(pa, bs)] })
      | _ =>
        (wordParts pa bs).foldl (fun acc p =>
          match acc with
          | none => none
          | some s =>
            let h := s.stageHome lead g p.1 lay
            match h.tile? with
            | none => some s
            | some t =>
              match (s.tile t).stagePut set h p.2.1 p.2.2 with
              | none => none
              | some x => some { s with tiles := s.tiles.put t x }) (some s)

/-- The first tile that has no free entry for some word of a segment's write, which then waits (R254). -/
def State.stageBlock (s : State) (lead : Nat) (pa : Nat) (bs : List Byte) (lay : Nat := 0) : Option Nat :=
  match s.resident lead with
  | none => none
  | some (_, g) =>
    (wordParts pa bs).findSome? fun p =>
      let h := s.stageHome lead g p.1 lay
      match h.tile?, g.set with
      | some t, some set => if ((s.tile t).stagePut set h p.2.1 p.2.2).isNone then some t else none
      | _, _ => none

/-- A byte that the segment has staged at `pa`, if any (R252). -/
def State.stagedByte (s : State) (lead : Nat) (g : Seg) (set pa : Nat) (lay : Nat := 0) : Option Byte :=
  let held := g.heldSt.foldl (fun acc h =>
    if h.1 ≤ pa ∧ pa < h.1 + h.2.length then h.2[pa - h.1]? else acc) none
  match held with
  | some b => some b
  | none =>
    let home := s.stageHome lead g pa lay
    let pick (m : BitVec 4) (d : BitVec 32) : Option Byte :=
      if m.getLsbD (pa % 4) then some (d.extractLsb' (8 * (pa % 4)) 8) else none
    match home with
    | .word t w => (s.tile t).ents.findSome? fun e => match e with
        | .staged k w' m d => if k = set ∧ w' = w then pick m d else none
        | _ => none
    | .far t p => (s.tile t).ents.findSome? fun e => match e with
        | .far k p' m d => if k = set ∧ p' = p then pick m d else none
        | _ => none
    | .hold => none

/-- The bytes that a load of a segment finds: its own staged bytes over those of the home (R252). -/
def State.overlay (s : State) (lead : Nat) (pa : Nat) (bs : List Byte) (lay : Nat := 0) : List Byte :=
  match s.resident lead with
  | none => bs
  | some (_, g) =>
    match g.staged, g.set with
    | true, some set =>
      bs.mapIdx fun i b => (s.stagedByte lead g set (pa + i) lay).getD b
    | _, _ => bs

/-- Whether every byte of a range has been staged by the segment. -/
def State.allStaged (s : State) (lead : Nat) (pa n : Nat) (lay : Nat := 0) : Bool :=
  match s.resident lead with
  | none => false
  | some (_, g) =>
    match g.staged, g.set with
    | true, some set => (List.range n).all fun i => (s.stagedByte lead g set (pa + i) lay).isSome
    | _, _ => false

/-! ### Commit and discard (R253, R280, R284) -/

/-- Frees every entry of a staging set, in every tile (R253). -/
def State.dropSet (s : State) (set : Nat) : State :=
  { s with tiles := s.tiles.map fun e => (e.1, e.2.keepEnts fun v => decide (v.setOf ≠ some set)) }

/-- The tiles that hold entries of a set. -/
def State.setTiles (s : State) (set : Nat) : List Nat :=
  (s.tiles.filter fun e => e.2.ents.any fun v => decide (v.setOf = some set)).map (·.1)

/-- Writes the bytes of `m` of an HBM word; a word that is written whole is readable again. -/
def State.putFar (s : State) (pa : Nat) (m : BitVec 4) (d : BitVec 32) : State :=
  { s with
    mem := (List.range 4).foldl (fun mem i =>
      if m.getLsbD i then mem.write (pa + i) (d.extractLsb' (8 * i) 8) else mem) s.mem
    hbmBad := if m = 0xF#4 then s.hbmBad.filter fun a => decide (a / 4 * 4 ≠ pa) else s.hbmBad }

/-- Commits one entry of a set at a tile: a staged word waits there to be written home at priority 4, ahead of every later
access; a far write goes home; a staged version becomes a committed one, or is dropped where its number exists (R284) or is
older than the reclaim point (R251). -/
def State.commitEntry (s : State) (lead : Option Nat) (t : Nat) (v : VEnt) : State :=
  match v with
  | .staged set w m d =>
    s.modTile t fun x => { x with wb := x.wb ++ [{ pa := tileBase t + 4 * w, mask := m, data := d, set := some set }] }
  | .far _ pa m d => s.putFar pa m d
  | .version w ver _ d =>
    match (s.tile t).winOf w with
    | none => s
    | some (_, win) =>
      if ver < win.p then s
      else if ((s.tile t).versionOf w ver none).isSome then
        s.raise lead (tileDie t) (tileRecord t kVERREC 0#64 2)
      else s.modTile t fun x => (x.addEnt (.version w ver none d)).getD x

/-- Commits a staging set: every entry of every tile, then the stores held until commit (R252, R253). `lead` is the
segment's region, if it holds one. -/
def State.commitSet (s : State) (set : Nat) (lead : Option Nat) (held : List (Nat × List Byte)) : State :=
  let s := (s.setTiles set).foldl (fun s t =>
    let es := (s.tile t).ents.filter fun v => decide (v.setOf = some set)
    es.foldl (fun s v => s.commitEntry lead t v) (s.modTile t fun x => x.keepEnts fun v => decide (v.setOf ≠ some set))) s
  held.foldl (fun s h =>
    match s.classify h.1 h.2.length with
    | none => s
    | some k => if s.writeRefused k then s else (s.writeHome h.1 0 h.2 k).1) s

end Sys2Proof.Machine
end

