-- ==== Sys2Proof/Machine/Access.lean ====
section
/-! DEFINITION. A Lantern's accesses: translation with its faults (R45, R122, R129), loads and stores at the home with
staging (R129, R252), the memory reads and writes that its commands make, and the fetch with its checks (R57 to R61). -/

namespace Sys2Proof.Machine

/-! ### Translation -/

/-- What a Lantern access does. -/
inductive LanAcc where
  | fetch | load | store
  deriving DecidableEq, Repr

/-- What a Lantern access finds (R129): its place; no translation, with the XLATE reason (R207; 3 where va[63:48] is
not zero); or a permission fault. -/
inductive Xl where
  | at_ (pa : Nat) (kind : PaKind) (tso : Bool)
  | miss (reason : Nat)
  | perm
  deriving DecidableEq, Repr

/-- Whether a leaf permits an access: X for a fetch, R for a load, W for a store (R257). -/
def Leaf.permits (l : Leaf) : LanAcc → Bool
  | .fetch => l.x
  | .load => l.r
  | .store => l.w

/-- Whether a fetch finds its line in the instruction cache, so that it starts no walk (R61; DEDUCED, log entry 8). -/
def State.fetchHits (s : State) (k : Nat) (va : Word) (acc : LanAcc) : Bool :=
  decide (acc = .fetch) &&
    (match (s.walk (lanDie k) (s.lan k).pasid va.toNat).1 with
     | some leaf => ((s.lan k).icache.find (leaf.pa / 128)).isSome
     | none => false)

/-- Translates an access of Lantern `k` of `n` bytes that lie in one page, and checks permission, window and view
(R129, R34, R45, R124). Under MODE.WALK = 1 a walk is asked of the host first (R257). -/
def State.lanXlate (s : State) (k : Nat) (va : Word) (n : Nat) (acc : LanAcc) : Xl × State :=
  let l := s.lan k
  if 2 ^ 48 ≤ va.toNat then (.miss 3, s)
  else if modeWalk (s.modeOf (lanDie k)) && !heldMay l.xheld va.toNat &&
      !s.fetchHits k va acc then
    (.miss 5, s)
  else if s.walkCut (lanDie k) l.pasid va.toNat && !s.fetchHits k va acc then (.miss xlCut, s)
  else
    let r := s.walk (lanDie k) l.pasid va.toNat
    match r.1 with
    | none => (.miss 0, r.2)
    | some leaf =>
      match r.2.classify leaf.pa n with
      | none => (.miss 2, r.2)
      | some kind =>
        if (match acc with | .store => r.2.writeRefused kind | _ => r.2.readRefused kind) then (.miss 2, r.2)
        else if !leaf.permits acc then (.perm, r.2)
        else if !l.sup && (!userReaches kind || r.2.hitsRing n kind) then (.perm, r.2)
        else (.at_ leaf.pa kind leaf.tso, r.2)

/-- Whether a Lantern's access that has no translation is held, not trapped (R122). An access outside the 48-bit space
always traps (DEDUCED, log entry 6). Under MODE.XFAULT = 1 an access that R34 refuses is held like one that has no
translation (DESIGN CHOICE, log entry 55). -/
def State.holds (s : State) (die reason : Nat) : Bool :=
  decide (5 ≤ reason) || (modeXfault (s.modeOf die) && decide (reason ≠ 3))

/-- Holds the instruction of the Lantern whose turn it is and sends its record (R122): REPEAT counts its failures. One that
waits for an edge sends none (R43). -/
def State.holdAccess (s : State) (reason access : Nat) (va : Word) : State :=
  if reason = xlCut then s
  else
  let m := heldNext s.cur.xheld s.tick va.toNat
  (s.raise (some s.focus) (lanDie s.focus) ((lanRecord s.focus kXLATE va (reason + access * 16)).missed m)).modCur fun l =>
    { l with xheld := some m }

/-- The fate of an access that has no translation (R122): a trap, or the instruction is held (`State.holds`; log entries 6
and 55). -/
def State.missAccess (s : State) (reason access cause : Nat) (va : Word) (n : Nat) : State :=
  if s.holds (lanDie s.focus) reason then s.holdAccess reason access va else s.trap cause va n

/-- INFO access codes of a Lantern (R227). -/
def accFetch : Nat := 11
/-- A load or another read. -/
def accRead : Nat := 12
/-- A store or another write. -/
def accWrite : Nat := 13
/-- The address of a command. -/
def accCommand : Nat := 14

/-! ### Loads (R114, R129) -/

/-- Reads `n` bytes for Lantern `k` at their home, with its own staged bytes over them (R252). -/
def State.lanLoad (s : State) (k pa n : Nat) : List Byte × Bool × State :=
  match s.classify pa n with
  | none => (List.replicate n 0#8, true, s)
  | some kind =>
    let r := s.readHome pa n 0 kind
    let s := r.s.raiseHome (some k) (lanDie k) (lanRecord k) kind r.owed
    (s.overlay k pa r.bytes, r.bad && !s.allStaged k pa n, s)

/-- Takes the value of a load that has not been performed yet. -/
def State.takeLoad (s : State) (k i : Nat) : State :=
  match (s.lan k).loads[i]? with
  | none => s
  | some p =>
    if p.data.isSome then s
    else
      let r := s.lanLoad k p.pa p.size
      let v := extendLoad p.sext p.size (leNat r.1)
      r.2.2.modLan k fun l => { l with loads := l.loads.set i { p with data := some (v, r.2.1) } }

/-- Whether load `p` may not be performed before the earlier load `q` (R116): one address, or a TSO page. -/
def PendLoad.after (p q : PendLoad) : Bool :=
  p.tso || decide (p.pa < q.pa + q.size ∧ q.pa < p.pa + p.size)

/-- Performs load `i` of a Lantern, and before it the earlier ones that it follows (R116). -/
def State.performLoad (s : State) (k i : Nat) : State :=
  match (s.lan k).loads[i]? with
  | none => s
  | some p =>
    let ls := (s.lan k).loads
    let s := (List.range i).foldl (fun s j =>
      match ls[j]? with
      | some q => if p.after q then s.takeLoad k j else s
      | none => s) s
    s.takeLoad k i

/-- Performs every outstanding load of a Lantern: before a store, a command or a FENCE (R116, R130, R223). -/
def State.performLoads (s : State) (k : Nat) : State :=
  (List.range (s.lan k).loads.length).foldl (fun s i => s.takeLoad k i) s

/-! ### Stores (R129, R252) -/

/-- Whether a store of Lantern `k` to a place goes home at once even in a staged segment: its own local memory and
registers (R252). -/
def ownPlace (k : Nat) : PaKind → Bool
  | .lanMem j _ => decide (j = k)
  | .lanReg j _ => decide (j = k)
  | _ => false

/-- Stores bytes for Lantern `k`: at the home, or staged; `none` where no staging entry is free (R254). -/
def State.lanStore (s : State) (k pa : Nat) (kind : PaKind) (bs : List Byte) : Option State :=
  if (s.stagedSet k).isSome && !ownPlace k kind then s.stageWrite k pa bs
  else
    let r := s.writeHome pa 0 bs kind
    some (r.1.raiseHome (some k) (lanDie k) (lanRecord k) kind r.2)

/-! ### Memory that commands read and write -/

/-- What a command's memory access answers: a value, or the state in which the command has trapped or is held. -/
inductive Vis (α : Type) where
  | ok (v : α) (s : State)
  | stop (s : State)

/-- The aligned dwords, or parts of them, that a byte range covers: address and length. -/
def dwordParts (va : Word) (n : Nat) : List (Word × Nat) :=
  (List.range ((va.toNat % 8 + n + 7) / 8)).map fun i =>
    let lo := max va.toNat (va.toNat / 8 * 8 + 8 * i)
    let hi := min (va.toNat + n) (va.toNat / 8 * 8 + 8 * i + 8)
    (BitVec.ofNat 64 lo, hi - lo)

/-- Reads bytes at a virtual address for the Lantern whose turn it is, waiting for the data (R129): LDF with EVAL the
failing address, PERM where the entry or the view forbids the read. `len` is the instruction's length in parcels. -/
def State.readVirt (s : State) (va : Word) (n len : Nat) : Vis (List Byte) :=
  (dwordParts va n).foldl (fun acc p =>
    match acc with
    | .stop s => .stop s
    | .ok bs s =>
      let r := s.lanXlate s.focus p.1 p.2 .load
      match r.1 with
      | .miss reason => .stop (r.2.missAccess reason accRead cLDF p.1 len)
      | .perm => .stop (r.2.trap cPERM p.1 len)
      | .at_ pa kind _ =>
        if r.2.homeCut (lanDie s.focus) pa kind then .stop r.2 else
        let d := r.2.lanLoad s.focus pa p.2
        if d.2.1 then .stop (d.2.2.trap cLDF p.1 len) else .ok (bs ++ d.1) d.2.2) (.ok [] s)

/-- Writes bytes at a virtual address for the Lantern whose turn it is: STF with EVAL the failing address, PERM where
the entry or the view forbids the write. Every address is checked before anything is written. A write that finds no
staging entry waits (R254). -/
def State.writeVirt (s : State) (va : Word) (bs : List Byte) (len : Nat) : Vis Unit :=
  let parts := dwordParts va bs.length
  let places := parts.foldl (fun (acc : Vis (List (Nat × PaKind × List Byte))) p =>
    match acc with
    | .stop s => .stop s
    | .ok done s =>
      let r := s.lanXlate s.focus p.1 p.2 .store
      match r.1 with
      | .miss reason => .stop (r.2.missAccess reason accWrite cSTF p.1 len)
      | .perm => .stop (r.2.trap cPERM p.1 len)
      | .at_ pa kind _ =>
        if r.2.homeCut (lanDie s.focus) pa kind then .stop r.2 else .ok (done ++ [(pa, kind, (bs.drop (p.1.toNat - va.toNat)).take p.2)]) r.2) (.ok [] s)
  match places with
  | .stop s => .stop s
  | .ok ps s =>
    ps.foldl (fun (acc : Vis Unit) p =>
      match acc with
      | .stop s => .stop s
      | .ok _ s =>
        match s.lanStore s.focus p.1 p.2.1 p.2.2 with
        | some t => .ok () t
        | none => .stop (s.modCur fun l => { l with stWait := s.stageBlock s.focus p.1 p.2.2 })) (.ok () s)

/-! ### Fetch (R57 to R61, R119 to R121) -/

/-- The dwords of a line. -/
def lineWords (bs : List Byte) : List Word :=
  (List.range 16).map fun i => BitVec.ofNat 64 (leNat ((bs.drop (8 * i)).take 8))

/-- Fetches the line of Lantern `k` at virtual address `line` (R59 item 1, R61). A line that the instruction cache
holds and memory no longer agrees with is taken from either, as `Config.staleLine` picks. The segment's own staged
stores are not fetched (DESIGN CHOICE, log entry 61). -/
def State.fetchLine (s : State) (k : Nat) (line : Word) : Except (Option Nat) (List Word) × State :=
  let r := s.lanXlate k line 128 .fetch
  match r.1 with
  | .miss reason => (.error (some reason), r.2)
  | .perm => (.error none, r.2)
  | .at_ pa kind _ =>
    let m := r.2.readHome pa 128 0 kind
    let u := m.s.raiseHome (some k) (lanDie k) (lanRecord k) kind m.owed
    let now := lineWords m.bytes
    let take (s : State) : Except (Option Nat) (List Word) × State :=
      if m.bad then (.error none, s)
      else (.ok now, s.modLan k fun l => { l with icache := l.icache.put (pa / 128) now })
    match (s.lan k).icache.find (pa / 128), r.2.homeCut (lanDie k) pa kind with
    | none, true => (.error (some xlCut), r.2)
    | some old, true => (.ok old, r.2)
    | none, false => take u
    | some old, false =>
      if decide (old = now) && !m.bad then (.ok now, u)
      else if Config.staleLine u.free then (.ok old, u.spend)
      else take u.spend

/-- Whether the parcel before `pc`, in parcel-index order, begins a JAL (R120). -/
def State.afterJal (s : State) (k : Nat) (pc : Word) : Bool :=
  let before : Word := if pc.toNat % 128 = 8 then pc - 16#64 else pc - 8#64
  match (s.fetchLine k (before &&& ~~~127#64)).1 with
  | .error _ => false
  | .ok ws =>
    let pos := before.toNat % 128 / 8
    let p := ws.getD pos 0#64
    (ws.getD 0 0#64).getLsbD (pos - 1) && decide (p.extractLsb' 58 6 = 5#6) && decide (p.extractLsb' 52 6 = 7#6)

/-- The form of a P-class instruction, picked by the operand's value at issue (R435 to R440). -/
def refine (l : Lantern) : Instr → Instr
  | .tlbiPage rd ra rb =>
    (match (l.reg ra).toNat / 2 ^ 62 with
     | 1 => .tlbiPasid rd ra rb
     | 2 => .tlbiAll rd ra rb
     | _ => .tlbiPage rd ra rb)
  | .spareRead rd ra rb =>
    (match (l.reg rb).toNat % 16 with
     | 1 => .spareSetInterval rd ra rb
     | 2 => .spareRemap rd ra rb
     | 3 => .spareClear rd ra rb
     | 4 => .spareSetPos rd ra rb
     | _ => .spareRead rd ra rb)
  | .qctlRead rd ra rb =>
    (match (l.reg rb).toNat with
     | 1 => .qctlRevoke rd ra rb
     | 2 => .qctlKill rd ra rb
     | 3 => .qctlRelease rd ra rb
     | _ => .qctlRead rd ra rb)
  | .dieqFence rd ra rb =>
    (match (l.reg rb).toNat with
     | 1 => .dieqRelease rd ra rb
     | 2 => .dieqStatus rd ra rb
     | _ => .dieqFence rd ra rb)
  | .binjFlipOne rd ra rb =>
    (match (l.reg rb).toNat % 4 with
     | 1 => .binjFlipTwo rd ra rb
     | 2 => .binjSpare rd ra rb
     | _ => .binjFlipOne rd ra rb)
  | i => i

/-- What the fetch of the next instruction gives: an instruction and its length; a fault with EPC, EVAL and the length of
what stands at EPC, by its ext bit (R78, R117); a line that waits for its translation. -/
inductive Fetched where
  | run (i : Instr) (n : Nat)
  | fault (cause : Nat) (epc val : Word) (n : Nat)
  | held (reason : Nat)
  deriving DecidableEq, Repr

/-- The checks of R59 on the parcel at `pc` of a line, items 2 to 11. An address that ERET or a trap's entry gives and that
is no parcel's raises CFI, and a CFI on the first parcel after a dispatch, an RSM or a trap has EVAL 0 (DESIGN CHOICE,
log entry 59). -/
def checkParcel (l : Lantern) (ws : List Word) (afterJal : Bool) : Fetched :=
  let hd := ws.getD 0 0#64
  let pos := l.pc.toNat % 128 / 8
  let aligned := decide (l.pc.toNat % 8 = 0 ∧ pos ≠ 0)
  let start := aligned && hd.getLsbD (pos - 1)
  let target := aligned && hd.getLsbD (15 + (pos - 1))
  let allowed := match l.came with
    | .seq => true
    | .start => true
    | .jump => target
    | .afterJal => target || afterJal
    | .eret => target || decide (l.pc = l.retFirst) || decide (l.pc = l.retNext)
  let cfiVal := match l.came with
    | .eret => 0#64
    | .start => 0#64
    | _ => l.prev
  let p := ws.getD pos 0#64
  let n := if p.getLsbD 0 then 2 else 1
  if hd.extractLsb' 30 2 ≠ 0#2 then .fault cCFI l.pc cfiVal n
  else if !allowed then .fault cCFI l.pc cfiVal n
  else if !start then .fault cCFI l.pc cfiVal n
  else if hd.extractLsb' 32 32 ≠ 4#32 then .fault cILLOP l.pc (l.pc &&& ~~~127#64) n
  else
    match decodeLantern p (if pos < 15 then ws.getD (pos + 1) 0#64 else 0#64) with
    | .error .resmaj => .fault cRESMAJ l.pc p n
    | .error .illop => .fault cILLOP l.pc p n
    | .ok i =>
      if twoParcels i && (decide (pos = 15) || hd.getLsbD pos) then .fault cILLOP l.pc p n
      else if needsSup i && !l.sup then .fault cPRIV l.pc p n
      else .run (refine l i) (if twoParcels i then 2 else 1)

/-- Fetches the instruction that Lantern `k` is about to execute (R59, R60). The value of EVAL for a line that cannot
be read is a parcel nothing has read: a free value (log entry 7). -/
def State.fetch (s : State) (k : Nat) : Fetched × State :=
  let l := s.lan k
  let r := s.fetchLine k (l.pc &&& ~~~127#64)
  match r.1 with
  | .error none => (.fault cFETCH l.pc (Config.freeWord r.2.free) 1, r.2.spend)
  | .error (some reason) =>
    if s.holds (lanDie k) reason then (.held reason, r.2)
    else (.fault cFETCH l.pc (Config.freeWord r.2.free) 1, r.2.spend)
  | .ok ws => (checkParcel l ws (decide (l.came = .afterJal) && r.2.afterJal k l.pc), r.2)

end Sys2Proof.Machine
end

