-- ==== Sys2Proof/Machine/Turn.lean ====
section
/-! DEFINITION. What an agent does at its turn: what the Lantern's instruction boundary needs (R114, R115, R119 to R122), the
element's issued operand set (R154), and the port's next stream instruction (R264). -/

namespace Sys2Proof.Machine

/-- What stands at an agent's turn: nothing to execute, or an instruction. -/
inductive Boundary where
  | taken (s : State)
  | run (i : Instr) (s : State)

/-! ### Time -/

/-- Lets `n` cycles pass: the tick counter (R9), and BUDGET of every resident segment, which stops at 0 (R385). -/
def State.tickBy (s : State) (n : Nat) : State :=
  { s with
    tick := s.tick + n,
    lans := s.lans.map fun e =>
      if e.2.st = .run ∨ e.2.st = .ending ∨ e.2.st = .halted then
        (e.1, { e.2 with budget := BitVec.ofNat 64 (e.2.budget.toNat - n) })
      else e }

/-! ### Pending traps (R119) -/

/-- Marks a lead Lantern's segment for an abort by the Beacon (R121, R396). -/
def State.askAbort (s : State) (lead : Nat) (requeue : Bool) : State :=
  match s.resident lead with
  | some (idx, _) =>
    s.modSeg (lanDie lead) idx fun g => if g.abortDue.isSome then g else { g with abortDue := some requeue }
  | none => s

/-- Takes a fetch fault on Lantern `k` (R60), `n` parcels before the next instruction; for the first parcel at TVEC in
supervisor mode the Lantern stops and the management controller receives a record (R121). -/
def State.fetchTrap (s : State) (k cause : Nat) (epc val : Word) (n : Nat) : State :=
  let l := s.lan k
  if l.sup && decide (l.came = .start ∧ l.pc = l.tvec) then
    let r := lanRecord k kTVEC l.tvec (cause + l.ecause.toNat % 256 * 256)
    let s := s.toMc { r with tick := BitVec.ofNat 32 s.tick, die := BitVec.ofNat 4 (lanDie k), spec := s.speculative k }
    (s.modLan k fun l => { l with st := .stopped }).askAbort k true
  else s.trapAt k cause epc val 0#64 (afterParcels epc n)

/-- Whether BUDGET traps (R119 item 2). -/
def Lantern.budgetDue (l : Lantern) : Bool := decide (l.budget = 0#64) && !l.sup
/-- Whether the fault queue traps (R119 item 3). -/
def Lantern.queueDue (l : Lantern) : Bool := l.ie && l.fqp

/-- Takes BUDGET at Lantern `k`; `micro` is the step of a DMOV that stands there, and `next` the parcel after it. -/
def State.budgetTrapAt (s : State) (k : Nat) (micro next : Word) : State :=
  s.trapAt k cBUDGET (s.lan k).pc 0#64 micro next

/-- The local-memory offset of the record at HEAD. -/
def Lantern.headOff (l : Lantern) : Nat := l.ringBase + 32 * (l.head.toNat % l.ringSize)

/-- Takes a fault-queue trap at Lantern `k` (R119 item 3). -/
def State.queueTrapAt (s : State) (k : Nat) (micro next : Word) : State :=
  let l := s.lan k
  s.trapAt k (s.mem.read (lanPa k 1 l.headOff)).toNat l.pc (BitVec.ofNat 64 l.headOff) micro next

/-- Takes DPOISON at Lantern `k` (R129): EVAL the load's address, EMICRO its first parcel's address. -/
def State.poisonTrapAt (s : State) (k : Nat) (next : Word) : State :=
  match (s.lan k).dpoi with
  | none => s
  | some (va, at_) =>
    let pc := (s.lan k).pc
    (s.modLan k fun l => { l with dpoi := none }).trapAt k cDPOISON pc va at_ next

/-- The first of items 2 to 4 of R119 that applies at Lantern `k`, taken. -/
def State.pendingTrap (s : State) (k : Nat) (micro next : Word) : Option State :=
  let l := s.lan k
  if l.budgetDue then some (s.budgetTrapAt k micro next)
  else if l.queueDue then some (s.queueTrapAt k micro next)
  else if l.dpoi.isSome then some (s.poisonTrapAt k next)
  else none

/-! ### The Lantern -/

/-- The registers that an instruction names (R62, R333); JAL writes s1. -/
def namedRegs (i : Instr) : List Reg :=
  match i with
  | .jal _ => [1#5]
  | _ =>
    match lanternRaw i with
    | none => []
    | some r =>
      [r.rd, r.ra, r.rb] ++
        (match i with
         | .cpy _ _ _ rs rl rbar => [rs, rl, rbar]
         | .cpy2 _ _ _ rbar => [rbar]
         | .rcpy _ _ _ rs rl rbar => [rs, rl, rbar]
         | _ => [])

/-- Whether an instruction waits for a scoreboarded register (R114, R115). -/
def Lantern.stalls (l : Lantern) (i : Instr) : Bool := (namedRegs i).any fun r => decide (r ≠ 0#5) && l.busy r

/-- The DMOV step that a trap at a boundary reports (R119, R146). -/
def microOf (l : Lantern) : Instr → Word
  | .dmov _ _ _ => l.emicro
  | _ => 0#64

/-- Whether a Lantern stands still for a pre-emption by the Beacon: as at a PRE that stalls, it takes traps, and their
handlers run (R142, R386). A Lantern that yields in supervisor mode stands still whatever its mode. -/
def State.frozen (s : State) (k : Nat) : Bool :=
  match s.resident k with
  | some (_, g) => g.preempt && (!(s.lan k).sup || g.yieldSup)
  | none => false

/-- The boundary of a Lantern whose instruction is held for a translation (R122): a DMOV takes the traps of R119 items 2
to 4 there as it does wherever it stalls, and another instruction none (DEDUCED, log entry 77). -/
def State.heldTurn (s : State) (k : Nat) : State :=
  match (s.fetch k).1 with
  | .run (.dmov _ _ _) n => (s.pendingTrap k (s.lan k).emicro (afterParcels (s.lan k).pc n)).getD s
  | _ => s

/-! ### The end wait (R141, R379) -/

/-- The identifier of a segment (R378). -/
def segIdent (die idx serial : Nat) : Word := BitVec.ofNat 64 (serial % 2 ^ 32 * 2 ^ 16 + die * 2 ^ 12 + idx)

/-- The segment of a copy, while it is resident: its entry and contents. -/
def State.chanSeg (s : State) (c : Chan) : Option (Nat × Seg) :=
  match s.resident c.lan with
  | some (idx, g) => if segIdent (lanDie c.lan) idx g.serial = c.seg then some (idx, g) else none
  | none => none

/-- Whether a copy's writes are staged, and its segment's entry (R331). -/
def State.chanStaged (s : State) (c : Chan) : Option Nat :=
  match s.chanSeg c with
  | some (idx, g) => if g.staged && g.set.isSome then some idx else none
  | none => none

/-- Whether the matrix unit runs nothing (R356). -/
def Array2.idle (a : Array2) : Bool := a.run.isNone && a.cmd.isNone && a.snapq.isNone && a.susp.isNone

/-- Whether the segment on a lead Lantern is to be aborted, which comes before its end (R388, R431). -/
def State.aborting (s : State) (k : Nat) : Bool :=
  match s.resident k with
  | some (_, g) => g.abortDue.isSome
  | none => false

/-- Whether a Lantern's end wait is over: its armed configurations have completed, and its copies whose token registers
it holds, or that are staged; and its matrix command has ended, as an MXOFF before the end would wait for (R345). The
boundary of the wait takes the DPOISON of a load first (R119 item 4). -/
def State.endReady (s : State) (k : Nat) : Bool :=
  let l := s.lan k
  decide (l.st = .ending) && !s.aborting k && !s.loadsOut k && l.dpoi.isNone && (l.cfgs.all fun x => !x.armed || x.done)
    && !(s.chans.any fun c => decide (c.2.lan = k) && (decide (c.2.rd ≠ 0#5) || (s.chanStaged c.2).isSome))
    && l.mx.all Array2.idle

/-! ### The element and the port -/

/-- The instruction of a slot of an element. -/
def State.slotOf (s : State) (el : Nat) (slot : BitVec 5) : Option Instr :=
  match (s.el el).core.slots.find slot.toNat with
  | none => none
  | some i => decodeSlot i.instr

/-- The turn of an element: the operand set that has issued. -/
def State.elementTurn (s : State) (el : Nat) : Boundary :=
  let s := { s with elem := el }
  match (s.el el).firing with
  | none => .taken s
  | some f =>
    match s.slotOf el f.slot with
    | none => .taken s
    | some i => .run i s

/-- The next instruction of a stream program. -/
def Prog.next? (p : Prog) : Option Instr := decodeStream (p.parcels.getD p.pc 0#64) (p.parcels.getD (p.pc + 1) 0#64)

/-- The turn of a port: its running program's next instruction. -/
def State.portTurn (s : State) (p : Nat) : Boundary :=
  let s := { s with prt := p }
  match (s.port p).prog with
  | none => .taken s
  | some g =>
    if g.armed && decide (g.pc < g.parcels.length) then
      match g.next? with
      | none => .taken s
      | some i => .run i s
    else .taken s

end Sys2Proof.Machine
end

