-- ==== Sys2Proof/Machine/Fabric.lean ====
section
/-! DEFINITION. Tokens on the move: destinations (R26, R66, R67), tag operations and the window check (R157, R158, R202,
R203), parking and spilling (R155, R156, R158), links and credits (R164, R167), arrival and matching (R151 to R153,
R159), and the life of iterations (R157). -/

namespace Sys2Proof.Machine

/-! ### Destinations -/

/-- Fields of a 31-bit destination (R67). -/
def dV (d : BitVec 31) : Bool := d.getLsbD 30
/-- FAR. -/
def dFar (d : BitVec 31) : Bool := d.getLsbD 29
/-- The far-table index. -/
def dFarIdx (d : BitVec 31) : Nat := (d.extractLsb' 25 4).toNat
/-- DXT. -/
def dDx (d : BitVec 31) : Int := (d.extractLsb' 22 7).toInt
/-- DYT. -/
def dDy (d : BitVec 31) : Int := (d.extractLsb' 15 7).toInt
/-- EL. -/
def dEl (d : BitVec 31) : Nat := (d.extractLsb' 11 4).toNat
/-- SLOT. -/
def dSlot (d : BitVec 31) : Nat := (d.extractLsb' 6 5).toNat
/-- PORT. -/
def dPort (d : BitVec 31) : Nat := (d.extractLsb' 4 2).toNat
/-- TOP. -/
def dTop (d : BitVec 31) : Nat := (d.extractLsb' 2 2).toNat
/-- DEST0 of a routing parcel (R66). -/
def dest0 (r : Word) : BitVec 31 := r.extractLsb' 31 31
/-- DEST1 of a routing parcel. -/
def dest1 (r : Word) : BitVec 31 := r.extractLsb' 0 31
/-- LP of a routing parcel. -/
def routeLp (r : Word) : Bool := r.getLsbD 63
/-- The valid ones of some destinations. -/
def validDests (ds : List (BitVec 31)) : List (BitVec 31) := ds.filter dV

/-- The far table of a context's configuration in a region (R135). -/
def State.farOf (s : State) (lead ctx : Nat) : List Dest :=
  match (s.lan lead).cfgs.find? fun c => decide (c.ctx = ctx) && !c.done with
  | some c => c.img.far
  | none => []

/-- A coordinate of a tile in a field of `size` values, of which those below `lim` lie on the grid. One off the grid stays off it
(R26): its own low bits, or a free value where those would name a tile (DESIGN CHOICE, log entry 73). -/
def gridField (lim size : Nat) (v : Int) : Nat :=
  if 0 ≤ v ∧ v < lim then v.toNat
  else if lim ≤ (v % size).toNat then (v % size).toNat
  else lim + Config.offGrid v % (size - lim)

/-- The 28 destination bits that a destination names from a tile (R67). -/
def State.resolve (s : State) (lead : Option Nat) (ctx tile : Nat) (d : BitVec 31) : Dest :=
  if dFar d then
    match lead with
    | some k => (s.farOf k ctx).getD (dFarIdx d) 0#28
    | none => 0#28
  else
    mkDest (tileDie tile) (gridField 56 64 (tileX tile + dDx d)) (gridField 112 128 (tileY tile + dDy d)) (dEl d) (dSlot d)
      (dPort d)

/-- Whether a destination can be routed (R26). -/
def routable (d : Dest) : Bool := decide (dstDie d < 8 ∧ dstX d < 56 ∧ dstY d < 112)

/-- The tile of a destination. -/
def dstTile (d : Dest) : Nat := tileOf (dstDie d) (dstX d) (dstY d)

/-- The column of a tile in the package (R21). -/
def packX (t : Nat) : Nat := tileDie t % 2 * 56 + tileX t
/-- The row of a tile in the package. -/
def packY (t : Nat) : Nat := tileDie t / 2 * 112 + tileY t

/-- The input link by which a token from tile `a` enters tile `b` (R21, R167): north 0, east 1, south 2, west 3,
local 4. Rows count from the north (R342; DEDUCED, log entry 74). -/
def linkFrom (a b : Nat) : Nat :=
  if packY a < packY b then 0
  else if packY b < packY a then 2
  else if packX b < packX a then 1
  else if packX a < packX b then 3
  else 4

/-- The hops of a token from tile `a` to tile `b` (R167). -/
def hopsFrom (a b : Nat) : Nat :=
  (packX a - packX b) + (packX b - packX a) + (packY a - packY b) + (packY b - packY a)

/-! ### Tag spaces -/

/-- The number of a space in its region's table. -/
def spaceKey (ctx space : Nat) : Nat := ctx * 32 + space

/-- The region whose table holds the space that a tag names, for a unit of a region (R199): its own for a tag of its
die; else the first running region of the tag's die that has the space open (DESIGN CHOICE, log entry 12). -/
def State.spaceLead (s : State) (lead : Option Nat) (die : Nat) (t : Tag) : Option Nat :=
  if tagDie t = die then lead
  else
    (s.lans.find? fun e => decide (lanDie e.1 = tagDie t ∧ e.2.st ≠ .idle)
      && decide ((e.2.spaces.get SpaceEntry.empty (spaceKey (tagCtx t) (tagSpace t))).st ≠ .free)).map (·.1)

/-- A tag-space entry. -/
def State.space (s : State) (lead key : Nat) : SpaceEntry := (s.lan lead).spaces.get SpaceEntry.empty key

/-- A tag-space table with one entry changed; a free one is not listed. -/
def modSpaces (t : Tab SpaceEntry) (key : Nat) (f : SpaceEntry → SpaceEntry) : Tab SpaceEntry :=
  let e := f (t.get SpaceEntry.empty key)
  if e.st = .free then t.del key else t.put key e

/-- Writes a tag-space entry; a free one is not listed. -/
def State.setSpace (s : State) (lead key : Nat) (e : SpaceEntry) : State :=
  s.modLan lead fun l => { l with spaces := modSpaces l.spaces key fun _ => e }

/-- Changes a tag-space entry for a unit of the fabric. While a marker PRE runs, what a unit does before its own snapshot
belongs to the snapshot too (R168, R199): `past` says that the unit's has been taken. -/
def State.modSpace (s : State) (lead key : Nat) (past : Bool) (f : SpaceEntry → SpaceEntry) : State :=
  s.modLan lead fun l =>
    { l with spaces := modSpaces l.spaces key f,
             cut := if past then l.cut else l.cut.map fun c => { c with spaces := modSpaces c.spaces key f } }

/-- Whether an element's snapshot has been taken (R168). -/
def State.pastCut (s : State) (el : Nat) : Bool := (s.el el).snap.isSome

/-- ITERS of the configuration whose first declared space this is; 0 where none bounds it (R139). -/
def State.itersOf (s : State) (lead ctx space : Nat) : Nat :=
  match (s.lan lead).cfgs.find? fun c => decide (c.ctx = ctx) && !c.done with
  | some c =>
    match c.img.spaces with
    | (sp, _) :: _ => if sp = space then c.img.iters else 0
    | [] => 0
  | none => 0

/-- What the window check makes of an emission (R158, R203). -/
inductive Window where
  | ok | park
  | refuse (reason : Nat)
  deriving DecidableEq, Repr

/-- The window check of iteration `iter` of the space a tag names (R139, R157, R158, R203). -/
def State.windowOf (s : State) (lead : Option Nat) (die : Nat) (t : Tag) (iter : Nat) : Window :=
  match s.spaceLead lead die t with
  | none => .refuse 3
  | some k =>
    let e := s.space k (spaceKey (tagCtx t) (tagSpace t))
    let n := s.itersOf k (tagCtx t) (tagSpace t)
    if e.st ≠ .open then .refuse 3
    else if iter < e.base then .refuse 1
    else if 2 ^ 24 ≤ iter ∨ (n ≠ 0 ∧ n ≤ iter) then .refuse 2
    else if e.base + e.k ≤ iter then .park
    else .ok

/-- An entry whose iteration `i` has been emitted (R157). -/
def SpaceEntry.emit (e : SpaceEntry) (i : Nat) : SpaceEntry :=
  if e.st = .free ∨ i ∈ e.emitted then e else { e with emitted := e.emitted ++ [i], next := max e.next (i + 1) }

/-- Notes that an iteration has been emitted (R157), by a unit whose snapshot has been taken if `past`. -/
def State.noteEmitted (s : State) (lead : Option Nat) (die : Nat) (t : Tag) (past : Bool) : State :=
  match s.spaceLead lead die t with
  | none => s
  | some k => s.modSpace k (spaceKey (tagCtx t) (tagSpace t)) past fun e => e.emit (tagIter t)

/-! ### Links -/

/-- The number of flipped bits among a counter's bits and check bits. -/
def CtlLink.flips (c : CtlLink) : Nat := ((List.range 6).filter fun i => c.err.getLsbD i).length

/-- Whether a counter's check bits fail: one flipped bit is corrected, two are detected (R164). -/
def CtlLink.bad (c : CtlLink) : Bool := decide (2 ≤ c.flips)

/-- Writes the counter, with check bits that fit it; one that fails its check keeps failing until it is reset (R165). -/
def CtlLink.setC (c : CtlLink) (v : BitVec 3) : CtlLink := { c with c := v, err := if c.bad then c.err else 0#6 }

/-- Puts an arrival on an element's input link: a data token into its skid buffer, or behind a full one (R147, R167); a
condition on the control network under its credits, which a resynchronisation holds back (R164, R165). -/
def State.putLink (s : State) (el link : Nat) (a : Arrival) : State :=
  s.modEl el fun e =>
    if a.cond then
      let c := e.ctl.get CtlLink.empty link
      if c.c = 0#3 ∨ c.held ≠ [] ∨ c.sync ≠ none then { e with ctl := e.ctl.put link { c with held := c.held ++ [a] } }
      else
        { e with ctl := e.ctl.put link (c.setC (c.c - 1#3)),
                 links := e.links.put (5 + link) (e.links.get [] (5 + link) ++ [a]) }
    else if (e.links.get [] link).length < 2 then { e with links := e.links.put link (e.links.get [] link ++ [a]) }
    else { e with road := e.road.put link (e.road.get [] link ++ [a]) }

/-- Whether a token from a tile finds room on its way to a destination (R154, R167): a skid buffer of two at the end and
two more for each hop, or for a condition four at the end, under the credits, and four for each hop. Tokens to other
destinations do not share that room (DESIGN CHOICE, log entry 19). -/
def State.linkRoom (s : State) (tile : Nat) (cond : Bool) (d : Dest) : Bool :=
  let hops := hopsFrom tile (dstTile d)
  if isMemTile (dstX d) (dstY d) then
    decide ((s.port (portOf (dstTile d) (dstEl d % 4))).inq.length < 2 + 2 * hops)
  else
    let e := s.el (elOf (dstTile d) (dstEl d))
    let link := linkFrom tile (dstTile d)
    if cond then
      let c := e.ctl.get CtlLink.empty link
      decide (c.c ≠ 0#3 ∧ c.held = [] ∧ c.sync = none) || decide (c.held.length < 4 * hops)
    else decide ((e.links.get [] link).length + (e.road.get [] link).length < 2 + 2 * hops)

/-- Sends a token from a tile to its destination: an element, or a stream port of a memory tile (R25, R167). Tokens of one
pair stay in order on every way (DESIGN CHOICE, log entry 65). -/
def State.deliver (s : State) (tile src : Nat) (cond : Bool) (d : Dest) (tok : Token) (old : Bool := false) : State :=
  let a : Arrival :=
    { cond := cond, bad := false, slot := dstSlot d, port := dstPort d, tok := tok, src := src, old := old }
  if isMemTile (dstX d) (dstY d) then s.modPort (portOf (dstTile d) (dstEl d % 4)) fun p => { p with inq := p.inq ++ [a] }
  else s.putLink (elOf (dstTile d) (dstEl d)) (linkFrom tile (dstTile d)) a

/-! ### Matching and overflow stores (R150, R155, R156) -/

/-- Entries of a context's share of a cluster's overflow store. -/
def State.shareUsed (s : State) (cluster ctx : Nat) : Nat :=
  ((s.lan cluster).ovfl.filter fun m => decide (tagCtx m.tok.tag = ctx)).length

/-- Puts an entry into a matching store. -/
def ElemCore.insert (e : ElemCore) (m : MatchEntry) : ElemCore :=
  match lowest 64 fun i => (e.store.find i).isNone with
  | some i => { e with store := e.store.put i { m with seq := e.seq }, seq := e.seq + 1#12 }
  | none => e

/-- The context state of an element. -/
def ElemCore.ctx (e : ElemCore) (c : Nat) : CtxState := e.ctxs.get CtxState.empty c
/-- Changes the context state of an element. -/
def ElemCore.modCtx (e : ElemCore) (c : Nat) (f : CtxState → CtxState) : ElemCore :=
  { e with ctxs := e.ctxs.put c (f (e.ctx c)) }

/-- Logs a record of an element for its region (R226, R228). -/
def State.elLog (s : State) (el : Nat) (kind : Byte) (slot : BitVec 5) (tag : Tag) (addr : Word) (info : Nat) : State :=
  s.raise (s.leadOfTile (elTile el)) (tileDie (elTile el))
    { elRecord el kind slot tag addr info with wait := decide (kind = kOVFL) }

/-- Stores or spills an entry (R152, R155, R156); `none` where the quota and the share are full. A spilled operand sets
the SPILLED bit of its slot. -/
def State.storeOrSpill (s : State) (el : Nat) (m : MatchEntry) : Option State :=
  let c := tagCtx m.tok.tag
  let core := (s.el el).core
  let cluster := tileLan (elTile el)
  if core.used c < (core.ctx c).quota ∧ core.store.length < 64 then some (s.modCore el fun e => e.insert m)
  else if s.shareUsed cluster c < 4096 then
    let m := { m with seq := core.seq, owner := el }
    let s := s.modCore el fun e =>
      let e := { e with seq := e.seq + 1#12 }
      if m.kind = 1#2 then e
      else e.modCtx c fun x => { x with spilled := x.spilled ||| (1#32 <<< m.slot.toNat) }
    some (s.modLan cluster fun l => { l with ovfl := l.ovfl ++ [m] })
  else none

/-- Clears the SPILLED bits of an element's slots that no longer have entries in the overflow store (R155). -/
def State.clearSpilled (s : State) (el c : Nat) : State :=
  let ov := (s.lan (tileLan (elTile el))).ovfl.filter fun m =>
    decide (m.owner = el ∧ tagCtx m.tok.tag = c ∧ m.kind ≠ 1#2)
  s.modCore el fun e => e.modCtx c fun x =>
    { x with spilled := (List.range 32).foldl (fun acc n =>
        if ov.any fun m => decide (m.slot.toNat = n) then acc else acc &&& ~~~(1#32 <<< n)) x.spilled }

/-! ### Emission (R157, R158, R202, R203) -/

/-- What becomes of an emission once its destination and tag are known. -/
inductive Fate where
  | link (d : Dest)
  | taguse (reason iter : Nat)
  | park (d : Dest) (t : Tag)
  | go (d : Dest) (t : Tag)
  deriving DecidableEq, Repr

/-- Applies a destination's tag operation and checks the result (R26, R202, R158, R203). `iter` is the iteration the
emission carries before TOP. -/
def State.fateOf (s : State) (lead : Option Nat) (tile : Nat) (t : Tag) (iter : Nat) (d : BitVec 31) : Fate :=
  let die := tileDie tile
  let dst := s.resolve lead (tagCtx t) tile d
  if !routable dst then .link dst
  else
    let check (t : Tag) (iter : Nat) : Fate :=
      match s.windowOf lead die t iter with
      | .refuse r => .taguse r iter
      | .park => .park dst (mkTag (tagDie t) (tagCtx t) (tagSpace t) iter)
      | .ok => .go dst (mkTag (tagDie t) (tagCtx t) (tagSpace t) iter)
    if dTop d = 2 then
      match s.spaceLead lead die t with
      | none => .taguse 4 iter
      | some k =>
        match (s.space k (spaceKey (tagCtx t) (tagSpace t))).parent with
        | none => .taguse 4 iter
        | some p => check p (tagIter p)
    else check t (if dTop d = 1 then iter + 1 else iter)

/-- Parks an emission at an element (R158): as a KIND 01 entry, or among the firing's results with an OVFL record. The
entry's SLOT and PORT are the destination's (R150; DESIGN CHOICE, log entry 63). -/
def State.park (s : State) (el : Nat) (m : Emission) : State :=
  let e : MatchEntry := { kind := 1#2, slot := dstSlot m.dest, port := dstPort m.dest, tok := m.tok, seq := 0#12,
                          dest := m.dest, cond := m.cond, owner := el }
  match s.storeOrSpill el e with
  | some s => s
  | none =>
    let c := tagCtx m.tok.tag
    let s := s.modCore el fun x => { x with heldOut := x.heldOut ++ [{ m with why := .place }] }
    s.elLog el kOVFL (dstSlot m.dest) m.tok.tag 0#64 (s.shareUsed (tileLan (elTile el)) c)

/-- A reply that is parked after its element's snapshot, to a request made before it, belongs to the snapshot (R168). -/
def State.snapPark (s : State) (el : Nat) (old : Bool) (d : Dest) (tok : Token) (cond : Bool) : State :=
  if old && (s.el el).snap.isSome then
    s.modEl el fun e =>
      { e with snapOv := e.snapOv ++ [{ kind := 1#2, slot := dstSlot d, port := dstPort d, tok := tok, seq := 0#12,
                                        dest := d, cond := cond, owner := el }] }
  else s

/-- Sends a token on its way from tile `src`: a result of element `el` that finds no room, or stands behind one that
waits, waits among the firing's results (R154). -/
def State.sendOut (s : State) (el src : Nat) (cond : Bool) (d : Dest) (tok : Token) (old : Bool) : State :=
  if decide (src = elTile el) && (!(s.el el).core.heldOut.isEmpty || !s.linkRoom src cond d) then
    s.modCore el fun x => { x with heldOut := x.heldOut ++ [{ dest := d, tok := tok, cond := cond, why := .link }] }
  else s.deliver src el cond d tok old

/-- Carries out the fate of a token, or a condition, that a firing of element `el`'s slot emits from tile `src`. `addr` is
ADDRESS of a TAGUSE record, where it is not the iteration (R227). -/
def State.emitFate (s : State) (el src : Nat) (slot : BitVec 5) (cond : Bool) (tok : Token) (addr : Option Word)
    (old : Bool) : Fate → State
  | .link dst => s.elLog el kLINK slot tok.tag 0#64 dst.toNat
  | .taguse r i => s.elLog el kTAGUSE slot tok.tag (addr.getD (BitVec.ofNat 64 i)) r
  | .park dst t =>
    ((s.noteEmitted (s.leadOfTile (elTile el)) (tileDie (elTile el)) t (s.pastCut el && !old)).park el
      { dest := dst, tok := { tok with tag := t }, cond := cond, why := .place }).snapPark el old dst { tok with tag := t } cond
  | .go dst t =>
    (s.noteEmitted (s.leadOfTile (elTile el)) (tileDie (elTile el)) t (s.pastCut el && !old)).sendOut el src cond dst
      { tok with tag := t } old

/-- Emits one token, or one condition, of a firing of element `el`'s slot to one destination. -/
def State.emitOne (s : State) (el : Nat) (slot : BitVec 5) (cond : Bool) (tok : Token) (iter : Nat) (d : BitVec 31)
    (addr : Option Word := none) : State :=
  s.emitFate el (elTile el) slot cond tok addr false (s.fateOf (s.leadOfTile (elTile el)) (elTile el) tok.tag iter d)

/-- Sends a reply of a memory tile to some destinations of the firing that made the request (R158). -/
def State.emitReply (s : State) (el src : Nat) (slot : BitVec 5) (tok : Token) (ds : List (BitVec 31))
    (old : Bool) : State :=
  (validDests ds).foldl (fun s d =>
    s.emitFate el src slot false tok none old (s.fateOf (s.leadOfTile (elTile el)) (elTile el) tok.tag (tagIter tok.tag) d)) s

/-- Sends copies of a token to some destinations, in order (R171). -/
def State.emitAll (s : State) (el : Nat) (slot : BitVec 5) (tok : Token) (iter : Nat) (ds : List (BitVec 31))
    (addr : Option Word := none) : State :=
  (validDests ds).foldl (fun s d => s.emitOne el slot false tok iter d addr) s

/-- Emits a condition through an entry of the control routing table (R164, R196). -/
def State.emitCond (s : State) (el : Nat) (slot : BitVec 5) (tag : Tag) (cout : BitVec 4) (c : Bool) : State :=
  if cout = 0#4 then s
  else
    match (s.el el).core.ctrls.find cout.toNat with
    | none => s
    | some r =>
      let tok : Token := { tag := tag, fmt := 0#3, pay := if c then 1#80 else 0#80, last := false, poison := false,
                           marker := false }
      s.emitOne el slot true tok (tagIter tag) r.dest

/-! ### Arrival and matching (R151 to R153, R159) -/

/-- Age of a sequence number: larger is older (R150). -/
def ageOf (now seq : BitVec 12) : Nat := (now - seq).toNat

/-- A place in the two stores. -/
inductive Place where
  | store (i : Nat)
  | ovfl (i : Nat)
  deriving DecidableEq, Repr

/-- The oldest entry for a slot, a tag and a port, of those that `p` picks: data of KIND 00 or a condition of KIND 11. The
overflow store is searched where the slot's SPILLED bit is set (R152). -/
def State.oldestOf (s : State) (el : Nat) (slot : BitVec 5) (tag : Tag) (port : BitVec 2) (cond : Bool)
    (p : MatchEntry → Bool) : Option (Place × MatchEntry) :=
  let core := (s.el el).core
  let fits (m : MatchEntry) : Bool :=
    decide (m.slot = slot ∧ m.tok.tag = tag ∧ m.port = port ∧ m.kind = (if cond then 3#2 else 0#2)) && p m
  let inStore := core.store.filterMap fun e => if fits e.2 then some (Place.store e.1, e.2) else none
  let spilled := (core.ctx (tagCtx tag)).spilled.getLsbD slot.toNat
  let ov := (s.lan (tileLan (elTile el))).ovfl
  let inOv := if spilled then
      (List.range ov.length).filterMap fun i =>
        match ov[i]? with
        | some m => if fits m && decide (m.owner = el) then some (Place.ovfl i, m) else none
        | none => none
    else []
  (inStore ++ inOv).foldl (fun acc x =>
    match acc with
    | none => some x
    | some y => if ageOf core.seq y.2.seq < ageOf core.seq x.2.seq then some x else acc) none

/-- The oldest entry for a slot, a tag and a port. -/
def State.oldest (s : State) (el : Nat) (slot : BitVec 5) (tag : Tag) (port : BitVec 2) (cond : Bool) :
    Option (Place × MatchEntry) := s.oldestOf el slot tag port cond fun _ => true

/-- Removes entries from the two stores. -/
def State.removeAt (s : State) (el : Nat) (ps : List Place) : State :=
  let s := s.modCore el fun e =>
    { e with store := e.store.filter fun x => !ps.contains (.store x.1) }
  s.modLan (tileLan (elTile el)) fun l =>
    if l.ovfl.isEmpty then l
    else { l with ovfl := (l.ovfl.mapIdx fun i m => (i, m)).filterMap fun x =>
      if ps.contains (.ovfl x.1) then none else some x.2 }

/-- The operand set that MERGE makes with an arriving token (R151, R198): its condition and the token on the port that the
condition selects. A data token takes the oldest condition that selects its port. -/
def State.mergeSet (s : State) (el : Nat) (f : Slot) (a : Arrival) : Option (List Place × OpSet) :=
  let tag := a.tok.tag
  let sel (c : Bool) : BitVec 2 := BitVec.ofNat 2 (if c then f.selA else f.selB).toNat
  if a.cond then
    if a.port ≠ f.cin then none
    else
      let c := a.tok.pay.getLsbD 0
      (s.oldest el a.slot tag (sel c) false).map fun x =>
        ([x.1], { slot := a.slot, tag := tag, data := [(sel c, x.2.tok)], conds := [(f.cin, c)] })
  else
    (s.oldestOf el a.slot tag f.cin true fun m => decide (sel (m.tok.pay.getLsbD 0) = a.port)).map fun x =>
      ([x.1], { slot := a.slot, tag := tag, data := [(a.port, a.tok)], conds := [(f.cin, x.2.tok.pay.getLsbD 0)] })

/-- The operand set of a slot of arity 1 (R151, R152): the one token is the operand of the one port that the slot reads,
whichever port it names (R171; DESIGN CHOICE, log entry 66). -/
def loneSet (r : Row) (f : Slot) (a : Arrival) : OpSet :=
  { slot := a.slot, tag := a.tok.tag, data := (dataPorts r f).map fun p => (p, a.tok),
    conds := (ctlPorts r f).map fun p => (p, a.tok.pay.getLsbD 0) }

/-- What the slot needs besides the arriving token. -/
def State.partners (s : State) (el : Nat) (i : Instr) (a : Arrival) : Option (List Place × OpSet) :=
  match slotRow i with
  | none => none
  | some (r, f) =>
    let tag := a.tok.tag
    let dat (p : BitVec 2) : Option (List Place × Token) :=
      if !a.cond && decide (a.port = p) then some ([], a.tok)
      else (s.oldest el a.slot tag p false).map fun x => ([x.1], x.2.tok)
    let con (p : BitVec 2) : Option (List Place × Bool) :=
      if a.cond && decide (a.port = p) then some ([], a.tok.pay.getLsbD 0)
      else (s.oldest el a.slot tag p true).map fun x => ([x.1], x.2.tok.pay.getLsbD 0)
    if isMerge i then s.mergeSet el f a
    else if arity i = 1 then some ([], loneSet r f a)
    else
      let ds := (dataPorts r f).map fun p => (p, dat p)
      let cs := (ctlPorts r f).map fun p => (p, con p)
      if (ds.all fun d => d.2.isSome) && (cs.all fun c => c.2.isSome) then
        some ((ds.filterMap fun d => d.2.map (·.1)).flatten ++ (cs.filterMap fun c => c.2.map (·.1)).flatten,
          { slot := a.slot, tag := tag,
            data := ds.filterMap fun d => d.2.map fun x => (d.1, x.2),
            conds := cs.filterMap fun c => c.2.map fun x => (c.1, x.2) })
      else none

/-- Puts a complete operand set into the ready queue (R153). -/
def State.enqueueReady (s : State) (el : Nat) (o : OpSet) : State :=
  s.modCore el fun e => { e with ready := e.ready ++ [o] }

/-- What becomes of an arriving token. -/
inductive Arrived where
  | taken (s : State)
  | stays (s : State)

/-- Stores a token, or leaves it in its skid buffer with an OVFL record (R156). -/
def State.keepToken (s : State) (el : Nat) (kind : BitVec 2) (a : Arrival) : Arrived :=
  let m : MatchEntry := { kind := kind, slot := a.slot, port := a.port, tok := a.tok, seq := 0#12, dest := 0#28,
                          cond := a.cond, owner := el }
  match s.storeOrSpill el m with
  | some s => .taken s
  | none =>
    .stays (s.elLog el kOVFL a.slot a.tok.tag 0#64 (s.shareUsed (tileLan (elTile el)) (tagCtx a.tok.tag)))

/-- `arrive` of R152 for a data or condition token; a malformed data token is discarded (R96), and KIND 10 is kept for a pending slot (R159). -/
def State.arrive (s : State) (el : Nat) (a : Arrival) : Arrived :=
  let core := (s.el el).core
  let c := tagCtx a.tok.tag
  let badFmt := !a.cond && (decide (4 ≤ a.tok.fmt.toNat) || (decide (a.tok.fmt = fmtI64) && decide (2 ^ 64 ≤ a.tok.pay.toNat)))
  if badFmt then .taken (s.elLog el kFMT a.slot a.tok.tag 0#64 a.tok.fmt.toNat)
  else
  let log (info : Nat) : Arrived := .taken (s.elLog el kSLOTCTX a.slot a.tok.tag 0#64 info)
  let foreign (info : Nat) : Arrived :=
    match core.pslots.find a.slot.toNat with
    | some p => if p.ctx = c then s.keepToken el 2#2 a else log info
    | none => log info
  match core.slots.find a.slot.toNat with
  | none => foreign 0
  | some i =>
    if i.ctx ≠ c then foreign (1 + i.ctx * 16)
    else
      match decodeSlot i.instr with
      | none => log 0
      | some (.eNop _) => log 2
      | some ins =>
        match s.partners el ins a with
        | some (ps, o) =>
          let s := if ps.isEmpty then s else (s.removeAt el ps).clearSpilled el c
          .taken (s.enqueueReady el o)
        | none => s.keepToken el (if a.cond then 3#2 else 0#2) a

/-- A data link's skid buffer takes the token that stands behind it. -/
def Element.refill (e : Element) (link : Nat) : Element :=
  match e.road.get [] link with
  | [] => e
  | a :: r => { e with links := e.links.put link (e.links.get [] link ++ [a]), road := e.road.put link r }

/-- A token leaves an input link, which starts a stopped clock (R163): a control link's entry is freed and its credit goes
on the reverse wire (R164), and a data link's skid buffer takes the next token. -/
def State.popLink (s : State) (el link : Nat) : State :=
  s.modEl el fun e =>
    let e := { e with links := e.links.put link ((e.links.get [] link).drop 1), gated := false }
    if 5 ≤ link then
      let c := e.ctl.get CtlLink.empty (link - 5)
      { e with ctl := e.ctl.put (link - 5) { c with sent := c.sent + 1#8, flight := c.flight + 1 } }
    else e.refill link

/-- The channel of an arrival (R168): its sender, on the data network or the control network. -/
def Arrival.chan (a : Arrival) : Nat := 2 * a.src + (if a.cond then 1 else 0)

/-- Records a token that arrives on a channel after the element's snapshot and before the channel's marker (R168). -/
def State.recordToken (s : State) (el : Nat) (a : Arrival) : State :=
  s.modEl el fun e =>
    if e.snap.isSome && (a.old || (e.inch.any (fun p => decide (p.2 = a.chan)) && !e.marked.contains a.chan)) then
      { e with recd := e.recd ++ [a] }
    else e

/-- The die from which a token was sent. -/
def Arrival.fromDie (a : Arrival) : Nat :=
  if a.src < 2 ^ 32 then tileDie (elTile a.src) else tileDie (portTile (a.src - 2 ^ 32))

/-- Sends the condition tokens that a control link's sender holds while it has credits. -/
def CtlLink.drain : Nat → CtlLink → List Arrival → CtlLink × List Arrival
  | 0, c, out => (c, out)
  | fuel + 1, c, out =>
    match c.held with
    | [] => (c, out)
    | a :: r => if c.c = 0#3 ∨ c.sync ≠ none then (c, out) else CtlLink.drain fuel { c.setC (c.c - 1#3) with held := r } (out ++ [a])

/-- Puts the tokens that a link's sender may now send into the receiver's buffer. -/
def State.drainLink (s : State) (el link : Nat) : State :=
  s.modEl el fun e =>
    let r := (e.ctl.get CtlLink.empty link).drain 8 []
    { e with ctl := e.ctl.put link r.1, links := e.links.put (5 + link) (e.links.get [] (5 + link) ++ r.2) }

/-- Ends a resynchronisation of a control link once its buffer has been delivered (R165): both ends are reset, the receiver
logs CTRLSYNC, and the sender resumes. -/
def State.settle (s : State) (el link : Nat) : State :=
  let c := (s.el el).ctl.get CtlLink.empty link
  match c.sync with
  | none => s
  | some info =>
    if !((s.el el).links.get [] (5 + link)).isEmpty then s
    else
      let s := s.modEl el fun e => { e with ctl := e.ctl.put link { CtlLink.empty with held := c.held } }
      let t := elTile el
      let r := { Record.blank with
        kind := kCTRLSYNC, unit := 6#3, el := BitVec.ofNat 4 (elNum el), y := BitVec.ofNat 7 (tileY t),
        x := BitVec.ofNat 6 (tileX t), info := info }
      (s.raise (s.leadOfTile t) (tileDie t) r).drainLink el link

/-- Takes the token at the head of input link `link` of an element off it; a control link that resynchronises may end with
it. -/
def State.leaveLink (s : State) (el link : Nat) : State :=
  if 5 ≤ link then (s.popLink el link).settle el (link - 5) else s.popLink el link

/-- The oldest entry of an element that waited for a switch and whose slot its context now owns (R159). -/
def State.ripest (s : State) (el : Nat) : Option (Place × MatchEntry) :=
  let core := (s.el el).core
  let ripe (m : MatchEntry) : Bool :=
    decide (m.kind = 2#2) && (match core.slots.find m.slot.toNat with
      | some i => decide (i.ctx = tagCtx m.tok.tag)
      | none => false)
  let ov := (s.lan (tileLan (elTile el))).ovfl
  let inOv := (List.range ov.length).filterMap fun i =>
    (ov[i]?).bind fun m => if decide (m.owner = el) && ripe m then some (Place.ovfl i, m) else none
  ((core.store.filter fun e => ripe e.2).map (fun e => (Place.store e.1, e.2)) ++ inOv).foldl (fun acc x =>
    match acc with
    | none => some x
    | some y => if ageOf core.seq y.2.seq < ageOf core.seq x.2.seq then some x else acc) none

/-- Lets entries that waited for a slot's switch arrive (R159), in SEQ order, while the ready queue has room (R153). -/
def State.rearriveN (el : Nat) : Nat → State → State
  | 0, s => s
  | fuel + 1, s =>
    if 8 ≤ (s.el el).core.ready.length then s
    else
      match s.ripest el with
      | none => s
      | some (p, m) =>
        let a : Arrival :=
          { cond := m.cond, bad := false, slot := m.slot, port := m.port, tok := m.tok, src := el, old := false }
        match ((s.removeAt el [p]).clearSpilled el (tagCtx m.tok.tag)).arrive el a with
        | .taken s => State.rearriveN el fuel s
        | .stays _ => s

/-- Lets the entries of an element arrive that waited for a slot's switch, as far as the ready queue has room. -/
def State.rearrive (s : State) (el : Nat) : State :=
  if (s.ripest el).isNone then s
  else s.rearriveN el ((s.el el).core.store.length + (s.lan (tileLan (elTile el))).ovfl.length)

/-- How many records of a region are held for a full ring (R125). -/
def State.heldNo (s : State) (lead : Option Nat) : Nat :=
  match lead with
  | some k => (s.lan k).heldRecs.length
  | none => 0

/-- Whether a record of a region is held for a full ring (R125). -/
def State.recHeld (s : State) (lead : Option Nat) : Bool := decide (s.heldNo lead ≠ 0)

/-- Takes a processed token off its link. One whose record is held for a full ring stays there (R125); `n` records were held
before it was processed. -/
def State.takeOff (s : State) (el link n : Nat) (a : Arrival) : State :=
  if n < s.heldNo (s.leadOfTile (elTile el)) then
    s.modEl el fun e => { e with links := e.links.put link ({ a with logged := true } :: (e.links.get [] link).drop 1) }
  else (s.leaveLink el link).recordToken el a

/-- Processes the token at the head of input link `link` (R152, R156, R166), unless it is a marker or the ready queue is
full (R154). A condition whose parity is wrong is discarded, with a POISON record and an abort (R166). -/
def State.tokenArrive (s : State) (el link : Nat) : State :=
  let e := s.el el
  let lead := s.leadOfTile (elTile el)
  match (e.links.get [] link) with
  | [] => s
  | a :: _ =>
    if a.tok.marker || decide (8 ≤ e.core.ready.length) || s.cutOff a.fromDie (tileDie (elTile el)) then s
    else if a.logged then (if s.recHeld lead then s else (s.leaveLink el link).recordToken el a)
    else if a.cond && a.bad then
      let s := (s.elLog el kPOISON a.slot a.tok.tag 0#64 1).takeOff el link (s.heldNo lead) a
      match lead with
      | some k => s.askAbort k true
      | none => s
    else
      match s.arrive el a with
      | .stays t => t
      | .taken t => t.takeOff el link (s.heldNo lead) a

/-! ### The life of iterations (R157) -/

/-- Whether an element lies in the region led by `lead`. -/
def State.inRegion (s : State) (lead tile : Nat) : Bool :=
  decide (tileDie tile = lanDie lead) && s.covers lead (tileX tile / 8) (tileY tile / 8)

/-- The tag of a token that is no marker. -/
def Token.tag? (t : Token) : Option Tag := if t.marker then none else some t.tag

/-- The tags of the tokens that exist at an element. -/
def Element.tags (e : Element) : List Tag :=
  e.core.store.map (fun m => m.2.tok.tag) ++ e.core.ready.map (fun o => o.tag)
    ++ e.core.waits.map (fun w => w.set.tag) ++ e.core.heldOut.filterMap (fun m => m.tok.tag?)
    ++ (match e.firing with | some o => [o.tag] | none => [])
    ++ ((e.links ++ e.road).map fun l => l.2.filterMap fun a => a.tok.tag?).flatten
    ++ (e.ctl.map fun c => c.2.held.filterMap fun a => a.tok.tag?).flatten

/-- The tags of every token that exists in a region (R157). -/
def State.regionTags (s : State) (lead : Nat) : List Tag :=
  (s.elems.map fun e => if s.inRegion lead (elTile e.1) then e.2.tags else []).flatten
  ++ (s.lans.map fun e =>
      if decide (lanDie e.1 = lanDie lead) && s.covers lead (clX (lanCl e.1)) (clY (lanCl e.1)) then
        e.2.ovfl.map fun m => m.tok.tag
      else []).flatten
  ++ (s.ports.map fun e =>
      if s.inRegion lead (portTile e.1) then
        e.2.inq.filterMap fun a => a.tok.tag?
      else []).flatten
  ++ (s.tiles.map fun e =>
      e.2.reqs.filterMap fun r => if s.inRegion lead (elTile r.el) then some r.tag else none).flatten
/-- The first declared space of the configuration that runs in a context (R51, R139), and ITERS. -/
def State.firstSpace (s : State) (lead ctx : Nat) : Option (Nat × Nat) :=
  match (s.lan lead).cfgs.find? fun c => decide (c.ctx = ctx) && !c.done with
  | some c => c.img.spaces.head?.map fun sp => (sp.1, c.img.iters)
  | none => none

/-- The tag of an element of a port's program (R51): of the first declared space, or of space 0 where none is declared (DESIGN
CHOICE, log entry 58). -/
def State.elemTag (s : State) (p : Nat) (g : Prog) (n : Nat) : Tag :=
  mkTag (tileDie (portTile p)) g.ctx ((s.firstSpace g.lan g.ctx).map (·.1) |>.getD 0) n

/-- The tags of the output elements that the ports of a region have issued and not yet pushed: their iterations stay live
(R293; DEDUCED, log entry 69). -/
def State.issuedTags (s : State) (lead : Nat) : List Tag :=
  (s.ports.map fun e =>
    match e.2.prog with
    | some g =>
      if s.inRegion lead (portTile e.1) then
        (e.2.outq.filter fun r => (e.2.hs.find r.h).any fun x => !x.input).map fun r => s.elemTag e.1 g r.n
      else []
    | none => []).flatten

/-- Whether some token of a space, beside `n` of them, exists in the region. -/
def State.spaceLive (s : State) (lead die ctx space n : Nat) : Bool :=
  decide (n < ((s.regionTags lead).filter fun t => decide (tagDie t = die ∧ tagCtx t = ctx ∧ tagSpace t = space)).length)

/-- Advances the base of a space past an iteration that has been emitted and is no longer live (R157). -/
def State.baseAdvance (s : State) (lead ctx space : Nat) : State :=
  let key := spaceKey ctx space
  let e := s.space lead key
  if e.st ≠ .free ∧ e.base ∈ e.emitted
      ∧ mkTag (lanDie lead) ctx space e.base ∉ s.regionTags lead ++ s.issuedTags lead then
    s.setSpace lead key { e with base := e.base + 1, emitted := e.emitted.filter fun i => decide (i ≠ e.base) }
  else s

/-- Whether the window of a parked token's space has reached it (R158). The space may be closing: the token was emitted
before (R203). -/
def State.inWindow (s : State) (lead : Option Nat) (die : Nat) (t : Tag) : Bool :=
  match s.spaceLead lead die t with
  | none => true
  | some k =>
    let e := s.space k (spaceKey (tagCtx t) (tagSpace t))
    decide (tagIter t < e.base + e.k)

/-- Sends on a parked token of an element once its window allows it and its link has room (R154, R158): entry `idx` of the
matching store, or of the overflow store from 64 on. -/
def State.unpark (s : State) (el idx : Nat) : State :=
  let tile := elTile el
  let lead := s.leadOfTile tile
  let cluster := tileLan tile
  let found : Option (Place × MatchEntry) :=
    if idx < 64 then ((s.el el).core.store.find idx).map fun m => (.store idx, m)
    else ((s.lan cluster).ovfl[idx - 64]?).map fun m => (.ovfl (idx - 64), m)
  match found with
  | none => s
  | some (p, m) =>
    if m.kind ≠ 1#2 ∨ m.owner ≠ el then s
    else
      if s.inWindow lead (tileDie tile) m.tok.tag && s.linkRoom tile m.cond m.dest then
        (s.removeAt el [p]).deliver tile el m.cond m.dest m.tok
      else s

/-- Sends on the oldest emission that a firing of an element still holds: it is parked (R158), leaves on its link (R154), or
stood for a record that is now in its ring (R125). A marker leaves whatever stands on the link (log entry 19). -/
def State.retryHeld (s : State) (el : Nat) : State :=
  match (s.el el).core.heldOut with
  | [] => s
  | m :: r =>
    let t := s.modCore el fun x => { x with heldOut := r }
    match m.why with
    | .place => t.park el m
    | .link =>
      if m.tok.marker || s.linkRoom (elTile el) m.cond m.dest then t.deliver (elTile el) el m.cond m.dest m.tok else s
    | .record => if s.recHeld (s.leadOfTile (elTile el)) then s else t

end Sys2Proof.Machine
end

