-- ==== Sys2Proof/Machine/Fire.lean ====
section
/-! DEFINITION. One firing of an element: what every element instruction shares (R171, R174, R175, R193 to R195). -/

namespace Sys2Proof.Machine

/-- A firing: the element, its slot's fields and routing parcel, and its operand set. -/
structure Fire where
  el    : Nat
  f     : Slot
  row   : Row
  set   : OpSet
  route : Word
  last  : Bool
  deriving DecidableEq, Repr

/-- The context of a firing. -/
def Fire.ctx (w : Fire) : Nat := tagCtx w.set.tag
/-- The iteration of a firing. -/
def Fire.iter (w : Fire) : Nat := tagIter w.set.tag
/-- LAST on the tokens that a firing emits (R66, R171). -/
def Fire.lastOut (w : Fire) : Bool := w.last && routeLp w.route
/-- DEST0 and DEST1. -/
def Fire.dests (w : Fire) : List (BitVec 31) := [dest0 w.route, dest1 w.route]
/-- The token consumed at a data port. -/
def Fire.tok? (w : Fire) (p : BitVec 2) : Option Token := (w.set.data.find? fun d => decide (d.1 = p)).map (·.2)
/-- The condition consumed at a control port. -/
def Fire.cond (w : Fire) (p : BitVec 2) : Bool := ((w.set.conds.find? fun d => decide (d.1 = p)).map (·.2)).getD false
/-- A token of a firing. -/
def Fire.result (w : Fire) (fmt : BitVec 3) (pay : Pay) : Token :=
  { tag := w.set.tag, fmt := fmt, pay := pay, last := w.lastOut, poison := false, marker := false }

/-- An operand of a firing (R70, R148): a hold register is read as it stands, whichever context owns it. -/
def State.operand (s : State) (w : Fire) (form : ConstForm) (sel : BitVec 7) : Operand :=
  selOperand form
    (fun p => match w.tok? p with | some t => ⟨t.fmt, t.pay⟩ | none => ⟨0#3, 0#80⟩)
    w.iter
    (fun h => match (s.el w.el).core.holds.find h.toNat with | some x => ⟨x.fmt, x.pay⟩ | none => ⟨0#3, 0#80⟩)
    sel

/-- The rounding mode of a firing (R87, R175). -/
def State.rmOf (s : State) (w : Fire) : RM := slotMode w.f.rs ((s.el w.el).core.ctx w.ctx).rm

/-- Raises flags in a firing's context (R175). -/
def State.raiseFlags (s : State) (el ctx : Nat) (fl : Flags) : State :=
  if fl = 0#5 then s else s.modCore el fun e => e.modCtx ctx fun x => { x with flags := x.flags ||| fl }

/-- Whether the gate lets a firing execute (R193). -/
def Fire.gateOn (w : Fire) : Bool :=
  match w.row.ctl with
  | .gated =>
    if w.f.gate = 1#2 then w.cond w.f.cin
    else if w.f.gate = 2#2 then !w.cond w.f.cin
    else true
  | _ => true

/-- The destinations of a completion (R54, R208, R213): DEST1 for a load or an atomic, both for a store. -/
def Fire.complDests (w : Fire) : List (BitVec 31) :=
  match w.row.dst with
  | .load => [dest1 w.route]
  | .atomic => [dest1 w.route]
  | _ => w.dests

/-- Sends a firing's token to some destinations. -/
def State.send (s : State) (w : Fire) (t : Token) (ds : List (BitVec 31)) : State :=
  s.emitAll w.el w.set.slot t w.iter ds

/-- Keeps a firing's results back while its record is held for a full ring (R125). -/
def State.stallRec (s : State) (el : Nat) (tag : Tag) : State :=
  if s.recHeld (s.leadOfTile (elTile el)) then
    s.modCore el fun x => { x with heldOut := x.heldOut ++
      [{ dest := 0#28, tok := { tag := tag, fmt := 0#3, pay := 0#80, last := false, poison := false, marker := false },
         cond := false, why := .record }] }
  else s

/-- Logs a record of a firing. -/
def State.fireLog (s : State) (w : Fire) (kind : Byte) (addr : Word) (info : Nat) : State :=
  (s.elLog w.el kind w.set.slot w.set.tag addr info).stallRec w.el w.set.tag

/-- Which token a route or steer form moves on unchanged (R195): a port, if it is a port. -/
abbrev Moves := Fire → Option (BitVec 2)

/-- No token is moved. -/
def movesNone : Moves := fun _ => none

/-- The port a selector names. -/
def portOfSel (sel : BitVec 7) : Option (BitVec 2) := if sel.toNat < 3 then some (BitVec.ofNat 2 sel.toNat) else none

/-- Whether a firing consumes poison (R195): some poisoned token of its set is not the one it moves on. -/
def Fire.poisoned (w : Fire) (mv : Moves) : Bool := w.set.data.any fun d => d.2.poison && decide (mv w ≠ some d.1)

/-- The consumption of poison (R195): a POISON record, and the segment's abort. -/
def State.consumePoison (s : State) (w : Fire) : State :=
  let s := s.fireLog w kPOISON 0#64 0
  match s.leadOfTile (elTile w.el) with
  | some k => s.askAbort k true
  | none => s

/-- Notes that a slot has fired on a token carrying LAST (R160, R194). -/
def State.noteLast (s : State) (w : Fire) : State :=
  if w.last then
    s.modCore w.el fun e => e.modCtx w.ctx fun x => { x with lastDone := x.lastDone ||| (1#32 <<< w.set.slot.toNat) }
  else s

/-- A firing of instruction `i` (R171, R193, R195): the issued operand set is consumed; a gated-off firing sends only
the completion of an instruction with O; a firing that consumes poison logs it; otherwise `k` runs. -/
def State.fire (s : State) (i : Instr) (mv : Moves) (k : Fire → State → State) : Out :=
  match (s.el s.elem).firing, slotRow i with
  | some set, some (row, f) =>
    let route := match (s.el s.elem).core.slots.find set.slot.toNat with
      | some x => x.route
      | none => 0#64
    let w : Fire := { el := s.elem, f := f, row := row, set := set, route := route,
                      last := set.data.any fun d => d.2.last }
    let s := s.modEl s.elem fun e => { e with firing := none }
    let s := s.noteLast w
    .next
      (if !w.gateOn then (if f.o then s.send w (w.result fmtI64 0#80) w.complDests else s)
       else if w.poisoned mv then s.consumePoison w
       else k w s)
  | _, _ => .refused .noOperandSet

/-! ### Compute firings -/

/-- What a compute instruction makes of its operands: a result with flags and, for a comparison, a condition; or a
format error (R174) with its operand's format, position and lane, and the result format. -/
inductive Computed where
  | ok (fmt : BitVec 3) (pay : Pay) (fl : Flags) (cond : Option Bool)
  | bad (fmt : BitVec 3) (pos lane : Nat) (res : BitVec 3)
  deriving DecidableEq, Repr

/-- A format error (R174): an FMT record, and poisoned tokens of the result format with payload zero. -/
def State.formatError (s : State) (w : Fire) (fmt : BitVec 3) (pos lane : Nat) (res : BitVec 3)
    (ds : List (BitVec 31)) : State :=
  (s.fireLog w kFMT 0#64 (fmt.toNat + pos * 16 + lane * 256)).send w { w.result res 0#80 with poison := true } ds

/-- A compute firing (R171, R174, R175). -/
def State.compute (s : State) (i : Instr) (g : Fire → State → Computed) : Out :=
  s.fire i movesNone fun w s =>
    match g w s with
    | .bad fmt pos lane res => s.formatError w fmt pos lane res w.dests
    | .ok fmt pay fl cond =>
      let s := (s.raiseFlags w.el w.ctx fl).send w (w.result fmt pay) w.dests
      match cond with
      | some c => s.emitCond w.el w.set.slot w.set.tag w.f.cout c
      | none => s

end Sys2Proof.Machine
end

