-- ==== Sys2Proof/Machine/ElemMove.lean ====
section
/-! DEFINITION. The route family (R192), the control family (R196 to R198), the tag family (R199 to R203) and NOP
(R215). -/

namespace Sys2Proof.Machine

/-! ### Tokens moved on -/

/-- The token that a selector moves on: a consumed token with its flags, LAST under LP, or a value. -/
def State.moved (s : State) (w : Fire) (sel : BitVec 7) : Token :=
  match portOfSel sel with
  | some p =>
    match w.tok? p with
    | some t => { t with last := w.lastOut }
    | none => w.result fmtI64 0#80
  | none => let o := s.operand w .i64 sel; w.result o.fmt o.pay

/-- The token that STEER, MERGE or GATE moves on with all of its bits (R197). -/
def State.movedWhole (s : State) (w : Fire) (sel : BitVec 7) : Token :=
  match portOfSel sel with
  | some p => (w.tok? p).getD (w.result fmtI64 0#80)
  | none => s.moved w sel

/-- PASS (R192). -/
def execPass (f : Slot) (s : State) : Out :=
  s.fire (.pass f) (fun _ => portOfSel f.selA) fun w s => s.send w (s.moved w f.selA) w.dests
/-- SEL (R192). -/
def execSel (f : Slot) (s : State) : Out :=
  s.fire (.sel f) (fun w => portOfSel (if w.cond f.cin then f.selA else f.selB)) fun w s =>
    s.send w (s.moved w (if w.cond f.cin then f.selA else f.selB)) w.dests
/-- CONST (R192). -/
def execConst (f : Slot) (s : State) : Out :=
  s.fire (.const f) movesNone fun w s =>
    s.send w (w.result fmtI64 (if f.uns then f.imm.setWidth 80 else (f.imm.signExtend 64).setWidth 80)) w.dests
/-- SINK (R192). -/
def execSink (f : Slot) (s : State) : Out := s.fire (.sink f) movesNone fun _ s => s

/-! ### Control family -/

/-- Sends a firing's condition through COUT. -/
def State.sendCond (s : State) (w : Fire) (c : Bool) : State := s.emitCond w.el w.set.slot w.set.tag w.f.cout c

/-- COND (R197). -/
def execCond (f : Slot) (s : State) : Out :=
  s.fire (.cond f) movesNone fun w s => s.sendCond w (s.operand w .i64 f.selA).nonzero
/-- CAND (R197). -/
def execCand (f : Slot) (s : State) : Out :=
  s.fire (.cand f) movesNone fun w s => s.sendCond w (w.cond 0#2 && w.cond 1#2)
/-- COR (R197). -/
def execCor (f : Slot) (s : State) : Out :=
  s.fire (.cor f) movesNone fun w s => s.sendCond w (w.cond 0#2 || w.cond 1#2)
/-- CNOT (R197). -/
def execCnot (f : Slot) (s : State) : Out :=
  s.fire (.cnot f) movesNone fun w s => s.sendCond w (!w.cond f.cin)
/-- STEER (R197): an invalid side drops the token. -/
def execSteer (f : Slot) (s : State) : Out :=
  s.fire (.steer f) (fun _ => portOfSel f.selA) fun w s =>
    s.send w (s.movedWhole w f.selA) [if w.cond f.cin then dest0 w.route else dest1 w.route]
/-- MERGE (R197, R198). -/
def execMerge (f : Slot) (s : State) : Out :=
  s.fire (.merge f) (fun w => portOfSel (if w.cond f.cin then f.selA else f.selB)) fun w s =>
    s.send w (s.movedWhole w (if w.cond f.cin then f.selA else f.selB)) w.dests
/-- GATE (R197): the condition is sent on in either case. -/
def execGate (f : Slot) (s : State) : Out :=
  s.fire (.gate f) (fun _ => portOfSel f.selA) fun w s =>
    (if w.cond f.cin then s.send w (s.movedWhole w f.selA) w.dests else s).sendCond w (w.cond f.cin)

/-! ### Tag family -/

/-- The die of a firing. -/
def Fire.die (w : Fire) : Nat := tileDie (elTile w.el)

/-- The table and number of the space that a firing's tag names. -/
def State.ownSpace (s : State) (w : Fire) : Option (Nat × Nat) :=
  (s.spaceLead (s.leadOfTile (elTile w.el)) w.die w.set.tag).map fun k => (k, spaceKey w.ctx (tagSpace w.set.tag))

/-- TAGUSE of reason 5 (R203). -/
def State.tagClosed (s : State) (w : Fire) : State :=
  s.fireLog w kTAGUSE (BitVec.ofNat 64 w.iter) 5

/-- The lowest free space of a context. One that is free, but stands in a marker snapshot being taken, is not taken: the
snapshot has one entry for it (log entry 68). -/
def State.freeSpace (s : State) (lead ctx : Nat) : Option Nat :=
  lowest 32 fun n =>
    decide ((s.space lead (spaceKey ctx n)).st = .free)
      && !((s.lan lead).cut.any fun c => (c.spaces.find (spaceKey ctx n)).isSome)

/-- A firing waits beside the integer unit (R486). -/
def State.waitFiring (s : State) (w : Fire) (op : TagOp) : State :=
  s.modCore w.el fun e => { e with waits := e.waits ++ [{ op := op, f := w.f, route := w.route, set := w.set }] }

/-- The operand of a tag firing as its token: its flags but LAST, which goes under LP. -/
def State.tagToken (s : State) (w : Fire) : Token :=
  let o := s.operand w .i64 w.f.selA
  w.result o.fmt o.pay

/-- Opens space `n` for a TALLOC or TCALL firing and sends its token (R201). `call` keeps DEST1 as the return. -/
def State.openSpace (s : State) (w : Fire) (lead n : Nat) (call : Bool) : State :=
  let tile := elTile w.el
  let ret := if call then some (s.resolve (some lead) w.ctx tile (dest1 w.route)) else none
  let e : SpaceEntry := { st := .open, k := (w.f.imm.extractLsb' 8 8).toNat + 1, base := 0, next := 0, emitted := [],
                          parent := some w.set.tag, ret := ret }
  let s := s.modSpace lead (spaceKey w.ctx n) (s.pastCut w.el) fun _ => e
  s.emitAll w.el w.set.slot { s.tagToken w with tag := mkTag w.die w.ctx n 0 } 0
    (if call then [dest0 w.route] else w.dests)

/-- Whether the space of a firing's tag may be opened from or closed (R201, R203). -/
def State.ownOpen (s : State) (w : Fire) : Option (Nat × Nat) :=
  match s.ownSpace w with
  | some (k, key) => if (s.space k key).st = .open then some (k, key) else none
  | none => none

/-- A TALLOC or TCALL firing (R201): it waits while no space of its context is free. -/
def State.alloc (s : State) (w : Fire) (call : Bool) : State :=
  match s.ownOpen w, s.leadOfTile (elTile w.el) with
  | some _, some lead =>
    (match s.freeSpace lead w.ctx with
     | some n => s.openSpace w lead n call
     | none => s.waitFiring w (if call then .call else .alloc))
  | _, _ => s.tagClosed w

/-- The fate of TRET's token (R201, R203): to the return destination with the parent tag. A space that TCALL did not
open has no return destination: reason 4 (DESIGN CHOICE, log entry 13). -/
def State.returnFate (s : State) (w : Fire) (e : SpaceEntry) : Fate :=
  match e.parent, e.ret with
  | some p, some d =>
    if !routable d then .link d
    else
      match s.windowOf (s.leadOfTile (elTile w.el)) w.die p (tagIter p) with
      | .refuse r => .taguse r (tagIter p)
      | .park => .park d p
      | .ok => .go d p
  | _, _ => .taguse 4 w.iter

/-- Ends a TFREE or TRET whose space is empty (R201): the token goes out and the entry is free. -/
def State.closeSpace (s : State) (w : Fire) (lead key : Nat) (ret : Bool) : State :=
  let e := s.space lead key
  let s := if ret then s.emitFate w.el (elTile w.el) w.set.slot false (s.tagToken w) none false (s.returnFate w e)
    else s.send w (s.tagToken w) w.dests
  s.modSpace lead key (s.pastCut w.el) fun _ => SpaceEntry.empty

/-- A TFREE or TRET firing (R201): the space closes, and the firing waits while other tokens of it exist. -/
def State.free_ (s : State) (w : Fire) (ret : Bool) : State :=
  match s.ownOpen w with
  | none => s.tagClosed w
  | some (lead, key) =>
    let s := s.modSpace lead key (s.pastCut w.el) fun e => { e with st := .closing }
    if s.spaceLive lead (tagDie w.set.tag) w.ctx (tagSpace w.set.tag) 0 then
      s.waitFiring w (if ret then .ret else .free)
    else s.closeSpace w lead key ret

/-- TALLOC (R201). -/
def execTalloc (f : Slot) (s : State) : Out := s.fire (.talloc f) movesNone fun w s => s.alloc w false
/-- TCALL (R201). -/
def execTcall (f : Slot) (s : State) : Out := s.fire (.tcall f) movesNone fun w s => s.alloc w true
/-- TFREE (R201). -/
def execTfree (f : Slot) (s : State) : Out := s.fire (.tfree f) movesNone fun w s => s.free_ w false
/-- TRET (R201). -/
def execTret (f : Slot) (s : State) : Out := s.fire (.tret f) movesNone fun w s => s.free_ w true
/-- TNEXT (R201). -/
def execTnext (f : Slot) (s : State) : Out :=
  s.fire (.tnext f) movesNone fun w s => s.emitAll w.el w.set.slot (s.tagToken w) (w.iter + 1) w.dests
/-- TITER (R201, R203). -/
def execTiter (f : Slot) (s : State) : Out :=
  s.fire (.titer f) movesNone fun w s =>
    let b := s.operand w .i64 f.selB
    let t := s.tagToken w
    if b.fmt ≠ fmtI64 then s.formatError w b.fmt 1 0 t.fmt w.dests
    else if 2 ^ 24 ≤ b.low.toNat then
      (validDests w.dests).foldl (fun s _ => s.fireLog w kTAGUSE b.low 2) s
    else s.emitAll w.el w.set.slot t b.low.toNat w.dests (some b.low)

/-- Ends waiting firing `idx` of an element, if its wait is over (R201, R486). -/
def State.waitEnd (s : State) (el idx : Nat) : State :=
  match (s.el el).core.waits[idx]? with
  | none => s
  | some x =>
    let i : Instr := match x.op with
      | .alloc => .talloc x.f
      | .call => .tcall x.f
      | .free => .tfree x.f
      | .ret => .tret x.f
    match slotRow i with
    | none => s
    | some (row, f) =>
      let w : Fire := { el := el, f := f, row := row, set := x.set, route := x.route,
                        last := x.set.data.any fun d => d.2.last }
      let drop (s : State) : State := s.modCore el fun e => { e with waits := e.waits.eraseIdx idx }
      match s.ownSpace w, s.leadOfTile (elTile el) with
      | some (k, key), some lead =>
        let close (ret : Bool) : State :=
          if s.spaceLive k (tagDie w.set.tag) w.ctx (tagSpace w.set.tag) 1 then s
          else (drop s).closeSpace w k key ret
        let opn (call : Bool) : State :=
          match s.freeSpace lead w.ctx with
          | some n => (drop s).openSpace w lead n call
          | none => s
        match x.op with
        | .alloc => opn false
        | .call => opn true
        | .free => close false
        | .ret => close true
      | _, _ => s

/-- TAG_WAIT_END (R201). -/
def execTagWaitEnd (el idx : Nat) (s : State) : Out := .next (s.waitEnd el idx)

/-! ### Miscellaneous -/

/-- NOP in a slot (R215): it never fires; the operand set is dropped with a SLOTCTX record. -/
def execENop (f : Slot) (s : State) : Out :=
  s.fire (.eNop f) movesNone fun w s => s.fireLog w kSLOTCTX 0#64 2

end Sys2Proof.Machine
end

