-- ==== Sys2Proof/Machine/Spare.lean ====
section
/-! DEFINITION. The spare elements (R429 to R432, R437, R441): rows and positions, the state word, what is shadowed. -/

namespace Sys2Proof.Machine

/-- The number of an element row's spare. -/
def spareKey (die row : Nat) : Nat := die * 512 + row

/-- The row of an element in its die. -/
def spareRow (el : Nat) : Nat := 4 * tileY (elTile el) + elNum el / 4
/-- The position of an element in its row. -/
def sparePos (el : Nat) : Nat := 4 * (tileX (elTile el) / 2) + elNum el % 4
/-- The element at a position of a row. -/
def spareEl (die row pos : Nat) : Nat :=
  let y := row / 4
  elOf (tileOf die (2 * (pos / 4) + y % 2) y) (4 * (row % 4) + pos % 4)

/-- The spare state of a row (R429). -/
def State.spare (s : State) (die row : Nat) : Word := s.spares.get spareReset (spareKey die row)
/-- RMAP. -/
def spRmap (v : Word) : Bool := v.getLsbD 63
/-- SUSP. -/
def spSusp (v : Word) : Bool := v.getLsbD 55
/-- HOLD. -/
def spHold (v : Word) : Bool := v.getLsbD 15
/-- INTERVAL. -/
def spInterval (v : Word) : Nat := (v.extractLsb' 16 32).toNat
/-- POS. -/
def spPos (v : Word) : Nat := (v.extractLsb' 0 7).toNat
/-- Replaces bits `lo` to `lo + n - 1` of a word. -/
def setBits (v : Word) (lo n x : Nat) : Word :=
  let m : Word := BitVec.ofNat 64 ((2 ^ n - 1) * 2 ^ lo)
  (v &&& ~~~m) ||| (BitVec.ofNat 64 (x * 2 ^ lo) &&& m)

/-- Writes the spare state of a row. -/
def State.setSpare (s : State) (die row : Nat) (v : Word) : State := { s with spares := s.spares.put (spareKey die row) v }

/-- The element that a row's spare shadows: none while it replaces one, or while POS is an array element (R430, R432). -/
def State.shadowed (s : State) (die row : Nat) : Option Nat :=
  let v := s.spare die row
  let el := spareEl die row (spPos v)
  if spRmap v || (s.arrayAt el).isSome then none else some el

/-- The mismatch that an operand set of an element brings about, if its comparison is to mismatch (R440). -/
def State.forced (s : State) (el : Nat) : Option Post :=
  let die := tileDie (elTile el)
  let row := spareRow el
  if s.spareForce.contains (spareKey die row) && decide (s.shadowed die row = some el) then some (.mismatch die row) else none

/-- The elements that a SPARE waits for: its Lantern still stands at it (R437). -/
def State.spareHeld (s : State) : List Nat :=
  (s.spareq.filter fun w => decide ((s.lan w.1).st = .run ∧ (s.lan w.1).pc = w.2.1)).map fun w => w.2.2

end Sys2Proof.Machine
end

