-- ==== Sys2Proof/Machine/FabricEvents.lean ====
section
/-! DEFINITION. The events of the fabric: arrival, issue, retries, the life of iterations, the wavefront switch (R160 to
R162), clock gating (R163), the control links (R164, R165) and markers (R168). -/

namespace Sys2Proof.Machine

/-! ### The order of arrivals (R152, R153) -/

/-- A token's place among those of its cycle (R153): by its port, a to o and then the control ports, and by its link. -/
def Arrival.rank (a : Arrival) (link : Nat) : Nat := ((if a.cond then 4 else 0) + a.port.toNat) * 8 + link % 5

/-- Whether the token at the head of a link that R153 puts first lets the others of its cycle go: a marker, a token behind a
held edge, and one that finds no place (R156). -/
def State.standsAside (s : State) (el : Nat) (a : Arrival) : Bool :=
  a.tok.marker || a.logged || s.cutOff a.fromDie (tileDie (elTile el)) ||
    (match s.arrive el a with
     | .stays _ => !(a.cond && a.bad)
     | .taken _ => false)

/-- Whether it is the turn of the token at the head of link `link` among those of its cycle (R152, R153). -/
def State.itsTurn (s : State) (el link : Nat) : Bool :=
  match (s.el el).links.get [] link with
  | [] => true
  | a :: _ => (s.el el).links.all fun q =>
      match q.2 with
      | [] => true
      | b :: _ => decide (a.rank link ≤ b.rank q.1) || s.standsAside el b

/-! ### Issue (R154, R486) -/

/-- Whether an executed firing of a tag instruction waits (R201, R486), where its set still stands in the queue. -/
def State.tagWaits (s : State) (w : Fire) (i : Instr) : Bool :=
  match s.ownOpen w, s.leadOfTile (elTile w.el) with
  | some (k, _), some lead =>
    let full := (s.freeSpace lead w.ctx).isNone
    let live := s.spaceLive k (tagDie w.set.tag) w.ctx (tagSpace w.set.tag) 1
    (match i with
     | .talloc _ => full
     | .tcall _ => full
     | .tfree _ => live
     | .tret _ => live
     | _ => false)
  | _, _ => false

/-- Whether a set at the head of the queue cannot leave it: it would be a ninth waiting firing (R486). A firing that is
gated off, or that consumes poison, does not wait (R193, R195). -/
def State.ninthWait (s : State) (w : Fire) (i : Instr) : Bool :=
  decide (8 ≤ (s.el w.el).core.waits.length) && w.gateOn && !w.poisoned movesNone && s.tagWaits w i

/-- The unit that an instruction uses (R147, R486): the wide-float unit 0, the 12-lane dot unit 1, the 10-lane dot unit 2,
the integer unit 3. -/
def unitOf (i : Instr) : Nat :=
  match i with
  | .fadd _ | .fsub _ | .fmul _ | .fma _ | .fms _ | .fnma _ | .fmin _ | .fmax _ | .fabs _ | .fneg _ | .fdiv _ | .fsqrt _
  | .frcp _ | .frsq _ | .flg2 _ | .fex2 _ | .frnd _ | .fcmp _ | .cvtfi _ | .cvtif _ | .cvtfl _ | .cvtlf _ => 0
  | .ldot _ | .lsum _ => 1
  | .bdot _ | .packedBadd _ => 2
  | _ => 3

/-- Whether a W operand is long (R94). -/
def WVal.long (v : WVal) : Bool :=
  match v with
  | .fin _ _ _ => decide ((wexact v).extractLsb' 0 32 ≠ 0#32)
  | _ => false

/-- The passes of a product (R94). -/
def passes (a b : WVal) : Nat := (if a.long then 2 else 1) * (if b.long then 2 else 1)

/-- The operands of a firing, by the row's uses of its selectors. -/
def State.floatOperands (s : State) (w : Fire) : List Operand :=
  (if w.row.a = .float then [s.operand w .w w.f.selA] else []) ++ (if w.row.b = .float then [s.operand w .w w.f.selB] else [])
    ++ (if w.row.c = .float then [s.operand w .w w.f.selC] else [])

/-- The issue interval of a firing (R170): the cycles before its unit can take the next set. -/
def State.interval (s : State) (w : Fire) (i : Instr) : Nat :=
  let v (sel : BitVec 7) : WVal := (s.operand w .w sel).asW false
  let slow := if (s.floatOperands w).any fun o => decide (o.fmt ≠ fmtW) then 1 else 0
  let both (fmt : BitVec 3) (n : Nat) : Nat :=
    if (s.operand w .i64 w.f.selA).fmt = fmt ∧ (s.operand w .i64 w.f.selB).fmt = fmt then 1 else n
  match i with
  | .fmul _ | .fma _ | .fms _ | .fnma _ => passes (v w.f.selA) (v w.f.selB) + slow
  | .fdiv _ => 24 + slow
  | .fsqrt _ => 26 + slow
  | .frcp _ => 8 + slow
  | .frsq _ => 10 + slow
  | .flg2 _ | .fex2 _ => 12 + slow
  | .idiv _ | .irem _ => 36
  | .ldot _ => both fmtL6 12
  | .lsum _ => if (s.operand w .i64 w.f.selA).fmt = fmtL6 then 1 else 12
  | .bdot _ => both fmtI8 10
  | _ => 1 + slow

/-- A unit takes a set for some cycles (R154, R486); one that is free again in the next cycle is not listed. -/
def ElemCore.take (e : ElemCore) (now unit n : Nat) : ElemCore :=
  { e with busy := if n ≤ 1 then e.busy.del unit else e.busy.put unit (now + n) }

/-- The firing that the set at the head of an element's queue makes. -/
def State.headFire (s : State) (el : Nat) (o : OpSet) : Option (Fire × Instr) :=
  (s.slotOf el o.slot).bind fun i =>
    (slotRow i).map fun r => ({ el := el, f := r.2, row := r.1, set := o, route := 0#64, last := false }, i)

/-- Whether a set leaves the head of an element's queue (R154, R486). -/
def State.mayIssue (s : State) (el : Nat) (o : OpSet) : Bool :=
  match s.headFire el o with
  | none => true
  | some (w, i) => decide ((s.el el).core.busy.get 0 (unitOf i) ≤ s.tick) && !s.ninthWait w i

/-- The unit of an issued set is taken. -/
def State.takeUnit (s : State) (el : Nat) (o : OpSet) : State :=
  match s.headFire el o with
  | none => s
  | some (w, i) => s.modCore el fun e => e.take s.tick (unitOf i) (s.interval w i)

/-- A FIRE packet's body (R473). -/
def fireBody (parcel : Word) (el : Nat) (o : OpSet) : Word :=
  parcel.extractLsb' 52 12 ++ BitVec.ofNat 4 (elNum el) ++ BitVec.ofNat 3 (tileX (elTile el))
    ++ BitVec.ofNat 3 (tileY (elTile el)) ++ o.slot ++ 0#1 ++ o.tag

/-- Counts an issued firing of a traced cluster, and records every 2^SAMP-th one (R474). -/
def State.traceFire (s : State) (el : Nat) (o : OpSet) : State :=
  let lan := tileLan (elTile el)
  if s.traced lan 2 then
    let n := (s.lan lan).day.fires + 1
    let s := s.modLan lan fun l => { l with day := { l.day with fires := n } }
    let samp := ((s.beacon (lanDie lan)).dayCtl.extractLsb' 8 4).toNat
    let parcel := match (s.el el).core.slots.find o.slot.toNat with
      | some i => i.instr
      | none => 0#64
    if n % 2 ^ samp = 0 then s.packet lan 5 (fireBody parcel el o) else s
  else s

/-- Issues the operand set at the head of an element's ready queue (R154): the element executes it next, and the spare
that shadows it compares (R430). The place in the queue goes first to an entry that waited for a slot's switch (R159). -/
def State.issue (s : State) (el : Nat) : State :=
  let e := s.el el
  match e.core.ready with
  | [] => s
  | o :: rest =>
    if e.firing.isSome || !e.core.heldOut.isEmpty || !s.mayIssue el o then s
    else
      let s := s.takeUnit el o
      let s := (s.modEl el fun e => { e with core := { e.core with ready := rest }, firing := some o }).rearrive el
      let rest := match s.forced el with
        | some p => .post p :: s.agenda
        | none => s.agenda
      { s.traceFire el o with agenda := .element el :: rest }

/-! ### Retries (R156, R158) -/

/-- Whether a token of context `c` finds a place at an element: an entry under its quota, or in its share. -/
def State.hasRoom (s : State) (el c : Nat) : Bool :=
  let core := (s.el el).core
  decide (core.used c < (core.ctx c).quota ∧ core.store.length < 64)
    || decide (s.shareUsed (tileLan (elTile el)) c < 4096)

/-- Processes a token again that an OVFL record holds back: at the head of an input link, or, with link 10, among the
results of a firing. -/
def State.ovflRetry (s : State) (el link : Nat) : State :=
  if link = 10 then
    match (s.el el).core.heldOut with
    | [] => s
    | m :: _ => if m.why ≠ .place ∨ s.hasRoom el (tagCtx m.tok.tag) = true then s.retryHeld el else s
  else
    match (s.el el).links.get [] link with
    | [] => s
    | a :: _ => if s.hasRoom el (tagCtx a.tok.tag) then s.tokenArrive el link else s

/-! ### The wavefront (R160 to R162) -/

/-- Whether a token of context `c` exists at an element (R157). -/
def State.ctxTokens (s : State) (el c : Nat) : Bool :=
  (s.el el).tags.any (fun t => decide (tagCtx t = c))
    || (s.lan (tileLan (elTile el))).ovfl.any (fun m => decide (m.owner = el ∧ tagCtx m.tok.tag = c))
    || s.tiles.any (fun e => e.2.reqs.any fun r => decide (r.el = el ∧ tagCtx r.tag = c))

/-- Whether the configuration that runs in context `c` of a region has completed (R138); none that is armed counts as
completed (DESIGN CHOICE, log entry 64). -/
def State.ctxDone (s : State) (lead c : Nat) : Bool :=
  let mine := (s.lan lead).cfgs.filter fun x => decide (x.ctx = c) && x.armed
  mine.all fun x => x.done

/-- Whether every slot of context `c` with LP set has fired on a token carrying LAST, and there is one (R160). A slot still
pending for `c` has not fired. -/
def ElemCore.lpDone (e : ElemCore) (c : Nat) : Bool :=
  let mine (i : Nat × SlotImg) : Bool := decide (i.2.ctx = c) && routeLp i.2.route
  let lp := e.slots.filter mine
  !lp.isEmpty && (lp.all fun i => (e.ctx c).lastDone.getLsbD i.1) && !e.pslots.any mine

/-- Whether an element's part of the configuration in context `c` is done (R160). -/
def State.partDone (s : State) (el c : Nat) : Bool :=
  !s.ctxTokens el c &&
    ((s.el el).core.lpDone c || (match s.leadOfTile (elTile el) with
      | some lead => s.ctxDone lead c
      | none => true))

/-- A table after the switch of context `c` (R161): every pending image is active, and what else `c` owned is free. -/
def switchTab {α : Type} (ctx : α → Nat) (c : Nat) (act pend : Tab α) : Tab α :=
  pend.foldl (fun t e => t.put e.1 e.2) (act.filter fun e => decide (ctx e.2 ≠ c))

/-- Keeps the flags of context `c` of an element that switches for the configuration's completion (R93). -/
def State.keepFlags (s : State) (el c : Nat) : State :=
  match s.leadOfTile (elTile el) with
  | none => s
  | some lead =>
    let fl := ((s.el el).core.ctx c).flags
    if fl = 0#5 then s
    else
      s.modLan lead fun l =>
        { l with cfgs := l.cfgs.map fun x => if x.ctx = c ∧ x.done = false then { x with flags := x.flags ||| fl } else x }

/-- The switch of an element after context `c` (R161): every pending resource becomes active, the others of `c` free; its
context state and its matching entries go; entries that waited for the new contexts arrive. -/
def State.switchCtx (s : State) (el c : Nat) : State :=
  let cluster := tileLan (elTile el)
  let s := s.keepFlags el c
  let s := s.modCore el fun e =>
    { e with
      slots := switchTab SlotImg.ctx c e.slots e.pslots, pslots := [],
      holds := switchTab HoldImg.ctx c e.holds e.pholds, pholds := [],
      ctrls := switchTab CtrlImg.ctx c e.ctrls e.pctrls, pctrls := [],
      store := e.store.filter fun m => decide (tagCtx m.2.tok.tag ≠ c), ctxs := e.ctxs.del c }
  let s := s.modEl el fun e => { e with inch := e.inch.filter fun p => decide (p.1 ≠ c) }
  let s := if (s.lan cluster).ovfl.isEmpty then s
    else s.modLan cluster fun l =>
      { l with ovfl := l.ovfl.filter fun m => !(decide (m.owner = el ∧ tagCtx m.tok.tag = c)) }
  s.rearrive el

/-- The elements of a region at which context `c` is in use. -/
def State.ctxElems (s : State) (lead c : Nat) : List Nat :=
  (s.elems.filter fun e => s.inRegion lead (elTile e.1) && (e.2.core.ctxs.find c).isSome).map (·.1)

/-! ### The control links (R164, R165) -/

/-- A credit comes back on control link `link` of an element (R164). -/
def State.credit (s : State) (el link : Nat) : State :=
  let c := (s.el el).ctl.get CtlLink.empty link
  if c.flight = 0 then s
  else
    (s.modEl el fun e =>
      { e with ctl := e.ctl.put link { c.setC (c.c + 1#3) with got := c.got + 1#8, flight := c.flight - 1 } }).drainLink
      el link

/-- Delivers every token in a control link's buffer to the element. -/
def State.deliverAll (s : State) (el link : Nat) : Nat → State
  | 0 => s
  | n + 1 => State.deliverAll (s.tokenArrive el (5 + link)) el link n

/-- The audit of a control link (R165). A link that is not healthy starts to resynchronise: its sender holds its tokens
until the receiver has delivered its buffer. -/
def State.audit (s : State) (el link : Nat) : State :=
  let e := s.el el
  let c := e.ctl.get CtlLink.empty link
  let o := (e.links.get [] (5 + link)).length
  let p := (c.sent - c.got).toNat
  if c.sync.isSome || (!c.bad && decide (c.c.toNat + o + p = 4)) then s
  else
    let info := BitVec.ofNat 32
      (c.c.toNat + o % 8 * 8 + p * 64 + (if c.bad then 2 ^ 14 else 0) + link * 2 ^ 15)
    let s := s.modEl el fun e => { e with ctl := e.ctl.put link { c with sync := some info } }
    (s.deliverAll el link o).settle el link

/-- Whether an element is idle (R163): skid buffers, ready queue and units empty. -/
def Element.idle (e : Element) (now : Nat) : Bool :=
  e.links.all (fun l => l.2.isEmpty) && e.core.ready.isEmpty && e.firing.isNone && e.core.busy.all (fun u => decide (u.2 ≤ now))

/-! ### Markers (R168) -/

/-- A marker carrying snapshot number `k` (R95). -/
def markToken (k : BitVec 32) : Token :=
  { tag := 0#36, fmt := fmtMark, pay := k.setWidth 80, last := false, poison := false, marker := true }

/-- The tile at (dx, dy) of a region. -/
def State.relTile (s : State) (lead dx dy : Nat) : Nat :=
  let b := s.box lead
  tileOf (lanDie lead) (b.1 + dx) (b.2.1 + dy)

/-- The element of a record. -/
def State.recEl (s : State) (lead : Nat) (r : PlaceRec) : Nat := elOf (s.relTile lead r.dx r.dy) r.e

/-- The port of a stream record. -/
def State.recPort (s : State) (lead : Nat) (r : StreamRec) : Nat := portOf (s.relTile lead r.dx r.dy) r.p

/-- The channels of an image (R168): sender's number times two, plus one on the control network, and destination. -/
def State.imageChans (s : State) (lead : Nat) (im : Image) : List (Nat × Dest) :=
  let res (tile : Nat) (d : BitVec 31) : Dest :=
    if dFar d then im.far.getD (dFarIdx d) 0#28 else s.resolve (some lead) 8 tile d
  let slots := (im.slots.map fun r =>
    (validDests [dest0 r.hi, dest1 r.hi]).map fun d => (2 * s.recEl lead r, res (elTile (s.recEl lead r)) d)).flatten
  let ctrls := (im.ctrls.filter fun r => dV (r.lo.extractLsb' 0 31)).map fun r =>
    (2 * s.recEl lead r + 1, res (elTile (s.recEl lead r)) (r.lo.extractLsb' 0 31))
  let strms := (im.streams.map fun r =>
    r.binds.map fun b => (2 * (2 ^ 32 + s.recPort lead r), res (portTile (s.recPort lead r)) (b.extractLsb' 0 31))).flatten
  slots ++ ctrls ++ strms

/-- The channels of a region's configurations that have not completed. -/
def State.regionChans (s : State) (lead : Nat) : List (Nat × Dest) :=
  (((s.lan lead).cfgs.filter fun x => !x.done).map fun x => s.imageChans lead x.img).flatten

/-- The outbound channels of a sender among some channels: one of each (element or port, network). -/
def outboundOf (cs : List (Nat × Dest)) (src : Nat) : List (Dest × Bool) :=
  (cs.filterMap fun c =>
    if c.1 / 2 = src ∧ routable c.2 = true then some (c.2 &&& ~~~0x7F#28, decide (c.1 % 2 = 1)) else none).eraseDups

/-- Sends MARK k on each outbound channel of an element, or of a port with its number above 2^32: behind the results that
an element still holds. -/
def State.sendMarks (s : State) (lead tile src : Nat) (k : BitVec 32) : State :=
  (outboundOf (s.regionChans lead) src).foldl (fun s d =>
    if decide (src < 2 ^ 32) && !(s.el src).core.heldOut.isEmpty then
      s.modCore src fun x =>
        { x with heldOut := x.heldOut ++ [{ dest := d.1, tok := markToken k, cond := d.2, why := .link }] }
    else s.deliver tile src d.2 d.1 (markToken k)) s

/-- An element takes its snapshot (R168): its own state is kept, every context of it is marked, and a MARK goes out on
each outbound channel. -/
def State.snapshot (s : State) (el : Nat) (k : BitVec 32) : State :=
  let ov := (s.lan (tileLan (elTile el))).ovfl.filter fun m => decide (m.owner = el)
  let mark (x : Tile) : Tile := { x with reqs := x.reqs.map fun r => if r.el = el then { r with old := true } else r }
  let s : State := { s with tiles := s.tiles.map fun t => (t.1, mark t.2) }
  let s := s.modEl el fun e =>
    { e with snap := some { e.core with ready := e.firing.toList ++ e.core.ready }, snapOv := ov, recd := [], marked := [],
             core := { e.core with ctxs := e.core.ctxs.map fun c => (c.1, { c.2 with marked := true, snap := k }) } }
  match s.leadOfTile (elTile el) with
  | some lead => s.sendMarks lead (elTile el) el k
  | none => s

/-- A MARK at the head of an input link of an element (R168). One of another snapshot is discarded. -/
def State.markerArrive (s : State) (el link : Nat) : State :=
  match (s.el el).links.get [] link with
  | [] => s
  | a :: _ =>
    if !a.tok.marker || decide (8 ≤ (s.el el).core.ready.length) || s.cutOff a.fromDie (tileDie (elTile el)) then s
    else
      let s := s.leaveLink el link
      match s.leadOfTile (elTile el) with
      | none => s
      | some lead =>
        let k := a.tok.pay.setWidth 32
        if !(s.lan lead).prePend || decide (k ≠ (s.lan lead).snapNo) then s
        else
          let s := if (s.el el).snap.isSome then s else s.snapshot el k
          if (s.el el).marked.contains a.chan then s
          else
            s.modEl el fun e =>
              let cs := e.core.ctxs.map fun c =>
                if e.inch.contains (c.1, a.chan) then (c.1, { c.2 with mrem := c.2.mrem - 1 }) else c
              { e with marked := e.marked ++ [a.chan], core := { e.core with ctxs := cs } }

/-! ### The events -/

/-- TOKEN_ARRIVE (R152): the tokens of a cycle that R153 puts before it go first. -/
def execTokenArrive (el link : Nat) (s : State) : Out :=
  .next (if s.itsTurn el link then s.tokenArrive el link else s)
/-- MARKER_ARRIVE (R168). -/
def execMarkerArrive (el link : Nat) (s : State) : Out := .next (s.markerArrive el link)
/-- FIRING_ISSUE (R154). -/
def execFiringIssue (el : Nat) (s : State) : Out := .next (s.issue el)
/-- OVFL_TOKEN_RETRY (R156, R158). -/
def execOvflTokenRetry (el link : Nat) (s : State) : Out := .next (s.ovflRetry el link)
/-- TAG_BASE_ADVANCE (R157). -/
def execTagBaseAdvance (lan ctx space : Nat) (s : State) : Out := .next (s.baseAdvance lan ctx space)
/-- PARKED_TOKEN_RELEASE (R158). -/
def execParkedTokenRelease (el idx : Nat) (s : State) : Out := .next (s.unpark el idx)
/-- SLOT_SWITCH (R161): an element's part of the configuration in context `ctx` is done, and an image waits for it. -/
def execSlotSwitch (el ctx : Nat) (s : State) : Out :=
  .next (if ((s.el el).core.ctx ctx).armed && s.partDone el ctx then s.switchCtx el ctx else s)
/-- CLOCK_GATE (R163). -/
def execClockGate (el : Nat) (s : State) : Out :=
  .next (if (s.el el).idle s.tick then s.modEl el fun e => { e with gated := true } else s)
/-- CONDITION_CREDIT (R164). -/
def execConditionCredit (el link : Nat) (s : State) : Out := .next (s.credit el link)
/-- CTRL_AUDIT (R165). -/
def execCtrlAudit (el link : Nat) (s : State) : Out := .next (s.audit el link)

end Sys2Proof.Machine
end

