-- ==== Sys2Proof/Machine/ElemMem.lean ====
section
/-! DEFINITION. Memory and synchronisation firings of an element (R204 to R206, R213): operand checks, the address, and
the request to the serving tile. -/

namespace Sys2Proof.Machine

/-- The memory tile that serves an element's requests (R205). -/
def servingTile (el : Nat) : Nat :=
  let t := elTile el
  let x : Int := tileX t
  let y : Int := tileY t
  let inGrid (p : Int × Int) : Bool := decide (0 ≤ p.1 ∧ p.1 < 56 ∧ 0 ≤ p.2 ∧ p.2 < 112)
  let own : Int × Int := match elNum el % 4 with
    | 0 => (x - 1, y)
    | 1 => (x, y - 1)
    | 2 => (x, y + 1)
    | _ => (x + 1, y)
  let p := ((own :: [(x - 1, y), (x + 1, y), (x, y - 1), (x, y + 1)]).find? inGrid).getD (x, y)
  tileOf (tileDie t) p.1.toNat p.2.toNat

/-- Whether a request of this operation makes a data reply to DEST0: loads and atomics. -/
def MemOp.hasData : MemOp → Bool
  | .ld | .ldv | .ldx => true
  | .st | .stv | .stx | .phsig | .fbin | .qpsh => false
  | _ => true

/-- Whether the operation goes to the synchronisation engine (R213). -/
def MemOp.isSync : MemOp → Bool
  | .ld | .st | .ldv | .stv | .ldx | .stx => false
  | _ => true

/-- INFO access code (R227). -/
def MemOp.access : MemOp → Nat
  | .ld => 0 | .st => 1 | .ldv => 2 | .stv => 3 | .ldx => 4 | .stx => 5 | _ => 8

/-- The format of a request's data reply. -/
def dataFmt (op : MemOp) (fmt : Nat) : BitVec 3 := if op.isSync then fmtI64 else loadFmt fmt false

/-- A poisoned token of zero payload. -/
def poisonToken (tag : Tag) (fmt : BitVec 3) (last : Bool) : Token :=
  { tag := tag, fmt := fmt, pay := 0#80, last := last, poison := true, marker := false }

/-- The destinations of a request's data and of its completion (R54, R208, R213). -/
def replyDests (op : MemOp) (d0 d1 : BitVec 31) : List (BitVec 31) × List (BitVec 31) :=
  if op.hasData then ([d0], [d1]) else ([], [d0, d1])

/-- The poisoned replies that a firing sends itself (R206). -/
def State.firePoison (s : State) (w : Fire) (op : MemOp) (fmt : Nat) : State :=
  let ds := replyDests op (dest0 w.route) (dest1 w.route)
  let s := s.send w (poisonToken w.set.tag (dataFmt op fmt) w.lastOut) ds.1
  s.send w (poisonToken w.set.tag fmtI64 w.lastOut) ds.2

/-- bad_address (R206). -/
def State.badAddress (s : State) (w : Fire) (op : MemOp) (fmt reason : Nat) (va : Word) : State :=
  (s.fireLog w kXLATE va (reason + op.access * 16)).firePoison w op fmt

/-- A format error of an operand of a memory firing (R174, R217). -/
def State.memFormatError (s : State) (w : Fire) (op : MemOp) (fmt : Nat) (got : BitVec 3) (pos : Nat) : State :=
  (s.fireLog w kFMT 0#64 (got.toNat + pos * 16)).firePoison w op fmt

/-- Sends a firing's request to its serving tile (R205). -/
def State.sendRequest (s : State) (w : Fire) (op : MemOp) (fmt : Nat) (va : Word) (b c : Operand) : State :=
  let t := servingTile w.el
  s.modTile t fun x =>
    let r : EReq :=
      { id := x.nextId, el := w.el, slot := w.set.slot, tag := w.set.tag, last := w.lastOut, op := op, fmt := fmt,
        rtz := w.f.imm.getLsbD 11, scope := w.f.rs, o := w.f.o, va := va, b := w.result b.fmt b.pay,
        c := w.result c.fmt c.pay, d0 := dest0 w.route, d1 := dest1 w.route, st := .new, miss := Miss.zero, old := false,
        outs := [], fault := false, word := none }
    { x with reqs := x.reqs ++ [r], nextId := x.nextId + 1 }

/-- What an operand of a memory firing must be. -/
inductive Want where
  | any
  | i64      -- I64
  | version  -- I64 with payload[63:32] zero (R209)
  | w        -- W
  deriving DecidableEq, Repr

/-- Whether an operand is what it must be. -/
def Want.ok (k : Want) (o : Operand) : Bool :=
  match k with
  | .any => true
  | .i64 => decide (o.fmt = fmtI64)
  | .version => decide (o.fmt = fmtI64) && decide (o.low.toNat < 2 ^ 32)
  | .w => decide (o.fmt = fmtW)

/-- A memory firing: `kb` and `kc` say what operands B and C must be; `index` that B is an index (R206). -/
def State.memFire (s : State) (i : Instr) (op : MemOp) (kb kc : Want) (index : Bool) : Out :=
  s.fire i movesNone fun w s =>
    let fmt := (w.f.imm.extractLsb' 12 4).toNat
    let a := s.operand w .i64 w.f.selA
    let b := s.operand w .i64 w.f.selB
    let c := s.operand w .i64 w.f.selC
    if a.fmt ≠ fmtI64 then s.memFormatError w op fmt a.fmt 0
    else if !kb.ok b then s.memFormatError w op fmt b.fmt 1
    else if !kc.ok c then s.memFormatError w op fmt c.fmt 2
    else
      let off := (w.f.imm.extractLsb' 0 11).signExtend 64
      let va :=
        if op.isSync then a.low
        else if index then a.low + b.low * BitVec.ofNat 64 (fmtSize fmt) + off
        else a.low + off
      if 2 ^ 48 ≤ va.toNat then s.badAddress w op fmt 3 va
      else if !op.isSync && decide (va.toNat % fmtAlign fmt ≠ 0) then s.badAddress w op fmt 4 va
      else s.sendRequest w op fmt va b c

/-- LD (R204). -/
def execELd (f : Slot) (s : State) : Out := s.memFire (.eLd f) .ld .any .any false
/-- ST (R204). -/
def execESt (f : Slot) (s : State) : Out := s.memFire (.eSt f) .st .any .any false
/-- LDV (R204, R209). -/
def execLdv (f : Slot) (s : State) : Out := s.memFire (.ldv f) .ldv .version .any false
/-- STV (R204, R209). -/
def execStv (f : Slot) (s : State) : Out := s.memFire (.stv f) .stv .any .version false
/-- LDX (R204). -/
def execLdx (f : Slot) (s : State) : Out := s.memFire (.ldx f) .ldx .i64 .any true
/-- STX (R204). -/
def execStx (f : Slot) (s : State) : Out := s.memFire (.stx f) .stx .i64 .any true
/-- PHSIG in a slot (R213). -/
def execSlotPhsig (f : Slot) (s : State) : Out := s.memFire (.slotPhsig f) .phsig .any .any false
/-- AADD in a slot (R213). -/
def execSlotAadd (f : Slot) (s : State) : Out := s.memFire (.slotAadd f) .aadd .i64 .any false
/-- AAND in a slot (R213). -/
def execSlotAand (f : Slot) (s : State) : Out := s.memFire (.slotAand f) .aand .i64 .any false
/-- AOR in a slot (R213). -/
def execSlotAor (f : Slot) (s : State) : Out := s.memFire (.slotAor f) .aor .i64 .any false
/-- AXOR in a slot (R213). -/
def execSlotAxor (f : Slot) (s : State) : Out := s.memFire (.slotAxor f) .axor .i64 .any false
/-- AMIN in a slot (R213). -/
def execSlotAmin (f : Slot) (s : State) : Out := s.memFire (.slotAmin f) (.amin f.uns) .i64 .any false
/-- AMAX in a slot (R213). -/
def execSlotAmax (f : Slot) (s : State) : Out := s.memFire (.slotAmax f) (.amax f.uns) .i64 .any false
/-- AXCH in a slot (R213). -/
def execSlotAxch (f : Slot) (s : State) : Out := s.memFire (.slotAxch f) .axch .i64 .any false
/-- ACAS in a slot (R213). -/
def execSlotAcas (f : Slot) (s : State) : Out := s.memFire (.slotAcas f) .acas .i64 .i64 false
/-- FBIN in a slot (R213). -/
def execSlotFbin (f : Slot) (s : State) : Out := s.memFire (.slotFbin f) .fbin .w .any false
/-- QPSH in a slot (R213). -/
def execSlotQpsh (f : Slot) (s : State) : Out := s.memFire (.slotQpsh f) .qpsh .any .any false

end Sys2Proof.Machine
end

