-- ==== Sys2Proof/Machine/Scalar.lean ====
section
/-! DEFINITION. Register arithmetic, immediate forms, moves, shifts and compare (R126 to R128). -/

namespace Sys2Proof.Machine

/-- The high half of a product (R126). -/
def mulHigh (u : Bool) (a b : Word) : Word := BitVec.ofInt 64 ((sv u a * sv u b) / 2 ^ 64)

/-- DIV's quotient, toward zero (R126). -/
def divWord (u : Bool) (a b : Word) : Word :=
  if b = 0#64 then 0xFFFFFFFFFFFFFFFF#64
  else if !u && decide (a = 0x8000000000000000#64) && decide (b = 0xFFFFFFFFFFFFFFFF#64) then 0x8000000000000000#64
  else BitVec.ofInt 64 (Int.tdiv (sv u a) (sv u b))

/-- REM's remainder, with the sign of the dividend (R126). -/
def remWord (u : Bool) (a b : Word) : Word :=
  if b = 0#64 then a
  else if !u && decide (a = 0x8000000000000000#64) && decide (b = 0xFFFFFFFFFFFFFFFF#64) then 0#64
  else BitVec.ofInt 64 (sv u a - sv u b * Int.tdiv (sv u a) (sv u b))

/-- The second operand of SLT (R128). -/
def State.opValue (s : State) : RegImm → Word
  | .reg rb => s.x rb
  | .imm v => sext v

/-- The amount of a shift; `none` where the immediate is out of range (R128). -/
def State.shiftAmount (s : State) : RegImm → Option Nat
  | .reg rb => some ((s.x rb).toNat % 64)
  | .imm v => if v.toNat < 64 then some v.toNat else none

/-- SLT's comparison (R128). -/
def lessThan (u : Bool) (a b : Word) : Bool := if u then a.ult b else a.slt b

/-- The value of the first parcel of the instruction that executes, for EVAL of ILLOP (R60; log entry 9). -/
def parcelOf (i : Instr) : Word :=
  match encode i with
  | some (p, _) => p
  | none => 0#64

/-- ILLOP raised by the execution of an instruction (R118): EVAL is the parcel's value (log entry 9). -/
def State.illop (s : State) (i : Instr) : State := s.trap cILLOP (parcelOf i) (if twoParcels i then 2 else 1)

/-- A two-register instruction: writes rd with `f` of x(ra) and x(rb). -/
def State.reg3 (s : State) (rd ra rb : Reg) (f : Word → Word → Word) : State := s.retireReg rd (f (s.x ra) (s.x rb)) 1

/-- A shift (R128). -/
def State.shift (s : State) (i : Instr) (rd ra : Reg) (op : RegImm) (f : Word → Nat → Word) : State :=
  match s.shiftAmount op with
  | some n => s.retireReg rd (f (s.x ra) n) 1
  | none => s.illop i

/-- ADD (R126). -/
def execAdd (rd ra rb : Reg) (s : State) : Out := .next (s.reg3 rd ra rb fun a b => a + b)
/-- SUB (R126). -/
def execSub (rd ra rb : Reg) (s : State) : Out := .next (s.reg3 rd ra rb fun a b => a - b)
/-- MUL (R126). -/
def execMul (rd ra rb : Reg) (s : State) : Out := .next (s.reg3 rd ra rb fun a b => a * b)
/-- MULH (R126). -/
def execMulh (u : Bool) (rd ra rb : Reg) (s : State) : Out := .next (s.reg3 rd ra rb (mulHigh u))
/-- DIV (R126). -/
def execDiv (u : Bool) (rd ra rb : Reg) (s : State) : Out := .next (s.reg3 rd ra rb (divWord u))
/-- REM (R126). -/
def execRem (u : Bool) (rd ra rb : Reg) (s : State) : Out := .next (s.reg3 rd ra rb (remWord u))
/-- AND (R126). -/
def execAnd (rd ra rb : Reg) (s : State) : Out := .next (s.reg3 rd ra rb fun a b => a &&& b)
/-- OR (R126). -/
def execOr (rd ra rb : Reg) (s : State) : Out := .next (s.reg3 rd ra rb fun a b => a ||| b)
/-- XOR (R126). -/
def execXor (rd ra rb : Reg) (s : State) : Out := .next (s.reg3 rd ra rb fun a b => a ^^^ b)
/-- ADDI (R127). -/
def execAddi (rd ra : Reg) (imm : BitVec 32) (s : State) : Out := .next (s.retireReg rd (s.x ra + sext imm) 1)
/-- ANDI (R127). -/
def execAndi (rd ra : Reg) (imm : BitVec 32) (s : State) : Out := .next (s.retireReg rd (s.x ra &&& sext imm) 1)
/-- ORI (R127). -/
def execOri (rd ra : Reg) (imm : BitVec 32) (s : State) : Out := .next (s.retireReg rd (s.x ra ||| sext imm) 1)
/-- XORI (R127). -/
def execXori (rd ra : Reg) (imm : BitVec 32) (s : State) : Out := .next (s.retireReg rd (s.x ra ^^^ sext imm) 1)
/-- LI (R127): two parcels. -/
def execLi (rd : Reg) (v : Word) (s : State) : Out := .next (s.retireReg rd v 2)
/-- MOV (R127). -/
def execMov (rd ra : Reg) (s : State) : Out := .next (s.retireReg rd (s.x ra) 1)
/-- SHL (R128). -/
def execShl (rd ra : Reg) (op : RegImm) (s : State) : Out :=
  .next (s.shift (.shl rd ra op) rd ra op fun a n => a <<< n)
/-- SHR (R128). -/
def execShr (rd ra : Reg) (op : RegImm) (s : State) : Out :=
  .next (s.shift (.shr rd ra op) rd ra op fun a n => a >>> n)
/-- SAR (R128). -/
def execSar (rd ra : Reg) (op : RegImm) (s : State) : Out :=
  .next (s.shift (.sar rd ra op) rd ra op fun a n => a.sshiftRight n)
/-- SLT (R128). -/
def execSlt (u : Bool) (rd ra : Reg) (op : RegImm) (s : State) : Out :=
  .next (s.retireReg rd (if lessThan u (s.x ra) (s.opValue op) then 1#64 else 0#64) 1)

end Sys2Proof.Machine
end

