-- ==== Sys2Proof/Machine/Mem.lean ====
section
/-! DEFINITION. Lantern loads, stores and FENCE (R116, R129, R130), and the return of a load's data. -/

namespace Sys2Proof.Machine

/-- A load (R129): its checks, and the access left outstanding (R114: at most eight). -/
def State.load (s : State) (signed : Bool) (sz : Size) (rd ra : Reg) (imm : BitVec 32) : State :=
  let va := effAddr (s.x ra) imm
  let n := sizeBytes sz
  if 8 ≤ s.cur.loads.length then s
  else if 2 ^ 48 ≤ va.toNat then s.trap cLDF va
  else if va.toNat % n ≠ 0 then s.trap cALIGN va
  else
    let r := s.lanXlate s.focus va n .load
    match r.1 with
    | .miss reason => r.2.missAccess reason accRead cLDF va 1
    | .perm => r.2.trap cPERM va
    | .at_ pa _ tso =>
      let p : PendLoad := { rd := rd, sext := signed, va := va, pa := pa, size := n, at_ := s.cur.pc, tso := tso,
                            data := none }
      r.2.modCur fun l => ({ l with loads := l.loads ++ [p] }.block rd).advance 1

/-- A store (R129). A store of a staged segment that finds no free staging entry waits (R254). -/
def State.store (s : State) (sz : Size) (rd ra : Reg) (imm : BitVec 32) : State :=
  let va := effAddr (s.x ra) imm
  let n := sizeBytes sz
  if 2 ^ 48 ≤ va.toNat then s.trap cSTF va
  else if va.toNat % n ≠ 0 then s.trap cALIGN va
  else
    let r := s.lanXlate s.focus va n .store
    match r.1 with
    | .miss reason => r.2.missAccess reason accWrite cSTF va 1
    | .perm => r.2.trap cPERM va
    | .at_ pa kind _ =>
      let bs := leBytes n (s.x rd).toNat
      if r.2.homeCut (lanDie s.focus) pa kind then r.2 else
      let s := r.2.performLoads s.focus
      match s.lanStore s.focus pa kind bs with
      | some s => s.retire 1
      | none => s.modCur fun l => { l with stWait := s.stageBlock s.focus pa bs }

/-- FENCE (R130): codes 0 and 1 are illegal; it waits until every earlier load has returned, and discards the
instruction cache (R61). Stores are performed when they retire (log entry 11). -/
def State.fence (s : State) (scope : BitVec 3) : State :=
  if scope.toNat < 2 then s.illop (.fence scope)
  else
    let s := s.performLoads s.focus
    if s.cur.loads.isEmpty then s.modCur fun l => ({ l with icache := [] }).advance 1 else s

/-- Whether a load's home lies behind a UCIe edge that holds its traffic (R428). -/
def State.loadHeld (s : State) (k pa n : Nat) : Bool :=
  match s.classify pa n with
  | some kind => s.homeCut (lanDie k) pa kind
  | none => false

/-- The data of outstanding load `idx` returns (R114, R129): rd is written and its scoreboard released; uncorrectable
data leaves rd and raises DPOISON at the next boundary. -/
def State.loadReturn (s : State) (k idx : Nat) : State :=
  let s := s.performLoad k idx
  let l := s.lan k
  match l.loads[idx]? with
  | none => s
  | some p =>
    match p.data with
    | none => s
    | some (v, bad) =>
      if (bad && l.dpoi.isSome) || s.loadHeld k p.pa p.size then s
      else
        let l := { l with loads := l.loads.eraseIdx idx }.unblock p.rd
        s.setLan k (if bad then { l with dpoi := some (p.va, p.at_) } else l.setReg p.rd v)

/-- LD (R129). -/
def execLd (sz : Size) (rd ra : Reg) (imm : BitVec 32) (s : State) : Out := .next (s.load true sz rd ra imm)
/-- LDZ (R129). -/
def execLdz (sz : Size) (rd ra : Reg) (imm : BitVec 32) (s : State) : Out := .next (s.load false sz rd ra imm)
/-- ST (R129). -/
def execSt (sz : Size) (rd ra : Reg) (imm : BitVec 32) (s : State) : Out := .next (s.store sz rd ra imm)
/-- FENCE (R130). -/
def execFence (scope : BitVec 3) (s : State) : Out := .next (s.fence scope)
/-- The return of a load's data (R129). -/
def execLanternLoadReturn (lan idx : Nat) (s : State) : Out := .next (s.loadReturn lan idx)

end Sys2Proof.Machine
end

