-- ==== Sys2Proof/Machine/SyncEngine.lean ====
section
/-! DEFINITION. The synchronisation engine (chapter 15): its objects (R301), phasers (R310 to R313), barriers (R315),
atomics (R317), bin sets (R318 to R320), queues (R321), and the requests that wait (R308, R314). -/

namespace Sys2Proof.Machine

/-! ### Words of the engine's space -/

/-- The dword at an address of a die's engine. -/
def State.sdw (s : State) (die a : Nat) : Nat :=
  match s.syncPa die a with
  | some p => leNat (s.mem.bytes p 8)
  | none => 0

/-- Writes a dword of a die's engine. -/
def State.setSdw (s : State) (die a v : Nat) : State :=
  match s.syncPa die a with
  | some p => { s with mem := s.mem.store p (leBytes 8 (v % 2 ^ 64)) }
  | none => s

/-- `n` dwords from an address on. -/
def State.sdws (s : State) (die a n : Nat) : List Nat := (List.range n).map fun i => s.sdw die (a + 8 * i)

/-- Writes dwords from an address on. -/
def State.setSdws (s : State) (die a : Nat) (vs : List Nat) : State :=
  (vs.mapIdx fun i v => (i, v)).foldl (fun s p => s.setSdw die (a + 8 * p.1) p.2) s

/-- Whether `n` bytes from an address on lie in the engine's space. -/
def State.sHas (s : State) (die a n : Nat) : Bool := (s.syncPa die a).isSome && (s.syncPa die (a + n - 8)).isSome

/-- KIND of an object. -/
def State.sKind (s : State) (die a : Nat) : Nat := s.sdw die a / 2 ^ 60

/-- A die and an address of its engine as one number (R309). -/
def syncKey (die a : Nat) : Nat := die * 2 ^ 32 + a

/-- What an operation at the engine answers: the value for rd, SIG for the wait table where the reply carries one,
whether SYNC reason 1 is logged beside it (R305), and the state; or the reason of its error. -/
inductive Eng where
  | ok (v : Nat) (sig : Option (BitVec 32)) (ovr : Bool) (s : State)
  | err (reason : Nat)

/-! ### Waiting requests (R308, R314) -/

/-- Whether phase `sig` has completed when `phase` is open (R314). -/
def phaseDone (phase : Nat) (sig : BitVec 32) : Bool :=
  let d := (BitVec.ofNat 32 phase - sig).toNat
  decide (1 ≤ d ∧ d ≤ 2 ^ 31)

/-- An instruction that waited at the engine retires. -/
def State.finishLan (s : State) (k : Nat) (rd : Reg) (v : Word) : State :=
  s.modLan k fun l => { (l.setReg rd v).advance 1 with phsw := none }

/-- Takes the entry of an address out of a Lantern's wait table (R309). -/
def Lantern.forget (l : Lantern) (key : Nat) : Lantern :=
  { l with waits := l.waits.filter fun e => decide (e.addr ≠ key) }

/-- Enters or updates the entry of an address; a new address replaces the oldest of four (R309). -/
def Lantern.remember (l : Lantern) (key : Nat) (sig : BitVec 32) : Lantern :=
  if l.waits.any fun e => decide (e.addr = key) then
    { l with waits := l.waits.map fun e => if e.addr = key then { e with sig := sig } else e }
  else
    { l with waits := (if 4 ≤ l.waits.length then l.waits.drop 1 else l.waits) ++ [{ addr := key, sig := sig }] }

/-- SIG of an address in a Lantern's wait table. -/
def Lantern.sigOf (l : Lantern) (key : Nat) : Option (BitVec 32) :=
  (l.waits.find? fun e => decide (e.addr = key)).map (·.sig)

/-- A request that waited for a phase returns: PHWT and PHSW remove the table entry (R314), SWAIT goes on (R275). -/
def State.releaseWho (s : State) (key : Nat) : WaitWho → State
  | .lan k rd =>
    let v := match (s.lan k).phsw with
      | some (_, q) => BitVec.ofNat 64 q.toNat
      | none => 0#64
    (s.modLan k fun l => l.forget key).finishLan k rd v
  | .port p => s.modPort p fun q =>
      { q with prog := q.prog.map fun g => { g with waitPh := none, pc := g.pc + 2 } }
  | .slot _ _ => s

/-- Releases the waiters of an object whose phase has completed (R310, R315). -/
def State.releaseWaiters (s : State) (die a phase : Nat) : State :=
  let ripe (w : SyncWait) : Bool :=
    decide (w.addr = a) && (match w.what with
      | .phase p => phaseDone phase p
      | _ => false)
  let go := (s.sync die).waits.filter ripe
  if go.isEmpty then s
  else
    let s := s.modSync die fun y => { y with waits := y.waits.filter fun w => !ripe w }
    go.foldl (fun s w => s.releaseWho (syncKey die a) w.who) s

/-! ### Phasers (R301, R310 to R313) -/

/-- A phaser. -/
structure Phaser where
  ovr    : Bool
  phase   : Nat
  members : Nat
  waitOnly : Nat
  arrived : Nat
  carry   : Nat
  regs    : Nat
  drops   : Nat
  deriving DecidableEq, Repr

/-- Reads a phaser; `none` where it is not one, or malformed. -/
def State.phaser? (s : State) (die a : Nat) : Option Phaser :=
  let ws := s.sdws die a 4
  let w0 := ws.getD 0 0
  let w1 := ws.getD 1 0
  let w2 := ws.getD 2 0
  let w3 := ws.getD 3 0
  if s.sHas die a 32 && decide (w0 / 2 ^ 60 = 1 ∧ w0 / 2 ^ 32 % 2 ^ 27 = 0 ∧ w3 % 2 ^ 32 = 0) then
    some { ovr := decide (w0 / 2 ^ 59 % 2 = 1), phase := w0 % 2 ^ 32, members := w1 / 2 ^ 32, waitOnly := w1 % 2 ^ 32,
           arrived := w2 / 2 ^ 32, carry := w2 % 2 ^ 32, regs := w3 / 2 ^ 48, drops := w3 / 2 ^ 32 % 2 ^ 16 }
  else none

/-- Writes a phaser. -/
def State.setPhaser (s : State) (die a : Nat) (p : Phaser) : State :=
  s.setSdws die a
    [2 ^ 60 + (if p.ovr then 2 ^ 59 else 0) + p.phase, p.members * 2 ^ 32 + p.waitOnly,
     p.arrived * 2 ^ 32 + p.carry, p.regs * 2 ^ 48 + p.drops * 2 ^ 32]

/-- The completion of phases (R310). After one completion CARRY is 0, so a third cannot follow. -/
def Phaser.settle : Nat → Phaser → Phaser
  | 0, p => p
  | fuel + 1, p =>
    if 0 < p.members ∧ p.members ≤ p.arrived then
      Phaser.settle fuel
        { p with phase := (p.phase + 1) % 2 ^ 32, members := (p.members + p.regs - p.drops) % 2 ^ 32, regs := 0,
                 drops := 0, arrived := p.carry, carry := 0 }
    else p

/-- Stores a changed phaser with the phases it completes, and releases the waiters. -/
def State.putPhaser (s : State) (die a : Nat) (p : Phaser) : State :=
  let q := p.settle 3
  let s := s.setPhaser die a q
  if q.phase = p.phase then s else s.releaseWaiters die a q.phase

/-- An arrival for phase `q` (R313); `none` is SYNC reason 1. -/
def Phaser.arrive (p : Phaser) (q : Nat) : Option Phaser :=
  if q = p.phase then some { p with arrived := (p.arrived + 1) % 2 ^ 32 }
  else if q = (p.phase + 1) % 2 ^ 32 ∧ p.carry < p.members + p.regs - p.drops then
    some { p with carry := p.carry + 1, ovr := true }
  else none

/-- PHNEW (R311). -/
def State.engNew (s : State) (die a count : Nat) : Eng :=
  if !s.sHas die a 32 then .err 2
  else if s.sKind die a ≠ 0 then .ok 1 none false s
  else if 2 ^ 32 ≤ count then .ok 2 none false s
  else
    let p : Phaser := { ovr := false, phase := 0, members := count, waitOnly := 0, arrived := 0, carry := 0, regs := 0,
                        drops := 0 }
    .ok 0 none false (s.setPhaser die a p)

/-- PHREG (R312). -/
def State.engReg (s : State) (die a : Nat) (w : Bool) : Eng :=
  match s.phaser? die a with
  | none => .err 2
  | some p =>
    if w then
      if p.waitOnly = 2 ^ 32 - 1 then .err 4
      else .ok p.phase none false (s.putPhaser die a { p with waitOnly := p.waitOnly + 1 })
    else if p.members = 0 then
      .ok p.phase (some (BitVec.ofNat 32 p.phase - 1#32)) false (s.putPhaser die a { p with members := 1 })
    else if p.regs = 65535 then .err 4
    else
      .ok ((p.phase + 1) % 2 ^ 32) (some (BitVec.ofNat 32 p.phase)) false
        (s.putPhaser die a { p with regs := p.regs + 1 })

/-- PHDRP (R312): `arr` is the phase to arrive in first, with A. -/
def State.engDrop (s : State) (die a : Nat) (w : Bool) (arr : Option Nat) : Eng :=
  match s.phaser? die a with
  | none => .err 2
  | some p =>
    if w then
      if p.waitOnly = 0 then .err 4
      else .ok p.phase none false (s.putPhaser die a { p with waitOnly := p.waitOnly - 1 })
    else if p.drops = 65535 ∨ p.members + p.regs < p.drops + 1 then .err 4
    else
      let d := { p with drops := p.drops + 1 }
      let rd := (p.phase + 1) % 2 ^ 32
      match arr with
      | none => .ok rd none false (s.putPhaser die a d)
      | some q =>
        match d.arrive q with
        | none => .err 1
        | some d => .ok rd none false (s.putPhaser die a d)

/-- PHSIG (R313): `sig` is SIG of the wait table, if it holds the address. -/
def State.engSig (s : State) (die a : Nat) (sig : Option (BitVec 32)) : Eng :=
  match s.phaser? die a with
  | none => .err 2
  | some p =>
    let q := match sig with
      | some v => (v + 1#32).toNat
      | none => p.phase
    match p.arrive q with
    | none => .err 1
    | some d => .ok q (some (BitVec.ofNat 32 q)) false (s.putPhaser die a d)

/-! ### Barriers (R315) -/

/-- A barrier. -/
structure Barrier where
  ovr   : Bool
  phase  : Nat
  expect : Nat
  count  : Nat
  deriving DecidableEq, Repr

/-- Reads a barrier; `none` where it is not one, or malformed. -/
def State.barrier? (s : State) (die a : Nat) : Option Barrier :=
  let ws := s.sdws die a 4
  let w0 := ws.getD 0 0
  if s.sHas die a 32 && decide (w0 / 2 ^ 60 = 2 ∧ w0 / 2 ^ 32 % 2 ^ 27 = 0 ∧ ws.getD 3 0 = 0) then
    some { ovr := decide (w0 / 2 ^ 59 % 2 = 1), phase := w0 % 2 ^ 32, expect := ws.getD 1 0, count := ws.getD 2 0 }
  else none

/-- `settle` of R315; the second value says that SYNC reason 1 is logged. -/
def Barrier.settle (b : Barrier) : Barrier × Bool :=
  if 0 < b.expect ∧ b.expect ≤ b.count then
    let ex := b.count - b.expect
    let far := decide (b.expect ≤ ex)
    ({ b with phase := (b.phase + 1) % 2 ^ 32, ovr := b.ovr || decide (0 < ex),
              count := if far then b.expect - 1 else ex }, far)
  else (b, false)

/-- Stores a changed barrier after `settle`, and releases the waiters. -/
def State.putBarrier (s : State) (die a : Nat) (b : Barrier) : State × Bool :=
  let (q, far) := b.settle
  let s := s.setSdws die a [2 * 2 ^ 60 + (if q.ovr then 2 ^ 59 else 0) + q.phase, q.expect, q.count, 0]
  (if q.phase = b.phase then s else s.releaseWaiters die a q.phase, far)

/-- BEXP (R315). -/
def State.engExpect (s : State) (die a n : Nat) : Eng :=
  let b : Option Barrier :=
    if s.sHas die a 32 && decide (s.sKind die a = 0) then some { ovr := false, phase := 0, expect := 0, count := 0 }
    else s.barrier? die a
  match b with
  | none => .err 2
  | some b =>
    let r := s.putBarrier die a { b with expect := n, ovr := false }
    .ok 0 (some (BitVec.ofNat 32 b.phase)) r.2 r.1

/-- BADD (R315), and the byte additions of copies and SSIG. -/
def State.engBytes (s : State) (die a n : Nat) : Eng :=
  match s.barrier? die a with
  | none => .err 2
  | some b =>
    let sig := some (BitVec.ofNat 32 b.phase)
    if n = 0 then .ok b.phase sig false s
    else
      let r := s.putBarrier die a { b with count := min (b.count + n) (2 ^ 64 - 1) }
      .ok b.phase sig r.2 r.1

/-- PHASE of a phaser or barrier; `none` for another object. -/
def State.phaseAt (s : State) (die a : Nat) : Option Nat :=
  match s.phaser? die a, s.barrier? die a with
  | some p, _ => some p.phase
  | none, some b => some b.phase
  | none, none => none

/-! ### Atomics (R317) -/

/-- The atomics. -/
inductive AtomOp where
  | add | and | or | xor | min (u : Bool) | max (u : Bool) | xchg
  deriving DecidableEq, Repr

/-- What an atomic writes. -/
def AtomOp.new (o : AtomOp) (old v : Word) : Word :=
  match o with
  | .add => old + v
  | .and => old &&& v
  | .or => old ||| v
  | .xor => old ^^^ v
  | .min u => if sv u v < sv u old then v else old
  | .max u => if sv u old < sv u v then v else old
  | .xchg => v

/-- An atomic. -/
def State.engAtom (s : State) (die a : Nat) (o : AtomOp) (v : Word) : Eng :=
  let old := s.sdw die a
  .ok old none false (s.setSdw die a (o.new (BitVec.ofNat 64 old) v).toNat)

/-- ACAS. -/
def State.engCas (s : State) (die a : Nat) (expected new : Word) : Eng :=
  let old := s.sdw die a
  .ok old none false (if BitVec.ofNat 64 old = expected then s.setSdw die a new.toNat else s)

/-! ### Bin sets (R318 to R320) -/

/-- A signed 64-bit number. -/
def s64 (v : Nat) : Int := (BitVec.ofNat 64 v).toInt

/-- The number of bins and E0 of a bin set; `none` where it is not one, or malformed. -/
def State.binSet? (s : State) (die a : Nat) : Option (Nat × Int) :=
  let w := s.sdw die a
  let nb := w / 2 ^ 48 % 64 + 1
  let e0 := (BitVec.ofNat 16 w).toInt
  if s.sHas die a (16 + 8 * nb)
      && decide (w / 2 ^ 60 = 4 ∧ w / 2 ^ 54 % 64 = 0 ∧ w / 2 ^ 38 % 1024 = 0 ∧ w / 2 ^ 16 % 2 ^ 16 = 0 ∧ -16446 ≤ e0
        ∧ e0 ≤ 16383) then
    some (nb, e0)
  else none

/-- FBCLR (R318). -/
def State.engClear (s : State) (die a v : Nat) : Eng :=
  let nb := v / 2 ^ 48 % 64 + 1
  let e0 := (BitVec.ofNat 16 v).toInt
  let k := s.sKind die a
  if v / 2 ^ 54 ≠ 0 ∨ v / 2 ^ 16 % 2 ^ 32 ≠ 0 ∨ e0 < -16446 ∨ 16383 < e0 ∨ (k ≠ 0 ∧ k ≠ 4) then .err 2
  else if !s.sHas die a (16 + 8 * nb) then .err 2
  else .ok 0 none false (s.setSdws die a ((4 * 2 ^ 60 + v) :: List.replicate (1 + nb) 0))

/-- The carry from bin `j` into the next (R319). -/
def binCarry (bins : List Int) (j : Nat) : List Int :=
  let b := bins.getD j 0
  if 2 ^ 62 ≤ b.natAbs then
    let c := b.tdiv (2 ^ 32)
    (bins.set j (b - c * 2 ^ 32)).set (j + 1) (bins.getD (j + 1) 0 + c)
  else bins

/-- FBIN of one value (R319). -/
def State.engBin (s : State) (die a : Nat) (v : WVal) : Eng :=
  match s.binSet? die a with
  | none => .err 2
  | some (nb, e0) =>
    let adds := min (s.sdw die (a + 8) + 1) (2 ^ 64 - 1)
    let s := s.setSdw die (a + 8) adds
    let mark (s : State) (bit : Nat) : State :=
      let w := s.sdw die a
      if w / 2 ^ bit % 2 = 1 then s else s.setSdw die a (w + 2 ^ bit)
    match v with
    | .nan => .ok 0 none false (mark s 32)
    | .inf false => .ok 0 none false (mark s 33)
    | .inf true => .ok 0 none false (mark s 34)
    | .fin neg m e =>
      if m = 0 then .ok 0 none false s
      else
        let sh := e - e0
        let top : Int := (Nat.log2 m : Int) + sh
        if (32 * nb : Int) ≤ top then .ok 0 none false (mark s 37)
        else
          let whole := if 0 ≤ sh then m <<< sh.toNat else m >>> (-sh).toNat
          let loss := decide (sh < 0) && decide (whole <<< (-sh).toNat ≠ m)
          let s := if loss then mark s 36 else s
          let bins := (List.range nb).map fun j =>
            let part : Int := (whole / 2 ^ (32 * j) % 2 ^ 32 : Nat)
            s64 (s.sdw die (a + 16 + 8 * j)) + (if neg then -part else part)
          let bins := (List.range (nb - 1)).foldl binCarry bins
          let s := if 2 ^ 62 ≤ (bins.getD (nb - 1) 0).natAbs then mark s 35 else s
          .ok 0 none false (s.setSdws die (a + 16) (bins.map fun b => (b % 2 ^ 64).toNat))

/-- FBRD (R320): the FP64 bits and the flags. -/
def State.engRead (s : State) (die a : Nat) (rm : RM) : Option (Res Word) :=
  match s.binSet? die a with
  | none => none
  | some (nb, e0) =>
    let w := s.sdw die a
    let bit (n : Nat) : Bool := decide (w / 2 ^ n % 2 = 1)
    if bit 35 || (bit 33 && bit 34) then some ⟨0x7FF8000000000000#64, flagNV⟩
    else if bit 32 then some ⟨0x7FF8000000000000#64, 0#5⟩
    else if bit 33 then some ⟨0x7FF0000000000000#64, 0#5⟩
    else if bit 34 then some ⟨0xFFF0000000000000#64, 0#5⟩
    else
      let x := (List.range nb).foldl (fun (acc : Int) j => acc + s64 (s.sdw die (a + 16 + 8 * j)) * 2 ^ (32 * j)) 0
      let r := floatStore 0 rm (.fin (decide (x < 0)) x.natAbs e0)
      some ⟨BitVec.ofNat 64 r.val, r.flags⟩

/-! ### Queues (R321) -/

/-- A queue. -/
structure Queue where
  cap  : Nat
  head : Nat
  tail : Nat
  deriving DecidableEq, Repr

/-- Reads a queue; `none` where it is not one, or malformed. -/
def State.queue? (s : State) (die a : Nat) : Option Queue :=
  let ws := s.sdws die a 4
  let w0 := ws.getD 0 0
  let cap := w0 % 2 ^ 16 + 1
  if s.sHas die a (32 + 16 * cap) && decide (w0 / 2 ^ 60 = 3 ∧ w0 / 2 ^ 16 % 2 ^ 44 = 0 ∧ ws.getD 3 0 = 0) then
    some { cap := cap, head := ws.getD 1 0, tail := ws.getD 2 0 }
  else none

/-- Entries in a queue. -/
def Queue.used (q : Queue) : Nat := (q.tail + 2 ^ 64 - q.head) % 2 ^ 64

/-- Pushes an entry. -/
def State.pushEntry (s : State) (die a : Nat) (q : Queue) (fmt : BitVec 3) (pay : Pay) : State :=
  let e := a + 32 + 16 * (q.tail % q.cap)
  ((s.setSdw die e (pay.toNat % 2 ^ 64)).setSdw die (e + 8) (pay.toNat / 2 ^ 64 + fmt.toNat * 2 ^ 16)).setSdw die (a + 16)
    (q.tail + 1)

/-- The payload at the head of a queue, and the state after the pop. -/
def State.popEntry (s : State) (die a : Nat) (q : Queue) : Word × State :=
  (BitVec.ofNat 64 (s.sdw die (a + 32 + 16 * (q.head % q.cap))), s.setSdw die (a + 8) (q.head + 1))

/-- Whether the entry at the head of a queue is malformed: its bytes 11 to 15 are zero (R301, R302). -/
def State.headBad (s : State) (die a : Nat) (q : Queue) : Bool :=
  decide (s.sdw die (a + 40 + 16 * (q.head % q.cap)) / 2 ^ 24 ≠ 0)

/-- A SYNC record of the engine for the request of Lantern `k` (R305). -/
def State.syncLog (s : State) (k : Nat) (va : Word) (reason : Nat) : State :=
  s.raise (some k) (lanDie k) (unitRecord 3#3 0 kSYNC va reason)

/-- An element request whose effect is performed: its completion is due. -/
def State.reqDone (s : State) (tile : Nat) (r : EReq) : State :=
  s.modTile tile fun t =>
    { t with reqs := t.reqs.map fun x => if x.id = r.id then { x with st := .done } else x }

/-- Serves the oldest waiting request of a queue that can be served. -/
def State.serveOne (s : State) (die a : Nat) : Option State :=
  match s.queue? die a with
  | none => none
  | some q =>
    let full := decide (q.used = q.cap)
    let empty := decide (q.used = 0)
    let can (w : SyncWait) : Bool :=
      decide (w.addr = a) && (match w.what with
        | .push _ _ => !full
        | .pop _ => !empty
        | .phase _ => false)
    match (s.sync die).waits.findIdx? can with
    | none => none
    | some i =>
      match (s.sync die).waits[i]? with
      | none => none
      | some w =>
        let s := s.modSync die fun y => { y with waits := y.waits.eraseIdx i }
        let r : Word × State := match w.what, w.who with
          | .push fmt pay, _ => (0#64, s.pushEntry die a q fmt pay)
          | .pop va, .lan k _ =>
            if s.headBad die a q then (0#64 - 1#64, s.syncLog k va 2) else s.popEntry die a q
          | _, _ => s.popEntry die a q
        some (match w.who with
          | .lan k rd => r.2.finishLan k rd r.1
          | .slot tile req => r.2.reqDone tile req
          | .port _ => r.2)

/-- Serves waiting requests of a queue in arrival order. -/
def State.serveQueue (s : State) (die a : Nat) : Nat → State
  | 0 => s
  | n + 1 =>
    match s.serveOne die a with
    | some s => State.serveQueue s die a n
    | none => s

/-- Serves every request of a queue that can be served. -/
def State.serveAll (s : State) (die a : Nat) : State := s.serveQueue die a (s.sync die).waits.length

/-- What a push or pop finds. -/
inductive QRes where
  | done (v : Word) (s : State)
  | blocked
  | bad

/-- QPSH. -/
def State.engPush (s : State) (die a : Nat) (fmt : BitVec 3) (pay : Pay) : QRes :=
  let s := s.serveAll die a
  match s.queue? die a with
  | none => .bad
  | some q => if q.used = q.cap then .blocked else .done 0#64 ((s.pushEntry die a q fmt pay).serveAll die a)

/-- QPOP. -/
def State.engPop (s : State) (die a : Nat) : QRes :=
  let s := s.serveAll die a
  match s.queue? die a with
  | none => .bad
  | some q =>
    if q.used = 0 then .blocked
    else if s.headBad die a q then .bad
    else
      let r := s.popEntry die a q
      .done r.1 (r.2.serveAll die a)

end Sys2Proof.Machine
end

