-- ==== Sys2Proof/Machine/Serve.lean ====
section
/-! DEFINITION. The element request port of a memory tile (R205, R207 to R214, R229): translation, the access at the home,
replies and completions. -/

namespace Sys2Proof.Machine

/-- A record of an element request port (R226): X and Y name the tile of the port. -/
def reqRecord (t : Nat) (r : EReq) (kind : Byte) (addr : Word) (info : Nat) : Record :=
  { elRecord r.el kind r.slot r.tag addr info with
    unit := 1#3, x := BitVec.ofNat 6 (tileX t), y := BitVec.ofNat 7 (tileY t) }

/-- Replaces request number `id` of a tile. -/
def State.setReq (s : State) (t : Nat) (r : EReq) : State :=
  s.modTile t fun x => { x with reqs := x.reqs.map fun q => if q.id = r.id then r else q }

/-- Removes request number `id` of a tile. -/
def State.dropEReq (s : State) (t id : Nat) : State :=
  s.modTile t fun x => { x with reqs := x.reqs.filter fun q => decide (q.id ≠ id) }

/-- Raises a record for the region of a request. -/
def State.reqLog (s : State) (t : Nat) (r : EReq) (rec_ : Record) : State :=
  s.raise (s.leadOfTile (elTile r.el)) (tileDie t) rec_

/-- A reply token of a request. -/
def EReq.token (r : EReq) (fmt : BitVec 3) (pay : Pay) (poison : Bool) : Token :=
  { tag := r.tag, fmt := fmt, pay := pay, last := r.last, poison := poison, marker := false }

/-- The tokens of a request's completion (R54, R210): none without O. -/
def EReq.doneOuts (r : EReq) (poison : Bool) : List (BitVec 31 × Token) :=
  if r.o then (replyDests r.op r.d0 r.d1).2.map fun d => (d, r.token fmtI64 0#80 poison) else []

/-- Whether each reply of a request that goes out on a link finds room there (R154). -/
def State.outsFit (s : State) (t : Nat) (r : EReq) : Bool :=
  r.outs.all fun o =>
    !dV o.1 || (match s.fateOf (s.leadOfTile (elTile r.el)) (elTile r.el) o.2.tag (tagIter o.2.tag) o.1 with
      | .go d _ => s.linkRoom t false d
      | _ => true)

/-- Sends a request's replies. -/
def State.sendOuts (s : State) (t : Nat) (r : EReq) : State :=
  r.outs.foldl (fun s o => s.emitReply r.el t r.slot o.2 [o.1] r.old) s

/-- A request whose replies wait to leave: they go out together, and the request is over, once their links have room (R154)
and, where a record was raised for it, no record of its region is held for a full ring (R125). -/
def State.leaveReply (s : State) (t : Nat) (r : EReq) : State :=
  if (r.fault && s.recHeld (s.leadOfTile (elTile r.el))) || !s.outsFit t r then s else (s.dropEReq t r.id).sendOuts t r

/-- Answers a request with some tokens; `fault` says that a record was raised for it. -/
def State.answer (s : State) (t : Nat) (r : EReq) (outs : List (BitVec 31 × Token)) (fault : Bool) : State :=
  let r := { r with st := .reply, outs := outs, fault := r.fault || fault }
  (s.setReq t r).leaveReply t r

/-- Answers a request with its completion (R54, R210). -/
def State.sendDone (s : State) (t : Nat) (r : EReq) (poison : Bool) : State := s.answer t r (r.doneOuts poison) poison

/-- Answers a request with the data of a load or atomic and its completion (R208). -/
def State.sendData (s : State) (t : Nat) (r : EReq) (fmt : BitVec 3) (pay : Pay) (poison : Bool) : State :=
  s.answer t r ((replyDests r.op r.d0 r.d1).1.map (fun d => (d, r.token fmt pay poison)) ++ r.doneOuts false) poison

/-- Ends a request with the poisoned replies of bad_address (R206). -/
def State.failReq (s : State) (t : Nat) (r : EReq) : State :=
  let ds := replyDests r.op r.d0 r.d1
  s.answer t r (ds.1.map (fun d => (d, r.token (dataFmt r.op r.fmt) 0#80 true))
    ++ ds.2.map fun d => (d, r.token fmtI64 0#80 true)) true

/-- A store is performed (R210): its completion is due, or, without O, the request is over. -/
def State.storeDone (s : State) (t : Nat) (r : EReq) : State :=
  if r.o then s.setReq t { r with st := .done } else s.answer t r [] false

/-- A translation failure (R207, R229): the request waits, and its record says how often it has failed (R231). -/
def State.waitXlate (s : State) (t : Nat) (r : EReq) (va : Word) (reason : Nat) : State :=
  if reason = xlCut then s
  else
  let r := { r with st := .xlate, miss := r.miss.next s.tick va.toNat }
  (s.setReq t r).reqLog t r ((reqRecord t r kXLATE va (reason + r.op.access * 16)).missed r.miss)

/-- VERREC of an LDV or STV (R209, R250, R251). -/
def State.verrec (s : State) (t : Nat) (r : EReq) (reason : Nat) : State :=
  (s.reqLog t r (reqRecord t r kVERREC r.va reason)).failReq t r

/-! ### Translation (R207) -/

/-- Bytes of a request's access. -/
def EReq.size (r : EReq) : Nat := if r.op.isSync then 8 else fmtSize r.fmt

/-- What the serving tile's translation of one byte range gives. -/
inductive TileXl where
  | ok (pa : Nat) (kind : PaKind) (tso : Bool)
  | miss (reason : Nat)

/-- How a unit translates (R207, R256 to R258): `near` is what its extents, or its translation entry, give; `tlb` that
it goes through the die's edge TLB; `may` which walks it may make under MODE.WALK = 1; `rd` and `wr` the permissions. -/
structure XlHow where
  near  : Nat → Option Leaf
  tlb   : Bool
  may   : Nat → Bool
  rd    : Bool
  wr    : Bool

/-- Translates `n` bytes at `va`, which lie in one page, for a unit of the region led by `lead`. -/
def State.unitXlate (s : State) (lead die : Nat) (how : XlHow) (va n : Nat) : TileXl × State :=
  let pasid := s.pasidOf lead
  let r : Option Leaf × State × Nat :=
    match how.near va with
    | some l => (some l, s, 0)
    | none =>
      let cached := how.tlb && s.tlbHolds die pasid va
      if modeWalk (s.modeOf die) && !how.may va && !cached then (none, s, 5)
      else if s.walkCut die pasid va && !cached then (none, s, xlCut)
      else if how.tlb then let q := s.viaTlb die pasid va; (q.1, q.2, 0)
      else let q := s.walk die pasid va; (q.1, q.2, 0)
  match r with
  | (none, s, reason) => (.miss reason, s)
  | (some l, s, _) =>
    if (how.rd && !l.r) || (how.wr && !l.w) then (.miss 1, s)
    else
      match s.classify l.pa n with
      | none => (.miss 2, s)
      | some kind =>
        if (how.rd && s.readRefused kind) || (how.wr && s.writeRefused kind) || !userReaches kind || s.hitsRing n kind then
          (.miss 2, s)
        else (.ok l.pa kind l.tso, s)

/-- The pieces of a byte range that lie in one page each. -/
def pagePieces (va n : Nat) : List (Nat × Nat) :=
  let room := 4096 - va % 4096
  if n ≤ room then [(va, n)] else [(va, room), (va + room, n - room)]

/-- The translation of a byte range: places, or the address that fails and its reason. -/
def State.unitPlaces (s : State) (lead die : Nat) (how : XlHow) (va n : Nat) : Except (Nat × Nat) (List (Nat × Nat × PaKind × Bool)) × State :=
  (pagePieces va n).foldl (fun acc p =>
    match acc.1 with
    | .error e => (.error e, acc.2)
    | .ok ps =>
      match acc.2.unitXlate lead die how p.1 p.2 with
      | (.miss reason, s) => (.error (p.1, reason), s)
      | (.ok pa kind tso, s) => (.ok (ps ++ [(pa, p.2, kind, tso)]), s)) (.ok [], s)

/-- Whether the home of some piece lies behind a UCIe edge that holds its traffic (R428). -/
def State.piecesCut (s : State) (die : Nat) (ps : List (Nat × Nat × PaKind × Bool)) : Bool :=
  ps.any fun p => s.homeCut die p.1 p.2.2.1

/-- The translation of a request. -/
def State.reqPlaces (s : State) (lead t : Nat) (r : EReq) :
    Except (Nat × Nat) (List (Nat × Nat × PaKind × Bool)) × State :=
  let x := match r.op with
    | .ldx => true
    | .stx => true
    | _ => false
  s.unitPlaces lead (tileDie t)
    { near := fun va => if x then none else (extentOf (s.extentsOf lead) va).map (·.2), tlb := x,
      may := r.miss.may, rd := r.op.hasData || r.op.isSync, wr := !r.op.hasData || r.op.isSync } r.va.toNat r.size

/-! ### Loads and stores (R208, R211) -/

/-- The staged bytes of the request's segment over bytes read at the home (R211, R252). -/
def State.overlayPieces (s : State) (lead : Nat) (ps : List (Nat × Nat × PaKind × Bool)) (bs : List Byte) (lay : Nat := 0) :
    List Byte :=
  (ps.foldl (fun (acc : List Byte × Nat) p =>
    (acc.1 ++ s.overlay lead p.1 ((bs.drop acc.2).take p.2.1) lay, acc.2 + p.2.1)) ([], 0)).1

/-- Whether the segment has staged every byte of some pieces. -/
def State.stagedPieces (s : State) (lead : Nat) (ps : List (Nat × Nat × PaKind × Bool)) (lay : Nat := 0) : Bool :=
  ps.all fun p => s.allStaged lead p.1 p.2.1 lay

/-- The offset in tile `t` of an access that lies in its data, in one run of bytes; `none` for any other home. -/
def homeOff (t : Nat) (ps : List (Nat × Nat × PaKind × Bool)) : Option Nat :=
  match ps with
  | [(_, _, .tileData u off, _)] => if u = t then some off else none
  | [(_, n, .tileData u off, _), (_, _, .tileData v off', _)] =>
    if u = t ∧ v = t ∧ off' = off + n then some off else none
  | _ => none

/-- Reads pieces at their homes, other than the tile's own banks. -/
def State.readPieces (s : State) (lead : Nat) (lay : Nat) (ps : List (Nat × Nat × PaKind × Bool)) :
    List Byte × Bool × State :=
  ps.foldl (fun (acc : List Byte × Bool × State) p =>
    let r := acc.2.2.readHome p.1 p.2.1 lay p.2.2.1
    let s := r.s.raiseHome (some lead) (lanDie lead) (lanRecord lead) p.2.2.1 r.owed
    (acc.1 ++ r.bytes, acc.2.1 || r.bad, s)) ([], false, s)

/-- The physical address of the first word of some pieces that cannot be read (R227). -/
def State.badAt (s : State) (ps : List (Nat × Nat × PaKind × Bool)) : Nat :=
  (ps.findSome? fun p =>
    (List.range p.2.1).findSome? fun i =>
      match s.classify (p.1 + i) 1 with
      | some k => if (s.readHome (p.1 + i) 1 0 k).bad then some ((p.1 + i) / 4 * 4) else none
      | none => none).getD 0

/-- Writes bytes to pieces at their homes. -/
def State.writePieces (s : State) (lead : Nat) (lay : Nat) (ps : List (Nat × Nat × PaKind × Bool)) (bs : List Byte) :
    State :=
  (ps.foldl (fun (acc : State × Nat) p =>
    let r := acc.1.writeHome p.1 lay ((bs.drop acc.2).take p.2.1) p.2.2.1
    let s := r.1.raiseHome (some lead) (lanDie lead) (lanRecord lead) p.2.2.1 r.2
    (s, acc.2 + p.2.1)) (s, 0)).1

/-- Stages bytes for pieces (R252); `none` where an entry is wanting. -/
def State.stagePieces (s : State) (lead : Nat) (ps : List (Nat × Nat × PaKind × Bool)) (bs : List Byte) (lay : Nat := 0) :
    Option State :=
  (ps.foldl (fun (acc : Option State × Nat) p =>
    (acc.1.bind fun s => s.stageWrite lead p.1 ((bs.drop acc.2).take p.2.1) lay, acc.2 + p.2.1)) (some s, 0)).1

/-- Whether a store to some piece is held until commit rather than staged (R252). -/
def anyHeld (ps : List (Nat × Nat × PaKind × Bool)) : Bool :=
  ps.any fun p => match p.2.2.1 with
    | .tileData _ _ => false
    | .hbm => false
    | _ => true

/-- Forms a load's reply from its bytes (R101, R103). -/
def State.loadReply (s : State) (t lead : Nat) (r : EReq) (ps : List (Nat × Nat × PaKind × Bool)) (bs : List Byte)
    (bad : Bool) : State :=
  let v := loadOperand r.fmt false (s.overlayPieces lead ps bs)
  s.sendData t r v.fmt v.pay (bad && !s.stagedPieces lead ps)

/-- The data operand of a store. -/
def EReq.data (r : EReq) : Token :=
  match r.op with
  | .stx => r.c
  | _ => r.b

/-- Raises a store's flags in its firing's context (R175, R208). -/
def State.reqFlags (s : State) (r : EReq) (fl : Flags) : State := s.raiseFlags r.el (tagCtx r.tag) fl

/-- A store (R208, R211): refused formats, staging, the tile's own banks, other homes. -/
def State.serveStore (s : State) (t lead : Nat) (r : EReq) (ps : List (Nat × Nat × PaKind × Bool)) : State :=
  let d := r.data
  if !acceptsFmt r.fmt false d.fmt then
    (s.reqLog t r (reqRecord t r kFMT r.va (d.fmt.toNat + r.fmt * 16))).sendDone t r true
  else
    let v := storeBytes r.fmt false (if r.rtz then rtz else rne) ⟨d.fmt, d.pay⟩
    if (s.stagedSet lead).isSome then
      match s.stagePieces lead ps v.val with
      | none =>
        let full := ps.findSome? fun p => s.stageBlock lead p.1 (List.replicate p.2.1 0#8)
        s.setReq t { r with st := .entry, word := full.map fun u => (u, 0) }
      | some s =>
        let s := s.reqFlags r v.flags
        if anyHeld ps then s.setReq t { r with st := .held } else s.storeDone t r
    else
      let s := s.reqFlags r v.flags
      match homeOff t ps with
      | some off => (s.askBank t 0 r.id 0 off r.size (some v.val) (some lead)).setReq t { r with st := .bank }
      | none => (s.writePieces lead 0 ps v.val).storeDone t r

/-- A load (R208). -/
def State.serveLoad (s : State) (t lead : Nat) (r : EReq) (ps : List (Nat × Nat × PaKind × Bool)) : State :=
  match homeOff t ps with
  | some off => (s.askBank t 0 r.id 0 off r.size none (some lead)).setReq t { r with st := .bank }
  | none =>
    let d := s.readPieces lead 0 ps
    d.2.2.loadReply t lead r ps d.1 d.2.1

/-! ### Versions (R209, R250, R251) -/

/-- Whether version `v` of a word exists for a segment. -/
def Tile.hasVersion (x : Tile) (w v : Nat) (set : Option Nat) : Bool := (x.version? w v set).isSome

/-- Adds a version to a tile (R209). One that a firing before its element's snapshot stored belongs to the snapshot of the
port that opened the window (R168, R290). -/
def State.addVersion (s : State) (u : Nat) (r : EReq) (wn : Nat) (win : Win) (v : VEnt) : State :=
  let s := s.modTile u fun x => (x.addEnt v).getD x
  if s.pastCut r.el && !r.old then s
  else
    match s.portSnaps.find win.port with
    | none => s
    | some q =>
      let ws := q.cutWins.map fun w => if w.1 = u ∧ w.2.1 = wn then (u, wn, w.2.2.1, w.2.2.2 ++ [v]) else w
      { s with portSnaps := s.portSnaps.put win.port { q with cutWins := ws } }

/-- The version that an LDV or STV names. -/
def EReq.verNo (r : EReq) : Nat := (if r.op.hasData then r.b else r.c).pay.toNat % 2 ^ 32

/-- Whether a request waits for a version of a word of window `win` of tile `t` that is older than `v`. -/
def EReq.waitsBelow (r : EReq) (t : Nat) (win : Win) (v : Nat) : Bool :=
  (match r.op with
   | .ldv => true
   | .stv => true
   | _ => false) && decide ((r.st = .version ∨ r.st = .entry) ∧ r.verNo < v) &&
    (match r.word with
     | some (u, w) => decide (u = t ∧ win.first ≤ w ∧ w < win.first + win.nw)
     | none => false)

/-- Fails the LDVs and STVs that wait for a version below a window's new reclaim point (R251). -/
def State.failBelow (s : State) (t : Nat) (win : Win) (v : Nat) : State :=
  s.tiles.foldl (fun s y => (y.2.reqs.filter fun r => r.waitsBelow t win v).foldl (fun s r => s.verrec y.1 r 3) s) s

/-- Moves a window's reclaim point (R251): folds, then what waits below it fails. -/
def State.reclaimTo (s : State) (t k : Nat) (win : Win) (v : Nat) : State :=
  if v ≤ win.p then s else (s.vrecl t k win v).failBelow t win v

/-- Closes a window whose program has ended (R280): what waits below its last reclaim point fails. -/
def State.shutWin (s : State) (t k : Nat) : State :=
  match (s.tile t).wins.find k with
  | none => s
  | some win => (s.closeWin t k).failBelow t win ((s.tile t).newestIn win + 1)

/-- LDV and STV (R209). -/
def State.serveVersion (s : State) (t lead : Nat) (r : EReq) (ps : List (Nat × Nat × PaKind × Bool)) : State :=
  let set := s.stagedSet lead
  match ps with
  | [(_, _, .tileData u off, _)] =>
    let w := off / 4
    let x := s.tile u
    (match x.winOf w with
     | none => s.verrec t r 1
     | some (wn, win) =>
       let load := r.op.hasData
       let v := r.verNo
       let wait (st : ReqSt) : State := s.setReq t { r with st := st, word := some (u, w) }
       if load then
         if v < win.p then s.verrec t r 3
         else
           (match x.version? w v set with
            | none => wait .version
            | some d =>
              let o := loadOperand r.fmt false (leBytes 4 d.toNat)
              s.sendData t r o.fmt o.pay false)
       else if x.hasVersion w v set then s.verrec t r 2
       else if v < win.p then s.verrec t r 3
       else if win.p + 4096 ≤ v then s.verrec t r 4
       else if !acceptsFmt r.fmt false r.b.fmt then
         (s.reqLog t r (reqRecord t r kFMT r.va (r.b.fmt.toNat + r.fmt * 16))).sendDone t r true
       else
         let need := if set.isSome then 2 else 1
         if win.ent < x.winUsed win + need || (x.place need).isNone then wait .entry
         else
           let d := storeBytes r.fmt false (if r.rtz then rtz else rne) ⟨r.b.fmt, r.b.pay⟩
           let s := s.addVersion u r wn win (.version w v set (BitVec.ofNat 32 (leNat d.val)))
           (s.reqFlags r d.flags).storeDone t r)
  | _ => s.verrec t r 1

/-! ### Synchronisation (R213, R307) -/

/-- A SYNC record of the engine for a slot form. -/
def State.slotSyncLog (s : State) (t : Nat) (r : EReq) (reason : Nat) : State :=
  s.reqLog t r { reqRecord t r kSYNC r.va reason with unit := 3#3, x := 0#6, y := 0#7, el := 0#4 }

/-- Alignment of an operation's object (R301). -/
def MemOp.align : MemOp → Nat
  | .phsig => 32 | .qpsh => 32 | .fbin => 16 | _ => 8

/-- Answers a slot form with what the engine gives (R213, R307). -/
def State.slotReply (s : State) (t : Nat) (r : EReq) : Eng → State
  | .err reason => (s.slotSyncLog t r reason).failReq t r
  | .ok v _ ovr s =>
    let s := if ovr then s.slotSyncLog t r 1 else s
    let r := { r with fault := r.fault || ovr }
    if r.op.hasData then s.sendData t r fmtI64 (BitVec.ofNat 80 (v % 2 ^ 64)) false else s.storeDone t r

/-- Whether a waiting request is request `id` of a tile. -/
def WaitWho.isReq (t id : Nat) : WaitWho → Bool
  | .slot u r => decide (u = t ∧ r.id = id)
  | _ => false

/-- A QPSH from a slot (R213): one that meets a full queue waits at the engine. -/
def State.slotPush (s : State) (t : Nat) (r : EReq) (die a : Nat) : State :=
  if (s.sync die).waits.any (fun w => w.who.isReq t r.id) then s.serveAll die a
  else
    match s.engPush die a r.b.fmt r.b.pay with
    | .bad => (s.slotSyncLog t r 2).failReq t r
    | .done _ s => s.storeDone t r
    | .blocked =>
      let r := { r with st := .entry }
      (s.setReq t r).modSync die fun y =>
        { y with waits := y.waits ++ [{ who := .slot t r, what := .push r.b.fmt r.b.pay, addr := a }] }

/-- The engine's work for a slot form at address `a` of die `die`. -/
def State.serveSync (s : State) (t lead : Nat) (r : EReq) (die a : Nat) : State :=
  if a % r.op.align ≠ 0 then (s.slotSyncLog t r 3).failReq t r
  else if s.speculative lead then s.setReq t { r with st := .held }
  else
    let v := r.b.pay.setWidth 64
    match r.op with
    | .phsig => s.slotReply t r (s.engSig die a none)
    | .aadd => s.slotReply t r (s.engAtom die a .add v)
    | .aand => s.slotReply t r (s.engAtom die a .and v)
    | .aor => s.slotReply t r (s.engAtom die a .or v)
    | .axor => s.slotReply t r (s.engAtom die a .xor v)
    | .amin u => s.slotReply t r (s.engAtom die a (.min u) v)
    | .amax u => s.slotReply t r (s.engAtom die a (.max u) v)
    | .axch => s.slotReply t r (s.engAtom die a .xchg v)
    | .acas => s.slotReply t r (s.engCas die a v (r.c.pay.setWidth 64))
    | .fbin => s.slotReply t r (s.engBin die a (wdec r.b.pay))
    | .qpsh => s.slotPush t r die a
    | _ => s

/-- The address of an object in the local slice of a region's launch on a die (R300). -/
def State.sliceOn (s : State) (lead die va : Nat) : Option Nat :=
  match s.launchOf lead with
  | none => none
  | some l => (l.slices.find die).map fun b => b + va

/-- Serves a slot form: its address must lie in synchronisation space (R213, R300). -/
def State.serveSlotSync (s : State) (t lead : Nat) (r : EReq) : State :=
  let die := tileDie t
  if r.va.toNat < 0x10000 then
    match s.sliceOn lead die r.va.toNat with
    | some a => s.serveSync t lead r die a
    | none => s.waitXlate t r r.va 0
  else
    match s.reqPlaces lead t r with
    | (.error (va, reason), s) => s.waitXlate t r (BitVec.ofNat 64 va) reason
    | (.ok ((_, _, .sync d a, _) :: _), s) => if s.diesCut die d then s else s.serveSync t lead r d a
    | (.ok _, s) => (s.reqLog t r (reqRecord t r kSYNC r.va 0)).failReq t r

/-! ### The events -/

/-- Finishes a request whose words the banks have all granted. -/
def State.bankReply (s : State) (t lead : Nat) (r : EReq) : State :=
  if !(s.tile t).granted 0 r.id then s
  else if r.op.hasData then
    let mine := (s.tile t).bankd.filter fun d => decide (d.src = 0 ∧ d.client = r.id)
    let first := mine.foldl (fun acc d => min acc d.pos) ((mine.map (·.pos)).headD 0)
    let off := 4 * first + r.va.toNat % 4
    let d := s.takeBank t 0 r.id off r.size
    d.2.2.loadReply t lead r [(tileBase t + off, r.size, .tileData t off, false)] d.1 d.2.1
  else s.storeDone t r

/-- Serves request `idx` of a tile's element request port (R205, R208 to R214). -/
def State.serveReq (s : State) (t idx : Nat) : State :=
  if 32 ≤ idx then s
  else
    match (s.tile t).reqs[idx]? with
    | none => s
    | some r =>
      match s.leadOfTile (elTile r.el) with
      | none => s
      | some lead =>
        let go : State :=
          if r.op.isSync then s.serveSlotSync t lead r
          else
            match s.reqPlaces lead t r with
            | (.error (va, reason), s) => s.waitXlate t r (BitVec.ofNat 64 va) reason
            | (.ok ps, s) =>
              if s.piecesCut (tileDie t) ps then s else
              match r.op with
              | .ld => s.serveLoad t lead r ps
              | .ldx => s.serveLoad t lead r ps
              | .st => s.serveStore t lead r ps
              | .stx => s.serveStore t lead r ps
              | _ => s.serveVersion t lead r ps
        match r.st with
        | .new => go
        | .version => go
        | .entry => go
        | .bank => s.bankReply t lead r
        | .xlate => s
        | .held => s
        | .done => s
        | .reply => s.leaveReply t r

/-- Sends the completion of a store that still stands in line for its bank (R210), if its links have room. -/
def State.doneEarly (s : State) (t : Nat) (r : EReq) : State :=
  let r' := { r with outs := r.doneOuts false }
  if s.outsFit t r' then (s.setReq t { r with o := false }).sendOuts t r' else s

/-- Sends the completion of request `idx` of a tile (R210): once performed, or at scope .TILE once it stands in line for
its bank. -/
def State.completeStore (s : State) (t idx : Nat) : State :=
  match (s.tile t).reqs[idx]? with
  | none => s
  | some r =>
    match r.st with
    | .done => s.sendDone t r false
    | .bank =>
      if r.op.hasData then s
      else if (s.tile t).granted 0 r.id then s.sendDone t r false
      else if r.o && decide (r.scope = 1#3) then s.doneEarly t r
      else s
    | _ => s

/-- ELEMENT_MEM_REPLY (R208). -/
def execElementMemReply (tile idx : Nat) (s : State) : Out := .next (s.serveReq tile idx)
/-- STORE_COMPLETION (R210). -/
def execStoreCompletion (tile idx : Nat) (s : State) : Out := .next (s.completeStore tile idx)

end Sys2Proof.Machine
end

