-- ==== Sys2Proof/Machine/Stream.lean ====
section
/-! DEFINITION. Stream programs (R264 to R283): the sequencer's instructions, which act on the port whose turn it is. -/

namespace Sys2Proof.Machine

/-! ### The port and its program -/

/-- The tile of the port whose turn it is. -/
def State.prtTile (s : State) : Nat := portTile s.prt

/-- Changes the running program of a port. -/
def State.modProg (s : State) (p : Nat) (f : Prog → Prog) : State := s.modPort p fun q => { q with prog := q.prog.map f }

/-- The sequencer moves on by `n` parcels. -/
def State.stepProg (s : State) (p n : Nat) : State := s.modProg p fun g => { g with pc := g.pc + n, xheld := none }

/-- Runs an instruction of the running program of the port whose turn it is. -/
def State.onProg (s : State) (k : Nat → Port → Prog → State) : Out :=
  match (s.port s.prt).prog with
  | none => .refused .noProgram
  | some g => .next (k s.prt (s.port s.prt) g)

/-- Changes a handle of a port. -/
def State.modHandle (s : State) (p h : Nat) (f : Handle → Handle) : State :=
  s.modPort p fun q => match q.hs.find h with
    | some x => { q with hs := q.hs.put h (f x) }
    | none => q

/-- COUNT of a handle, bounded by ITERS (R139). -/
def State.countOf (s : State) (g : Prog) (x : Handle) : Nat :=
  match s.firstSpace g.lan g.ctx with
  | some (_, n) => if n = 0 then x.count else min x.count n
  | none => x.count

/-- A record of a port's instruction (R283). -/
def State.portLog (s : State) (p : Nat) (g : Prog) (kind : Byte) (tag : Tag) (addr : Word) (info : Nat) : State :=
  s.raise (some g.lan) (tileDie (portTile p)) (portRecord p kind g.ctx tag addr info)

/-! ### SOPEN, SPUSH, SACPT, SGATH, SSCAT, SCLOSE (R268 to R273) -/

/-- SOPEN (R268). -/
def execSopen (h : BitVec 2) (input : Bool) (fmt : BitVec 4) (lay : BitVec 2) (rtz ord grp : Bool) (uni : BitVec 3)
    (count : BitVec 24) (stride : BitVec 16) (base : BitVec 48) (s : State) : Out :=
  s.onProg fun p _ _ =>
    let x : Handle :=
      { input := input, fmt := fmt.toNat, lay := lay, rtz := rtz, ord := ord, grp := grp, uni := uni.toNat,
        count := count.toNat, stride := stride, line := base.setWidth 64, cur := base.setWidth 64, pos := 0, limit := 0,
        idx := [], nextW := 0, written := [], tr := none, flags := 0#5 }
    (s.modPort p fun q => { q with hs := q.hs.put h.toNat x }).stepProg p 2

/-- Releases `n` elements of a handle, or all that remain (R269), with the index vector they take their addresses from
(R273). -/
def State.release (s : State) (p : Nat) (g : Prog) (h n : Nat) (idx : Option (Nat × Nat)) : State :=
  s.modHandle p h fun x =>
    let c := s.countOf g x
    let limit := max x.limit (if n = 0 then c else min c (x.limit + n))
    let idx := match idx with
      | some (ibase, ifmt) =>
        if x.limit < limit then
          x.idx ++ [{ first := x.limit, count := limit - x.limit, ibase := ibase, ifmt := ifmt }]
        else x.idx
      | none => x.idx
    { x with limit := limit, idx := idx }

/-- SPUSH (R269). -/
def execSpush (h : BitVec 2) (n : BitVec 24) (s : State) : Out :=
  s.onProg fun p _ g => (s.release p g h.toNat n.toNat none).stepProg p 1
/-- SACPT (R269). -/
def execSacpt (h : BitVec 2) (n : BitVec 24) (s : State) : Out :=
  s.onProg fun p _ g => (s.release p g h.toNat n.toNat none).stepProg p 1
/-- SGATH (R273). -/
def execSgath (h : BitVec 2) (ifmt : BitVec 4) (n : BitVec 24) (ibase : BitVec 48) (s : State) : Out :=
  s.onProg fun p _ g => (s.release p g h.toNat n.toNat (some (ibase.toNat, ifmt.toNat))).stepProg p 2
/-- SSCAT (R273). -/
def execSscat (h : BitVec 2) (ifmt : BitVec 4) (n : BitVec 24) (ibase : BitVec 48) (s : State) : Out :=
  s.onProg fun p _ g => (s.release p g h.toNat n.toNat (some (ibase.toNat, ifmt.toNat))).stepProg p 2

/-- Whether every store of a port to its own tile's banks has been granted. -/
def State.portDrained (s : State) (p : Nat) : Bool :=
  !((s.tile (portTile p)).bankq.any fun q => decide (q.src = portNum p + 1) && q.store)

/-- Whether every released element of a handle has been completed (R271). -/
def State.handleDone (s : State) (p h : Nat) : Bool :=
  let q := s.port p
  match q.hs.find h with
  | none => true
  | some x =>
    decide (x.pos = x.limit) &&
    (if x.input then decide (x.limit ≤ x.nextW) && s.portDrained p && !s.postsDue
     else !(q.outq.any fun r => decide (r.h = h)))

/-- Closes a handle (R271): its flags accrue (R93). -/
def State.closeHandle (s : State) (p h lan : Nat) : State :=
  match (s.port p).hs.find h with
  | none => s
  | some x =>
    (s.accrue lan x.flags).modPort p fun q =>
      { q with hs := q.hs.del h, outq := q.outq.filter fun r => decide (r.h ≠ h) }

/-- SCLOSE (R271). -/
def execSclose (h : BitVec 2) (s : State) : Out :=
  s.onProg fun p _ g =>
    if s.handleDone p h.toNat then (s.closeHandle p h.toNat g.lan).stepProg p 1 else s

/-- SLOOP (R274): with ADV it waits until every released element of its handle has been issued (R292). -/
def execSloop (h : BitVec 2) (adv : Bool) (back : BitVec 6) (times : BitVec 16) (stp : BitVec 24) (s : State) : Out :=
  s.onProg fun p q g =>
    let n := (g.loops.find g.pc).getD times.toNat - 1
    if adv && (q.hs.find h.toNat).any fun x => decide (x.pos ≠ x.limit) then s
    else if 0 < n then
      let s := if adv then
          s.modHandle p h.toNat fun x =>
            let line := x.line + stp.signExtend 64
            { x with line := line, cur := line }
        else s
      s.modProg p fun g => { g with loops := g.loops.put g.pc n, pc := g.pc - back.toNat }
    else s.modProg p fun g => { g with loops := g.loops.del g.pc, pc := g.pc + 1 }

/-! ### Synchronisation (R275 to R277) -/

/-- What the address of an SWAIT or SSIG gives: an object; an instruction that is skipped, or waits. -/
inductive PortSync where
  | at_ (die a : Nat) (s : State)
  | stop (s : State)

/-- How a port's own accesses translate: through its extents, then the table (R256). -/
def portHow (q : Port) (may : Nat → Bool) (rd wr : Bool) : XlHow :=
  { near := fun va => (extentOf q.ext va).map (·.2), tlb := false, may := may, rd := rd, wr := wr }

/-- Translates ADDR of an SWAIT or SSIG (R277, R300). -/
def State.portSync (s : State) (p : Nat) (q : Port) (g : Prog) (addr : Nat) (wr : Bool) : PortSync :=
  let die := tileDie (portTile p)
  let va := BitVec.ofNat 64 addr
  let wait (s : State) (reason : Nat) : PortSync :=
    let m := heldNext g.xheld s.tick addr
    let s := s.raise (some g.lan) die ((portRecord p kXLATE g.ctx 0#36 va (reason + 8 * 16)).missed m)
    .stop (s.modProg p fun g => { g with xheld := some m })
  if heldWaits g.xheld then .stop s
  else if addr < 0x10000 then
    match s.sliceOn g.lan die addr with
    | some a => .at_ die a s
    | none => wait s 0
  else
    match s.unitXlate g.lan die (portHow q (heldMay g.xheld) true wr) addr 8 with
    | (.miss reason, s) => if reason = xlCut then .stop s else wait s reason
    | (.ok _ (.sync d a) _, s) => .at_ d a s
    | (.ok _ _ _, s) => .stop ((s.portLog p g kSYNC 0#36 va 0).stepProg p 2)

/-- A SYNC record of the engine for a port's request. -/
def State.portSyncLog (s : State) (p : Nat) (g : Prog) (addr reason : Nat) : State :=
  s.portLog p g kSYNC 0#36 (BitVec.ofNat 64 addr) reason

/-- SWAIT (R275): it waits as PHWT with no table entry does. -/
def execSwait (addr : BitVec 48) (s : State) : Out :=
  s.onProg fun p q g =>
    match g.waitPh with
    | some (key, sig) =>
      (match s.phaseAt (key / 2 ^ 32) (key % 2 ^ 32) with
       | none => s
       | some phase =>
         if phaseDone phase sig then
           let s := s.modSync (key / 2 ^ 32) fun y =>
             { y with waits := y.waits.filter fun w => decide (w.who ≠ .port p) }
           (s.modProg p fun g => { g with waitPh := none }).stepProg p 2
         else s)
    | none =>
      match s.portSync p q g addr.toNat false with
      | .stop s => s
      | .at_ die a s =>
        if a % 32 ≠ 0 then (s.portSyncLog p g addr.toNat 3).stepProg p 2
        else
          match s.phaseAt die a with
          | none => (s.portSyncLog p g addr.toNat 2).stepProg p 2
          | some phase =>
            let sig := BitVec.ofNat 32 phase
            let s := s.modSync die fun y => { y with waits := y.waits ++ [{ who := .port p, what := .phase sig, addr := a }] }
            s.modProg p fun g => { g with waitPh := some (syncKey die a, sig) }

/-- An arrival or byte addition at the engine that no reply returns from: the state and the SYNC reason to log, if
any. -/
def State.engPost (s : State) (die a add : Nat) : State × Option Nat :=
  if a % 32 ≠ 0 then (s, some 3)
  else
    match if add = 0 then s.engSig die a none else s.engBytes die a add with
    | .err reason => (s, some reason)
    | .ok _ _ ovr s => (s, if ovr then some 1 else none)

/-- A copy's byte addition: an object that is no barrier, or stands at no barrier's place, is reason 2 (R329). -/
def State.engCount (s : State) (die a add : Nat) : State × Option Nat :=
  let r := s.engPost die a add
  (r.1, r.2.map fun reason => if reason = 3 then 2 else reason)

/-- Whether SSIG with AFT waits (R276): an element of an open input handle that has been written is not yet performed at SCOPE.
At .TILE a store that stands in line for its bank is (R210). -/
def State.sigWaits (s : State) (p h : Nat) (scope : BitVec 3) : Bool :=
  ((s.port p).hs.find h).any (·.input) && decide (scope ≠ 1#3) && (!s.portDrained p || s.postsDue)

/-- SSIG (R276). -/
def execSsig (h : BitVec 2) (aft : Bool) (scope : BitVec 3) (bytes : BitVec 32) (addr : BitVec 48) (s : State) : Out :=
  s.onProg fun p q g =>
    if aft && s.sigWaits p h.toNat scope then s
    else
      match s.portSync p q g addr.toNat true with
      | .stop s => s
      | .at_ die a s =>
        match s.resident g.lan with
        | some (idx, seg) =>
          if seg.st = .runs then
            let h : SyncHeld := { copy := false, none_ := false, seg := segKey (lanDie g.lan) idx, addr := a, add := bytes.toNat,
                                  log := portRecord p kSYNC g.ctx 0#36 (BitVec.ofNat 64 addr.toNat) 0 }
            (s.modSync die fun y => { y with held := y.held ++ [h] }).stepProg p 2
          else
            let r := s.engPost die a bytes.toNat
            (match r.2 with
             | some reason => r.1.portSyncLog p g addr.toNat reason
             | none => r.1).stepProg p 2
        | none =>
          let r := s.engPost die a bytes.toNat
          (match r.2 with
           | some reason => r.1.portSyncLog p g addr.toNat reason
           | none => r.1).stepProg p 2

/-! ### Extents (R278) -/

/-- Drops the translation entries of streams that came from an extent in `mask`. -/
def dropTr (mask : BitVec 16) (hs : Tab Handle) : Tab Handle :=
  hs.map fun h => (h.1, { h.2 with tr := match h.2.tr with
    | some e => (match e.ext with
      | some k => if mask.getLsbD k then none else some e
      | none => some e)
    | none => none })

/-- WLOAD (R278). -/
def execWload (mask : BitVec 16) (s : State) : Out :=
  s.onProg fun p _ g =>
    let now := s.extentsOf g.lan
    (s.modPort p fun q =>
      let ext := (List.range 16).foldl (fun t k =>
        if mask.getLsbD k then (match now.find k with
          | some e => t.put k e
          | none => t.del k) else t) q.ext
      { q with ext := ext, hs := dropTr mask q.hs }).stepProg p 1

/-- WDROP (R278). -/
def execWdrop (mask : BitVec 16) (s : State) : Out :=
  s.onProg fun p _ _ =>
    (s.modPort p fun q =>
      { q with ext := q.ext.filter fun e => !mask.getLsbD e.1, hs := dropTr mask q.hs }).stepProg p 1

/-! ### Windows and layout (R279 to R282) -/

/-- VOPEN (R279): the window is open at once, and the instruction moves on when its entries are reserved. -/
def execVopen (win : BitVec 2) (ent : BitVec 11) (first : BitVec 17) (nw : BitVec 17) (s : State) : Out :=
  s.onProg fun p _ g =>
    let t := portTile p
    let x := s.tile t
    let k := win.toNat
    let mine := match x.wins.find k with
      | some w => decide (w.ent = 0 ∧ w.port = p ∧ k ∈ g.wins)
      | none => false
    let clash := x.wins.any fun e =>
      decide (e.1 = k ∨ (first.toNat < e.2.first + e.2.nw ∧ e.2.first < first.toNat + nw.toNat))
    if !mine && clash then (s.portLog p g kVERREC 0#36 0#64 5).stepProg p 1
    else
      let ready := decide (ent.toNat ≤ x.freeEnts)
      let w : Win := { first := first.toNat, nw := nw.toNat, ent := if ready then ent.toNat else 0, p := 0, port := p }
      let s := s.modTile t fun x => { x with wins := x.wins.put k w }
      let s := if mine then s else s.modProg p fun g => { g with wins := g.wins ++ [k] }
      if ready then s.stepProg p 1 else s

/-- VRECL (R281). -/
def execVrecl (win : BitVec 2) (rel : Bool) (v : BitVec 32) (s : State) : Out :=
  s.onProg fun p _ g =>
    let t := portTile p
    match (s.tile t).wins.find win.toNat with
    | none => (s.portLog p g kVERREC 0#36 0#64 6).stepProg p 1
    | some w =>
      let v := if rel then min (w.p + v.toNat) (2 ^ 32 - 1) else v.toNat
      (s.reclaimTo t win.toNat w v).stepProg p 1

/-- MLAY (R282): it waits until the port's earlier accesses are performed. -/
def execMlay (segs : BitVec 8) (xs chk : Bool) (s : State) : Out :=
  s.onProg fun p q _ =>
    let busy := (q.outq.any fun r => match r.st with
        | .bank => true
        | .xlate => true
        | .new => true
        | _ => false)
      || ((s.tile (portTile p)).bankq.any fun b => decide (b.src = portNum p + 1))
      || (q.hs.any fun h => decide (h.2.pos ≠ h.2.limit) || (h.2.input && decide (h.2.nextW < h.2.limit)))
    if busy then s
    else
      (s.modTile (portTile p) fun x =>
        { x with xs := (x.xs &&& ~~~segs) ||| (if xs then segs else 0#8),
                 chk := (x.chk &&& ~~~segs) ||| (if chk then segs else 0#8) }).stepProg p 1

/-! ### The end of a program and the next one (R264, R280, R487) -/

/-- Ends a port's program that has run past its last instruction: open handles close as SCLOSE closes them, its windows
close, and it is gone. -/
def State.endProg (s : State) (p : Nat) : State :=
  match (s.port p).prog with
  | none => s
  | some g =>
    if !g.armed || decide (g.pc < g.parcels.length) then s
    else
      let ready := ((s.port p).hs.map (·.1)).filter fun h => s.handleDone p h
      let s := ready.foldl (fun s h => s.closeHandle p h g.lan) s
      if !(s.port p).hs.isEmpty then s
      else
        let s := g.wins.foldl (fun s k =>
          match (s.tile (portTile p)).wins.find k with
          | some w => if w.port = p then s.shutWin (portTile p) k else s
          | none => s) s
        s.modPort p fun q => { q with prog := none, outq := [] }

/-- Starts a port's pending program once the running one has ended and its own configuration is armed (R487): it sees
the Beacon's extents, not those that the last program changed. -/
def State.startPending (s : State) (p : Nat) : State :=
  match (s.port p).prog, (s.port p).pend with
  | none, some g =>
    if g.armed then
      let ext := s.extentsOf g.lan
      s.modPort p fun q => { q with prog := some g, pend := none, hs := [], outq := [], ext := ext }
    else s
  | _, _ => s

/-- STREAM_PROGRAM_START (R487): the end of the running program and the start of the pending one. -/
def execStreamProgramStart (port : Nat) (s : State) : Out := .next ((s.endProg port).startPending port)

end Sys2Proof.Machine
end

