-- ==== Sys2Proof/Machine/StreamIO.lean ====
section
/-! DEFINITION. The elements of streams (R255, R256, R259, R269 to R273): address, translation, reading and pushing,
accepting and writing; markers at ports (R290). -/

namespace Sys2Proof.Machine

/-! ### Issued elements -/

/-- Replaces element `n` of handle `h` of a port. -/
def State.setElem (s : State) (p : Nat) (r : StreamReq) : State :=
  s.modPort p fun q => { q with outq := q.outq.map fun x => if x.h = r.h ∧ x.n = r.n then r else x }

/-- The number under which a port's element stands in line for the tile's banks. -/
def StreamReq.client (r : StreamReq) : Nat := r.h * 2 ^ 24 + r.n

/-- INFO access code of a handle (R227). -/
def Handle.access (x : Handle) : Nat := if x.input then 7 else 6

/-- Bytes of an element (R269). -/
def Handle.bytes (x : Handle) : Nat := if x.grp then 10 else fmtSize x.fmt

/-- Alignment of an element (R269). -/
def Handle.align (x : Handle) : Nat := if x.grp then 1 else fmtAlign x.fmt

/-- An element that fails (R270): an output element will push a poisoned token, an input element consumes its token. -/
def State.failElem (s : State) (p : Nat) (x : Handle) (r : StreamReq) : State :=
  s.setElem p { r with st := if x.input then .entry else .done, idx := none, bad := true, data := [] }

/-- bad(reason) of R269, with the address that is bad. -/
def State.badElem (s : State) (p : Nat) (g : Prog) (x : Handle) (r : StreamReq) (va : Word) (reason : Nat) : State :=
  (s.portLog p g kXLATE (s.elemTag p g r.n) va (reason + x.access * 16)).failElem p x r

/-- An element whose translation fails waits (R229, R270). -/
def State.waitElem (s : State) (p : Nat) (g : Prog) (x : Handle) (r : StreamReq) (va : Word) (reason : Nat) : State :=
  if reason = xlCut then s
  else
  let r := { r with st := .xlate, miss := r.miss.next s.tick va.toNat }
  (s.setElem p r).raise (some g.lan) (tileDie (portTile p))
    ((portRecord p kXLATE g.ctx (s.elemTag p g r.n) va (reason + x.access * 16)).missed r.miss)

/-- The translation entry of a stream as a leaf (R256). -/
def trLeaf (tr : Option TrEnt) (pasid va : Nat) : Option Leaf :=
  match tr with
  | none => none
  | some e =>
    if e.pasid = pasid ∧ e.vpn = va / 4096 then
      some { pa := e.ppn * 4096 + va % 4096, vbase := e.vpn * 4096, size := 4096, pbase := e.ppn * 4096, r := e.r,
             w := e.w, x := false, c := false, tso := e.tso }
    else none

/-- Translates an element's data access: through its stream's translation entry, the port's extents and the table, or,
gathered or scattered, through the edge TLB (R256, R273). The last translation becomes the stream's entry. -/
def State.elemPlaces (s : State) (p : Nat) (q : Port) (g : Prog) (x : Handle) (r : StreamReq) :
    Except (Nat × Nat) (List (Nat × Nat × PaKind × Bool)) × State :=
  let pasid := s.pasidOf g.lan
  let how : XlHow :=
    { near := fun va =>
        if r.gath then none
        else match trLeaf x.tr pasid va with
          | some l => some l
          | none => (extentOf q.ext va).map (·.2),
      tlb := r.gath, may := r.miss.may, rd := !x.input, wr := x.input }
  let res := s.unitPlaces g.lan (tileDie (portTile p)) how r.va.toNat x.bytes
  match res.1 with
  | .error e => (.error e, res.2)
  | .ok ps =>
    if r.gath then (.ok ps, res.2)
    else
      match ps.getLast? with
      | none => (.ok ps, res.2)
      | some (pa, n, _, tso) =>
        let va := r.va.toNat + x.bytes - n
        let same := (trLeaf x.tr pasid va).isSome
        let e : TrEnt := { pasid := pasid, vpn := va / 4096, ppn := pa / 4096, r := how.rd, w := how.wr, tso := tso,
                           ext := (extentOf q.ext va).map (·.1) }
        (.ok ps, if same then res.2 else res.2.modHandle p r.h fun x => { x with tr := some e })

/-- The layout code of a handle. -/
def Handle.layout (x : Handle) : Nat := x.lay.toNat

/-- The tile of the first piece whose layout refuses an access (R240), with its mode. -/
def State.layoutBad (s : State) (lay : Nat) (ps : List (Nat × Nat × PaKind × Bool)) : Option Bool :=
  ps.findSome? fun p => match p.2.2.1 with
    | .tileData u off =>
      if (s.tile u).layoutOk lay off p.2.1 then none else some ((s.tile u).segMode (off / 4)).1
    | _ => none

/-- A LAYOUT record's INFO (R227). -/
def layoutInfo (lay : Nat) (mode : Bool) : Nat := (if lay = 2 then 1 else 0) + (if mode then 2 else 0)

/-- Reads an output element at its home (R269, R270). -/
def State.readElem (s : State) (p : Nat) (q : Port) (g : Prog) (x : Handle) (r : StreamReq) : State :=
  match s.elemPlaces p q g x r with
  | (.error (va, reason), s) => s.waitElem p g x r (BitVec.ofNat 64 va) reason
  | (.ok ps, s) =>
    if s.piecesCut (tileDie (portTile p)) ps then s else
    match s.layoutBad x.layout ps with
    | some mode => (s.portLog p g kLAYOUT (s.elemTag p g r.n) r.va (layoutInfo x.layout mode)).failElem p x r
    | none =>
      match homeOff (portTile p) ps with
      | some off =>
        (s.askBank (portTile p) (portNum p + 1) r.client x.layout off x.bytes none (some g.lan)).setElem p
          { r with st := .bank }
      | none =>
        let d := s.readPieces g.lan x.layout ps
        let bs := d.2.2.overlayPieces g.lan ps d.1 x.layout
        d.2.2.setElem p { r with st := .done, data := bs, bad := d.2.1 && !d.2.2.stagedPieces g.lan ps x.layout }

/-- The address of an element is known: an output element is read, an input element awaits its token. -/
def State.placeElem (s : State) (p : Nat) (q : Port) (g : Prog) (x : Handle) (r : StreamReq) : State :=
  if 2 ^ 48 ≤ r.va.toNat then s.badElem p g x r r.va 3
  else if r.va.toNat % x.align ≠ 0 then s.badElem p g x r r.va 4
  else if x.input then s.setElem p { r with st := .entry }
  else s.readElem p q g x r

/-- The signed value of an index (R273). -/
def indexValue (ifmt v : Nat) : Int :=
  let bits := 8 * fmtSize ifmt
  if ifmt < 8 ∧ 2 ^ (bits - 1) ≤ v then (v : Int) - 2 ^ bits else v

/-- Attempts an issued element: its index read, if it has one, then its access (R269, R273). -/
def State.tryElem (s : State) (p : Nat) (q : Port) (g : Prog) (x : Handle) (r : StreamReq) : State :=
  match r.idx with
  | none => s.placeElem p q g x r
  | some (ia, ifmt) =>
    if 2 ^ 48 ≤ ia.toNat then s.badElem p g x r ia 3
    else if ia.toNat % fmtSize ifmt ≠ 0 then s.badElem p g x r ia 4
    else
      match s.unitPlaces g.lan (tileDie (portTile p)) (portHow q r.miss.may true false) ia.toNat (fmtSize ifmt) with
      | (.error (va, reason), s) => s.waitElem p g x r (BitVec.ofNat 64 va) reason
      | (.ok ps, s) =>
        if s.piecesCut (tileDie (portTile p)) ps then s else
        let d := s.readPieces g.lan 0 ps
        let bs := d.2.2.overlayPieces g.lan ps d.1
        if d.2.1 && !d.2.2.stagedPieces g.lan ps then
          let pa := s.badAt ps
          (d.2.2.portLog p g kPOISON (s.elemTag p g r.n) (BitVec.ofNat 64 pa) 2).failElem p x { r with idx := none }
        else
          let i := indexValue ifmt (leNat bs)
          let va := r.line + BitVec.ofInt 64 (i * x.stride.toInt)
          let r := { r with va := va, idx := none }
          (d.2.2.setElem p r).placeElem p q g x r

/-- How many of a port's requests are outstanding (R255): those that wait on a translation among them (R229). -/
def Port.outstanding (q : Port) : Nat := (q.outq.filter fun r => decide (r.st = .xlate ∨ r.st = .new)).length

/-- Issues the next released element of handle `h` of a port, or retries one (R269, R293). An output element is issued
only where its iteration may be emitted. -/
def State.issueElem (s : State) (p h : Nat) : State :=
  let q := s.port p
  match q.prog, q.hs.find h with
  | some g, some x =>
    match q.outq.find? fun r => decide (r.h = h ∧ r.st = .new) with
    | some r => s.tryElem p q g x r
    | none =>
      let n := x.pos
      let open_ := x.input || (match s.windowOf (some g.lan) (tileDie (portTile p)) (s.elemTag p g n) n with
        | .park => false
        | _ => true)
      if n < x.limit ∧ g.armed = true ∧ q.outstanding < 64 ∧ open_ = true ∧ (x.input = true ∨ q.stopped = false) then
        let rel := x.idx.find? fun i => decide (i.first ≤ n ∧ n < i.first + i.count)
        let r : StreamReq :=
          { h := h, n := n, va := x.cur, line := x.line,
            idx := rel.map fun i => (BitVec.ofNat 64 (i.ibase + (n - i.first) * fmtSize i.ifmt), i.ifmt),
            gath := rel.isSome, st := .new, data := [], bad := false, miss := Miss.zero, uni := false }
        let x' : Handle := { x with pos := n + 1, cur := if rel.isSome then x.cur else x.cur + x.stride.signExtend 64 }
        let s := s.modPort p fun q => { q with hs := q.hs.put h x', outq := q.outq ++ [r] }
        s.tryElem p q g x r
      else s
  | _, _ => s

/-! ### Pushing (R107, R255, R269) -/

/-- One LGB12 payload rescaled to block scale `smax` (R107). -/
def unifyBlock (smax : Int) (v : Pay) : Pay :=
  let sc := l6scale v
  l6pack (BitVec.ofInt 8 smax) ((List.range 12).map fun j =>
    let lane := l6lane v j
    if laneL lane = -16 then lane
    else
      let ln := laneL lane - 4 * (smax - sc)
      if ln < -15 then 0x10#6 else (lane &&& 0x20#6) ||| (BitVec.ofInt 5 ln).setWidth 6)

/-- The bytes of an LGB12 block of a payload. -/
def lgbBytes (v : Pay) : List Byte := (storeBytes 11 false rne ⟨fmtL6, v⟩).val

/-- Gathers an element whose words the banks have granted. -/
def State.gatherElem (s : State) (p : Nat) (g : Prog) (x : Handle) (r : StreamReq) : State × StreamReq :=
  let t := portTile p
  if r.st = .bank ∧ (s.tile t).granted (portNum p + 1) r.client = true then
    let mine := (s.tile t).bankd.filter fun d => decide (d.src = portNum p + 1 ∧ d.client = r.client)
    let first := mine.foldl (fun acc d => min acc d.pos) ((mine.map (·.pos)).headD 0)
    let off := 4 * first + r.va.toNat % 4
    let d := s.takeBank t (portNum p + 1) r.client off x.bytes
    let bs := d.2.2.overlay g.lan (tileBase t + off) d.1 x.layout
    let r := { r with st := .done, data := bs, bad := d.2.1 && !d.2.2.allStaged g.lan (tileBase t + off) x.bytes x.layout }
    (d.2.2.setElem p r, r)
  else (s, r)

/-- The elements of the unified group of element `n` (R107, R269). -/
def groupOf (x : Handle) (count n : Nat) : List Nat :=
  let k := 2 ^ x.uni
  (List.range k).filterMap fun i => let m := n / k * k + i; if m < count then some m else none

/-- Unifies the group of element `n`, if every element of it has been read; `none` where one is wanting. A poisoned
element takes no part (DESIGN CHOICE, log entry 16). -/
def State.unifyGroup (s : State) (p h : Nat) (x : Handle) (count n : Nat) : Option State :=
  let q := s.port p
  let mem := groupOf x count n
  let rs := mem.filterMap fun m => q.outq.find? fun r => decide (r.h = h ∧ r.n = m ∧ r.st = .done)
  if rs.length < mem.length then none
  else
    let live := rs.filter fun r => !r.bad
    let pay (r : StreamReq) : Pay := (loadOperand 11 false r.data).pay
    let smax := live.foldl (fun (acc : Int) r => max acc (l6scale (pay r))) (-128)
    some (rs.foldl (fun s r =>
      s.setElem p { r with uni := true, data := if r.bad then r.data else lgbBytes (unifyBlock smax (pay r)) }) s)

/-- Pushes a returned element of a port (R51, R158, R255): one token to each destination bound to its handle, once each has
room for it (R154). One that failed waits while its record is held for a full ring (R125). -/
def State.pushElem (s : State) (p idx : Nat) : State :=
  let q := s.port p
  match q.prog, q.outq[idx]? with
  | some g, some r =>
    match q.hs.find r.h with
    | none => s
    | some x =>
      if x.input then s
      else
        let (s, r) := s.gatherElem p g x r
        if r.st ≠ .done then s
        else
          let count := s.countOf g x
          let ready : Option State := if x.uni = 0 ∨ r.uni = true then some s else s.unifyGroup p r.h x count r.n
          match ready with
          | none => s
          | some s =>
            let r := ((s.port p).outq.find? fun y => decide (y.h = r.h ∧ y.n = r.n)).getD r
            let tile := portTile p
            let tag := s.elemTag p g r.n
            let drop (s : State) : State :=
              s.modPort p fun q => { q with outq := q.outq.filter fun y => !decide (y.h = r.h ∧ y.n = r.n) }
            let v : Operand := if r.data.isEmpty then ⟨loadFmt x.fmt x.grp, 0#80⟩ else loadOperand x.fmt x.grp r.data
            let tok : Token := { tag := tag, fmt := v.fmt, pay := v.pay, last := decide (r.n + 1 = count),
                                 poison := r.bad, marker := false }
            let ds := (g.binds.filter fun b => decide ((b.extractLsb' 32 2).toNat = r.h)).map fun b =>
              s.resolve (some g.lan) g.ctx tile (b.extractLsb' 0 31)
            if (r.bad && s.recHeld (some g.lan)) || (ds.any fun d => routable d && !s.linkRoom tile false d) then s
            else
            match s.windowOf (some g.lan) (tileDie tile) tag r.n with
            | .park => s
            | .refuse reason => (drop s).portLog p g kTAGUSE tag (BitVec.ofNat 64 r.n) reason
            | .ok =>
              let s := (drop s).noteEmitted (some g.lan) (tileDie tile) tag (s.portSnaps.find p).isSome
              ds.foldl (fun s d =>
                if routable d then s.deliver tile (2 ^ 32 + p) false d tok
                else s.portLog p g kLINK tag 0#64 d.toNat) s
  | _, _ => s

/-! ### Accepting (R102, R259, R265, R269 to R272) -/

/-- The open input handle of a port. -/
def Port.inHandle (q : Port) : Option (Nat × Handle) := q.hs.find? fun h => h.2.input

/-- Element `n` of an input handle has been written, or counts as written (R259). -/
def State.markWritten (s : State) (p h n : Nat) : State :=
  let s := s.modPort p fun q =>
    { q with outq := q.outq.map fun r => if r.h = h ∧ r.n = n then { r with st := .done } else r }
  s.modHandle p h fun x =>
    if n < x.nextW ∨ n ∈ x.written then x
    else
      let w := x.written ++ [n]
      let next := (List.range (w.length + 1)).foldl (fun acc _ => if acc ∈ w then acc + 1 else acc) x.nextW
      { x with nextW := next, written := w.filter fun m => decide (next ≤ m) }

/-- The windows that a port's program opened, with every entry of theirs. -/
def State.portWins (s : State) (p : Nat) : List (Nat × Nat × Win × List VEnt) :=
  let x := s.tile (portTile p)
  (x.wins.filter fun w => decide (w.2.port = p)).map fun w =>
    (portTile p, w.1, w.2, x.ents.filter fun v => match v with
      | .version n _ _ _ => decide (w.2.first ≤ n ∧ n < w.2.first + w.2.nw)
      | _ => false)

/-- Logs a fault of the token at place `idx` of a port's link and deals with it. While its record is held for a full ring the
token stays there (R125). -/
def State.faultToken (s : State) (p idx : Nat) (a : Arrival) (log k : State → State) : State :=
  let lead := s.leadOfTile (portTile p)
  if a.logged then (if s.recHeld lead then s else k s)
  else
    let u := log s
    if s.heldNo lead < u.heldNo lead then
      u.modPort p fun q => { q with inq := q.inq.set idx { a with logged := true } }
    else k u

/-- A port's snapshot for a marker PRE (R290), taken once. -/
def State.snapPort (s : State) (p : Nat) : State :=
  if (s.portSnaps.find p).isSome then s
  else
    { (s.modPort p fun q => { q with recd := [], marked := [] }) with
      portSnaps := s.portSnaps.put p { s.port p with cutWins := s.portWins p } }

/-- Takes the token at place `idx` off a port's link, recording it for a marker snapshot (R290). -/
def State.takeIn (s : State) (p idx : Nat) (a : Arrival) : State :=
  s.modPort p fun q =>
    let rec_ := (s.portSnaps.find p).isSome && (a.old || (q.inch.contains a.chan && !q.marked.contains a.chan))
    { q with inq := q.inq.eraseIdx idx, entWait := none, recd := if rec_ then q.recd ++ [a] else q.recd }

/-- Whether an earlier element of the same SSCAT, not written yet, may have the address of element `r` (R273). -/
def Port.coincides (q : Port) (h : Nat) (x : Handle) (r : StreamReq) : Bool :=
  let rel (n : Nat) : Option IdxRel := x.idx.find? fun i => decide (i.first ≤ n ∧ n < i.first + i.count)
  r.gath && q.outq.any fun e =>
    decide (e.h = h ∧ e.n < r.n ∧ rel e.n = rel r.n ∧ x.nextW ≤ e.n ∧ e.n ∉ x.written) && !e.bad
      && (e.idx.isSome || decide (e.va.toNat < r.va.toNat + x.bytes ∧ r.va.toNat < e.va.toNat + x.bytes))

/-- Writes an accepted token to its element (R104, R105, R240, R252, R259). -/
def State.writeElem (s : State) (p idx : Nat) (q : Port) (g : Prog) (h : Nat) (x : Handle) (r : StreamReq) (a : Arrival) :
    State :=
  match s.elemPlaces p q g x r with
  | (.error (va, reason), s) =>
    if r.st = .done ∨ 64 ≤ q.outstanding then s else s.waitElem p g x r (BitVec.ofNat 64 va) reason
  | (.ok ps, s) =>
    let again := decide (r.st = .done)
    let tso := ps.any fun e => e.2.2.2
    if (!again && ((x.ord || tso) && decide (r.n ≠ x.nextW) || q.coincides r.h x r)) || s.piecesCut (tileDie (portTile p)) ps then s
    else
      match s.layoutBad x.layout ps with
      | some mode =>
        s.faultToken p idx a (fun s => s.portLog p g kLAYOUT a.tok.tag r.va (layoutInfo x.layout mode)) fun s =>
          (s.takeIn p idx a).markWritten p h r.n
      | none =>
        let v := storeBytes x.fmt x.grp (if x.rtz then rtz else rne) ⟨a.tok.fmt, a.tok.pay⟩
        let flag (s : State) : State := s.modHandle p h fun x => { x with flags := x.flags ||| v.flags }
        if (s.stagedSet g.lan).isSome then
          match s.stagePieces g.lan ps v.val x.layout with
          | none =>
            let at_ := ps.findSome? fun e => s.stageBlock g.lan e.1 (List.replicate e.2.1 0#8) x.layout
            s.modPort p fun q => { q with entWait := at_ }
          | some s =>
            let s := flag (s.takeIn p idx a)
            if anyHeld ps then s.setElem p { r with st := .held } else s.markWritten p h r.n
        else
          let s := flag (s.takeIn p idx a)
          let s := match homeOff (portTile p) ps with
            | some off =>
              s.askBank (portTile p) (portNum p + 1) r.client x.layout off x.bytes (some v.val) (some g.lan)
            | none => s.writePieces g.lan x.layout ps v.val
          s.markWritten p h r.n

/-- Whether the marker and token order of a channel lets place `idx` of a port's link be taken now. -/
def Port.inOrder (q : Port) (idx : Nat) (a : Arrival) : Bool :=
  !((q.inq.take idx).any fun b => decide (b.src = a.src) && (b.tok.marker || a.tok.marker))

/-- A MARK reaches a port (R168, R290): the port's snapshot, if this is the first, and the end of its channel's record. One
of another snapshot is discarded. -/
def State.portMark (s : State) (p idx : Nat) (a : Arrival) : State :=
  let s := s.modPort p fun q => { q with inq := q.inq.eraseIdx idx }
  match s.leadOfTile (portTile p) with
  | none => s
  | some lead =>
    if !(s.lan lead).prePend || decide (a.tok.pay.setWidth 32 ≠ (s.lan lead).snapNo) then s
    else
      let s := s.snapPort p
      s.modPort p fun q => { q with marked := if q.marked.contains a.chan then q.marked else q.marked ++ [a.chan] }

/-- Takes the token at place `idx` of a port's link (R259, R265, R270, R272). A token waits whose context is not the
running program's, that is too far ahead, or whose element has not been issued. -/
def State.sinkWrite (s : State) (p idx : Nat) : State :=
  let q := s.port p
  match q.inq[idx]? with
  | none => s
  | some a =>
    if !q.inOrder idx a || s.cutOff a.fromDie (tileDie (portTile p)) then s
    else if a.tok.marker then s.portMark p idx a
    else
      match q.prog, q.inHandle with
      | some g, some (h, x) =>
        if tagCtx a.tok.tag ≠ g.ctx then s
        else
          let n := tagIter a.tok.tag
          if s.countOf g x ≤ n then
            s.faultToken p idx a (fun s => s.portLog p g kTAGUSE a.tok.tag (BitVec.ofNat 64 n) 6) fun s => s.takeIn p idx a
          else if x.nextW + 63 < n then s
          else
            match q.outq.find? fun r => decide (r.h = h ∧ r.n = n) with
            | none => s
            | some r =>
              if r.st ≠ .entry ∧ r.st ≠ .done then s
              else if a.tok.poison then
                s.faultToken p idx a (fun s => s.portLog p g kPOISON a.tok.tag 0#64 0) fun s =>
                  ((s.takeIn p idx a).markWritten p h n).askAbort g.lan true
              else if r.bad then
                if s.recHeld (s.leadOfTile (portTile p)) then s else (s.takeIn p idx a).markWritten p h n
              else if !acceptsFmt x.fmt x.grp a.tok.fmt then
                s.faultToken p idx a (fun s => s.portLog p g kFMT a.tok.tag 0#64 (a.tok.fmt.toNat + x.fmt * 16)) fun s =>
                  (s.takeIn p idx a).markWritten p h n
              else s.writeElem p idx q g h x r a
      | _, _ => s

/-! ### Walks (R257) -/

/-- The walk that an element request or a stream element needs, made ahead of the access: it fills the edge TLB or the
stream's entry, or the access waits with an XLATE record. -/
def State.walkRequest (s : State) (tile idx : Nat) : State :=
  match (s.tile tile).reqs[idx]? with
  | none => s
  | some r =>
    if r.st ≠ .new then s
    else
      match s.leadOfTile (elTile r.el) with
      | none => s
      | some lead =>
        if r.op.isSync && decide (r.va.toNat < 0x10000) then s
        else
          match s.reqPlaces lead tile r with
          | (.error (va, reason), s) => s.waitXlate tile r (BitVec.ofNat 64 va) reason
          | (.ok _, s) => s

/-- The walk for an element of a stream. -/
def State.walkStream (s : State) (p idx : Nat) : State :=
  let q := s.port p
  match q.prog, q.outq[idx]? with
  | some g, some r =>
    match q.hs.find r.h with
    | none => s
    | some x =>
      if r.st = .new ∧ r.idx = none then
        match s.elemPlaces p q g x r with
        | (.error (va, reason), s) => s.waitElem p g x r (BitVec.ofNat 64 va) reason
        | (.ok _, s) => s
      else s
  | _, _ => s

/-- STREAM_ELEMENT_ISSUE (R269). -/
def execStreamElementIssue (port h : Nat) (s : State) : Out := .next (s.issueElem port h)
/-- STREAM_REPLY_PUSH (R255). -/
def execStreamReplyPush (port idx : Nat) (s : State) : Out := .next (s.pushElem port idx)
/-- SINK_ELEMENT_WRITE (R259). -/
def execSinkElementWrite (port idx : Nat) (s : State) : Out := .next (s.sinkWrite port idx)

end Sys2Proof.Machine
end

