-- ==== Sys2Proof/Machine/ImageCheck.lean ====
section
/-! DEFINITION. A configuration image (R135, R484, R485): its records, and the checks that CFGLD makes before it loads
anything (R68, R77, R139, R267, R344). A check answers the byte offset within the image of what fails. -/

namespace Sys2Proof.Machine

/-- Bytes `o` to `o + n - 1` of some bytes, as a number. -/
def fieldAt (bs : List Byte) (o n : Nat) : Nat := leNat ((bs.drop o).take n)

/-- A record of an image: its offset in the image and its bytes. -/
structure RawRec where
  off : Nat
  bs  : List Byte
  deriving DecidableEq, Repr

/-- A field of a record. -/
def RawRec.u (r : RawRec) (o n : Nat) : Nat := fieldAt r.bs o n

/-- The records of a section: `n` of `size` bytes at offset `off`. -/
def rawRecs (off n size : Nat) (bs : List Byte) : List RawRec :=
  (List.range n).map fun i => { off := off + i * size, bs := (bs.drop (i * size)).take size }

/-- The bytes of an image as CFGLD reads it: its header and its sections. -/
structure RawImage where
  hdr    : List Byte
  slots  : List RawRec
  strms  : List RawRec
  fars   : List RawRec
  spaces : List RawRec
  holds  : List RawRec
  ctrls  : List RawRec
  deriving DecidableEq, Repr

/-- The offset, if the condition fails. -/
def need (off : Nat) (ok : Bool) : List Nat := if ok then [] else [off]

/-- What the checks know of the image and its region: the region's width and height in tiles, the image's, the far
table's length. -/
structure Bounds where
  w    : Nat
  h    : Nat
  iw   : Nat
  ih   : Nat
  nfar : Nat
  deriving DecidableEq, Repr

/-- The checks on a record's dx and dy: inside the image, on a compute tile, or for a stream on a memory tile. -/
def placeBad (g : Bounds) (r : RawRec) (mem : Bool) : List Nat :=
  let dx := r.u 0 1
  let dy := r.u 1 1
  need r.off (decide (dx < g.iw) && decide (((dx + dy) % 2 = 1) = (mem = true)))
    ++ need (r.off + 1) (decide (dy < g.ih))

/-- Records that name a place an earlier one names (R485). -/
def dupBad (key : RawRec → Nat) : List Nat → List RawRec → List Nat
  | _, [] => []
  | seen, r :: rs => need r.off (!seen.contains (key r)) ++ dupBad key (key r :: seen) rs

/-- The place that a record names: tile, element, number. -/
def recKey (r : RawRec) : Nat := r.u 0 4

/-! ### Destinations (R67, R68, R484, R485) -/

/-- The tile of a relative destination, from tile (dx, dy) of the region. -/
def dstRel (dx dy : Nat) (d : BitVec 31) : Int × Int := ((dx : Int) + dDx d, (dy : Int) + dDy d)

/-- Whether a valid destination's fields are in order, from tile (dx, dy) of the region. `any` says that it may name PORT 3
of an instruction without O: a control routing entry's or a stream record's (R484, R485); `slots` are the image's slot
records. -/
def dstOk (g : Bounds) (slots : List RawRec) (any : Bool) (dx dy : Nat) (d : BitVec 31) : Bool :=
  decide (d.toNat % 4 = 0 ∧ dTop d ≠ 3) &&
  if dFar d then decide (d.toNat / 16 % 2 ^ 21 = 0 ∧ dFarIdx d < g.nfar)
  else
    let t := dstRel dx dy d
    decide (0 ≤ t.1 ∧ t.1 < g.w ∧ 0 ≤ t.2 ∧ t.2 < g.h) &&
    if (t.1 + t.2) % 2 = 1 then decide (dEl d < 4 ∧ dSlot d = 0 ∧ dPort d = 0)
    else if dPort d = 3 ∧ any = false then
      -- a destination PORT 3 at an instruction without O
      slots.all fun r =>
        if (r.u 0 1 : Int) = t.1 ∧ (r.u 1 1 : Int) = t.2 ∧ r.u 2 1 = dEl d ∧ r.u 3 1 = dSlot d then
          (match decodeSlot (BitVec.ofNat 64 (r.u 8 8)) with
           | some i => (match slotRow i with
             | some (_, f) => f.o
             | none => true)
           | none => true)
        else true
    else true

/-- Whether a destination with V = 0 keeps its zero fields zero and its TOP legal (R67, R68). -/
def dstIdle (d : BitVec 31) : Bool :=
  decide (d.toNat % 4 = 0 ∧ dTop d ≠ 3) && (!dFar d || decide (d.toNat / 16 % 2 ^ 21 = 0))

/-- Whether DEST0 and DEST1 fit what the instruction does with its destinations (R172, R196, R200, R204, R213). -/
def dstUseOk (use : DstUse) (o : Bool) (d0 d1 : BitVec 31) : Bool :=
  let v0 := dV d0
  let v1 := dV d1
  match use with
  | .free => true
  | .none => !v0 && !v1
  | .need0 => v0
  | .either => v0 || v1
  | .both => v0 && v1
  | .parent => v0 && decide (dTop d0 = 2) && (!v1 || decide (dTop d1 = 2))
  | .call => v0 && v1 && decide (dTop d1 = 0)
  | .load => v0 && (v1 == o)
  | .store => if o then v0 else !v0 && !v1
  | .atomic => v0 && (o || !v1)

/-- The checks on one slot record (R68, R69, R173, R215). `ents` are the control entries that the image gives the
slot's element. -/
def slotBad (g : Bounds) (slots ctrls : List RawRec) (r : RawRec) : List Nat :=
  let ip := BitVec.ofNat 64 (r.u 8 8)
  let rp := BitVec.ofNat 64 (r.u 16 8)
  placeBad g r false ++ need (r.off + 2) (decide (r.u 2 1 < 16)) ++ need (r.off + 3) (decide (r.u 3 1 < 32))
    ++ need (r.off + 4) (decide (r.u 4 4 = 0)) ++
  if ip = 0#64 ∧ rp = 0#64 then []
  else
    match decodeSlot ip with
    | none => [r.off + 8]
    | some i =>
      match slotRow i with
      | none => [r.off + 8]
      | some (row, f) =>
        let entry := decide (f.cout = 0#4)
          || ctrls.any fun c => decide (c.u 0 3 = r.u 0 3 ∧ c.u 3 1 = f.cout.toNat)
        let d0 := dest0 rp
        let d1 := dest1 rp
        let one (d : BitVec 31) : Bool := if dV d then dstOk g slots false (r.u 0 1) (r.u 1 1) d else dstIdle d
        let nop := match i with
          | .eNop _ => decide (rp = 0#64)
          | _ => true
        need (r.off + 8) entry ++
          need (r.off + 16) (!rp.getLsbD 62 && (dV d0 || !dV d1) && one d0 && one d1 && dstUseOk row.dst f.o d0 d1 && nop)

/-- The checks on one hold record. -/
def holdBad (g : Bounds) (r : RawRec) : List Nat :=
  placeBad g r false ++ need (r.off + 2) (decide (r.u 2 1 < 16)) ++ need (r.off + 3) (decide (r.u 3 1 < 4))
    ++ need (r.off + 4) (decide (r.u 4 1 < 4)) ++ need (r.off + 5) (decide (r.u 5 1 = 0))

/-- The checks on one control record (R485). -/
def ctrlBad (g : Bounds) (r : RawRec) : List Nat :=
  let d := BitVec.ofNat 31 (r.u 4 4)
  placeBad g r false ++ need (r.off + 2) (decide (r.u 2 1 < 16)) ++
    need r.off (decide (1 ≤ r.u 3 1 ∧ r.u 3 1 < 16 ∧ r.u 4 4 < 2 ^ 31) && dV d
      && dstOk g [] true (r.u 0 1) (r.u 1 1) d)

/-- The checks on one space record (R135). -/
def spaceBad (r : RawRec) : List Nat :=
  need r.off (decide (r.u 0 1 < 32)) ++ need (r.off + 1) (decide (r.u 1 1 = 0))
    ++ need (r.off + 2) (decide (1 ≤ r.u 2 2 ∧ r.u 2 2 ≤ 256)) ++ need (r.off + 4) (decide (r.u 4 4 = 0))

/-! ### Stream programs (R266, R267) -/

/-- A handle as the checks see it: closed, or open for output or input. -/
abbrev Opened := List (Nat × Bool)

/-- An instruction of a program: its parcel index, itself, and the handles open before it. -/
structure ProgAt where
  idx  : Nat
  i    : Instr
  open_ : Opened
  deriving DecidableEq, Repr

/-- Whether a handle is open in a direction. -/
def openAs (o : Opened) (h : Nat) (input : Bool) : Bool := o.contains (h, input)
/-- Whether a handle is open. -/
def isOpen (o : Opened) (h : Nat) : Bool := o.any fun e => decide (e.1 = h)

/-- Whether the handles that an instruction names are as it needs them (R267). -/
def handleOk (o : Opened) : Instr → Bool
  | .sopen h input _ _ _ _ _ _ _ _ _ => !isOpen o h.toNat && !(input && o.any fun e => e.2)
  | .sclose h => isOpen o h.toNat
  | .spush h _ => openAs o h.toNat false
  | .sgath h _ _ _ => openAs o h.toNat false
  | .sacpt h _ => openAs o h.toNat true
  | .sscat h _ _ _ => openAs o h.toNat true
  | .sloop h _ _ _ _ => isOpen o h.toNat
  | .ssig h aft _ _ _ => !aft || isOpen o h.toNat
  | _ => true

/-- The handles open after an instruction. -/
def openAfter (o : Opened) : Instr → Opened
  | .sopen h input _ _ _ _ _ _ _ _ _ => o ++ [(h.toNat, input)]
  | .sclose h => o.filter fun e => decide (e.1 ≠ h.toNat)
  | _ => o

/-- Reads a program from parcel `pos` on: its instructions, the parcels that fail by themselves, and the handles open at
its end. An encoding that is not a stream instruction ends the reading (R74): of one with an extension the first parcel
fails, or the extension where the first is in order. An extension is never the program's last parcel (R267). -/
def readProg : Nat → Nat → List Word → Opened → List ProgAt × List Nat × Opened
  | 0, _, _, o => ([], [], o)
  | fuel + 1, pos, ps, o =>
    match ps with
    | [] => ([], [], o)
    | p :: rest =>
      let ext := p.getLsbD 0
      if ext && rest.isEmpty then ([], [pos], o)
      else
        match decodeStream p (rest.headD 0#64) with
        | none => ([], [if ext && (decodeStream p 0#64).isSome then pos + 1 else pos], o)
        | some i =>
          let ok := handleOk o i
          let o' := if ok then openAfter o i else o
          let n := if ext then 2 else 1
          let r := readProg fuel (pos + n) (ps.drop n) o'
          ({ idx := pos, i := i, open_ := o } :: r.1,
            (if ok then [] else [pos]) ++ (if ext && decide (rest.length = 1) then [pos + 1] else []) ++ r.2.1, r.2.2)

/-- The loops of a program: head and SLOOP. -/
def loopsOf (is : List ProgAt) : List (Nat × Nat) :=
  is.filterMap fun x => match x.i with
    | .sloop _ _ back _ _ => if back.toNat ≤ x.idx then some (x.idx - back.toNat, x.idx) else none
    | _ => none

/-- The checks on one SLOOP (R267). -/
def loopBad (is : List ProgAt) (x : ProgAt) : List Nat :=
  match x.i with
  | .sloop h adv back _ _ =>
    if x.idx < back.toNat then [x.idx]
    else
      match is.find? fun y => decide (y.idx = x.idx - back.toNat) with
      | none => [x.idx]
      | some y =>
        let body := is.filter fun z => decide (y.idx ≤ z.idx ∧ z.idx < x.idx)
        let outer := body.filterMap fun z => match z.i with
          | .sclose k => if isOpen y.open_ k.toNat then some z.idx else none
          | _ => none
        outer ++ need x.idx
          ((x.open_.all fun e => y.open_.contains e) && (y.open_.all fun e => x.open_.contains e)
            && (!adv || (isOpen y.open_ h.toNat && isOpen x.open_ h.toNat)))
  | _ => []

/-- The parcels of a program that fail (R266, R267). Where a rule relates several parcels, the one that fails is the SLOOP, or
the SCLOSE of a handle opened outside the loop; parcels after one that does not decode are not looked at (DESIGN CHOICE,
log entry 60). -/
def progBad (ps : List Word) : List Nat :=
  let r := readProg (ps.length + 1) 0 ps []
  let is := r.1
  let ls := loopsOf is
  let crossing := (ls.map fun a => (ls.filter fun b =>
    decide (a.2 < b.2 ∧ a.1 < b.1 ∧ b.1 ≤ a.2)).map (·.2)).flatten
  let deep := (is.filter fun x => decide (4 < (ls.filter fun l => decide (l.1 ≤ x.idx ∧ x.idx ≤ l.2)).length)).map (·.idx)
  r.2.1 ++ (is.map (loopBad is)).flatten ++ crossing ++ deep

/-- The output handles that a program opens, by the H and IN of every SOPEN parcel, whatever its other fields hold
(R266). -/
def outParcels : Nat → List Word → List Nat
  | 0, _ => []
  | _, [] => []
  | fuel + 1, p :: rest =>
    let hs := if p.extractLsb' 52 12 = 0x900#12 ∧ p.getLsbD 49 = false then [(p.extractLsb' 50 2).toNat] else []
    hs ++ outParcels fuel (if p.getLsbD 0 then rest.drop 1 else rest)

/-- The output handles of a program, without repeats. -/
def outHandles (ps : List Word) : List Nat := (outParcels (ps.length + 1) ps).eraseDups

/-- The dwords of bytes. -/
def dwordsOf (bs : List Byte) (n : Nat) : List Word :=
  (List.range n).map fun i => BitVec.ofNat 64 (leNat ((bs.drop (8 * i)).take 8))

/-- Destination dwords of a stream record. -/
def RawRec.binds (r : RawRec) : List Word := dwordsOf (r.bs.drop 8) (r.u 3 1)
/-- Parcels of a stream record. -/
def RawRec.parcels (r : RawRec) : List Word := dwordsOf (r.bs.drop (8 + 8 * r.u 3 1)) (r.u 4 4)

/-- The checks on one stream record (R135, R267, R484). A handle without a destination dword fails at the record. -/
def strmBad (g : Bounds) (reserved : Bool) (r : RawRec) : List Nat :=
  let d := r.u 3 1
  let outs := outHandles r.parcels
  let bs := r.binds
  let hd (b : Word) : Nat := (b.extractLsb' 32 2).toNat
  let bindBad := (bs.mapIdx fun k b => (k, b)).filterMap fun e =>
    let b := e.2
    let dst := b.extractLsb' 0 31
    let before := ((bs.take e.1).filter fun c => decide (hd c = hd b)).length
    if decide (b.toNat / 2 ^ 34 = 0) && !b.getLsbD 31 && dV dst && decide (dTop dst = 0) && outs.contains (hd b)
        && decide (before < 2) && dstOk g [] true (r.u 0 1) (r.u 1 1) dst then none
    else some (r.off + 8 + 8 * e.1)
  placeBad g r true ++ need (r.off + 2) (decide (r.u 2 1 < 4)) ++ need (r.off + 3) (decide (d ≤ 8))
    ++ need r.off (!(reserved && decide (r.u 2 1 = 3)))
    ++ (progBad r.parcels).map (fun i => r.off + 8 + 8 * d + 8 * i)
    ++ bindBad ++ need r.off (outs.all fun h => bs.any fun b => decide (hd b = h))

/-! ### The image -/

/-- The header checks (R135, R136, R139). -/
def hdrBad (g : Bounds) (h : List Byte) : List Nat :=
  let iters := fieldAt h 0x18 8
  need 0x00 (decide (fieldAt h 0 2 = 4)) ++ need 0x02 (decide (fieldAt h 2 1 < 8 ∨ fieldAt h 2 1 = 0xFF))
    ++ need 0x03 (decide (1 ≤ fieldAt h 3 1 ∧ fieldAt h 3 1 ≤ 64)) ++ need 0x04 (decide (g.iw ≤ g.w))
    ++ need 0x06 (decide (g.ih ≤ g.h)) ++ need 0x0F (decide (g.nfar ≤ 16)) ++ need 0x10 (decide (fieldAt h 0x10 1 ≤ 32))
    ++ need 0x14 (decide (fieldAt h 0x14 4 = 0))
    ++ need 0x18 (decide (iters < 2 ^ 24) && (decide (iters = 0) || decide (0 < fieldAt h 0x10 1)))
    ++ need 0x38 (decide (fieldAt h 0x38 8 = 0))

/-- Every failing offset of an image (R68, R77, R135, R139, R267, R344, R484, R485). -/
def imageBad (g : Bounds) (reserved : RawRec → Bool) (im : RawImage) : List Nat :=
  hdrBad g im.hdr
    ++ (im.slots.map (slotBad g im.slots im.ctrls)).flatten ++ dupBad recKey [] im.slots
    ++ (im.strms.map fun r => strmBad g (reserved r) r).flatten ++ dupBad (fun r => r.u 0 3) [] im.strms
    ++ (im.fars.map fun r => need r.off (decide (r.u 0 8 < 2 ^ 28))).flatten
    ++ (im.spaces.map spaceBad).flatten ++ dupBad (fun r => r.u 0 1) [] im.spaces
    ++ (im.holds.map (holdBad g)).flatten ++ dupBad recKey [] im.holds
    ++ (im.ctrls.map (ctrlBad g)).flatten ++ dupBad recKey [] im.ctrls

/-- The lowest of some offsets. -/
def lowestOf (l : List Nat) : Option Nat :=
  l.foldl (fun acc x => match acc with
    | none => some x
    | some y => some (min x y)) none

/-- A record's place. -/
def RawRec.place (r : RawRec) (lo hi : Word) : PlaceRec :=
  { dx := r.u 0 1, dy := r.u 1 1, e := r.u 2 1, n := r.u 3 1, lo := lo, hi := hi }

/-- The contents of an image that has passed its checks; an unused slot record (R69) is left out. -/
def RawImage.image (im : RawImage) : Image :=
  let dw (r : RawRec) (o : Nat) : Word := BitVec.ofNat 64 (r.u o 8)
  { ctx := fieldAt im.hdr 2 1, quota := fieldAt im.hdr 3 1, width := fieldAt im.hdr 4 2, height := fieldAt im.hdr 6 2,
    iters := fieldAt im.hdr 0x18 8,
    slots := (im.slots.filter fun r => !(decide (r.u 8 8 = 0 ∧ r.u 16 8 = 0))).map fun r => r.place (dw r 8) (dw r 16),
    streams := im.strms.map fun r =>
      { dx := r.u 0 1, dy := r.u 1 1, p := r.u 2 1, binds := r.binds, parcels := r.parcels },
    far := im.fars.map fun r => BitVec.ofNat 28 (r.u 0 8),
    spaces := im.spaces.map fun r => (r.u 0 1, r.u 2 2),
    holds := im.holds.map fun r =>
      r.place (BitVec.ofNat 64 (r.u 6 8)) (BitVec.ofNat 64 (r.u 14 2 + r.u 4 1 * 2 ^ 16)),
    ctrls := im.ctrls.map fun r => r.place (BitVec.ofNat 64 (r.u 4 4)) 0#64 }

end Sys2Proof.Machine
end

