-- ==== Sys2Proof/Machine/Configure.lean ====
section
/-! DEFINITION. The configuration of a region: CFGLD, CFGGO, CFGWT, CFGST (R136 to R140, R145) and the completion of a
configuration (R138, R93). -/

namespace Sys2Proof.Machine

/-- Then: goes on with what a command's access gave. -/
def Vis.andThen {α β : Type} (v : Vis α) (k : α → State → Vis β) : Vis β :=
  match v with
  | .stop s => .stop s
  | .ok a s => k a s

/-- Ends a command's accesses. -/
def Vis.finish {α : Type} (v : Vis α) (k : α → State → State) : State :=
  match v with
  | .stop s => s
  | .ok a s => k a s

/-- CFGBAD with a value (R145). -/
def State.cfgbad (s : State) (v : Word) : State := s.trap cCFGBAD v

/-! ### Reading an image (R136) -/

/-- A fixed section of an image: CFGBAD at 0x08 where it does not lie below SIZE. -/
def State.readSection (s : State) (va : Word) (size off n rec_ : Nat) : Vis (List RawRec) :=
  if n = 0 then .ok [] s
  else if size < off + n * rec_ then .stop (s.cfgbad 8#64)
  else (s.readVirt (va + BitVec.ofNat 64 off) (n * rec_) 1).andThen fun bs s => .ok (rawRecs off n rec_ bs) s

/-- The stream records of an image, which lie one behind the other. -/
def State.readStreams (s : State) (va : Word) (size : Nat) : Nat → Nat → Vis (List RawRec)
  | 0, _ => .ok [] s
  | n + 1, off =>
    if size < off + 8 then .stop (s.cfgbad 8#64)
    else
      (s.readVirt (va + BitVec.ofNat 64 off) 8 1).andThen fun hd s =>
        let len := 8 + 8 * fieldAt hd 3 1 + 8 * fieldAt hd 4 4
        if size < off + len then .stop (s.cfgbad 8#64)
        else
          (s.readVirt (va + BitVec.ofNat 64 off) len 1).andThen fun bs s =>
            (State.readStreams s va size n (off + len)).andThen fun rs s => .ok ({ off := off, bs := bs } :: rs) s

/-- Reads the image at `va`. -/
def State.readImage (s : State) (va : Word) : Vis RawImage :=
  (s.readVirt va 64 1).andThen fun h s =>
    let size := fieldAt h 8 4
    if size < 64 then .stop (s.cfgbad 8#64)
    else
      (s.readSection va size (fieldAt h 0x20 4) (fieldAt h 0x0C 2) 24).andThen fun slots s =>
      (s.readSection va size (fieldAt h 0x28 4) (fieldAt h 0x0F 1) 8).andThen fun fars s =>
      (s.readSection va size (fieldAt h 0x2C 4) (fieldAt h 0x10 1) 8).andThen fun spaces s =>
      (s.readSection va size (fieldAt h 0x30 4) (fieldAt h 0x11 1) 16).andThen fun holds s =>
      (s.readSection va size (fieldAt h 0x34 4) (fieldAt h 0x12 2) 8).andThen fun ctrls s =>
      (s.readStreams va size (fieldAt h 0x0E 1) (fieldAt h 0x24 4)).andThen fun strms s =>
        .ok { hdr := h, slots := slots, strms := strms, fars := fars, spaces := spaces, holds := holds, ctrls := ctrls } s

/-! ### Where an image lies -/

/-- The elements that an image covers. -/
def State.imageEls (s : State) (lead : Nat) (im : Image) : List Nat :=
  ((im.slots ++ im.holds ++ im.ctrls).map fun r => s.recEl lead r).eraseDups

/-- The bounds that the checks use. -/
def State.boundsOf (s : State) (lead : Nat) (h : List Byte) : Bounds :=
  let b := s.box lead
  { w := b.2.2.1, h := b.2.2.2, iw := fieldAt h 4 2, ih := fieldAt h 6 2, nfar := fieldAt h 0x0F 1 }

/-- Whether a stream record names a port reserved for the region's array (R344). -/
def State.recReserved (s : State) (lead : Nat) (r : RawRec) : Bool :=
  (s.port (portOf (s.relTile lead (r.u 0 1) (r.u 1 1)) (r.u 2 1))).matrix

/-- Whether the quotas of some element, with the image's, sum to more than 64. -/
def State.quotaOver (s : State) (els : List Nat) (c quota : Nat) : Bool :=
  els.any fun el =>
    decide (64 < quota + ((s.el el).core.ctxs.filter fun x => decide (x.1 ≠ c) && x.2.valid).foldl (fun acc x => acc + x.2.quota) 0)

/-- The context that CFGLD loads into: CTX, or the lowest that no unfinished configuration uses (R136). -/
def Lantern.pickCtx (l : Lantern) (ctx : Nat) : Option Nat :=
  if ctx < 8 then some ctx else lowest 8 fun c => !(l.cfgs.any fun x => decide (x.ctx = c) && !x.done)

/-- Whether a table has a pending image of another context for number `n`. -/
def pendOther {α : Type} (ctxOf : α → Nat) (c n : Nat) (t : Tab α) : Bool :=
  match t.find n with
  | some x => decide (ctxOf x ≠ c)
  | none => false

/-- Whether a resource that an image needs holds a pending image of a third context, or a port a pending program (R148,
R487). -/
def State.thirdCtx (s : State) (lead c : Nat) (im : Image) : Bool :=
  (im.slots.any fun r => pendOther SlotImg.ctx c r.n (s.el (s.recEl lead r)).core.pslots)
    || (im.holds.any fun r => pendOther HoldImg.ctx c r.n (s.el (s.recEl lead r)).core.pholds)
    || (im.ctrls.any fun r => pendOther CtrlImg.ctx c r.n (s.el (s.recEl lead r)).core.pctrls)
    || (im.streams.any fun r => (s.port (s.recPort lead r)).pend.isSome)

/-! ### Writing an image (R148, R149, R168) -/

/-- Writes a resource of an element: directly where it is free or the context's own, else as pending. -/
def claimRes {α : Type} (ctxOf : α → Nat) (c n : Nat) (x : α) (act pend : Tab α) : Tab α × Tab α :=
  match act.find n with
  | some y => if ctxOf y = c then (act.put n x, pend) else (act, pend.put n x)
  | none => (act.put n x, pend)

/-- Writes a slot image. -/
def State.loadSlot (s : State) (lead c : Nat) (r : PlaceRec) : State :=
  s.modCore (s.recEl lead r) fun e =>
    let t := claimRes SlotImg.ctx c r.n { ctx := c, instr := r.lo, route := r.hi } e.slots e.pslots
    { e with slots := t.1, pslots := t.2 }

/-- Writes a hold register. -/
def State.loadHold (s : State) (lead c : Nat) (r : PlaceRec) : State :=
  s.modCore (s.recEl lead r) fun e =>
    let x : HoldImg := { ctx := c, fmt := r.hi.extractLsb' 16 3, pay := BitVec.ofNat 80 (r.lo.toNat + r.hi.toNat % 2 ^ 16 * 2 ^ 64) }
    let t := claimRes HoldImg.ctx c r.n x e.holds e.pholds
    { e with holds := t.1, pholds := t.2 }

/-- Writes a control routing entry. -/
def State.loadCtrl (s : State) (lead c : Nat) (r : PlaceRec) : State :=
  s.modCore (s.recEl lead r) fun e =>
    let t := claimRes CtrlImg.ctx c r.n { ctx := c, dest := r.lo.extractLsb' 0 31 } e.ctrls e.pctrls
    { e with ctrls := t.1, pctrls := t.2 }

/-- The inbound channels that an image gives an element. -/
def chansTo (cs : List (Nat × Dest)) (el : Nat) : List Nat :=
  (cs.filterMap fun c => if elOf (dstTile c.2) (dstEl c.2) = el ∧ routable c.2 = true then some c.1 else none).eraseDups

/-- The inbound channels that an image gives a port. -/
def chansToPort (cs : List (Nat × Dest)) (p : Nat) : List Nat :=
  (cs.filterMap fun c => if portOf (dstTile c.2) (dstEl c.2 % 4) = p ∧ routable c.2 = true then some c.1 else none).eraseDups

/-- Gives a covered element its context (R149, R93, R168). -/
def State.loadCtx (s : State) (c quota : Nat) (cs : List (Nat × Dest)) (el : Nat) : State :=
  let inch := (chansTo cs el).map fun n => (c, n)
  let x : CtxState := { CtxState.empty with valid := true, loaded := true, quota := quota, mrem := inch.length }
  s.modEl el fun e =>
    { e with inch := e.inch.filter (fun p => decide (p.1 ≠ c)) ++ inch,
             core := { e.core with ctxs := e.core.ctxs.put c x } }

/-- Loads a stream program into its port: as the running one of a port that has none, else as the pending one (R487). -/
def State.loadStream (s : State) (lead c : Nat) (cs : List (Nat × Dest)) (r : StreamRec) : State :=
  let p := s.recPort lead r
  let ext := s.extentsOf lead
  let g : Prog := { parcels := r.parcels, pc := 0, ctx := c, lan := lead, armed := false, binds := r.binds, loops := [],
                    wins := [], waitPh := none, xheld := none }
  s.modPort p fun q =>
    let inch := (q.inch ++ chansToPort cs p).eraseDups
    if q.prog.isSome then { q with pend := some g, inch := inch }
    else { q with prog := some g, hs := [], outq := [], ext := ext, inch := inch }

/-- The Beacon's extents go to every stream port of a region with each configuration (R256). An element request port holds them
too: nothing changes what it holds but TLBI, which changes the Beacon's alike. -/
def State.loadExtents (s : State) (lead : Nat) : State :=
  let ext := s.extentsOf lead
  { s with ports := s.ports.map fun p => if s.inRegion lead (portTile p.1) then (p.1, { p.2 with ext := ext }) else p }

/-- Writes an image into context `c` of a region (R136). -/
def State.loadImage (s : State) (lead c : Nat) (im : Image) : State :=
  let cs := s.imageChans lead im
  let s := (s.imageEls lead im).foldl (fun s el => s.loadCtx c im.quota cs el) s
  let s := im.slots.foldl (fun s r => s.loadSlot lead c r) s
  let s := im.holds.foldl (fun s r => s.loadHold lead c r) s
  let s := im.ctrls.foldl (fun s r => s.loadCtrl lead c r) s
  im.streams.foldl (fun s r => s.loadStream lead c cs r) (s.loadExtents lead)

/-! ### CFGLD (R136, R145) -/

/-- CFGLD once the image has passed its checks: the array, the context, the waits. -/
def State.cfgPlace (s : State) (va : Word) (im : Image) : State :=
  let k := s.focus
  let els := s.imageEls k im
  if els.any fun el => (s.arrayAt el).isSome then s.cfgbad 0xFFFFFFFFFFFFFFFD#64
  else
    match s.cur.pickCtx im.ctx with
    | none => s
    | some c =>
      let uses := s.cur.cfgs.filter fun x => decide (x.ctx = c) && !x.done
      if uses.any fun x => !x.armed then s.cfgbad 0xFFFFFFFFFFFFFFFE#64
      else if !uses.isEmpty || s.thirdCtx k c im then s
      else
        let s := s.loadImage k c im
        let e : CfgEntry := { addr := va, ctx := c, armed := false, done := false, flags := 0#5, img := { im with ctx := c } }
        ((s.modCur fun l => { l with cfgs := l.cfgs ++ [e] }).retire 1).traceConfig k 0 c va

/-- The offsets at which the checks of an image fail (R136): those of its parcels and fields, and QUOTA's where the quotas of
an element sum to more than 64. -/
def State.imageFails (s : State) (raw : RawImage) : List Nat :=
  let ovr := match s.cur.pickCtx raw.image.ctx with
    | some c => s.quotaOver (s.imageEls s.focus raw.image) c raw.image.quota
    | none => false
  imageBad (s.boundsOf s.focus raw.hdr) (s.recReserved s.focus) raw ++ (if ovr then [3] else [])

/-- CFGLD (R136). -/
def State.cfgld (s : State) (va : Word) : State :=
  if va.toNat % 64 ≠ 0 then s.trap cALIGN va
  else if 8 ≤ s.cur.cfgs.length ∨ s.cur.cfgs.any (fun x => decide (x.addr = va)) = true then s.cfgbad (0#64 - 1#64)
  else
    ((s.performLoads s.focus).readImage va).finish fun raw s =>
      let im := raw.image
      match lowestOf (s.imageFails raw) with
      | some off => s.cfgbad (BitVec.ofNat 64 off)
      | none => if (s.imageEls s.focus im).any fun el => s.spareHeld.contains el then s else s.cfgPlace va im

/-! ### CFGGO (R137, R52, R86) -/

/-- Arms context `c` at the covered elements, with the rounding mode of FPMODE. -/
def State.armEls (s : State) (c : Nat) (rm : BitVec 2) (els : List Nat) : State :=
  els.foldl (fun s el => s.modCore el fun e => e.modCtx c fun x => { x with armed := true, rm := rm }) s

/-- Opens the declared tag spaces of a configuration (R52, R199). -/
def State.openDeclared (s : State) (lead c : Nat) (sp : List (Nat × Nat)) : State :=
  sp.foldl (fun s x => s.setSpace lead (spaceKey c x.1)
    { st := .open, k := x.2, base := 0, next := 0, emitted := [], parent := none, ret := none }) s

/-- Starts the stream programs of a configuration: a running one begins, with the Beacon's extents; a pending one waits
for the running one to end (R487). -/
def State.startStreams (s : State) (lead c : Nat) (rs : List StreamRec) : State :=
  let arm (g : Prog) : Prog := if g.ctx = c ∧ g.lan = lead then { g with armed := true } else g
  let ext := s.extentsOf lead
  rs.foldl (fun s r => s.modPort (s.recPort lead r) fun q =>
    let first := match q.prog with
      | some g => decide (g.ctx = c ∧ g.lan = lead ∧ g.armed = false)
      | none => false
    { q with prog := q.prog.map arm, pend := q.pend.map arm, ext := if first then ext else q.ext }) s

/-- Arms a configuration of a lead Lantern. -/
def State.armCfg (s : State) (lead : Nat) (x : CfgEntry) : State :=
  let rm := (s.lan lead).fpmode.extractLsb' 0 2
  let s := s.armEls x.ctx rm (s.imageEls lead x.img)
  let s := s.openDeclared lead x.ctx x.img.spaces
  let s := s.startStreams lead x.ctx x.img.streams
  s.modLan lead fun l => { l with cfgs := l.cfgs.map fun y => if y.addr = x.addr then { y with armed := true } else y }

/-- The table entry of an address. -/
def Lantern.cfg? (l : Lantern) (va : Word) : Option CfgEntry := l.cfgs.find? fun x => decide (x.addr = va)

/-- CFGGO (R137). -/
def State.cfggo (s : State) (va : Word) : State :=
  match s.cur.cfg? va with
  | none => s.cfgbad va
  | some x =>
    if x.armed then s.cfgbad va
    else ((s.armCfg s.focus x).retire 1).traceConfig s.focus 1 x.ctx va

/-! ### Completion (R138, R139, R161) -/

/-- The first dwords of the records of a region that were raised for a token, slot, port or request of a configuration
(R138): the unread ones of its ring, and those held for a full ring. -/
def State.unread (s : State) (lead : Nat) : List Word :=
  let l := s.lan lead
  let n := (l.tail.toNat + l.ringSize - l.head.toNat % l.ringSize) % l.ringSize
  (((List.range n).map fun i => (l.head.toNat + i) % l.ringSize).filter fun p => l.fqCfg.contains p).map (fun p =>
    BitVec.ofNat 64 (s.dword (lanPa lead 1 (l.ringBase + 32 * p))))
  ++ (l.heldRecs.filter (·.cfg)).map (·.word0)

/-- Whether a record names context `c` in CTX (R138). -/
def recordOf (c : Nat) (w : Word) : Bool := decide ((w.extractLsb' 34 3).toNat = c)

/-- Whether a request of the configuration in context `c` waits on a translation fault. -/
def State.xlateWaits (s : State) (lead c : Nat) : Bool :=
  (s.tiles.any fun t => t.2.reqs.any fun r =>
      decide (r.st = .xlate ∧ tagCtx r.tag = c) && s.inRegion lead (elTile r.el))
    || s.ports.any fun p =>
      match p.2.prog with
      | some g => decide (g.lan = lead ∧ g.ctx = c) && (g.xheld.isSome || p.2.outq.any fun r => decide (r.st = .xlate))
      | none => false

/-- FAULT of CFGST (R140). -/
def State.cfgFault (s : State) (lead c : Nat) : Bool :=
  (s.unread lead).any (recordOf c) || s.xlateWaits lead c

/-- Whether a stream program of context `c` of a region is still in a port. -/
def State.streamsOpen (s : State) (lead c : Nat) : Bool :=
  s.ports.any fun p => (p.2.prog.toList ++ p.2.pend.toList).any fun g => decide (g.lan = lead ∧ g.ctx = c)

/-- Iterations retired in the first declared space of a configuration. -/
def State.iterOf (s : State) (lead : Nat) (x : CfgEntry) : Nat :=
  match x.img.spaces with
  | (sp, _) :: _ => (s.space lead (spaceKey x.ctx sp)).base
  | [] => 0

/-- Whether an armed configuration has completed (R138, R139). -/
def State.cfgDone (s : State) (lead : Nat) (x : CfgEntry) : Bool :=
  x.armed && !s.streamsOpen lead x.ctx
    && !((s.regionTags lead).any fun t => decide (tagCtx t = x.ctx))
    && !s.cfgFault lead x.ctx
    && (decide (x.img.iters = 0) || decide (x.img.iters ≤ s.iterOf lead x))

/-- Closes the declared spaces of a configuration (R52). -/
def State.closeDeclared (s : State) (lead c : Nat) (sp : List (Nat × Nat)) : State :=
  sp.foldl (fun s x => s.setSpace lead (spaceKey c x.1) SpaceEntry.empty) s

/-- The inbound channels of a region's ports, from the configurations that have not completed. -/
def State.renewChans (s : State) (lead : Nat) : State :=
  let cs := ((s.lan lead).cfgs.filter fun x => !x.done).map fun x => s.imageChans lead x.img
  { s with ports := s.ports.map fun p =>
      if s.inRegion lead (portTile p.1) then (p.1, { p.2 with inch := chansToPort cs.flatten p.1 }) else p }

/-- CONFIG_COMPLETE: entry `idx` of a lead Lantern's table has completed (R138): every element of it switches (R161),
its flags accrue (R93), its declared spaces close. ITER keeps its last value in the entry's image. -/
def State.configComplete (s : State) (lead idx : Nat) : State :=
  match (s.lan lead).cfgs[idx]? with
  | none => s
  | some x =>
    if x.done || !s.cfgDone lead x then s
    else
      let iters := s.iterOf lead x
      let s := (s.ctxElems lead x.ctx).foldl (fun s el => s.switchCtx el x.ctx) s
      let fl := match (s.lan lead).cfgs[idx]? with
        | some y => y.flags
        | none => 0#5
      let s := (s.accrue lead fl).closeDeclared lead x.ctx x.img.spaces
      let s := s.modLan lead fun l =>
        { l with cfgs := l.cfgs.mapIdx fun i y =>
            if i = idx then { y with done := true, flags := 0#5, img := { y.img with iters := iters } } else y }
      s.renewChans lead

/-- CFGWT (R138). -/
def State.cfgwt (s : State) (va : Word) : State :=
  match s.cur.cfg? va with
  | none => s.cfgbad va
  | some x =>
    if !x.armed then s.cfgbad va
    else if x.done then
      ((s.modCur fun l => { l with cfgs := l.cfgs.filter fun y => decide (y.addr ≠ va) }).retire 1).traceConfig s.focus 2 x.ctx va
    else s

/-- What CFGST reads (R140). A completed entry keeps the iterations retired in ITERS of its image. -/
def State.cfgState (s : State) (lead : Nat) (x : CfgEntry) : Word :=
  let n := if x.done then x.img.iters else if x.armed then s.iterOf lead x else 0
  BitVec.ofNat 64 (min n (2 ^ 32 - 1) * 2 ^ 32 + x.ctx * 16
    + (if x.armed && !x.done && s.cfgFault lead x.ctx then 8 else 0) + (if x.done then 4 else 0)
    + (if x.armed then 2 else 0) + 1)

/-- CFGST (R140). -/
def State.cfgst (s : State) (rd : Reg) (va : Word) : State :=
  s.retireReg rd (match s.cur.cfg? va with
    | none => 0#64
    | some x => s.cfgState s.focus x) 1

/-- CFGLD (R136). -/
def execCfgld (ra : Reg) (s : State) : Out := .next (s.cfgld (s.x ra))
/-- CFGGO (R137). -/
def execCfggo (ra : Reg) (s : State) : Out := .next (s.cfggo (s.x ra))
/-- CFGWT (R138). -/
def execCfgwt (ra : Reg) (s : State) : Out := .next (s.cfgwt (s.x ra))
/-- CFGST (R140). -/
def execCfgst (rd ra : Reg) (s : State) : Out := .next (s.cfgst rd (s.x ra))
/-- CONFIG_COMPLETE (R138). -/
def execConfigComplete (lan idx : Nat) (s : State) : Out := .next (s.configComplete lan idx)

end Sys2Proof.Machine
end

