-- ==== Sys2Proof/Machine/TileCmd.lean ====
section
/-! DEFINITION. What a memory tile does for itself (R244, R248, R253), and the commands that a Lantern sends it: BRET,
BSCRB and BSTAT (R285 to R288). -/

namespace Sys2Proof.Machine

/-! ### Replies (R285) -/

/-- Writes a command's reply and releases its scoreboard. -/
def TileJob.answer (j : TileJob) (v : Word) (s : State) : State :=
  if j.rd = 0#5 then s else s.modLan j.lan fun l => (l.setReg j.rd v).unblock j.rd

/-- Whether a job is done. -/
def TileJob.over (j : TileJob) : Bool := match j.work with
  | .reply _ => true
  | _ => false

/-- The replies of a tile's commands that are done return. -/
def State.tileReplies (s : State) (t : Nat) : State :=
  let js := (s.tile t).jobs
  if js.any TileJob.over then
    js.foldl (fun s j => match j.work with
      | .reply v => j.answer v s
      | _ => s) (s.modTile t fun x => { x with jobs := js.filter fun j => !j.over })
  else s

/-- A command goes to a tile: its rd is scoreboarded, and the Lantern goes on. -/
def State.giveJob (s : State) (t : Nat) (rd : Reg) (w : TileWork) : State :=
  (s.modTile t fun x => { x with jobs := x.jobs ++ [{ lan := s.focus, rd := rd, work := w }] }).modCur fun l =>
    (l.block rd).advance 1

/-! ### The tile's own accesses -/

/-- The bank of a physical word of tile `t`, among its fifteen. -/
def bankOfPa (t pa : Nat) : Nat :=
  let off := pa - tileBase t
  if off < 0x60000 then bankNo (off / 4 / 4 % 3) (off / 4 % 4) else parNo ((off - 0x60000) / 0x8000)

/-- Whether nothing else asks for a bank in this cycle. -/
def State.bankFree (s : State) (t b : Nat) : Bool :=
  !(s.tile t).writing.contains b && !((s.tile t).bankq.any fun q => ((s.bankNeeds t q).getD []).contains b)

/-- CORRECTION_WRITE_BACK (R244): the first noted word whose bank is free. -/
def State.correctOne (s : State) (t : Nat) : State :=
  match (s.tile t).corr.find? fun pa => s.bankFree t (bankOfPa t pa) with
  | some pa => s.writeFix t pa
  | none => s

/-- Whether no access of a higher priority takes a bank: a scrub's reads may (R241 item 5). -/
def Tile.calm (x : Tile) : Bool := x.bankq.isEmpty && x.pipe.isEmpty && x.wb.isEmpty

/-- Scrubs a row and raises what that owes (R248). -/
def State.scrubRow (s : State) (t row : Nat) : State × Nat :=
  let r := s.scrub t row
  (r.1.raiseOwed none (tileDie t) (tileRecord t) r.2.1, r.2.2)

/-- The first scrub that a BSCRB has under way: its place among the jobs, row, rows left, count so far. -/
def Tile.scrubJob (x : Tile) : Option (Nat × Nat × Nat × Nat) :=
  x.jobs.zipIdx.findSome? fun j => match j.1.work with
    | .scrub row left n => some (j.2, row, left, n)
    | _ => none

/-- SCRUB_ROW: a row of a BSCRB (R287), else the tile's next row, unless MODE.SCRUB leaves scrubbing to the host (R248). -/
def State.scrubNext (s : State) (t : Nat) : State :=
  if !(s.tile t).calm then s
  else
    match (s.tile t).scrubJob with
    | some (i, row, left, n) =>
      let r := s.scrubRow t row
      let w : TileWork := if left ≤ 1 then .reply (BitVec.ofNat 64 (n + r.2)) else .scrub (row + 1) (left - 1) (n + r.2)
      (r.1.modTile t fun x => { x with jobs := x.jobs.modify i fun j => { j with work := w } }).tileReplies t
    | none =>
      if modeScrub (s.modeOf (tileDie t)) || !isMemTile (tileX t) (tileY t) then s
      else
        let row := (s.tile t).scrub
        (s.scrubRow t row).1.modTile t fun x => { x with scrub := (row + 1) % 8192 }

/-- WRITE_BACK (R253): the first word that waits to be written home. -/
def State.writeBackOne (s : State) (t : Nat) : State :=
  match (s.tile t).wb with
  | [] => s
  | b :: rest => (s.modTile t fun x => { x with wb := rest }).doWBack t b

/-- BANK_GRANT: a cycle of the banks, and the replies that are due. -/
def State.bankTurn (s : State) (t : Nat) : State := (s.bankCycle t).tileReplies t

/-! ### Commands -/

/-- The memory tile that an address of memory-tile space names, with offset 0 (R285). -/
def tileNamed (v : Word) : Option Nat :=
  let n := v.toNat
  let die := n / 2 ^ 44 % 16
  let x := n / 2 ^ 38 % 64
  let y := n / 2 ^ 31 % 128
  if n / 2 ^ 48 = 4 ∧ die < 8 ∧ isMemTile x y = true ∧ n % 2 ^ 31 = 0 then some (tileOf die x y) else none

/-- A command to the tile that x(ra) names, in supervisor mode (R74, R285): its operand is checked, then the tile's
address. -/
def State.tileCmd (s : State) (i : Instr) (ra : Reg) (ok : Bool) (k : Nat → State → State) : State :=
  if !s.cur.sup then s.trap cPRIV (parcelOf i)
  else if !ok then s.illop i
  else
    match tileNamed (s.x ra) with
    | none => s.trap cSTF (s.x ra)
    | some t => if s.diesCut (lanDie s.focus) (tileDie t) then s else k t (s.performLoads s.focus)

/-- BRET (R286): the tile retires the bank once every granted store of the group has written its parity, and grants no
access to the group until then. -/
def State.bret (s : State) (rd ra : Reg) (imm : BitVec 32) : State :=
  s.tileCmd (.bret rd ra imm) ra (decide (imm.toNat < 12)) fun t s =>
    let g := imm.toNat / 4
    let b := imm.toNat % 4
    match (s.tile t).retired g with
    | some rb => s.giveJob t rd (.reply (if rb = b then 1#64 else 2#64))
    | none => s.giveJob t rd (.retire g b)

/-- BSCRB (R287): rows `first` on; rd receives the number of corrections, repairs and parity rewrites. -/
def State.bscrb (s : State) (rd ra : Reg) (imm : BitVec 32) : State :=
  let first := (imm.extractLsb' 16 13).toNat
  let count := (imm.extractLsb' 0 14).toNat
  let ok := decide (imm.extractLsb' 29 3 = 0#3 ∧ imm.extractLsb' 14 2 = 0#2 ∧ 1 ≤ count ∧ first + count ≤ 8192)
  s.tileCmd (.bscrb rd ra imm) ra ok fun t s => s.giveJob t rd (.scrub first count 0)

/-- BSTAT (R288). -/
def State.bstat (s : State) (clear : Bool) (rd ra : Reg) (imm : BitVec 32) : State :=
  let off := imm.toNat
  let ok := decide (off ≤ 0x38 ∧ off % 8 = 0) && !(clear && decide (off = 0x38))
  s.tileCmd (.bstat clear rd ra imm) ra ok fun t s =>
    let v := (s.tile t).cnt.get 0#64 off
    let s := if clear then s.modTile t fun x => { x with cnt := x.cnt.put off 0#64 } else s
    s.giveJob t rd (.reply v)

/-- BRET (R286). -/
def execBret (rd ra : Reg) (imm : BitVec 32) (s : State) : Out := .next (s.bret rd ra imm)
/-- BSCRB (R287). -/
def execBscrb (rd ra : Reg) (imm : BitVec 32) (s : State) : Out := .next (s.bscrb rd ra imm)
/-- BSTAT (R288). -/
def execBstat (c : Bool) (rd ra : Reg) (imm : BitVec 32) (s : State) : Out := .next (s.bstat c rd ra imm)
/-- CORRECTION_WRITE_BACK (R244). -/
def execCorrectionWriteBack (tile : Nat) (s : State) : Out := .next (s.correctOne tile)
/-- SCRUB_ROW (R248). -/
def execScrubRow (tile : Nat) (s : State) : Out := .next (s.scrubNext tile)
/-- BANK_GRANT (R241). -/
def execBankGrant (tile : Nat) (s : State) : Out := .next (s.bankTurn tile)
/-- WRITE_BACK (R253). -/
def execWriteBack (tile : Nat) (s : State) : Out := .next (s.writeBackOne tile)

end Sys2Proof.Machine
end

