-- ==== Sys2Proof/Machine/Buffers.lean ====
section
/-! DEFINITION. Launch buffers: pages of HBM, page tables, placement, eviction and pinning (R236, R257, R260, R261, R289,
R295, R311), and the launch's local slices (R300). -/

namespace Sys2Proof.Machine

/-! ### Pages of HBM -/

/-- Whether `n` pages from page `p` of a die's HBM overlap a pool of `len` bytes at physical address `base`. -/
def hitsPool (die p n base len : Nat) : Bool :=
  let a := die * 2 ^ 37 + p * 4096
  decide (0 < len ∧ a < base + len ∧ base < a + n * 4096)

/-- The first page at or after `p` from which `n` pages lie clear of the die's save pool and overflow area. -/
def State.clearOf (s : State) (die n : Nat) : Nat → Nat → Nat
  | 0, p => p
  | fuel + 1, p =>
    let b := s.beacon die
    if hitsPool die p n b.savebase (b.savepg * 4096) then s.clearOf die n fuel ((b.savebase % 2 ^ 37) / 4096 + b.savepg)
    else if hitsPool die p n b.syncbase (b.syncpg * 4096) then s.clearOf die n fuel ((b.syncbase % 2 ^ 37) / 4096 + b.syncpg)
    else p

/-- Takes `n` zero-filled pages of a die's HBM (log entry 29): their physical address. -/
def State.allocPages (s : State) (die n : Nat) : Option (Nat × State) :=
  let p := s.clearOf die n 4 (s.nextPage.get Config.firstPage die)
  if 2 ^ 25 < p + n then none
  else
    let a := die * 2 ^ 37 + p * 4096
    some (a, { s with nextPage := s.nextPage.put die (p + n), mem := s.mem.forget a (n * 4096),
                      hbmBad := s.hbmBad.filter fun b => !decide (a ≤ b ∧ b < a + n * 4096) })

/-! ### Page tables (R257) -/

/-- Writes an entry of a page table. -/
def State.putEntry (s : State) (pa e : Nat) : State := { s with mem := s.mem.store pa (leBytes 8 e) }

/-- Maps a 4 KiB page below a table of level `3 - fuel`; tables that are wanting are taken from die 0's HBM. -/
def mapBelow : Nat → Nat → Nat → Nat → State → Option State
  | 0, table, va, e, s => some (s.putEntry (table + 8 * (va / 4096 % 512)) e)
  | fuel + 1, table, va, e, s =>
    let level := 2 - fuel
    let at_ := table + 8 * (va / 2 ^ (39 - 9 * level) % 512)
    let old := s.dword at_
    if old % 2 = 1 then
      if !entryOk old level || decide (old / 128 % 2 = 1) then none
      else mapBelow fuel (old / 2 ^ 12 % 2 ^ 40 * 2 ^ 12) va e s
    else
      match s.allocPages 0 1 with
      | none => none
      | some (p, s) => mapBelow fuel p va e (s.putEntry at_ (p + 1))

/-- The roots of a PASID's tables on the dies, without repeats. -/
def State.rootsOf (s : State) (pasid : Nat) : List Nat :=
  ((List.range 8).filterMap fun d => s.roots.find (rootKey d pasid)).eraseDups

/-- Gives a table to every die that has none for a PASID: the one that another die uses, or a new one. -/
def State.ensureRoots (s : State) (pasid : Nat) : Option State :=
  let fill (s : State) (r : Nat) : State :=
    { s with roots := (List.range 8).foldl (fun t d => match t.find (rootKey d pasid) with
        | some _ => t
        | none => t.put (rootKey d pasid) r) s.roots }
  match s.rootsOf pasid with
  | r :: _ => some (fill s r)
  | [] =>
    match s.allocPages 0 1 with
    | none => none
    | some (r, s) => some (fill s r)

/-- Maps `n` pages from `va` on onto those from `pa` on, in every table of a PASID. `flags` are the entry's low bits. -/
def State.mapPages (s : State) (pasid va pa n flags : Nat) : Option State :=
  match s.ensureRoots pasid with
  | none => none
  | some s =>
    (s.rootsOf pasid).foldl (fun acc root =>
      (List.range n).foldl (fun acc i =>
        acc.bind fun s => mapBelow 3 root (va + 4096 * i) (pa + 4096 * i + flags) s) acc) (some s)

/-- Whether some page of a range is mapped in a PASID. -/
def State.anyMapped (s : State) (pasid va n : Nat) : Bool :=
  (s.rootsOf pasid).any fun root => (List.range n).any fun i => (walkFrom s.dword (va + 4096 * i) 4 root).isSome

/-- V, R and W of a leaf entry. -/
def leafRW : Nat := 0xD

/-! ### Launches and their buffers -/

/-- Changes a launch. -/
def State.modLaunch (s : State) (id : Nat) (f : Launch → Launch) : State :=
  s.modHub fun h => match h.launches.find id with
    | some l => { h with launches := h.launches.put id (f l) }
    | none => h

/-- Pages of a buffer. -/
def Buffer.pages (b : Buffer) : Nat := (b.size + 4095) / 4096

/-- The buffers that are placed on a die, with their launches and their places in the buffer tables. -/
def State.placedOn (s : State) (die : Nat) : List (Nat × Nat × Buffer) :=
  (s.hub.launches.map fun l => if l.2.placed then
    (l.2.bufs.mapIdx fun i b => (l.1, i, b)).filter fun x => decide (x.2.2.die = die) else []).flatten

/-- Where a tile-placed buffer goes (R295): after those of its tile that stand before it in the launch. -/
def tileOffset (bufs : List Buffer) (i : Nat) (b : Buffer) : Nat :=
  (bufs.take i).foldl (fun acc c => if c.tile = b.tile ∧ c.die = b.die then acc + c.size else acc) 0

/-- Whether a range of physical addresses meets a buffer of a launch that is being placed: one that stands on a tile by now,
or that its line places on one (R295). -/
def State.launchTaken (s : State) (id a n : Nat) : Bool :=
  let bufs := match s.hub.launches.find id with
    | some l => if l.placed then [] else l.bufs
    | none => []
  let hits (p m : Nat) : Bool := decide (a < p + m ∧ p < a + n)
  (bufs.any fun b => b.onTiles && hits b.pa (b.pages * 4096)) ||
    (bufs.mapIdx fun i b => (i, b)).any fun x => match x.2.tile with
      | some (tx, ty) => hits (tileBase (tileOf x.2.die tx ty) + tileOffset bufs x.1 x.2) x.2.size
      | none => false

/-- Whether a range of physical addresses meets a placed buffer on a tile. -/
def State.tileTaken (s : State) (die a n : Nat) : Bool :=
  (s.placedOn die).any fun x => x.2.2.onTiles && decide (a < x.2.2.pa + x.2.2.pages * 4096 ∧ x.2.2.pa < a + n)

/-- The lowest page of a tile from which `n` pages are free, for a buffer of a launch. -/
def State.tileRoom (s : State) (id t n : Nat) : Option Nat :=
  ((List.range 96).find? fun i =>
      decide (i + n ≤ 96) && !s.tileTaken (tileDie t) (tileBase t + 4096 * i) (4096 * n)
        && !s.launchTaken id (tileBase t + 4096 * i) (4096 * n)).map
    fun i => tileBase t + 4096 * i

/-- Fills `n` bytes of a tile from offset `off` with zeros, keeping parity. -/
def State.zeroTile (s : State) (t off n : Nat) : State :=
  (List.range (n / 4)).foldl (fun s i =>
    let l := locOf false (off / 4 + i)
    if s.secded (dataPa t l) = .good 0#32 ∧ (s.tile t).retired l.g = none then s
    else
      let r := s.writeWord t l 0xF#4 0#32
      r.1.raiseOwed none (tileDie t) (tileRecord t) r.2) s

/-! ### Eviction (R261) -/

/-- Whether a copy of another package that is under way writes a range of memory: its inbound window reaches the range. -/
def State.linkInto (s : State) (a n : Nat) : Bool :=
  s.hub.links.any fun l => l.2.inward.any fun x =>
    let w := s.hub.wins.get (0#64, 0#64, 0#64) x.2.2.toNat
    let base := (w.1.extractLsb' 12 40).toNat * 4096
    decide (base < a + n ∧ a < base + (w.2.1.extractLsb' 0 32).toNat * 4096)

/-- Whether a copy in flight writes a buffer. -/
def State.copyInto (s : State) (pasid : Nat) (b : Buffer) : Bool :=
  s.chans.any fun c =>
    decide (c.2.pasid = pasid) &&
      (match c.2.kind with
       | .remote => false
       | .flat => decide (c.2.dst.toNat < b.va + b.size ∧ b.va < c.2.dst.toNat + c.2.len)
       | .block row rows dstr _ => (List.range rows).any fun r =>
           let a := (c.2.dst + BitVec.ofInt 64 (r * dstr.toInt)).toNat
           decide (a < b.va + b.size ∧ b.va < a + row))

/-- Whether some element of a stream handle that is still to be issued, as its line stands, or an index of one, lies in a
range of addresses. -/
def Handle.ahead (x : Handle) (a n : Nat) : Bool :=
  let left := x.count - x.pos
  let step := x.stride.toInt
  let cur : Int := x.cur.toNat
  let last := cur + step * (left - 1 : Nat)
  (decide (0 < left ∧ min cur last < (a + n : Nat) ∧ (a : Int) < max cur last + 16))
    || decide (a ≤ x.line.toNat ∧ x.line.toNat < a + n)
    || x.idx.any fun i => decide (x.pos < i.first + i.count ∧ i.ibase < a + n ∧ a < i.ibase + i.count * 8)

/-- Whether an active stream reads a buffer: the lines that an SLOOP has still to come to are not looked at (log entry 30). -/
def State.streamFrom (s : State) (pasid : Nat) (b : Buffer) : Bool :=
  s.ports.any fun p =>
    match p.2.prog with
    | none => false
    | some g =>
      decide (s.pasidOf g.lan = pasid) &&
        (p.2.hs.any fun h => !h.2.input &&
          (h.2.ahead b.va b.size
            || p.2.outq.any fun r => decide (r.h = h.1 ∧ b.va ≤ r.va.toNat ∧ r.va.toNat < b.va + b.size)))

/-- Whether a buffer is pinned for want of MPIN (R261). -/
def State.implicitPin (s : State) (pasid : Nat) (b : Buffer) : Bool :=
  s.copyInto pasid b || s.linkInto b.pa (b.pages * 4096) || s.streamFrom pasid b

/-- The memory tile and offset of a buffer that stands on one. -/
def Buffer.tileOff (b : Buffer) : Nat × Nat :=
  (tileOf (b.pa / 2 ^ 44 % 16) (b.pa / 2 ^ 38 % 64) (b.pa / 2 ^ 31 % 128), b.pa % 2 ^ 31)

/-- Whether accesses made before still wait in a buffer's tile, or words of it are staged or versioned there: a move waits
for them (log entry 30). -/
def State.moveBusy (s : State) (b : Buffer) : Bool :=
  let (t, off) := b.tileOff
  let x := s.tile t
  let inBuf (w : Nat) : Bool := decide (off ≤ 4 * w ∧ 4 * w < off + b.pages * 4096)
  (x.bankq.any fun q => inBuf (linWord { g := q.g, b := q.b, row := q.row }))
    || (x.wb.any fun w => inBuf ((w.pa - tileBase t) / 4))
    || (x.ents.any fun v => match v with
        | .version w _ _ _ => inBuf w
        | .staged _ w _ _ => inBuf w
        | .far _ _ _ _ => false)
    || x.wins.any fun w => decide (4 * w.2.first < off + b.pages * 4096 ∧ off < 4 * (w.2.first + w.2.nw))

/-- Marks a word of memory as one that cannot be read. -/
def State.markBad (s : State) (pa : Nat) : State :=
  match s.classify pa 4 with
  | some .hbm => { s with hbmBad := pa :: s.hbmBad }
  | some (.tileData t off) =>
    let a := dataPa t (locOf ((s.tile t).segMode (off / 4)).1 (off / 4))
    s.putBad a (s.word a)
  | _ => s

/-- The words of `n` bytes at `pa` that cannot be read, by offset. -/
def State.badWords (s : State) (pa n : Nat) : List Nat :=
  ((List.range (n / 4)).map (4 * ·)).filter fun i =>
    match s.classify (pa + i) 4 with
    | some k => (s.readHome (pa + i) 4 0 k).bad
    | none => false

/-- Copies `n` bytes from one physical place to another, at their homes. A word that cannot be read is none afterwards. -/
def State.moveBytes (s : State) (src dst n : Nat) : State :=
  match s.classify src n, s.classify dst n with
  | some k, some j =>
    let r := s.readHome src n 0 k
    let w := (r.s.raiseHome none 0 (unitRecord 5#3 0) k r.owed).writeHome dst 0 r.bytes j
    let u := w.1.raiseHome none 0 (unitRecord 5#3 0) j w.2
    if r.bad then (s.badWords src n).foldl (fun u i => u.markBad (dst + i)) u else u
  | _, _ => s

/-- Moves a buffer of a launch to `pa`: its bytes, its page entries, and the old translations (R261). -/
def State.moveBuffer (s : State) (id i : Nat) (b : Buffer) (pa : Nat) (onTiles : Bool) : State :=
  let pasid := match s.hub.launches.find id with
    | some l => l.pasid
    | none => 0
  let s := (List.range b.pages).foldl (fun s k => s.moveBytes (b.pa + 4096 * k) (pa + 4096 * k) 4096) s
  let s := (s.mapPages pasid b.va pa b.pages leafRW).getD s
  let s := (List.range b.pages).foldl (fun s k => s.tlbi (.page (b.va + 4096 * k) pasid)) s
  s.modLaunch id fun l => { l with bufs := l.bufs.set i { b with pa := pa, onTiles := onTiles } }

/-- Evicts a buffer that stands on a tile to its die's HBM, where HBM has room. -/
def State.evict (s : State) (id i : Nat) (b : Buffer) : Option State :=
  (s.allocPages b.die b.pages).map fun r => r.2.moveBuffer id i b r.1 false

/-- When a buffer on a tile was last accessed. -/
def State.lastUse (s : State) (b : Buffer) : Nat :=
  let (t, off) := b.tileOff
  (List.range b.pages).foldl (fun acc k => max acc ((s.tile t).seen.get 0 (off / 4096 + k))) 0

/-- The buffer that the Beacon of a die evicts next (R261): the least recently accessed that is neither pinned nor placed
by name (R295); ties go to the lower buffer index. -/
def State.victim (s : State) (die : Nat) : Option (Nat × Nat × Buffer) :=
  let cands := (s.placedOn die).filter fun x =>
    let b := x.2.2
    let pasid := match s.hub.launches.find x.1 with
      | some l => l.pasid
      | none => 0
    b.onTiles && !b.phaser && b.tile.isNone && decide (b.pins = 0) && !s.implicitPin pasid b
  cands.foldl (fun acc x =>
    match acc with
    | none => some x
    | some y =>
      let ux := s.lastUse x.2.2
      let uy := s.lastUse y.2.2
      if ux < uy ∨ (ux = uy ∧ x.2.1 < y.2.1) then some x else acc) none

/-- Evicts the next victim of a die, if there is one, once its tile is at rest. -/
def State.evictNext (s : State) (die : Nat) : State :=
  match s.victim die with
  | some (id, i, b) => if s.moveBusy b then s else (s.evict id i b).getD s
  | none => s

/-! ### Placement (R236, R260, R295, R311) -/

/-- Whether `n` bytes of a die's engine from address `a` are in no slice and no phaser's page of a launch. -/
def State.syncFree (s : State) (die a n : Nat) : Bool :=
  s.hub.launches.all fun l =>
    (l.2.slices.all fun x => decide (x.1 ≠ die ∨ a + n ≤ x.2 ∨ x.2 + 0x10000 ≤ a)) &&
      (l.2.bufs.all fun b => decide (b.phaser = false ∨ b.die ≠ die ∨ b.pa = 0 ∨ a + n ≤ b.pa % 2 ^ 32 ∨ b.pa % 2 ^ 32 + 4096 ≤ a))

/-- The physical address of byte `a` of a die's synchronisation space (R28). -/
def syncSpacePa (die a : Nat) : Nat := 6 * 2 ^ 48 + die * 2 ^ 44 + a

/-- Reserves a launch's local slice on a die, zero-filled, unless it has one (R300); `none` where the SRAM has no room. -/
def State.ensureSlice (s : State) (id die : Nat) : Option State :=
  match s.hub.launches.find id with
  | none => some s
  | some l =>
    if (l.slices.find die).isSome then some s
    else
      match (List.range 64).find? fun k => s.syncFree die (0x10000 * k) 0x10000 with
      | none => none
      | some k =>
        let s := { s with mem := s.mem.forget (syncSpacePa die (0x10000 * k)) 0x10000 }
        some (s.modLaunch id fun l => { l with slices := l.slices.put die (0x10000 * k) })

/-- Places buffer `i` of a launch; `none` where its space is not free. A buffer whose line names no tile goes to its die's HBM
(R236); with MODE.PLACE = 1 the host may choose a memory tile instead (R260, log entry 29). A phaser buffer with more MEMBERS
than the engine takes gets its page and no phaser (DESIGN CHOICE, log entry 57). -/
def State.placeBuffer (s : State) (id pasid i : Nat) (bufs : List Buffer) (b : Buffer) : Option State :=
  let put (s : State) (pa : Nat) (onTiles : Bool) : Option State :=
    (s.mapPages pasid b.va pa b.pages leafRW).map fun s =>
      s.modLaunch id fun l => { l with bufs := l.bufs.set i { b with pa := pa, onTiles := onTiles, wasTiles := onTiles } }
  if b.phaser then
    match (List.range 1024).find? fun k => s.syncFree b.die (4096 * k) 4096 with
    | none => none
    | some k =>
      let a := 4096 * k
      let s := { s with mem := s.mem.forget (syncSpacePa b.die a) 4096 }
      let s := match s.engNew b.die a b.members with
        | .ok _ _ _ s => s
        | .err _ => s
      put s (syncSpacePa b.die a) false
  else
    match b.tile with
    | some (x, y) =>
      let t := tileOf b.die x y
      let off := tileOffset bufs i b
      if s.tileTaken b.die (tileBase t + off) b.size then none
      else put (s.zeroTile t off b.size) (tileBase t + off) true
    | none =>
      let host := modePlace (s.modeOf b.die)
      let room : Option Nat := match Config.placeTile s.free with
        | some (x, y) => if host = true ∧ isMemTile x y = true ∧ b.pages ≤ 96 then s.tileRoom id (tileOf b.die x y) b.pages else none
        | none => none
      let s := if host then s.spend else s
      match room with
      | some pa => put (s.zeroTile (tileOf b.die (pa / 2 ^ 38 % 64) (pa / 2 ^ 31 % 128)) (pa % 2 ^ 31) (b.pages * 4096)) pa true
      | none => (s.allocPages b.die b.pages).bind fun r => put r.2 r.1 false

/-- Places a launch: its slices and its buffers, all or none (R40 stage 3). -/
def State.placeLaunch (s : State) (id : Nat) : Option State :=
  match s.hub.launches.find id with
  | none => none
  | some l =>
    let s := (List.range l.dies).foldl (fun acc d => acc.bind fun s => s.ensureSlice id d) (some s)
    let s := (l.bufs.mapIdx fun i b => (i, b)).foldl (fun acc x =>
      acc.bind fun s => s.placeBuffer id l.pasid x.1 l.bufs x.2) s
    s.map fun s => s.modLaunch id fun l => { l with placed := true }

/-- Whether an accepted launch that is not yet placed wants tile space of a die (R261). -/
def State.wantsTile (s : State) (die : Nat) : Bool :=
  s.hub.launches.any fun e => !e.2.placed &&
    (e.2.bufs.mapIdx fun i b => (i, b)).any fun x =>
      match x.2.tile with
      | some (tx, ty) => decide (x.2.die = die) &&
          s.tileTaken die (tileBase (tileOf die tx ty) + tileOffset e.2.bufs x.1 x.2) x.2.size
      | none => false

/-! ### MPIN, MUNPN and MEVCT (R289) -/

/-- The buffer of the current launch that holds the address x(ra). -/
def State.bufferAt (s : State) (k : Nat) (va : Word) : Option (Nat × Nat × Nat × Buffer) :=
  match s.launchOf k with
  | none => none
  | some l =>
    ((l.bufs.mapIdx fun i b => (i, b)).find? fun x => decide (x.2.va ≤ va.toNat ∧ va.toNat < x.2.va + x.2.size)).map
      fun x => (l.id, l.pasid, x.1, x.2)

/-- A placement command: in no buffer rd is all ones; in a speculative segment it waits for the commit. -/
def State.pinCmd (s : State) (rd ra : Reg) (k : Nat → Nat → Nat → Buffer → State → State) : State :=
  if s.speculative s.focus then s
  else
    match s.bufferAt s.focus (s.x ra) with
    | none => s.retireReg rd (0#64 - 1#64) 1
    | some (id, pasid, i, b) => k id pasid i b (s.performLoads s.focus)

/-- Changes the pin count of a buffer. -/
def State.setPins (s : State) (id i : Nat) (b : Buffer) (n : Nat) : State :=
  s.modLaunch id fun l => { l with bufs := l.bufs.set i { b with pins := n } }

/-- Where an evicted buffer goes back to: room on its own tile, or on some memory tile of its die. -/
def State.backPlace (s : State) (id : Nat) (b : Buffer) : Option Nat :=
  match b.tile with
  | some (x, y) => s.tileRoom id (tileOf b.die x y) b.pages
  | none =>
    (List.range 6272).findSome? fun k =>
      if isMemTile (k % 56) (k / 56) then s.tileRoom id (tileOf b.die (k % 56) (k / 56)) b.pages else none

/-- MPIN (R289). It waits while its buffer finds no room on the tiles, one eviction at each attempt. -/
def State.mpin (s : State) (rd ra : Reg) : State :=
  s.pinCmd rd ra fun id _ i b s =>
    if b.pins = 65535 then s.retireReg rd 2#64 1
    else if b.onTiles then (s.setPins id i b (b.pins + 1)).retireReg rd 0#64 1
    else if b.wasTiles then
      match s.backPlace id b with
      | none => s.evictNext b.die
      | some pa =>
        let b' := { b with pins := b.pins + 1 }
        (s.moveBuffer id i b' pa true).retireReg rd 0#64 1
    else (s.setPins id i b (b.pins + 1)).retireReg rd 1#64 1

/-- MUNPN (R289). -/
def State.munpn (s : State) (rd ra : Reg) : State :=
  s.pinCmd rd ra fun id _ i b s => (s.setPins id i b (b.pins - 1)).retireReg rd (BitVec.ofNat 64 (b.pins - 1)) 1

/-- MEVCT (R289); the move waits for accesses that stand in the tile. -/
def State.mevct (s : State) (rd ra : Reg) : State :=
  s.pinCmd rd ra fun id pasid i b s =>
    if !b.onTiles then s.retireReg rd 2#64 1
    else if b.pins ≠ 0 ∨ s.implicitPin pasid b = true then s.retireReg rd 1#64 1
    else if s.moveBusy b then s
    else
      match s.evict id i b with
      | some s => s.retireReg rd 0#64 1
      | none => s

/-- MPIN (R289). -/
def execMpin (rd ra : Reg) (s : State) : Out := .next (s.mpin rd ra)
/-- MUNPN (R289). -/
def execMunpn (rd ra : Reg) (s : State) : Out := .next (s.munpn rd ra)
/-- MEVCT (R289). -/
def execMevct (rd ra : Reg) (s : State) : Out := .next (s.mevct rd ra)
/-- BUFFER_EVICTION (R261): while a placement needs tile space of the die. -/
def execBufferEviction (die : Nat) (s : State) : Out := .next (if s.wantsTile die then s.evictNext die else s)

end Sys2Proof.Machine
end

