-- ==== Sys2Proof/Machine/ElemInt.lean ====
section
/-! DEFINITION. The integer family (R183, R184) and the logic and shift family (R185, R186). -/

namespace Sys2Proof.Machine

/-- An I64 result. -/
def i64Out (v : Word) (fl : Flags) (cond : Option Bool) : Computed := .ok fmtI64 (v.setWidth 80) fl cond

/-- An integer firing with one operand. -/
def State.int1 (s : State) (i : Instr) (g : Slot → Word → Word) : Out :=
  s.compute i fun w s =>
    let a := s.operand w .i64 w.f.selA
    match a.asI w.f.uns with
    | none => .bad a.fmt 0 0 fmtI64
    | some x => i64Out (g w.f x.val) x.flags none

/-- An integer firing with two operands; `g` gives the result and, for ICMP, the condition. -/
def State.int2 (s : State) (i : Instr) (g : Slot → Word → Word → Word × Option Bool) : Out :=
  s.compute i fun w s =>
    let a := s.operand w .i64 w.f.selA
    let b := s.operand w .i64 w.f.selB
    match a.asI w.f.uns, b.asI w.f.uns with
    | none, _ => .bad a.fmt 0 0 fmtI64
    | _, none => .bad b.fmt 1 0 fmtI64
    | some x, some y =>
      let r := g w.f x.val y.val
      i64Out r.1 (x.flags ||| y.flags) r.2

/-- The exact value of IADD, ISUB or IMUL as a result: wrapped, or clamped with .S (R183). -/
def intResult (f : Slot) (x : Int) : Word :=
  let r := irange f.uns
  BitVec.ofInt 64 (if f.sat then clampInt r.1 r.2 x else x)

/-- IDIV's result (R183): DIV's, but 2^63 − 1 with .S for the overflowing quotient. -/
def idivResult (f : Slot) (a b : Word) : Word :=
  if !f.uns && f.sat && decide (a = 0x8000000000000000#64) && decide (b = 0xFFFFFFFFFFFFFFFF#64) then
    0x7FFFFFFFFFFFFFFF#64
  else divWord f.uns a b

/-- ICMP's predicate (R184). -/
def icmpHolds (p : Nat) (a b : Int) : Bool :=
  match p with
  | 0 => decide (a = b)
  | 1 => decide (a ≠ b)
  | 2 => decide (a < b)
  | 3 => decide (a ≤ b)
  | 4 => decide (b < a)
  | _ => decide (b ≤ a)

/-- IADD (R183). -/
def execIadd (f : Slot) (s : State) : Out :=
  s.int2 (.iadd f) fun f a b => (intResult f (sv f.uns a + sv f.uns b), none)
/-- ISUB (R183). -/
def execIsub (f : Slot) (s : State) : Out :=
  s.int2 (.isub f) fun f a b => (intResult f (sv f.uns a - sv f.uns b), none)
/-- IMUL (R183). -/
def execImul (f : Slot) (s : State) : Out :=
  s.int2 (.imul f) fun f a b => (intResult f (sv f.uns a * sv f.uns b), none)
/-- IMULH (R183). -/
def execImulh (f : Slot) (s : State) : Out := s.int2 (.imulh f) fun f a b => (mulHigh f.uns a b, none)
/-- IDIV (R183). -/
def execIdiv (f : Slot) (s : State) : Out := s.int2 (.idiv f) fun f a b => (idivResult f a b, none)
/-- IREM (R183). -/
def execIrem (f : Slot) (s : State) : Out := s.int2 (.irem f) fun f a b => (remWord f.uns a b, none)
/-- IMIN (R183). -/
def execImin (f : Slot) (s : State) : Out :=
  s.int2 (.imin f) fun f a b => (if sv f.uns a ≤ sv f.uns b then a else b, none)
/-- IMAX (R183). -/
def execImax (f : Slot) (s : State) : Out :=
  s.int2 (.imax f) fun f a b => (if sv f.uns a ≤ sv f.uns b then b else a, none)
/-- INEG (R183). -/
def execIneg (f : Slot) (s : State) : Out :=
  s.int1 (.ineg f) fun f a =>
    if f.sat && decide (a = 0x8000000000000000#64) then 0x7FFFFFFFFFFFFFFF#64 else 0#64 - a
/-- ICMP (R184). -/
def execIcmp (f : Slot) (s : State) : Out :=
  s.int2 (.icmp f) fun f a b =>
    let c := icmpHolds f.imm.toNat (sv f.uns a) (sv f.uns b)
    (if c then 1#64 else 0#64, some c)

/-! ### Logic and shift -/

/-- A logic firing with one operand (R185): I64 only. -/
def State.logic1 (s : State) (i : Instr) (g : Slot → Word → Word) : Out :=
  s.compute i fun w s =>
    let a := s.operand w .i64 w.f.selA
    match a.asBits with
    | none => .bad a.fmt 0 0 fmtI64
    | some x => i64Out (g w.f x) 0#5 none

/-- A logic firing with two operands (R185): I64 only. -/
def State.logic2 (s : State) (i : Instr) (g : Slot → Word → Word → Word) : Out :=
  s.compute i fun w s =>
    let a := s.operand w .i64 w.f.selA
    let b := s.operand w .i64 w.f.selB
    match a.asBits, b.asBits with
    | none, _ => .bad a.fmt 0 0 fmtI64
    | _, none => .bad b.fmt 1 0 fmtI64
    | some x, some y => i64Out (g w.f x y) 0#5 none

/-- Leading zeros of a dword; 64 for zero (R185). -/
def clz64 (a : Word) : Nat := if a = 0#64 then 64 else 63 - Nat.log2 a.toNat

/-- Trailing zeros of a dword; 64 for zero (R185). -/
def ctz64 (a : Word) : Nat := (lowest 64 fun i => a.getLsbD i).getD 64

/-- The position of a bit field (R172). -/
def fieldPos (f : Slot) : Nat := f.imm.toNat % 64
/-- The width of a bit field. -/
def fieldWidth (f : Slot) : Nat := f.imm.toNat / 64 % 64 + 1

/-- BEXT (R186). -/
def bextWord (f : Slot) (a : Word) : Word :=
  let w := fieldWidth f
  let v := a.toNat / 2 ^ fieldPos f % 2 ^ w
  if f.uns || decide (v < 2 ^ (w - 1)) then BitVec.ofNat 64 v else BitVec.ofInt 64 ((v : Int) - 2 ^ w)

/-- BINS (R186). -/
def binsWord (f : Slot) (a b : Word) : Word :=
  let m := BitVec.ofNat 64 ((2 ^ fieldWidth f - 1) * 2 ^ fieldPos f)
  (a &&& ~~~m) ||| ((b <<< fieldPos f) &&& m)

/-- AND (R185). -/
def execEAnd (f : Slot) (s : State) : Out := s.logic2 (.eAnd f) fun _ a b => a &&& b
/-- OR (R185). -/
def execEOr (f : Slot) (s : State) : Out := s.logic2 (.eOr f) fun _ a b => a ||| b
/-- XOR (R185). -/
def execEXor (f : Slot) (s : State) : Out := s.logic2 (.eXor f) fun _ a b => a ^^^ b
/-- ANDN (R185). -/
def execAndn (f : Slot) (s : State) : Out := s.logic2 (.andn f) fun _ a b => a &&& ~~~b
/-- NOT (R185). -/
def execENot (f : Slot) (s : State) : Out := s.logic1 (.eNot f) fun _ a => ~~~a
/-- SHL (R185). -/
def execEShl (f : Slot) (s : State) : Out := s.logic2 (.eShl f) fun _ a b => a <<< (b.toNat % 64)
/-- SHR (R185). -/
def execEShr (f : Slot) (s : State) : Out := s.logic2 (.eShr f) fun _ a b => a >>> (b.toNat % 64)
/-- SAR (R185). -/
def execESar (f : Slot) (s : State) : Out := s.logic2 (.eSar f) fun _ a b => a.sshiftRight (b.toNat % 64)
/-- ROL (R185). -/
def execRol (f : Slot) (s : State) : Out := s.logic2 (.rol f) fun _ a b => a.rotateLeft (b.toNat % 64)
/-- POPC (R185). -/
def execPopc (f : Slot) (s : State) : Out := s.logic1 (.popc f) fun _ a => BitVec.ofNat 64 (popBits a.toNat 64)
/-- CLZ (R185). -/
def execClz (f : Slot) (s : State) : Out := s.logic1 (.clz f) fun _ a => BitVec.ofNat 64 (clz64 a)
/-- CTZ (R185). -/
def execCtz (f : Slot) (s : State) : Out := s.logic1 (.ctz f) fun _ a => BitVec.ofNat 64 (ctz64 a)
/-- BEXT (R186). -/
def execBext (f : Slot) (s : State) : Out := s.logic1 (.bext f) bextWord
/-- BINS (R186). -/
def execBins (f : Slot) (s : State) : Out := s.logic2 (.bins f) binsWord

end Sys2Proof.Machine
end

