-- ==== Sys2Proof/Machine/ElemLane.lean ====
section
/-! DEFINITION. The convert and lane family (R187 to R189) and the packed family (R190, R191). -/

namespace Sys2Proof.Machine

/-- The lane field (R172). -/
def laneIdx (f : Slot) : Nat := f.imm.toNat % 16

/-- Lanes of a format; 0 for a format without lanes (R189). -/
def laneCount (fmt : BitVec 3) : Nat := if fmt = fmtL6 then 12 else if fmt = fmtI8 then 10 else 0

/-- A format error of a lane instruction on operand A (R189): a format without lanes, or a lane beyond its lanes. -/
def laneBad (a : Operand) (k : Nat) (scaleOk : Bool) : Option Nat :=
  let n := laneCount a.fmt
  if n = 0 then some 0
  else if scaleOk && decide (k = 15) && decide (a.fmt = fmtL6) then none
  else if n ≤ k then some k
  else none

/-- The lanes of an L6X12 payload with lane `k` replaced. -/
def l6set (p : Pay) (k : Nat) (v : BitVec 6) : Pay :=
  l6pack (p.extractLsb' 72 8) ((List.range 12).map fun j => if j = k then v else l6lane p j)

/-- CVTFI (R187). -/
def execCvtfi (f : Slot) (s : State) : Out :=
  s.compute (.cvtfi f) fun w s =>
    let r := wToInt (s.rmOf w) (irange f.uns).1 (irange f.uns).2 ((s.operand w .w f.selA).asW f.uns)
    i64Out (BitVec.ofInt 64 r.val) r.flags none
/-- CVTIF (R187). -/
def execCvtif (f : Slot) (s : State) : Out :=
  s.compute (.cvtif f) fun w s =>
    let a := s.operand w .i64 f.selA
    .ok fmtW (wexact (if a.fmt = fmtI64 then wOfInt (sv f.uns a.low) else a.asW f.uns)) 0#5 none
/-- CVTFL (R188). -/
def execCvtfl (f : Slot) (s : State) : Out :=
  s.compute (.cvtfl f) fun w s =>
    let sc : BitVec 8 := f.imm.extractLsb' 8 8
    let r := l6quant (s.rmOf w) sc.toInt ((s.operand w .w f.selA).asW false)
    .ok fmtL6 (l6pack sc ((List.range 12).map fun j => if j = laneIdx f then r.val else 0x10#6)) r.flags none
/-- CVTLF (R189). -/
def execCvtlf (f : Slot) (s : State) : Out :=
  s.compute (.cvtlf f) fun w s =>
    let a := s.operand w .i64 f.selA
    let k := laneIdx f
    match laneBad a k false with
    | some l => .bad a.fmt 0 l fmtW
    | none =>
      .ok fmtW (wexact (if a.fmt = fmtL6 then laneValue (l6lane a.pay k) (l6scale a.pay)
        else wOfInt (i8lane a.pay k).toInt)) 0#5 none
/-- LGET (R189). -/
def execLget (f : Slot) (s : State) : Out :=
  s.compute (.lget f) fun w s =>
    let a := s.operand w .i64 f.selA
    let k := laneIdx f
    match laneBad a k true with
    | some l => .bad a.fmt 0 l fmtI64
    | none =>
      i64Out (if a.fmt = fmtL6 then
          (if k = 15 then BitVec.ofInt 64 (l6scale a.pay) else (l6lane a.pay k).setWidth 64)
        else BitVec.ofInt 64 (sv8 f.uns (i8lane a.pay k))) 0#5 none
/-- LPUT (R189). -/
def execLput (f : Slot) (s : State) : Out :=
  s.compute (.lput f) fun w s =>
    let a := s.operand w .i64 f.selA
    let b := s.operand w .i64 f.selB
    let k := laneIdx f
    match laneBad a k true with
    | some l => .bad a.fmt 0 l a.fmt
    | none =>
      if b.fmt ≠ fmtI64 then .bad b.fmt 1 0 a.fmt
      else
        .ok a.fmt (if a.fmt = fmtL6 then
            (if k = 15 then l6pack (b.pay.extractLsb' 0 8) ((List.range 12).map fun j => l6lane a.pay j)
             else l6set a.pay k (b.pay.extractLsb' 0 6))
          else i8pack ((List.range 10).map fun j => if j = k then b.pay.extractLsb' 0 8 else i8lane a.pay j)) 0#5 none
/-- LSPL (R189). -/
def execLspl (f : Slot) (s : State) : Out :=
  s.compute (.lspl f) fun w s =>
    let a := s.operand w .i64 f.selA
    let k := laneIdx f
    match laneBad a k false with
    | some l => .bad a.fmt 0 l a.fmt
    | none =>
      .ok a.fmt (if a.fmt = fmtL6 then l6pack (a.pay.extractLsb' 72 8) (List.replicate 12 (l6lane a.pay k))
        else i8pack (List.replicate 10 (i8lane a.pay k))) 0#5 none

/-! ### Packed family -/

/-- The exact sum of products of lanes, rounded once, with R91 applied to each product and to the sum (R190). -/
def wdot (rm : RM) (as bs : List WVal) : Res Pay :=
  let ps := (as.zip bs).map fun p => exactMul p.1 p.2
  match ps with
  | [] => ⟨wZero false, 0#5⟩
  | p :: r =>
    let sum := r.foldl (fun (acc : Exact) q =>
      let t := exactAdd rm acc.val q.val
      ⟨t.val, acc.flags ||| q.flags ||| t.flags⟩) p
    finish rm sum

/-- LDOT of two operands (R190): the table sum where both are L6X12. -/
def ldotOf (rm : RM) (a b : Operand) : Res Pay :=
  if a.fmt = fmtL6 ∧ b.fmt = fmtL6 then
    ⟨wexact (ofScaled (ldotSum a.pay b.pay) (l6scale a.pay + l6scale b.pay - 20)), 0#5⟩
  else wdot rm a.lanes12 b.lanes12

/-- ONE of R190: twelve lanes L = 0, S = 0. -/
def l6One : Operand := ⟨fmtL6, 0#80⟩

/-- Whether an operand takes BDOT's integer path (R191). -/
def Operand.intPath (o : Operand) : Bool := decide (o.fmt = fmtI8) || decide (o.fmt = fmtI64)

/-- LDOT (R190). -/
def execLdot (f : Slot) (s : State) : Out :=
  s.compute (.ldot f) fun w s =>
    let r := ldotOf (s.rmOf w) (s.operand w .i64 f.selA) (s.operand w .i64 f.selB)
    .ok fmtW r.val r.flags none
/-- LSUM (R190). -/
def execLsum (f : Slot) (s : State) : Out :=
  s.compute (.lsum f) fun w s =>
    let r := ldotOf (s.rmOf w) (s.operand w .i64 f.selA) l6One
    .ok fmtW r.val r.flags none
/-- BDOT (R191). -/
def execBdot (f : Slot) (s : State) : Out :=
  s.compute (.bdot f) fun w s =>
    let a := s.operand w .i64 f.selA
    let b := s.operand w .i64 f.selB
    if a.intPath && b.intPath then
      let x := ((a.lanes10I f.uns).zip (b.lanes10I f.uns)).foldl (fun (acc : Int) p => acc + p.1 * p.2) 0
      i64Out (intResult f x) 0#5 none
    else
      let r := wdot (s.rmOf w) (a.lanes10W f.uns) (b.lanes10W f.uns)
      .ok fmtW r.val r.flags none
/-- BADD of the packed family (R191). -/
def execPackedBadd (f : Slot) (s : State) : Out :=
  s.compute (.packedBadd f) fun w s =>
    let a := s.operand w .i64 f.selA
    let b := s.operand w .i64 f.selB
    if a.fmt ≠ fmtI8 then .bad a.fmt 0 0 fmtI8
    else if b.fmt ≠ fmtI8 then .bad b.fmt 1 0 fmtI8
    else
      let lane (j : Nat) : BitVec 8 :=
        let x := sv8 f.uns (i8lane a.pay j) + sv8 f.uns (i8lane b.pay j)
        BitVec.ofInt 8 (if f.sat then (if f.uns then clampInt 0 255 x else clampInt (-128) 127 x) else x)
      .ok fmtI8 (i8pack ((List.range 10).map lane)) 0#5 none

end Sys2Proof.Machine
end

