-- ==== Sys2Proof/Machine/MatrixUnit.lean ====
section
/-! DEFINITION. The matrix unit of a region (chapter 17): descriptors and blocks (R346, R347), the feed (R357), the
accumulators (R350, R351), the two paths of a k-step (R348, R353), the save area (R363, R365). -/

namespace Sys2Proof.Machine

/-! ### Descriptors and blocks (R346) -/

/-- Whether a block may have a storage format (R346). -/
def mxFmtOk (f : Nat) : Bool := decide (f < 4 ∨ f = 11)
/-- Bytes of a block (R346). -/
def blockSize (f : Nat) : Nat := if f = 11 then 10 else 12 * fmtSize f

/-- A 32-bit signed field of a descriptor. -/
def sfield (bs : List Byte) (o : Nat) : Int := (BitVec.ofNat 32 (fieldAt bs o 4)).toInt

/-- M, P, AFMT and WFMT of a descriptor. -/
def mxM (d : List Byte) : Nat := fieldAt d 0x20 1
/-- The promotion period. -/
def mxP (d : List Byte) : Nat := fieldAt d 0x21 1
/-- The activations' format. -/
def mxAfmt (d : List Byte) : Nat := fieldAt d 0x22 1
/-- The weights' format. -/
def mxWfmt (d : List Byte) : Nat := fieldAt d 0x23 1

/-- Whether a descriptor has a field outside R346. -/
def descBad (d : List Byte) : Bool :=
  decide (mxM d = 0 ∨ 32 < mxM d ∨ mxP d = 0) || !mxFmtOk (mxAfmt d) || !mxFmtOk (mxWfmt d)
    || (d.drop 0x24).any fun b => decide (b ≠ 0#8)

/-- The address of block (m, j, r) of A. -/
def addrA (d : List Byte) (m j r : Nat) : Word :=
  BitVec.ofInt 64 (fieldAt d 0 8 + m * sfield d 0x10 + j * sfield d 0x14 + r * blockSize (mxAfmt d))
/-- The address of block (j, r, c) of B. -/
def addrB (d : List Byte) (j r c : Nat) : Word :=
  BitVec.ofInt 64 (fieldAt d 8 8 + j * sfield d 0x1C + r * sfield d 0x18 + c * blockSize (mxWfmt d))

/-- The block that bytes of a format load as (R347). -/
def blockOf (f : Nat) (bs : List Byte) : Block :=
  if f = 11 then { l6 := true, vals := [(loadOperand 11 false bs).pay] }
  else
    { l6 := false,
      vals := (List.range 12).map fun i => (loadOperand f false ((bs.drop (i * fmtSize f)).take (fmtSize f))).pay }

/-- The lanes of a block on the slow path (R353). -/
def Block.lanes (b : Block) : List WVal :=
  if b.l6 then (Operand.mk fmtL6 (b.vals.headD 0#80)).lanes12 else b.vals.map wdec

/-- Groups of `k` of a list. -/
def groupsOf {α : Type} (k n : Nat) (l : List α) : List (List α) := (List.range n).map fun i => (l.drop (k * i)).take k

/-! ### The feed (R347, R357) -/

/-- What an access of the feed or of a command gives: a value; a translation to wait for, with the address and reason;
or the end of the command, with REASON and address. -/
inductive Feed (α : Type) where
  | ok (v : α) (s : State)
  | wait (va reason : Nat) (s : State)
  | err (reason va : Nat) (s : State)

/-- Places of `n` bytes at `va` for a matrix access: R for a read, W for a write (R355, R357). -/
def State.mxPlaces (s : State) (lead : Nat) (held : Option Miss) (wr : Bool) (va : Word) (n : Nat) :
    Feed (List (Nat × Nat × PaKind × Bool)) :=
  if 2 ^ 48 < va.toNat + n then .err 1 va.toNat s
  else
    match s.unitPlaces lead (lanDie lead)
      { near := fun va => (extentOf (s.extentsOf lead) va).map (·.2), tlb := false, may := heldMay held, rd := !wr, wr := wr }
      va.toNat n with
    | (.ok ps, s) => if s.piecesCut (lanDie lead) ps then .wait va.toNat xlCut s else .ok ps s
    | (.error (a, 1), s) => .err 3 a s
    | (.error (a, 2), s) => .err 2 a s
    | (.error (a, reason), s) => .wait a reason s

/-- Reads `n` bytes at `va` for the feed, with the segment's own staged bytes over them (R252). -/
def State.mxRead (s : State) (lead : Nat) (held : Option Miss) (va : Word) (n : Nat) : Feed (List Byte) :=
  match s.mxPlaces lead held false va n with
  | .wait a reason s => .wait a reason s
  | .err reason a s => .err reason a s
  | .ok ps s =>
    let r := s.readPieces lead 0 ps
    if r.2.1 && !r.2.2.stagedPieces lead ps then .err 4 (s.badAt ps) r.2.2
    else .ok (r.2.2.overlayPieces lead ps r.1) r.2.2

/-- Reads byte ranges of one size, one behind the other. -/
def State.mxReadAll (s : State) (lead : Nat) (held : Option Miss) (n : Nat) : List Word → Feed (List (List Byte))
  | [] => .ok [] s
  | va :: rest =>
    match s.mxRead lead held va n with
    | .wait a reason s => .wait a reason s
    | .err reason a s => .err reason a s
    | .ok bs s =>
      match State.mxReadAll s lead held n rest with
      | .ok more s => .ok (bs :: more) s
      | .wait a reason s => .wait a reason s
      | .err reason a s => .err reason a s

/-- A record of the feed: port 3 of some memory tile of the region (R357, log entry 26). -/
def State.feedLog (s : State) (lead : Nat) (kind : Byte) (miss : Option Miss) (addr info : Nat) : State :=
  let l := s.lan lead
  let t := memTileNo lead l.regW (Config.feedTile s.free % (32 * l.regW * l.regH))
  let r : Record := { Record.blank with
    unit := 2#3, el := 3#4, y := BitVec.ofNat 7 (tileY t), x := BitVec.ofNat 6 (tileX t),
    kind := kind, addr := BitVec.ofNat 64 addr, info := BitVec.ofNat 32 info }
  s.spend.raise (some lead) (lanDie lead) (match miss with | some m => r.missed m | none => r)

/-! ### Accumulators (R350, R351) -/

/-- An accumulator after MXZERO (R362). -/
def Acc.zero : Acc := { wacc := wZero false, nacc := 0, v := false, eref := 0 }

/-- promote(e) of R351. -/
def Acc.promote (e : Acc) : Acc × Flags :=
  if e.v then
    let r := wadd rne (wdec e.wacc) (ofScaled e.nacc e.eref)
    ({ e with wacc := r.val, nacc := 0, v := false }, r.flags)
  else ({ e with nacc := 0, v := false }, 0#5)

/-- The number of accumulator (m, c). -/
def accKey (m c : Nat) : Nat := c * 32 + m

/-- Accumulator (m, c) of an array. -/
def Array2.accAt (a : Array2) (m c : Nat) : Acc := a.acc.get Acc.zero (accKey m c)

/-- early(e) of R351, and then the sum starts afresh. -/
def Array2.early (a : Array2) (m c : Nat) (x e : Int) : Array2 :=
  let r := (a.accAt m c).promote
  { a with acc := a.acc.put (accKey m c) { r.1 with nacc := x, eref := e, v := true }, mxovf := satAdd a.mxovf 1,
           flags := a.flags ||| r.2 }

/-- The nearest integer to x / 2^n, ties to even. -/
def rneShift (x : Int) (n : Nat) : Int :=
  let r := (roundBits x.natAbs n false (decide (x < 0)) rne).1
  if x < 0 then -(r : Int) else r

/-- accumulate(e, X, E) of R351. -/
def Array2.accumulate (a : Array2) (m c : Nat) (x e : Int) : Array2 :=
  let q := a.accAt m c
  if !q.v then { a with acc := a.acc.put (accKey m c) { q with nacc := x, eref := e, v := true } }
  else
    let d := e - q.eref
    if 12 < d then a.early m c x e
    else
      let y := if 0 ≤ d then x * 2 ^ d.toNat else rneShift x (-d).toNat
      if 2 ^ 47 - 1 < (q.nacc + y).natAbs then a.early m c x e
      else
        { a with acc := a.acc.put (accKey m c) { q with nacc := q.nacc + y },
                 flags := a.flags ||| flagIf (decide (d < 0 ∧ y * 2 ^ (-d).toNat ≠ x)) flagNX }

/-- Promotes every accumulator. -/
def Array2.promoteAll (a : Array2) : Array2 :=
  { a with acc := a.acc.map fun e => (e.1, e.2.promote.1),
           flags := a.acc.foldl (fun f e => f ||| e.2.promote.2) a.flags }

/-! ### A k-step (R347, R348, R353) -/

/-- The scale of a group of payloads (R107). -/
def groupScale (ps : List Pay) : Int := ps.foldl (fun (acc : Int) p => max acc (l6scale p)) (-128)
/-- A group of payloads, unified (R107). -/
def unifyGroupPays (ps : List Pay) : List Pay := ps.map (unifyBlock (groupScale ps))

/-- The payloads of L6 blocks. -/
def blockPays (bs : List Block) : List Pay := bs.map fun b => b.vals.headD 0#80

/-- One activation row on the fast path (R348): the sums X of every column, accumulated. `ws` are the columns, unified. -/
def Array2.fastRow (a : Array2) (ws : List (List Pay)) (m : Nat) (row : List Block) : Array2 :=
  let ps := blockPays row
  let sa := groupScale ps
  let us := unifyGroupPays ps
  (ws.mapIdx fun c col => (c, col)).foldl (fun a w =>
    a.accumulate m w.1 (((us.zip w.2).map fun p => ldotSum p.1 p.2).foldl (· + ·) 0) (sa + groupScale w.2 - 20)) a

/-- The partial that reaches the bottom of a column on the slow path (R353), with its flags. -/
def slowPartial (row col : List Block) : Res Pay :=
  match row.zip col with
  | [] => ⟨wZero false, 0#5⟩
  | p :: rest =>
    rest.foldl (fun (acc : Res Pay) q =>
      let d := wdot rne q.1.lanes q.2.lanes
      let t := wadd rne (wdec acc.val) (wdec d.val)
      ⟨t.val, acc.flags ||| d.flags ||| t.flags⟩) (wdot rne p.1.lanes p.2.lanes)

/-- One activation row on the slow path (R353). -/
def Array2.slowRow (a : Array2) (ws : List (List Block)) (m : Nat) (row : List Block) : Array2 :=
  (ws.mapIdx fun c col => (c, col)).foldl (fun a w =>
    let p := slowPartial row w.2
    let q := a.accAt m w.1
    let t := wadd rne (wdec q.wacc) (wdec p.val)
    { a with acc := a.acc.put (accKey m w.1) { q with wacc := t.val }, flags := a.flags ||| p.flags ||| t.flags }) a

/-- The columns of a weight register set. -/
def Array2.columns (a : Array2) (t : Tab Block) : List (List Block) :=
  (List.range a.c).map fun c => (List.range a.r).map fun r => t.get { l6 := true, vals := [0#80] } (r * 112 + c)

/-- The weight registers that columns of blocks fill. -/
def weightTab (r c : Nat) (cols : List (List Block)) : Tab Block :=
  ((List.range r).map fun i => (List.range c).filterMap fun j =>
    match cols[j]? with
    | some col => col[i]?.map fun b => (i * 112 + j, b)
    | none => none).flatten

/-- The columns of LGB12 blocks, unified (R347). -/
def unifyColumns (cols : List (List Block)) : List (List Block) :=
  cols.map fun col => (unifyGroupPays (blockPays col)).map fun p => { l6 := true, vals := [p] }

/-- The sums of a k-step whose activation rows meet the active weights (R348, R351, R353). -/
def Array2.enterRows (a : Array2) (rows : List (List Block)) : Array2 :=
  let cols := a.columns a.active
  let fast := (rows ++ cols).all fun g => g.all fun b => b.l6
  let a := { a with slow := a.slow || !fast }
  let ms := rows.mapIdx fun m row => (m, row)
  if fast then
    let ws := (unifyColumns cols).map blockPays
    ms.foldl (fun a x => a.fastRow ws x.1 x.2) a
  else ms.foldl (fun a x => a.slowRow cols x.1 x.2) a

/-- The count of a k-step and its scheduled promotion (R351). -/
def Array2.countKstep (a : Array2) (p : Nat) : Array2 :=
  let a := { a with mxks := a.mxks + 1#64 }
  if a.mxks.toNat % p = 0 then a.promoteAll else a

/-- Every element swaps its shadow weights to active (R349). -/
def Array2.swap (a : Array2) : Array2 := { a with active := a.shadow, shadow := a.active }

/-! ### Tokens (R355) -/

/-- A matrix token. -/
def mxToken (err susp : Bool) (reason count : Nat) : Word :=
  BitVec.ofNat 64 ((if err then 2 ^ 63 else 0) + (if susp then 2 ^ 62 else 0) + reason * 2 ^ 48 + count % 2 ^ 48)

/-- Writes a token register and releases its scoreboard (R115, R355). -/
def State.writeToken (s : State) (k : Nat) (rd : Reg) (v : Word) : State :=
  s.modLan k fun l => (l.setReg rd v).unblock rd

/-- Changes a region's array. -/
def State.setMx (s : State) (lead : Nat) (a : Array2) : State := s.modLan lead fun l => { l with mx := some a }

/-- ORs the matrix flags into the lead's FPFLAGS (R352). -/
def State.mxAccrue (s : State) (lead : Nat) : State :=
  match (s.lan lead).mx with
  | none => s
  | some a => (s.setMx lead { a with flags := 0#5 }).accrue lead a.flags

/-! ### Turning the array on and off (R342 to R345) -/

/-- The shape word of an array (R342). -/
def shapeWord (row0 col0 r c : Nat) : Word :=
  BitVec.ofNat 64 (row0 * 2 ^ 24 + col0 * 2 ^ 16 + (r - 1) * 2 ^ 8 + (c - 1))

/-- The bits of a shape word that are zero. -/
def shapeZero : Word := 0xFFFFFFFE00808080#64

/-- ROW0, COL0, R and C of a shape word. -/
def shapeOf (v : Word) : Nat × Nat × Nat × Nat :=
  ((v.extractLsb' 24 9).toNat, (v.extractLsb' 16 7).toNat, (v.extractLsb' 8 7).toNat + 1, (v.extractLsb' 0 7).toNat + 1)

/-- The elements of an array of a region. -/
def State.arrayEls (s : State) (lead : Nat) (row0 col0 r c : Nat) : List Nat :=
  let b := s.box lead
  ((List.range r).map fun i => (List.range c).map fun j => arrayEl (lanDie lead) b.1 b.2.1 (row0 + i) (col0 + j)).flatten

/-- The memory tiles of a region. -/
def State.memTiles (s : State) (lead : Nat) : List Nat :=
  let l := s.lan lead
  (List.range (32 * l.regW * l.regH)).map fun n => memTileNo lead l.regW n

/-- The status that MXON gives a shape word (R343). -/
def State.mxonStatus (s : State) (lead : Nat) (v : Word) : Nat :=
  let l := s.lan lead
  let (row0, col0, r, c) := shapeOf v
  if v &&& shapeZero ≠ 0#64 ∨ 32 * l.regH < row0 + r ∨ 16 * l.regW < col0 + c ∨ 128 < r ∨ 112 < c then 1
  else if (s.arrayEls lead row0 col0 r c).any fun el => (s.el el).core.ctxs.any fun x => x.2.valid then 2
  else if l.cfgs.any fun x => x.armed && !x.done && x.img.streams.any fun q => decide (q.p = 3) then 2
  else if (s.arb (lanDie lead)).cap < r * c then 3
  else if l.mx.isSome then 4
  else 0

/-- Sets whether port 3 of every memory tile of a region is reserved for the array (R343). -/
def State.reservePorts (s : State) (lead : Nat) (on : Bool) : State :=
  (s.memTiles lead).foldl (fun s t => s.modPort (portOf t 3) fun p => { p with matrix := on }) s

/-- The array that MXON leaves (R343). -/
def Array2.fresh (v : Word) : Array2 :=
  let (row0, col0, r, c) := shapeOf v
  { row0 := row0, col0 := col0, r := r, c := c, active := [], shadow := [], shv := false, slow := false, acc := [],
    mxks := 0#64, mxovf := 0#64, flags := 0#5, lastM := 0, run := none, cmd := none, snapq := none, susp := none,
    stop := false }

/-- Turns the array on (R343). -/
def State.mxTurnOn (s : State) (lead : Nat) (v : Word) : State :=
  (s.modLan lead fun l => { l with mx := some (Array2.fresh v), mxPrio := 0 }).reservePorts lead true

/-- A decision of a die's arbiter is due (R369). -/
def State.arbDue (s : State) (die : Nat) : State := s.modArb die fun b => { b with due := true }

/-- Turns the array off without accruing anything (R345). The k-step of a run that goes with it has ended (R369). -/
def State.mxDiscard (s : State) (lead : Nat) : State :=
  match (s.lan lead).mx with
  | none => s
  | some a =>
    let s := (s.modLan lead fun l => { l with mx := none }).reservePorts lead false
    if a.run.isSome then s.arbDue (lanDie lead) else s

/-- Whether a run is in its last k-step (R356). -/
def MxRun.last (r : MxRun) : Bool := r.entered && decide (r.done + 1 = r.n)

/-- A run that stands at a boundary: it holds no capacity, and its weights are to be loaded again (R364, R365). -/
def MxRun.rest (r : MxRun) : MxRun :=
  { r with waiting := false, granted := false, ahead := false, loaded := false, fed := false, entered := false, ready := false,
           held := none }

/-- A run that has just been accepted. -/
def MxRun.fresh (desc : List Byte) (n done : Nat) (rd : Reg) : MxRun :=
  { desc := desc, n := n, done := done, rd := rd, waiting := false, since := 0, level := 0, granted := false, ahead := false,
    loaded := false, fed := false, entered := false, ready := false, held := none }

/-! ### The save area (R363, R365) -/

/-- One accumulator of a save area. -/
def Acc.bytes (e : Acc) : List Byte :=
  leBytes 6 (e.nacc % 2 ^ 48).toNat ++ leBytes 10 e.wacc.toNat
    ++ leBytes 2 ((if e.v then 2 ^ 15 else 0) + (e.eref % 2 ^ 10).toNat) ++ leBytes 6 0

/-- The save area of an array; `susp` is the run it is suspended in. -/
def Array2.area (a : Array2) (prio : Nat) : List Byte :=
  let run := a.susp.isSome
  leBytes 4 (128 + 768 * a.c) ++ leBytes 1 4 ++ leBytes 1 ((if run then 1 else 0) + (if a.slow then 2 else 0))
    ++ leBytes 1 prio ++ leBytes 1 a.flags.toNat ++ leBytes 8 (shapeWord a.row0 a.col0 a.r a.c).toNat
    ++ leBytes 8 a.mxks.toNat ++ leBytes 8 a.mxovf.toNat
    ++ (match a.susp with
        | some r => leBytes 4 r.n ++ leBytes 4 r.done ++ leBytes 24 0 ++ r.desc
        | none => leBytes 4 0 ++ leBytes 4 0 ++ leBytes 24 0 ++ leBytes 64 0)
    ++ ((List.range a.c).map fun c => ((List.range 32).map fun m => (a.accAt m c).bytes).flatten).flatten

/-- The accumulator of a save area's bytes. -/
def accOf (bs : List Byte) : Acc :=
  let n := fieldAt bs 0 6
  let w := fieldAt bs 16 2
  { nacc := (if n < 2 ^ 47 then (n : Int) else (n : Int) - 2 ^ 48), wacc := BitVec.ofNat 80 (fieldAt bs 6 10),
    v := decide (2 ^ 15 ≤ w), eref := (BitVec.ofNat 10 w).toInt }

/-- Whether an accumulator of a save area is malformed (R365). -/
def accBad (bs : List Byte) : Bool :=
  decide (fieldAt bs 16 2 / 2 ^ 10 % 32 ≠ 0 ∨ fieldAt bs 18 6 ≠ 0) || (!(accOf bs).v && decide ((accOf bs).nacc ≠ 0))

/-- Whether the first 128 bytes of a save area are malformed (R365). -/
def areaHeadBad (h : List Byte) : Bool :=
  let shape := BitVec.ofNat 64 (fieldAt h 8 8)
  decide (fieldAt h 0 4 ≠ 128 + 768 * (shapeOf shape).2.2.2) || decide (fieldAt h 4 1 ≠ 4)
    || decide (4 ≤ fieldAt h 5 1) || decide (8 ≤ fieldAt h 6 1) || decide (32 ≤ fieldAt h 7 1)
    || decide (shape &&& shapeZero ≠ 0#64) || decide (fieldAt h 0x28 24 ≠ 0)
    || (decide (fieldAt h 5 1 % 2 = 1)
        && (descBad (h.drop 0x40) || decide (fieldAt h 0x20 4 ≤ fieldAt h 0x24 4)))

/-- Restores a well-formed area into the array (R365); `rd` is the register that the resumed run's token goes to. An area
without a suspended run has no M and leaves the array's own (log entry 80). -/
def Array2.restore (a : Array2) (h : List Byte) (accs : List (List Byte)) (rd : Reg) : Array2 :=
  let run := decide (fieldAt h 5 1 % 2 = 1)
  let desc := (h.drop 0x40).take 64
  { a with
    acc := (accs.mapIdx fun i b => (i, accOf b)), mxks := BitVec.ofNat 64 (fieldAt h 0x10 8),
    mxovf := BitVec.ofNat 64 (fieldAt h 0x18 8), flags := BitVec.ofNat 5 (fieldAt h 7 1),
    slow := decide (fieldAt h 5 1 / 2 % 2 = 1), shv := false, lastM := if run then mxM desc else a.lastM,
    run := if run then some (MxRun.fresh desc (fieldAt h 0x20 4) (fieldAt h 0x24 4) rd) else none }

end Sys2Proof.Machine
end

