-- ==== Sys2Proof/Machine/Matrix.lean ====
section
/-! DEFINITION. The X-class commands (R343 to R345, R355 to R365, R370, R371), the end of a k-step (R351, R364), the
matrix arbiter's decision (R369) and the completion of a matrix command (R355). -/

namespace Sys2Proof.Machine

/-! ### Commands at issue -/

/-- Ends a command at once with an error token (R355). -/
def State.mxFail (s : State) (rd : Reg) (reason : Nat) : State := s.retireReg rd (mxToken true false reason 0) 1

/-- MXON (R343). -/
def State.mxon (s : State) (rd ra : Reg) : State :=
  let v := s.x ra
  let st := s.mxonStatus s.focus v
  let s := s.performLoads s.focus
  (if st = 0 then s.mxTurnOn s.focus v else s).retireReg rd (BitVec.ofNat 64 st) 1

/-- MXOFF (R345). -/
def State.mxoff (s : State) (rd : Reg) : State :=
  match s.cur.mx with
  | none => (s.performLoads s.focus).retireReg rd 1#64 1
  | some a =>
    if a.idle then ((((s.performLoads s.focus).mxAccrue s.focus).mxDiscard s.focus)).retireReg rd 0#64 1 else s

/-- Accepts a command other than a run: it has its token register from now on (R356). -/
def State.mxAccept (s : State) (a : Array2) (c : MxCmd) : State :=
  ((s.performLoads s.focus).setMx s.focus { a with cmd := some c }).modCur fun l => (l.block c.rd).advance 1

/-- MXWL (R358). -/
def State.mxwl (s : State) (rd ra rb : Reg) (fmt : BitVec 4) : State :=
  if !mxFmtOk fmt.toNat then s.illop (.mxwl rd ra rb fmt)
  else
    match s.cur.mx with
    | none => s.mxFail rd 8
    | some a =>
      let free := a.idle || (a.cmd.isNone && a.snapq.isNone && (match a.run with | some r => r.last | none => false))
      if free then s.mxAccept a { kind := .wl fmt, rd := rd, a := s.x ra, b := s.x rb, held := none, fin := false, wants := none } else s

/-- MXOUT (R361). -/
def State.mxout (s : State) (rd ra rb : Reg) (fmt : BitVec 4) : State :=
  if !decide (fmt.toNat < 4 ∨ fmt.toNat = 12) then s.illop (.mxout rd ra rb fmt)
  else
    match s.cur.mx with
    | none => s.mxFail rd 8
    | some a =>
      if a.idle then s.mxAccept a { kind := .out fmt, rd := rd, a := s.x ra, b := s.x rb, held := none, fin := false, wants := none } else s

/-- A run starts waiting for a grant (R369). -/
def State.startWait (s : State) (lead : Nat) : State :=
  let s := s.modLan lead fun l =>
    { l with mx := l.mx.map fun a =>
        { a with run := a.run.map fun r => { r with waiting := true, since := s.tick, level := l.mxPrio } } }
  s.arbDue (lanDie lead)

/-- MXRUN (R359). -/
def State.mxrun (s : State) (rd ra rb : Reg) : State :=
  let va := s.x ra
  let n := s.x rb
  if va.toNat % 64 ≠ 0 then s.trap cALIGN va
  else
    match s.cur.mx with
    | none => s.mxFail rd 8
    | some a =>
      if !a.idle then s
      else
        ((s.performLoads s.focus).readVirt va 64 1).finish fun d s =>
          if descBad d ∨ 2 ^ 32 ≤ n.toNat then s.mxFail rd 10
          else if n.toNat = 0 then s.retireReg rd 0#64 1
          else
            let run := { MxRun.fresh d n.toNat 0 rd with loaded := a.shv, fed := a.shv }
            let a := { (if a.shv then a.swap else a) with run := some run, shv := false, slow := false, lastM := mxM d }
            ((s.setMx s.focus a).startWait s.focus).modCur fun l => (l.block rd).advance 1

/-- What a matrix status register reads (R360). -/
def Array2.status (a : Array2) (k : Nat) : Word :=
  match k with
  | 0 => BitVec.ofNat 64 (1 + (if a.run.isSome then 2 else 0) + (if a.shv then 4 else 0) + (if a.slow then 8 else 0))
  | 1 => a.mxovf
  | 2 => a.mxks
  | 3 => (match a.run with | some r => BitVec.ofNat 64 (r.n - r.done) | none => 0#64)
  | 4 => shapeWord a.row0 a.col0 a.r a.c
  | _ => a.flags.setWidth 64

/-- MXPRM (R360). -/
def State.mxprm (s : State) (c : Bool) (rd : Reg) (k : BitVec 32) : State :=
  if 6 ≤ k.toNat ∨ (c = true ∧ k.toNat ≠ 1) then s.illop (.mxprm c rd k)
  else
    let s := s.performLoads s.focus
    match s.cur.mx with
    | none => s.retireReg rd 0#64 1
    | some a => (if c then s.setMx s.focus { a with mxovf := 0#64 } else s).retireReg rd (a.status k.toNat) 1

/-- MXZERO (R362). -/
def State.mxzero (s : State) : State :=
  match s.cur.mx with
  | none => (s.performLoads s.focus).retire 1
  | some a =>
    if a.idle then ((s.performLoads s.focus).setMx s.focus { a with acc := [], mxks := 0#64, shv := false }).retire 1 else s

/-- Stops the run at its boundary (R364): it stays in `susp`, its token carries SUSP unless a PRE stops it (R367). -/
def State.suspendRun (s : State) (lead : Nat) (token : Bool) : State :=
  match (s.lan lead).mx with
  | none => s
  | some a =>
    match a.run with
    | none => s
    | some r =>
      let s := (s.setMx lead { a with run := none, susp := some r.rest }).arbDue (lanDie lead)
      if token then s.writeToken lead r.rd (mxToken false true 0 r.done) else s

/-- Whether a run stands at a k-step boundary, at which a snapshot may stop it (R364): no block of its next k-step has
entered. A run that has consumed a weight set stands at one once the set's k-step is done, since an area holds no weights
(DEDUCED from R366). -/
def MxRun.atBoundary (r : MxRun) : Bool := !r.entered && !r.loaded

/-- The snapshot that waits takes the unit once no run is active (R364). -/
def State.startSnap (s : State) (lead : Nat) : State :=
  match (s.lan lead).mx with
  | none => s
  | some a =>
    match a.snapq with
    | some c => if a.run.isNone && a.cmd.isNone then s.setMx lead { a with snapq := none, cmd := some c, shv := false } else s
    | none => s

/-- Stops the run, if it stands at a boundary, for a snapshot that waits. -/
def State.trySnap (s : State) (lead : Nat) : State :=
  match (s.lan lead).mx with
  | none => s
  | some a =>
    match a.run with
    | some r => if a.snapq.isSome && r.atBoundary then (s.suspendRun lead true).startSnap lead else s
    | none => s.startSnap lead

/-- MXSNAP (R364). -/
def State.mxsnap (s : State) (rd ra : Reg) : State :=
  match s.cur.mx with
  | none => s.mxFail rd 8
  | some a =>
    if a.snapq.isNone && a.susp.isNone && (a.run.isSome || a.cmd.isNone) then
      if (s.x ra).toNat % 64 ≠ 0 then s.mxFail rd 10
      else
      let c : MxCmd := { kind := .snap, rd := rd, a := s.x ra, b := 0#64, held := none, fin := false, wants := none }
      let s := (s.performLoads s.focus).setMx s.focus { a with snapq := some c }
      (s.modCur fun l => (l.block rd).advance 1).trySnap s.focus
    else s

/-- MXREST (R365). -/
def State.mxrest (s : State) (rd ra : Reg) : State :=
  match s.cur.mx with
  | none => s.mxFail rd 8
  | some a => if a.idle then s.mxAccept a { kind := .rest, rd := rd, a := s.x ra, b := 0#64, held := none, fin := false, wants := none } else s

/-- The owner of a slot-table entry, where it has one (R368). -/
def slotOwner (v : Word) : Option Nat := if v.getLsbD 63 then some (v.extractLsb' 0 20).toNat else none

/-- The effective priority of a waiting run (R369). -/
def State.effPrio (s : State) (r : MxRun) : Nat := min 7 (r.level + (s.tick - r.since) / 65536)

/-- MXSLOT (R370). -/
def State.mxslot (s : State) (rd : Reg) : State :=
  let a := s.arb (lanDie s.focus)
  let ep := match s.cur.mx.bind fun x => x.run with
    | some r => if r.waiting then s.effPrio r else s.cur.mxPrio
    | none => s.cur.mxPrio
  let owned := (a.slots.filter fun e => decide (slotOwner e.2 = some (s.pasidOf s.focus))).length
  (s.performLoads s.focus).retireReg rd (BitVec.ofNat 64 (ep * 2 ^ 21 + (if a.smode then 2 ^ 20 else 0) + a.slotptr * 2 ^ 14 + owned)) 1

/-- MXPRIO (R370). -/
def State.mxprio (s : State) (rd : Reg) (level : BitVec 32) : State :=
  if 8 ≤ level.toNat then s.illop (.mxprio rd level)
  else
    let p := if s.cur.sup then level.toNat else min level.toNat (s.arb (lanDie s.focus)).pmax
    ((s.performLoads s.focus).modCur fun l => { l with mxPrio := p }).retireReg rd (BitVec.ofNat 64 p) 1

/-! ### The arbiter (R369) -/

/-- The regions of a die whose runs wait for a grant: lead, elements, the run. -/
def State.mxWaiting (s : State) (die : Nat) : List (Nat × Nat × MxRun) :=
  s.lans.filterMap fun e =>
    if lanDie e.1 = die then
      match e.2.mx with
      | some a =>
        (match a.run with
         | some r => if r.waiting then some (e.1, a.r * a.c, r) else none
         | none => none)
      | none => none
    else none

/-- The order of waiting runs: true where `p` is walked before `q`. -/
def State.mxBefore (s : State) (smode : Bool) (owner : Option Nat) (p q : Nat × Nat × MxRun) : Bool :=
  let rank (x : Nat × Nat × MxRun) : Nat :=
    if smode then (if owner = some (s.pasidOf x.1) then 0 else 1) else 7 - s.effPrio x.2.2
  decide (rank p < rank q) || (decide (rank p = rank q) && decide (p.2.2.since ≤ q.2.2.since))

/-- Grants the k-step that a run waits for: the next one, where one is still in the array (R369). -/
def MxRun.grant (r : MxRun) : MxRun := { r with waiting := false, granted := true, ahead := r.granted }

/-- Grants the waiting runs in order while they fit. -/
def State.mxGrant (s : State) : List (Nat × Nat × MxRun) → Nat → State
  | [], _ => s
  | (lead, need, _) :: rest, free =>
    if need ≤ free then
      State.mxGrant (s.modLan lead fun l => { l with mx := l.mx.map fun a => { a with run := a.run.map MxRun.grant } })
        rest (free - need)
    else s

/-- MATRIX_ARBITER_DECISION of a die (R369). -/
def State.arbDecide (s : State) (die : Nat) : State :=
  let b := s.arb die
  if !b.due then s
  else
    let owner := slotOwner (b.slots.get 0#64 b.slotptr)
    let ws := (s.mxWaiting die).mergeSort (s.mxBefore b.smode owner)
    let s := s.mxGrant ws (b.cap - s.mxHeld die)
    s.modArb die fun b => { b with due := false, slotptr := if b.smode then (b.slotptr + 1) % 64 else b.slotptr }

/-! ### K-steps (R347 to R351, R357, R359, R364, R369) -/

/-- The addresses of the weights of k-step `j`, column by column. -/
def Array2.weightAddrs (a : Array2) (d : List Byte) (j : Nat) : List Word :=
  ((List.range a.c).map fun c => (List.range a.r).map fun i => addrB d j i c).flatten
/-- The addresses of the activations of k-step `j`, row by row. -/
def Array2.rowAddrs (a : Array2) (d : List Byte) (j : Nat) : List Word :=
  ((List.range (mxM d)).map fun m => (List.range a.r).map fun i => addrA d m j i).flatten

/-- The feed loads the weights of k-step `j` of a run into the shadow of every element (R347, R349). -/
def State.feedShadow (s : State) (lead : Nat) (a : Array2) (r : MxRun) (j : Nat) : Feed (Tab Block) :=
  match s.mxReadAll lead r.held (blockSize (mxWfmt r.desc)) (a.weightAddrs r.desc j) with
  | .ok bs s => .ok (weightTab a.r a.c (groupsOf a.r a.c (bs.map (blockOf (mxWfmt r.desc))))) s
  | .wait va reason s => .wait va reason s
  | .err reason va s => .err reason va s

/-- The array once k-step `r.done` has its weights: those that are active already, or the ones that the feed loads now (R349). -/
def State.feedWeights (s : State) (lead : Nat) (a : Array2) (r : MxRun) : Feed Array2 :=
  if r.fed then .ok a s
  else
    match s.feedShadow lead a r r.done with
    | .ok w s => .ok { a with shadow := w }.swap s
    | .wait va reason s => .wait va reason s
    | .err reason va s => .err reason va s

/-- The weights and the activation rows of the k-step that a run is at. -/
def State.kstepBlocks (s : State) (lead : Nat) (a : Array2) (r : MxRun) : Feed (Array2 × List (List Block)) :=
  match s.feedWeights lead a r with
  | .wait va reason s => .wait va reason s
  | .err reason va s => .err reason va s
  | .ok a s =>
    match s.mxReadAll lead r.held (blockSize (mxAfmt r.desc)) (a.rowAddrs r.desc r.done) with
    | .wait va reason s => .wait va reason s
    | .err reason va s => .err reason va s
    | .ok bs s => .ok (a, groupsOf a.r (mxM r.desc) (bs.map (blockOf (mxAfmt r.desc)))) s

/-- The feed loads the weights of the next k-step into the shadow while this one runs, where they can be read now (R347,
R349); else it loads them before that k-step starts. -/
def State.feedAhead (s : State) (lead : Nat) : State :=
  match (s.lan lead).mx with
  | none => s
  | some a =>
    match a.run with
    | none => s
    | some r =>
      if r.done + 1 = r.n then s
      else
        match s.feedShadow lead a r (r.done + 1) with
        | .ok w s => s.setMx lead { a with shadow := w, run := some { r with ready := true } }
        | _ => s

/-- Ends the run with a token; a decision of the arbiter is due, and a waiting snapshot takes the unit. -/
def State.endRun (s : State) (lead : Nat) (rd : Reg) (v : Word) : State :=
  let s := s.modLan lead fun l => { l with mx := l.mx.map fun a => { a with run := none } }
  ((s.arbDue (lanDie lead)).writeToken lead rd v).startSnap lead

/-- The blocks of a granted k-step enter the array and are summed; with its last block in, the run starts waiting for the
next one (R348, R351, R369). -/
def State.kstepEnter (s : State) (lead : Nat) (a : Array2) (r : MxRun) : State :=
  if heldWaits r.held then s
  else
    match s.kstepBlocks lead a r with
    | .ok (a, rows) s =>
      let s := s.setMx lead { a.enterRows rows with run := some { r with fed := true, entered := true, held := none } }
      (if r.done + 1 = r.n then s else s.startWait lead).feedAhead lead
    | .wait va reason s =>
      if reason = xlCut then s
      else
      let m := heldNext r.held s.tick va
      let s := s.feedLog lead kXLATE (some m) va (reason + 6 * 16)
      (s.setMx lead { a with run := some { r with held := some m } }).trySnap lead
    | .err reason va s =>
      let s := s.endRun lead r.rd (mxToken true false reason r.done)
      if reason = 4 then (s.feedLog lead kPOISON none va 2).askAbort lead true else s

/-- A run whose k-step has ended: it goes on with the next one where it has been granted, with the weights that the shadow
holds swapped in (R349, R369). -/
def MxRun.next (r : MxRun) : MxRun :=
  { r with done := r.done + 1, granted := r.ahead, ahead := false, loaded := false, fed := r.ready, entered := false,
           ready := false }

/-- A granted k-step ends: its count, its scheduled promotion, and the end of the run, its stop for a snapshot or a PRE,
or its next k-step (R351, R359, R364, R367). A decision of the arbiter is due (R369). -/
def State.kstepFinish (s : State) (lead : Nat) (a : Array2) (r : MxRun) : State :=
  let a := (if r.ready then a.swap else a).countKstep (mxP r.desc)
  let r := r.next
  let s := (s.setMx lead { a with run := some r }).arbDue (lanDie lead)
  if r.done = r.n then s.endRun lead r.rd (mxToken false false 0 r.n)
  else if a.snapq.isSome then (s.suspendRun lead true).startSnap lead
  else if a.stop then s.suspendRun lead false
  else s

/-- KSTEP_END of a region: its granted k-step enters the array, or ends. -/
def State.kstepEnd (s : State) (lead : Nat) : State :=
  match (s.lan lead).mx with
  | none => s
  | some a =>
    match a.run with
    | none => s
    | some r => if !r.granted then s else if r.entered then s.kstepFinish lead a r else s.kstepEnter lead a r

/-! ### The completion of a command (R355) -/

/-- Ends a region's command with its token. -/
def State.endCmd (s : State) (lead : Nat) (c : MxCmd) (v : Word) : State :=
  let s := s.modLan lead fun l => { l with mx := l.mx.map fun a => { a with cmd := none } }
  (s.writeToken lead c.rd v).startSnap lead

/-- A command's access that does not go through: it waits for its translation, or the command ends (R357). -/
def State.cmdFailed (s : State) (lead : Nat) (c : MxCmd) (acc : Nat) : Feed Unit → State
  | .ok _ s => s
  | .wait va reason s =>
    if reason = xlCut then s
    else
    let m := heldNext c.held s.tick va
    let s := s.feedLog lead kXLATE (some m) va (reason + acc * 16)
    s.modLan lead fun l => { l with mx := l.mx.map fun a => { a with cmd := some { c with held := some m } } }
  | .err reason va s =>
    let s := s.endCmd lead c (mxToken true false reason 0)
    if reason = 4 then s.feedLog lead kPOISON none va 2 else s

/-- MXWL's load of its weight set (R358). -/
def State.finishWl (s : State) (lead : Nat) (a : Array2) (c : MxCmd) (f : Nat) : State :=
  let addr (i j : Nat) : Word := c.a + BitVec.ofNat 64 i * c.b + BitVec.ofNat 64 (j * blockSize f)
  let aa := ((List.range a.c).map fun j => (List.range a.r).map fun i => addr i j).flatten
  match s.mxReadAll lead (c.held) (blockSize f) aa with
  | .wait va reason s => s.cmdFailed lead c 6 (.wait va reason s)
  | .err reason va s => s.cmdFailed lead c 6 (.err reason va s)
  | .ok bs s =>
    let cols := groupsOf a.r a.c (bs.map (blockOf f))
    let cols := if f = 11 then unifyColumns cols else cols
    (s.setMx lead { a with shadow := weightTab a.r a.c cols, shv := true }).endCmd lead c
      (mxToken false false 0 (a.r * a.c * blockSize f))

/-- Places of a list of writes, one behind the other. -/
def State.writesAt (s : State) (lead : Nat) (held : Option Miss) :
    List (Word × List Byte) → Feed (List (List (Nat × Nat × PaKind × Bool) × List Byte))
  | [] => .ok [] s
  | (va, bs) :: rest =>
    match s.mxPlaces lead held true va bs.length with
    | .wait a reason s => .wait a reason s
    | .err reason a s => .err reason a s
    | .ok ps s =>
      match State.writesAt s lead held rest with
      | .ok more s => .ok ((ps, bs) :: more) s
      | .wait a reason s => .wait a reason s
      | .err reason a s => .err reason a s

/-- Performs a command's writes, staged in a staged segment (R252); `none` where a staging entry is wanting (R254). -/
def State.performWrites (s : State) (lead : Nat) (ws : List (List (Nat × Nat × PaKind × Bool) × List Byte)) : Option State :=
  if (s.stagedSet lead).isSome then
    ws.foldl (fun acc w => acc.bind fun s => s.stagePieces lead w.1 w.2) (some s)
  else some (ws.foldl (fun s w => s.writePieces lead 0 w.1 w.2) s)

/-- Changes the command of a region's array. -/
def State.modCmd (s : State) (lead : Nat) (f : MxCmd → MxCmd) : State :=
  s.modLan lead fun l => { l with mx := l.mx.map fun a => { a with cmd := a.cmd.map f } }

/-- Performs a command's writes and ends it with `ok`, once the posted ones are performed (R356). A write that finds no staging
entry waits (R254). -/
def State.afterWrites (s : State) (lead : Nat) (c : MxCmd) (ps : List (List (Nat × Nat × PaKind × Bool) × List Byte))
    (ok : State → State) : State :=
  if c.fin then (if s.postsDue then s else ok s)
  else
    match s.performWrites lead ps with
    | some s => if s.postsDue then s.modCmd lead fun c => { c with fin := true } else ok s
    | none =>
      let full := ps.findSome? fun p => p.1.findSome? fun e => s.stageBlock lead e.1 (List.replicate e.2.1 0#8)
      s.modCmd lead fun c => { c with wants := full }

/-- A command that writes: it ends with `ok` once its writes are performed. Writes that find no staging entry wait
(R254). -/
def State.finishWrites (s : State) (lead : Nat) (c : MxCmd) (ws : List (Word × List Byte)) (ok : State → State) : State :=
  match s.writesAt lead (c.held) ws with
  | .wait va reason s => s.cmdFailed lead c 7 (.wait va reason s)
  | .err reason va s => s.cmdFailed lead c 7 (.err reason va s)
  | .ok ps s => s.afterWrites lead c ps ok

/-- MXOUT (R361): promotes, converts, writes, accrues. -/
def State.finishOut (s : State) (lead : Nat) (a : Array2) (c : MxCmd) (f : Nat) : State :=
  let a := a.promoteAll
  let size := fmtSize f
  let cells := ((List.range a.lastM).map fun m => (List.range a.c).map fun j =>
    (c.a + BitVec.ofNat 64 m * c.b + BitVec.ofNat 64 (j * size), storeBytes f false rne (.w (a.accAt m j).wacc))).flatten
  let fl := cells.foldl (fun acc x => acc ||| x.2.flags) a.flags
  (s.setMx lead a).finishWrites lead c (cells.map fun x => (x.1, x.2.val)) fun s =>
    ((s.setMx lead { a with flags := fl }).mxAccrue lead).endCmd lead c (mxToken false false 0 (a.lastM * a.c * size))

/-- MXSNAP's write of its area (R364). -/
def State.finishSnap (s : State) (lead : Nat) (a : Array2) (c : MxCmd) : State :=
  let area := a.area (s.lan lead).mxPrio
  let off := { a with susp := none }
  let parts := (List.range (area.length / 8)).map fun i => (c.a + BitVec.ofNat 64 (8 * i), (area.drop (8 * i)).take 8)
  match s.writesAt lead (c.held) parts with
  | .err reason va s => s.cmdFailed lead c 7 (.err reason va (s.setMx lead off))
  | .wait va reason s => s.cmdFailed lead c 7 (.wait va reason s)
  | .ok ps s =>
    s.afterWrites lead c ps fun s => (s.setMx lead off).endCmd lead c (mxToken false false 0 area.length)

/-- MXREST's read of its area (R365). -/
def State.finishRest (s : State) (lead : Nat) (a : Array2) (c : MxCmd) : State :=
  let fail (reason : Nat) (s : State) : State := s.endCmd lead c (mxToken true false reason 0)
  if c.a.toNat % 64 ≠ 0 then fail 10 s
  else
    match s.mxReadAll lead c.held 64 [c.a, c.a + 64#64] with
    | .wait va reason s => s.cmdFailed lead c 6 (.wait va reason s)
    | .err reason va s => s.cmdFailed lead c 6 (.err reason va s)
    | .ok hs s =>
      let h := hs.flatten
      if areaHeadBad h then fail 10 s
      else
        let (_, _, r, cols) := shapeOf (BitVec.ofNat 64 (fieldAt h 8 8))
        match s.mxReadAll lead c.held 24 ((List.range (32 * cols)).map fun i => c.a + BitVec.ofNat 64 (128 + 24 * i)) with
        | .wait va reason s => s.cmdFailed lead c 6 (.wait va reason s)
        | .err reason va s => s.cmdFailed lead c 6 (.err reason va s)
        | .ok accs s =>
          if accs.any accBad then fail 10 s
          else if r ≠ a.r ∨ cols ≠ a.c then fail 9 s
          else
            let a := { a.restore h accs c.rd with cmd := none }
            let s := s.modLan lead fun l => { l with mx := some a, mxPrio := fieldAt h 6 1 }
            if a.run.isSome then s.startWait lead else s.writeToken lead c.rd 0#64

/-- MATRIX_COMMAND_COMPLETE of a region. -/
def State.mxComplete (s : State) (lead : Nat) : State :=
  match (s.lan lead).mx with
  | none => s
  | some a =>
    match a.cmd with
    | none => s
    | some c =>
      if heldWaits c.held then s
      else
        match c.kind with
        | .wl f => s.finishWl lead a c f.toNat
        | .out f => s.finishOut lead a c f.toNat
        | .snap => s.finishSnap lead a c
        | .rest => s.finishRest lead a c

/-! ### Meanings -/

/-- MXON (R343). -/
def execMxon (rd ra : Reg) (s : State) : Out := .next (s.mxon rd ra)
/-- MXOFF (R345). -/
def execMxoff (rd : Reg) (s : State) : Out := .next (s.mxoff rd)
/-- MXWL (R358). -/
def execMxwl (rd ra rb : Reg) (fmt : BitVec 4) (s : State) : Out := .next (s.mxwl rd ra rb fmt)
/-- MXRUN (R359). -/
def execMxrun (rd ra rb : Reg) (s : State) : Out := .next (s.mxrun rd ra rb)
/-- MXPRM (R360). -/
def execMxprm (c : Bool) (rd : Reg) (k : BitVec 32) (s : State) : Out := .next (s.mxprm c rd k)
/-- MXOUT (R361). -/
def execMxout (rd ra rb : Reg) (fmt : BitVec 4) (s : State) : Out := .next (s.mxout rd ra rb fmt)
/-- MXZERO (R362). -/
def execMxzero (s : State) : Out := .next s.mxzero
/-- MXSNAP (R364). -/
def execMxsnap (rd ra : Reg) (s : State) : Out := .next (s.mxsnap rd ra)
/-- MXREST (R365). -/
def execMxrest (rd ra : Reg) (s : State) : Out := .next (s.mxrest rd ra)
/-- MXSLOT (R370). -/
def execMxslot (rd : Reg) (s : State) : Out := .next (s.mxslot rd)
/-- MXPRIO (R370). -/
def execMxprio (rd : Reg) (level : BitVec 32) (s : State) : Out := .next (s.mxprio rd level)
/-- MATRIX_ARBITER_DECISION (R369). -/
def execMatrixArbiterDecision (die : Nat) (s : State) : Out := .next (s.arbDecide die)
/-- KSTEP_END (R351). -/
def execKstepEnd (lan : Nat) (s : State) : Out := .next (s.kstepEnd lan)
/-- MATRIX_COMMAND_COMPLETE (R355). -/
def execMatrixCommandComplete (lan : Nat) (s : State) : Out := .next (s.mxComplete lan)

end Sys2Proof.Machine
end

