-- ==== Sys2Proof/Machine/Region.lean ====
section
/-! DEFINITION. A region's work as a whole: letting it go (R141, R142, R392), what a save area holds of it (R142, R290,
R367) and putting it back, possibly into another region (R144, R233, R365, R372). -/

namespace Sys2Proof.Machine

/-! ### Letting a region go -/

/-- The Lanterns of the clusters that a region covers. -/
def State.regionLans (s : State) (lead : Nat) : List Nat :=
  let l := s.lan lead
  ((List.range l.regH).map fun j => (List.range l.regW).map fun i => lead + j * 7 + i).flatten

/-- An element with its contexts and its tokens gone. -/
def Element.cleared (e : Element) : Element := { Element.empty with gated := e.gated }

/-- Whether a request that waits at an engine came from a region: from its elements or its ports. -/
def State.waitOf (s : State) (lead : Nat) (w : SyncWait) : Bool :=
  match w.who with
  | .lan _ _ => false
  | .port p => s.inRegion lead (portTile p)
  | .slot _ r => s.inRegion lead (elTile r.el)

/-- A tile without the requests and bank accesses of some clients. -/
def Tile.without (x : Tile) (elGone : Nat → Bool) (portsGone : Bool) : Tile :=
  let ids := (x.reqs.filter fun r => elGone r.el).map (·.id)
  let gone (src client : Nat) : Bool := (decide (src = 0) && ids.contains client) || (portsGone && decide (1 ≤ src ∧ src ≤ 4))
  { x with reqs := x.reqs.filter (fun r => !elGone r.el), bankq := x.bankq.filter (fun q => !gone q.src q.client || q.store),
           bankd := x.bankd.filter fun d => !gone d.src d.client }

/-- Closes every window of a region's tiles (R280). -/
def State.closeWins (s : State) (lead : Nat) : State :=
  s.tiles.foldl (fun s t =>
    if s.inRegion lead t.1 then t.2.wins.foldl (fun s w => s.closeWin t.1 w.1) s else s) s

/-- Takes every window of a region's tiles away with its entries, which an area holds. -/
def State.dropWins (s : State) (lead : Nat) : State :=
  { s with tiles := s.tiles.map fun t =>
      if s.inRegion lead t.1 then (t.1, { t.2.keepEnts (fun v => !t.2.inWindow v) with wins := [] }) else t }

/-- Releases the contexts of a region: its elements, tokens, tag spaces, ports, requests and configurations are gone. A
store that has gone to a bank is performed. Windows close, unless an area holds them. -/
def State.clearRegion (s : State) (lead : Nat) (saved : Bool := false) : State :=
  let s := if saved then s.dropWins lead else s.closeWins lead
  let here (t : Nat) : Bool := s.inRegion lead t
  let s : State := { s with
    syncs := s.syncs.map fun y => (y.1, { y.2 with waits := y.2.waits.filter fun w => !s.waitOf lead w }),
    tiles := s.tiles.map fun t => (t.1, t.2.without (fun el => here (elTile el)) (here t.1)),
    elems := s.elems.map (fun e => if here (elTile e.1) then (e.1, e.2.cleared) else e),
    ports := s.ports.map fun p =>
      if here (portTile p.1) then (p.1, { Port.reset with matrix := p.2.matrix }) else p,
    portSnaps := s.portSnaps.filter fun p => !here (portTile p.1) }
  let s := (s.regionLans lead).foldl (fun s k => s.modLan k fun l => if l.ovfl.isEmpty then l else { l with ovfl := [] }) s
  s.modLan lead fun l => { l with cfgs := [], spaces := [], draining := false, prePend := false, cut := none }

/-! ### Moving names from one region to another -/

/-- From the region at tile (`ox`, `oy`) of die `od`, `w` by `h` tiles, to the one at (`nx`, `ny`) of die `nd`. -/
structure Reloc where
  od : Nat
  ox : Nat
  oy : Nat
  w  : Nat
  h  : Nat
  nd : Nat
  nx : Nat
  ny : Nat
  deriving DecidableEq, Repr

/-- A tile of the old region in the new one; any other tile is itself. -/
def Reloc.tile (m : Reloc) (t : Nat) : Nat :=
  if tileDie t = m.od ∧ m.ox ≤ tileX t ∧ tileX t < m.ox + m.w ∧ m.oy ≤ tileY t ∧ tileY t < m.oy + m.h then
    tileOf m.nd (tileX t - m.ox + m.nx) (tileY t - m.oy + m.ny)
  else t
/-- An element. -/
def Reloc.el (m : Reloc) (e : Nat) : Nat := elOf (m.tile (elTile e)) (elNum e)
/-- A port. -/
def Reloc.port (m : Reloc) (p : Nat) : Nat := portOf (m.tile (portTile p)) (portNum p)
/-- A channel (R168). -/
def Reloc.chan (m : Reloc) (c : Nat) : Nat :=
  let s := c / 2
  2 * (if s < 2 ^ 32 then m.el s else 2 ^ 32 + m.port (s - 2 ^ 32)) + c % 2
/-- A destination (R25). -/
def Reloc.dest (m : Reloc) (d : Dest) : Dest :=
  if routable d then
    let t := m.tile (dstTile d)
    mkDest (tileDie t) (tileX t) (tileY t) (dstEl d) (dstSlot d).toNat (dstPort d).toNat
  else d
/-- A tag: spaces of the old region's die are the new one's. -/
def Reloc.tag (m : Reloc) (t : Tag) : Tag :=
  if tagDie t = m.od then mkTag m.nd (tagCtx t) (tagSpace t) (tagIter t) else t
/-- A token. -/
def Reloc.token (m : Reloc) (t : Token) : Token := { t with tag := m.tag t.tag }
/-- An arrival. -/
def Reloc.arrival (m : Reloc) (a : Arrival) : Arrival := { a with tok := m.token a.tok, src := m.chan (2 * a.src) / 2, old := false, logged := false }
/-- A stored entry. -/
def Reloc.entry (m : Reloc) (e : MatchEntry) : MatchEntry :=
  { e with tok := m.token e.tok, dest := if e.kind = 1#2 then m.dest e.dest else e.dest, owner := m.el e.owner }
/-- An operand set. -/
def Reloc.set (m : Reloc) (o : OpSet) : OpSet :=
  { o with tag := m.tag o.tag, data := o.data.map fun d => (d.1, m.token d.2) }
/-- An element's own state; its contexts carry no marks. -/
def Reloc.core (m : Reloc) (inch : List (Nat × Nat)) (e : ElemCore) : ElemCore :=
  { e with
    store := e.store.map (fun x => (x.1, m.entry x.2)), ready := e.ready.map m.set,
    waits := e.waits.map (fun w => { w with set := m.set w.set }),
    heldOut := e.heldOut.map (fun x => { x with dest := m.dest x.dest, tok := m.token x.tok }), busy := [],
    ctxs := e.ctxs.map fun c =>
      (c.1, { c.2 with marked := false, flags := 0#5, mrem := (inch.filter fun p => decide (p.1 = c.1)).length }) }
/-- A tag-space entry. -/
def Reloc.space (m : Reloc) (e : SpaceEntry) : SpaceEntry := { e with parent := e.parent.map m.tag, ret := e.ret.map m.dest }

/-! ### What an area holds -/

/-- The local-memory bytes of a lead Lantern outside its fault ring. -/
def State.localCells (s : State) (lead : Nat) : List Host.Cell :=
  let base := lanPa lead 1 0
  let l := s.lan lead
  s.mem.filterMap fun c =>
    if base ≤ c.1 ∧ c.1 < base + 0x10000 ∧ l.inRing (c.1 - base) = false then some (c.1 - base, c.2) else none

/-- The unread records of a ring, and those held for a full one, as bytes, and whether each was raised for a
configuration. -/
def State.unreadBytes (s : State) (lead : Nat) : List (List Byte × Bool) :=
  let l := s.lan lead
  let n := (l.tail.toNat + l.ringSize - l.head.toNat % l.ringSize) % l.ringSize
  (List.range n).map (fun i =>
      let p := (l.head.toNat + i) % l.ringSize
      (s.mem.bytes (lanPa lead 1 (l.ringBase + 32 * p)) 32, l.fqCfg.contains p))
    ++ l.heldRecs.map fun r => (r.toBytes, r.cfg)

/-- ORs the flags of a region's contexts into FPFLAGS, as when PRE saves them (R93). -/
def State.accrueCtxs (s : State) (lead : Nat) : State :=
  let els := s.elems.filter fun e => s.inRegion lead (elTile e.1)
  let fl := els.foldl (fun f e => e.2.core.ctxs.foldl (fun f c => f ||| c.2.flags) f) 0#5
  let fl := (s.lan lead).cfgs.foldl (fun f x => f ||| x.flags) fl
  let s := els.foldl (fun s e => s.modCore e.1 fun x => { x with ctxs := x.ctxs.map fun c => (c.1, { c.2 with flags := 0#5 }) }) s
  (s.accrue lead fl).modLan lead fun l => { l with cfgs := l.cfgs.map fun x => { x with flags := 0#5 } }

/-- The array as an area keeps it (R363, R372): its flags have been accrued, and FLAGS is 0. M of the last run is kept beside
the area's bytes (DEDUCED, log entry 80). -/
def Array2.saved (a : Array2) (prio : Nat) : SavedMx :=
  { row0 := a.row0, col0 := a.col0, r := a.r, c := a.c, acc := a.acc, mxks := a.mxks, mxovf := a.mxovf, flags := 0#5,
    prio := prio, slow := a.slow, lastM := a.lastM, run := a.susp }

/-- Everything of a region that an area holds. `rd` is PRE's register, which the resumed code finds 0; `marker` takes the
snapshots. -/
def State.gather (s : State) (lead : Nat) (marker : Bool) (rd : Reg) (lanst : Option (List Word)) : Saved :=
  let l := s.lan lead
  let here (t : Nat) : Bool := s.inRegion lead t
  let els := s.elems.filter fun e => here (elTile e.1)
  let ports := s.ports.filter fun p => here (portTile p.1)
  let cut := (if marker then l.cut else none).getD { spaces := l.spaces, cfgs := l.cfgs }
  { hdr := [], body := 0, origin := lead, w := l.regW, h := l.regH, regs := l.regs.del rd.toNat, fpmode := l.fpmode,
    fpflags := l.fpflags, ring := (l.ringBase, 32 * l.ringSize), local_ := s.localCells lead, cfgs := cut.cfgs,
    spaces := cut.spaces, waits := l.waits, phsw := l.phsw,
    ports := ports.map (fun p =>
      match marker, s.portSnaps.find p.1 with
      | true, some q => (p.1, { q with inq := p.2.recd, recd := [], cutWins := [] })
      | _, _ => (p.1, { p.2 with inq := [], recd := [] })),
    wins := (ports.map fun p =>
      match marker, s.portSnaps.find p.1 with
      | true, some q => q.cutWins
      | _, _ => s.portWins p.1).flatten,
    elems := els.map (fun e => (e.1, if marker then e.2.snap.getD e.2.core else e.2.core)),
    inch := els.map (fun e => (e.1, e.2.inch)),
    chans := if marker then els.map (fun e => (e.1, e.2.recd)) else [],
    ovfl := if marker then (els.map fun e => e.2.snapOv).flatten
      else ((s.regionLans lead).map fun k => (s.lan k).ovfl).flatten,
    reqs := if marker then (s.tiles.map fun t => (t.2.reqs.filter fun r => r.old && here (elTile r.el)).map fun r => (t.1, r)).flatten
      else [],
    recs := if marker then s.unreadBytes lead else [],
    mx := l.mx.map fun a => a.saved l.mxPrio, lanst := lanst }

/-! ### Putting it back (R144) -/

/-- The record that 32 bytes stand for (R226); `cfg` says that it was raised for a configuration. -/
def Record.ofBytes (bs : List Byte) (cfg : Bool) : Record :=
  let w : Word := BitVec.ofNat 64 (fieldAt bs 0 8)
  { rep := fieldAt bs 6 2, spec := w.getLsbD 41, wait := w.getLsbD 40, unit := w.extractLsb' 37 3, ctx := w.extractLsb' 34 3,
    slot := w.extractLsb' 29 5, el := w.extractLsb' 25 4, y := w.extractLsb' 18 7, x := w.extractLsb' 12 6,
    die := w.extractLsb' 8 4, kind := w.extractLsb' 0 8, tag := BitVec.ofNat 36 (fieldAt bs 8 8),
    addr := BitVec.ofNat 64 (fieldAt bs 16 8), info := BitVec.ofNat 32 (fieldAt bs 24 4),
    tick := BitVec.ofNat 32 (fieldAt bs 28 4), cfg := cfg }

/-- From the region of an area to the one led by `lead`. -/
def State.relocOf (s : State) (v : Saved) (lead : Nat) : Reloc :=
  let b := s.box lead
  { od := lanDie v.origin, ox := 8 * clX (lanCl v.origin), oy := 8 * clY (lanCl v.origin), w := 8 * v.w, h := 8 * v.h,
    nd := lanDie lead, nx := b.1, ny := b.2.1 }

/-- A saved port in its new region: its program's extents are the Beacon's, and a stream's translation stays only where
the extent it came from is unchanged (R290). -/
def Reloc.portState (m : Reloc) (lead : Nat) (exts : Tab Extent) (matrix : Bool) (q : Port) : Port :=
  let prog (g : Prog) : Prog := { g with lan := lead, xheld := none }
  let keep (tr : Option TrEnt) : Option TrEnt :=
    match tr with
    | some e => (match e.ext with
      | some k => if (q.ext.find k).isSome ∧ q.ext.find k = exts.find k then some e else none
      | none => none)
    | none => none
  let st (r : StreamReq) : StreamReq :=
    match r.st with
    | .xlate => { r with st := .new }
    | .bank => { r with st := .new }
    | _ => r
  { q with
    prog := q.prog.map prog, pend := q.pend.map prog, hs := q.hs.map (fun h => (h.1, { h.2 with tr := keep h.2.tr })),
    ext := exts, outq := q.outq.map st, inq := q.inq.map m.arrival, stopped := false, matrix := matrix, recd := [],
    inch := q.inch.map m.chan, marked := [] }

/-- A tile with a window of an area and its entries; `none` where the buffer has no room for them (R250, R279). -/
def Tile.putWin (x : Tile) (m : Reloc) (k : Nat) (win : Win) (vs : List VEnt) : Option Tile :=
  if x.freeEnts < win.ent then none
  else
    vs.foldl (fun acc v => acc.bind fun x => x.addEnt v)
      (some { x with wins := x.wins.put k { win with port := m.port win.port } })

/-- Restores the windows of an area; `none` where a tile has no room (DEDUCED from R279, log entry 70). -/
def State.putWins (s : State) (m : Reloc) (ws : List (Nat × Nat × Win × List VEnt)) : Option State :=
  ws.foldl (fun acc w =>
    acc.bind fun s => ((s.tile (m.tile w.1)).putWin m w.2.1 w.2.2.1 w.2.2.2).map fun x => s.modTile (m.tile w.1) fun _ => x) (some s)

/-- Restores the requests of an area, as if a REPLAY had come (R233). -/
def State.putReqs (s : State) (m : Reloc) (rs : List (Nat × EReq)) : State :=
  rs.foldl (fun s r =>
    s.modTile (m.tile r.1) fun x =>
      { x with nextId := x.nextId + 1,
               reqs := x.reqs ++ [{ r.2 with id := x.nextId, el := m.el r.2.el, tag := m.tag r.2.tag, b := m.token r.2.b,
                                             c := m.token r.2.c, st := .new, old := false }] }) s

/-- Restores the elements of an area and reinjects the recorded tokens of their channels. -/
def State.putElems (s : State) (m : Reloc) (v : Saved) : State :=
  let s := v.elems.foldl (fun s e =>
    let inch := (v.inch.get [] e.1).map fun p => (p.1, m.chan p.2)
    s.modEl (m.el e.1) fun x => { x with core := m.core inch e.2, inch := inch }) s
  let s := v.ovfl.foldl (fun s x =>
    let x := m.entry x
    s.modLan (tileLan (elTile x.owner)) fun l => { l with ovfl := l.ovfl ++ [x] }) s
  v.chans.foldl (fun s c => c.2.foldl (fun s a => s.putLink (m.el c.1) 4 (m.arrival a)) s) s

/-- Restores the ports of an area; a program that waits for a phase waits again. -/
def State.putPorts (s : State) (m : Reloc) (lead : Nat) (ps : Tab Port) : State :=
  let exts := s.extentsOf lead
  ps.foldl (fun s p =>
    let k := m.port p.1
    let q := m.portState lead exts (s.port k).matrix p.2
    let s := s.modPort k fun _ => q
    match q.prog.bind fun g => g.waitPh with
    | some (key, sig) =>
      s.modSync (key / 2 ^ 32) fun y =>
        { y with waits := y.waits ++ [{ who := .port k, what := .phase sig, addr := key % 2 ^ 32 }] }
    | none => s) s

/-- Restores the array of an area and resumes its run (R365, R367, R372). -/
def State.putMx (s : State) (lead : Nat) (v : SavedMx) : State :=
  let s := s.mxTurnOn lead (shapeWord v.row0 v.col0 v.r v.c)
  let run := v.run.map MxRun.rest
  let s := s.modLan lead fun l =>
    { l with mxPrio := v.prio, mx := l.mx.map fun a =>
        { a with acc := v.acc, mxks := v.mxks, mxovf := v.mxovf, flags := v.flags, slow := v.slow, lastM := v.lastM, run := run } }
  match run with
  | some r => (s.startWait lead).modLan lead fun l => l.block r.rd
  | none => s

/-- Restores the local memory outside the rings. -/
def State.putLocal (s : State) (lead : Nat) (v : Saved) : State :=
  let l := s.lan lead
  let base := lanPa lead 1 0
  let skip (off : Nat) : Bool := l.inRing off || decide (v.ring.1 ≤ off ∧ off < v.ring.1 + v.ring.2)
  let kept := s.mem.filter fun c => !(decide (base ≤ c.1 ∧ c.1 < base + 0x10000) && !skip (c.1 - base))
  let s := { s with mem := kept }
  { s with mem := v.local_.foldl (fun m c => if skip c.1 then m else m.write (base + c.1) c.2) s.mem }

/-- Restores an area into the region led by `lead`; the Lantern goes on at `pc`. A load that is still under way and has
read uncorrectable data stays pending as DPOISON (R129). -/
def State.restore (s : State) (lead : Nat) (v : Saved) (pc : Word) : State :=
  let m := s.relocOf v lead
  let copies := (s.chans.filter fun c => decide (c.2.lan = lead ∧ c.2.rd ≠ 0#5)).map fun c => c.2.rd
  let s := s.putLocal lead v
  let s := s.modLan lead fun l =>
    let l := { l with
      regs := v.regs, fpmode := v.fpmode, fpflags := v.fpflags, cfgs := v.cfgs, waits := v.waits, sb := copies, loads := [],
      dpoi := l.dpoi <|> (l.loads.find? fun p => p.data.any (·.2)).map fun p => (p.va, p.at_),
      spaces := v.spaces.map (fun e => (e.1, m.space e.2)), pc := pc, prev := l.pc, came := .seq, xheld := none, stWait := none,
      phsw := v.phsw }
    match v.lanst with
    | some [st, epc, ec, ev, em, rf, rn] =>
      { l with status := st, epc := epc, ecause := ec, evalr := ev, emicro := em, retFirst := rf, retNext := rn }
    | _ => l
  let s := (s.putElems m v).putPorts m lead v.ports
  let s := (s.putWins m v.wins).getD s
  let s := s.putReqs m v.reqs
  let s := v.recs.foldl (fun s b => s.toQueue lead (Record.ofBytes b.1 b.2)) s
  match v.mx with
  | some a => s.putMx lead a
  | none => s

end Sys2Proof.Machine
end

