-- ==== Sys2Proof/Machine/Sha.lean ====
section
/-! DEFINITION. SHA-512, which the spec names without giving it: the digest of FIPS 180-4 (PRESUMED, log entry 34). -/

namespace Sys2Proof.Machine

/-- The number below 2^k, built from its highest bit, whose `p`-th power does not exceed `n`. -/
def rootBits (p n : Nat) : Nat → Nat → Nat
  | 0, acc => acc
  | k + 1, acc => rootBits p n k (if (acc + 2 ^ k) ^ p ≤ n then acc + 2 ^ k else acc)

/-- The first 80 primes. -/
def shaPrimes : List Nat :=
  ((List.range 410).filter fun n => decide (2 ≤ n) && (List.range 21).all fun d => decide (d < 2 ∨ n % d ≠ 0 ∨ n = d))

/-- The first 64 bits of the fractional part of the cube roots of the first 80 primes. -/
def shaK : List Word := shaPrimes.map fun p => BitVec.ofNat 64 (rootBits 3 (p * 2 ^ 192) 68 0)

/-- The first 64 bits of the fractional part of the square roots of the first 8 primes. -/
def shaInit : List Word := (shaPrimes.take 8).map fun p => BitVec.ofNat 64 (rootBits 2 (p * 2 ^ 128) 68 0)

/-- The number that bytes stand for, highest byte first. -/
def beNat (bs : List Byte) : Nat := bs.foldl (fun acc b => acc * 256 + b.toNat) 0

/-- The `n` bytes of a number, highest byte first. -/
def beBytes : Nat → Nat → List Byte
  | 0, _ => []
  | n + 1, v => beBytes n (v / 256) ++ [BitVec.ofNat 8 v]

/-- The message with its padding. -/
def shaPad (m : List Byte) : List Byte :=
  m ++ [0x80#8] ++ List.replicate ((239 - m.length % 128) % 128) 0#8 ++ beBytes 16 (8 * m.length)

/-- The message schedule, newest word first. -/
def shaSchedule : Nat → List Word → List Word
  | 0, ws => ws
  | n + 1, ws =>
    let w (i : Nat) : Word := ws.getD i 0#64
    let s0 := (w 14).rotateRight 1 ^^^ (w 14).rotateRight 8 ^^^ (w 14) >>> 7
    let s1 := (w 1).rotateRight 19 ^^^ (w 1).rotateRight 61 ^^^ (w 1) >>> 6
    shaSchedule n ((s1 + w 6 + s0 + w 15) :: ws)

/-- One round on the eight working words. -/
def shaRound (v : List Word) (kw : Word × Word) : List Word :=
  let x (i : Nat) : Word := v.getD i 0#64
  let s1 := (x 4).rotateRight 14 ^^^ (x 4).rotateRight 18 ^^^ (x 4).rotateRight 41
  let ch := (x 4 &&& x 5) ^^^ (~~~(x 4) &&& x 6)
  let t1 := x 7 + s1 + ch + kw.1 + kw.2
  let s0 := (x 0).rotateRight 28 ^^^ (x 0).rotateRight 34 ^^^ (x 0).rotateRight 39
  let maj := (x 0 &&& x 1) ^^^ (x 0 &&& x 2) ^^^ (x 1 &&& x 2)
  [t1 + s0 + maj, x 0, x 1, x 2, x 3 + t1, x 4, x 5, x 6]

/-- One block. -/
def shaBlock (h : List Word) (b : List Byte) : List Word :=
  let ws := (List.range 16).map fun i => BitVec.ofNat 64 (beNat ((b.drop (8 * i)).take 8))
  let sched := (shaSchedule 64 ws.reverse).reverse
  let v := (shaK.zip sched).foldl shaRound h
  (h.zip v).map fun p => p.1 + p.2

/-- The blocks of a padded message, one after the other. -/
def shaBlocks : Nat → List Word → List Byte → List Word
  | 0, h, _ => h
  | n + 1, h, m => shaBlocks n (shaBlock h (m.take 128)) (m.drop 128)

/-- SHA-512 of some bytes: 64 bytes. -/
def sha512 (m : List Byte) : List Byte :=
  let p := shaPad m
  (shaBlocks (p.length / 128) shaInit p).flatMap fun w => beBytes 8 w.toNat

end Sys2Proof.Machine
end

