-- ==== Sys2Proof/Machine/Preempt.lean ====
section
/-! DEFINITION. PRE and RSM (R142 to R145, R168, R233, R290, R367, R372), and the drain that a Beacon's pre-emption
shares with PRE (R386). -/

namespace Sys2Proof.Machine

/-! ### Stopping a region -/

/-- Asks the array's run to stop at its next boundary; one that stands at a boundary stops at once (R367). -/
def State.stopRun (s : State) (lead : Nat) : State :=
  match (s.lan lead).mx with
  | none => s
  | some a =>
    let s := s.setMx lead { a with stop := true }
    match a.run with
    | some r => if r.atBoundary && a.snapq.isNone then s.suspendRun lead false else s
    | none => s

/-- Starts a drain: the region's ports stop admitting tokens (R142 step 2, R290). -/
def State.beginDrain (s : State) (lead : Nat) : State :=
  let s := s.modLan lead fun l => { l with draining := true }
  { s with ports := s.ports.map fun p => if s.inRegion lead (portTile p.1) then (p.1, { p.2 with stopped := true }) else p }

/-- The elements that some channels lead to, directly or through others, from the ports. -/
def markReach (cs : List (Nat × Dest)) : Nat → List Nat → List Nat
  | 0, es => es
  | n + 1, es =>
    markReach cs n (es ++ (cs.filterMap fun c =>
      if c.1 / 2 ∈ es then some (elOf (dstTile c.2) (dstEl c.2)) else none)).eraseDups

/-- Starts a marker snapshot (R142 step 3, R168, R290): the sources are the ports that feed channels and the elements that no
port's markers reach. -/
def State.beginMarker (s : State) (lead : Nat) : State :=
  let k := (s.lan lead).snapNo + 1#32
  let s := s.modLan lead fun l => { l with snapNo := k, prePend := true, draining := true, cut := some { spaces := l.spaces, cfgs := l.cfgs } }
  let cs := s.regionChans lead
  let ports := ((cs.filterMap fun c => if 2 ^ 32 ≤ c.1 / 2 then some (c.1 / 2 - 2 ^ 32) else none)).eraseDups
  let first := (cs.filterMap fun c => if 2 ^ 32 ≤ c.1 / 2 then some (elOf (dstTile c.2) (dstEl c.2)) else none).eraseDups
  let els := (s.elems.filter fun e => s.inRegion lead (elTile e.1) && !e.2.core.ctxs.isEmpty).map (·.1)
  let reached := markReach cs els.length first
  let s := ports.foldl (fun s p => (s.snapPort p).sendMarks lead (portTile p) (2 ^ 32 + p) k) s
  let idle := (s.ports.filter fun p => s.inRegion lead (portTile p.1) && p.2.inch.isEmpty && p.2.prog.isSome).map (·.1)
  let s := idle.foldl (fun s p => s.snapPort p) s
  els.foldl (fun s e => if reached.contains e then s else s.snapshot e k) s

/-- Starts the stop that a PRE asks for, once. -/
def State.beginPre (s : State) (lead : Nat) (marker : Bool) : State :=
  let s := if marker then (if (s.lan lead).prePend then s else s.beginMarker lead) else s.beginDrain lead
  s.stopRun lead

/-! ### When a region may be saved -/

/-- Whether an output element of a port has still to be pushed: one of an unfinished unified group waits for elements not
yet issued. -/
def Port.mustPush (q : Port) (count : Handle → Nat) : Bool :=
  q.outq.any fun r =>
    match q.hs.find r.h with
    | some x => !x.input && ((groupOf x (count x) r.n).all fun n => decide (n < x.pos))
    | none => false

/-- Whether a drained region is quiet: no token, no waiting translation, nothing to push (R142, R233). -/
def State.drained (s : State) (lead : Nat) : Bool :=
  (s.regionTags lead).isEmpty && s.ports.all fun p =>
    !s.inRegion lead (portTile p.1) ||
      (match p.2.prog with
       | some g =>
         !p.2.mustPush (s.countOf g) && g.xheld.isNone && !(p.2.outq.any fun r => decide (r.st = .xlate)) && s.portDrained p.1
       | none => true)

/-- Whether every marker of a snapshot has come, and no request made before it is under way (R168). -/
def State.snapshotDone (s : State) (lead : Nat) : Bool :=
  (s.elems.all fun e =>
    !s.inRegion lead (elTile e.1) || e.2.core.ctxs.isEmpty
      || (e.2.snap.isSome && e.2.inch.all fun c => e.2.marked.contains c.2))
  && (s.ports.all fun p =>
    !s.inRegion lead (portTile p.1) || p.2.prog.isNone
      || ((s.portSnaps.find p.1).isSome && p.2.inch.all fun c => p.2.marked.contains c))
  && s.tiles.all fun t => t.2.reqs.all fun r =>
    !(r.old && s.inRegion lead (elTile r.el)) || decide (r.st ≠ .new ∧ r.st ≠ .bank ∧ r.st ≠ .done ∧ r.st ≠ .reply)

/-- Whether the matrix unit is at rest, its run suspended or ended. -/
def Lantern.mxQuiet (l : Lantern) : Bool :=
  match l.mx with
  | none => true
  | some a => a.run.isNone && a.cmd.isNone && a.snapq.isNone

/-- Whether a region may be saved. -/
def State.preReady (s : State) (lead : Nat) (marker : Bool) : Bool :=
  (if marker then s.snapshotDone lead else s.drained lead) && (s.lan lead).mxQuiet

/-- Whether a Lantern's copies and loads have completed (R142 step 1). -/
def State.ownQuiet (s : State) (lead : Nat) : Bool :=
  !(s.chans.any fun c => decide (c.2.lan = lead)) && !s.loadsOut lead

/-! ### The save area (R142, R143) -/

/-- Bytes that a save area needs at most (R142). -/
def areaBound (marker : Bool) (clusters : Nat) : Nat :=
  0x10000 + 0x4000 * clusters + (if marker then 0x200000 else 0)

/-- Bytes of the body of save area `n`, within that bound (R143, log entry 14). -/
def bodyLen (marker : Bool) (clusters n : Nat) : Nat := 8 + Config.savePad n % (areaBound marker clusters - 71)

/-- The body of save area `n`, which belongs to the part (R143, log entry 14): a mark that tells the area from every
other, then bytes that nothing fixes. -/
def bodyBytes (n len : Nat) : List Byte :=
  leBytes 8 (Config.saveMark ^^^ BitVec.ofNat 64 n).toNat ++ (List.range (len - 8)).map fun i => Config.saveByte n i

/-- The header of a save area (R143). -/
def areaHeader (size kind snap ncfg : Nat) (pc segid : Word) (check : List Byte) : List Byte :=
  leBytes 4 size ++ leBytes 1 kind ++ leBytes 1 4 ++ leBytes 2 0 ++ leBytes 4 snap ++ leBytes 4 ncfg ++ leBytes 8 pc.toNat
    ++ leBytes 8 segid.toNat ++ check ++ leBytes 24 0

/-- The save area of a region that may be saved: its contents and its bytes. -/
def State.buildArea (s : State) (lead : Nat) (marker : Bool) (pc : Word) (rd : Reg) (lanst : Option (List Word)) :
    Saved × List Byte :=
  let n := s.saves.length
  let l := s.lan lead
  let len := bodyLen marker (l.regW * l.regH) n
  let body := bodyBytes n len
  let hdr := areaHeader (64 + len) (if marker then 1 else 0) (if marker then l.snapNo.toNat else 0) l.cfgs.length pc l.segid
    ((sha512 body).take 8)
  ({ s.gather lead marker rd lanst with hdr := hdr, body := len }, hdr ++ body)

/-- Keeps the contents of a save area that has been written. -/
def State.keepArea (s : State) (v : Saved) : State := { s with saves := s.saves.put s.saves.length v }

/-- The contents of the save area with these bytes. -/
def State.areaOf (s : State) (hdr body : List Byte) : Option Saved :=
  (s.saves.find? fun e => decide (e.2.hdr = hdr ∧ bodyBytes e.1 e.2.body = body)).map (·.2)

/-- Whether a header fails its test (R143, R144). -/
def headerBad (h : List Byte) : Bool :=
  decide (fieldAt h 0 4 < 64) || decide (areaBound true 98 < fieldAt h 0 4) || decide (1 < fieldAt h 4 1)
    || decide (fieldAt h 5 1 ≠ 4) || decide (fieldAt h 6 2 ≠ 0) || decide (fieldAt h 0x28 24 ≠ 0)
    || (decide (fieldAt h 4 1 = 0) && decide (fieldAt h 8 4 ≠ 0))

/-- Lets a saved region go: its contexts are released, its array is off (R142 step 5, R372), and a request that its
Lantern has at an engine is withdrawn (R308). -/
def State.releaseSaved (s : State) (lead : Nat) : State := ((s.mxDiscard lead).withdraw lead).clearRegion lead true

/-! ### PRE and RSM -/

/-- PRE (R142). -/
def State.pre (s : State) (marker : Bool) (rd ra : Reg) : State :=
  let va := s.x ra
  let k := s.focus
  if va.toNat % 4096 ≠ 0 then s.trap cALIGN va
  else if !s.ownQuiet k then s
  else
    let s := s.beginPre k marker
    if !s.preReady k marker then s
    else
      let s := (s.accrueCtxs k).mxAccrue k
      let a := s.buildArea k marker (afterParcels s.cur.pc 1) rd none
      (s.writeVirt va a.2 1).finish fun _ s =>
        (((s.keepArea a.1).releaseSaved k).retireReg rd (BitVec.ofNat 64 a.2.length) 1).tracePreempt k (if marker then 1 else 0)
          (if marker then s.cur.snapNo else 0#32)

/-- Whether a region is too small for the configurations of an area (R144). -/
def State.tooSmall (s : State) (lead : Nat) (v : Saved) : Bool :=
  let l := s.lan lead
  v.cfgs.any fun x => decide (8 * l.regW < x.img.width ∨ 8 * l.regH < x.img.height)

/-- Whether MXON would refuse the array of an area (R372). -/
def State.mxRefused (s : State) (lead : Nat) (v : Saved) : Bool :=
  match v.mx with
  | some a => decide (s.mxonStatus lead (shapeWord a.row0 a.col0 a.r a.c) ≠ 0)
  | none => false

/-- Whether MXREST would refuse a saved array with REASON 10 (R365, R372). -/
def Saved.mxBad (v : Saved) : Bool := v.mx.any fun a => a.acc.any fun e => !e.2.v && decide (e.2.nacc ≠ 0)

/-- Whether a region's tiles have room for a saved area's windows. -/
def State.winsFit (s : State) (k : Nat) (v : Saved) : Bool := ((s.dropWins k).putWins (s.relocOf v k) v.wins).isSome

/-- RSM (R144, R145). It waits while an armed configuration of the region runs, and for the entries of its windows. -/
def State.rsm (s : State) (ra : Reg) : State :=
  let va := s.x ra
  let k := s.focus
  ((s.performLoads k).readVirt va 64 1).finish fun h s =>
    if headerBad h then s.cfgbad va
    else
      (s.readVirt (va + 64#64) (fieldAt h 0 4 - 64) 1).finish fun body s =>
        if (sha512 body).take 8 ≠ (h.drop 0x20).take 8 then s.cfgbad va
        else
          match s.areaOf h body with
          | none => s.cfgbad va
          | some v =>
            if v.mxBad then s.cfgbad va
            else if s.tooSmall k v then s.cfgbad 0xFFFFFFFFFFFFFFFC#64
            else if s.mxRefused k v then s.cfgbad 0xFFFFFFFFFFFFFFFB#64
            else if (s.cur.cfgs.any fun x => x.armed && !x.done) || !s.winsFit k v then s
            else
              ((s.clearRegion k).restore k v (BitVec.ofNat 64 (fieldAt h 0x10 8))).tracePreempt k 2
                (BitVec.ofNat 32 (fieldAt h 8 4))

/-- PRE #0 (R142). -/
def execPreDrain (rd ra : Reg) (s : State) : Out := .next (s.pre false rd ra)
/-- PRE #1 (R142). -/
def execPreMarker (rd ra : Reg) (s : State) : Out := .next (s.pre true rd ra)
/-- RSM (R144). -/
def execRsm (ra : Reg) (s : State) : Out := .next (s.rsm ra)

end Sys2Proof.Machine
end

