-- ==== Sys2Proof/Machine/BeaconUnit.lean ====
section
/-! DEFINITION. The Beacon's tables and their transitions (R374 to R396): descriptors, choice order, fitting, extents,
dispatch, retirement, pruning, abort, resolution and commit. -/

namespace Sys2Proof.Machine

/-! ### Names and descriptors (R374 to R378) -/

/-- The segment that an identifier names: die, entry, contents. -/
def State.segAt (s : State) (id : Word) : Option (Nat × Nat × Seg) :=
  let die := id.toNat / 2 ^ 12 % 16
  let idx := id.toNat % 4096
  match (s.beacon die).segs.find idx with
  | some g => if segIdent die idx g.serial = id then some (die, idx, g) else none
  | none => none

/-- Every segment in the pending tables: die, entry, contents. -/
def State.allSegs (s : State) : List (Nat × Nat × Seg) :=
  (s.beacons.map fun b => b.2.segs.map fun e => (b.1, e.1, e.2)).flatten

/-- The range that a range entry declares (R375): first page, pages, ACC. -/
def rangeOf (v : Nat) : Nat × Nat × BitVec 2 := (v % 2 ^ 36, v / 2 ^ 36 % 2 ^ 26 + 1, BitVec.ofNat 2 (v / 2 ^ 62))

/-- NRANGE of a descriptor. -/
def descRanges (bs : List Byte) : Nat := fieldAt bs 0 8 / 2 ^ 52 % 32
/-- XRANGE of a descriptor, as an address. -/
def descTable (bs : List Byte) : Nat := fieldAt bs 0x18 8 % 2 ^ 41 * 128
/-- Entries of the extra range table that a descriptor asks for. -/
def descExtra (bs : List Byte) : Nat :=
  if 4 < descRanges bs ∧ descRanges bs ≤ 16 ∧ descTable bs ≠ 0 then descRanges bs - 4 else 0

/-- A descriptor (R374) with its extra range table. -/
def descOf (bs extra : List Byte) : SegDesc :=
  let d0 := fieldAt bs 0 8
  let d1 := fieldAt bs 8 8
  let n := descRanges bs
  let inl := (List.range (min n 4)).map fun i => rangeOf (fieldAt bs (0x20 + 8 * i) 8)
  let ext := (List.range (n - 4)).map fun i => rangeOf (fieldAt extra (8 * i) 8)
  { wm1 := d0 / 2 ^ 61, hm1 := d0 / 2 ^ 57 % 16, cluster := d0 / 2 ^ 45 % 128, die := d0 / 2 ^ 41 % 16,
    entry := BitVec.ofNat 64 (d0 % 2 ^ 41 * 128), like := d1 / 2 ^ 48, stack := BitVec.ofNat 64 (d1 % 2 ^ 48),
    deadline := BitVec.ofNat 64 (fieldAt bs 0x10 8), budget := fieldAt bs 0x18 8 / 2 ^ 41, ranges := inl ++ ext }

/-- Whether a rectangle of `w` by `h` clusters from cluster `o` lies in the grid (R20). -/
def inGrid (o w h : Nat) : Bool := decide (o < 98 ∧ clX o + w ≤ 7 ∧ clY o + h ≤ 14)

/-- Whether a descriptor is malformed (R376). -/
def segDescBad (bs : List Byte) (d : SegDesc) (clMax : Option Nat) : Bool :=
  decide (8 ≤ d.die ∧ d.die ≤ 14) || decide (98 ≤ d.cluster ∧ d.cluster ≤ 126) || decide (d.budget = 0)
    || decide (d.stack.toNat % 16 ≠ 0) || decide (16 < descRanges bs) || decide (4 < descRanges bs ∧ descTable bs = 0)
    || (d.ranges.any fun r => decide (r.2.2 = 0#2) || decide (2 ^ 36 ≤ r.1 + r.2.1 - 1))
    || ((List.range 4).any fun i => decide (descRanges bs ≤ i) && decide (fieldAt bs (0x20 + 8 * i) 8 ≠ 0))
    || !(if d.cluster = 127 then inGrid 0 (d.wm1 + 1) (d.hm1 + 1) else inGrid d.cluster (d.wm1 + 1) (d.hm1 + 1))
    || (match clMax with
        | some n => decide (n < (d.wm1 + 1) * (d.hm1 + 1))
        | none => false)

/-! ### Choice order (R381) -/

/-- Whether a segment is committed. -/
def Seg.committed (g : Seg) : Bool := decide (g.st = .pendc ∨ g.st = .runc)
/-- Whether a segment waits for a region. -/
def Seg.waiting (g : Seg) : Bool := decide (g.st = .pendc ∨ g.st = .pends)
/-- Whether a segment is speculative. -/
def Seg.isSpec (g : Seg) : Bool := !g.committed

/-- The cumulative cost of factors (R389). -/
def costSum (fs : List Factor) : Nat := min (fs.foldl (fun acc f => acc + f.cost) 0) 0xFFFF

/-- Whether segment `a` comes before segment `b` in choice order. -/
def Seg.before (a b : Seg) : Bool :=
  if a.committed && b.committed then
    decide (a.deadline.toNat < b.deadline.toNat ∨ (a.deadline = b.deadline ∧ a.serial < b.serial))
  else if a.committed then true
  else if b.committed then false
  else decide (a.cost < b.cost ∨ (a.cost = b.cost ∧ a.serial < b.serial))

/-- Puts a segment into a list in choice order. -/
def insertSeg (e : Nat × Seg) : List (Nat × Seg) → List (Nat × Seg)
  | [] => [e]
  | x :: r => if e.2.before x.2 then e :: x :: r else x :: insertSeg e r

/-- The waiting segments of a die in choice order. -/
def State.waitingSegs (s : State) (die : Nat) : List (Nat × Seg) :=
  ((s.beacon die).segs.filter fun e => e.2.waiting).foldl (fun acc e => insertSeg e acc) []

/-! ### Fitting (R39, R381, R433) -/

/-- Whether a cluster of a die is free, where the region led by `gone` counts as freed. -/
def State.clusterFree (s : State) (die : Nat) (gone : Option Nat) (c : Nat) : Bool :=
  !(s.beacon die).fenced.contains c && !(s.beacon die).fencing.contains c &&
    (match s.leadOf (lanOf die c) with
     | none => true
     | some k => decide (gone = some k))

/-- Clusters of a rectangle. -/
def rectOf (o w h : Nat) : List Nat := ((List.range h).map fun j => (List.range w).map fun i => o + 7 * j + i).flatten

/-- Whether a segment fits at an origin of its die. -/
def State.fitsAt (s : State) (die : Nat) (g : Seg) (gone : Option Nat) (o : Nat) : Bool :=
  let w := g.desc.wm1 + 1
  let h := g.desc.hm1 + 1
  decide (g.desc.cluster = 127 ∨ g.desc.cluster = o) && inGrid o w h && (rectOf o w h).all (s.clusterFree die gone)
    && (match (s.hub.launches.find g.launch).bind (·.regMax) with
        | none => true
        | some m => decide (((s.beacon die).segs.filter fun e =>
            decide (e.2.launch = g.launch) && e.2.origin.isSome && decide (e.2.origin ≠ gone)).length < m))

/-- Where a segment fits: the least origin (R381). -/
def State.fit (s : State) (die : Nat) (g : Seg) (gone : Option Nat) : Option Nat := lowest 98 (s.fitsAt die g gone)

/-- Whether some waiting segment that would fit the region of a resident one comes before it (R386, R405). -/
def State.beaten (s : State) (die : Nat) (g : Seg) : Bool :=
  (s.waitingSegs die).any fun e => e.2.before g && (s.fit die e.2 g.origin).isSome

/-! ### Extents (R380) -/

/-- Whether a page goes on from an extent, but for its R and W. -/
def Extent.joins (y e : Extent) : Bool :=
  decide (y.len < 0xFFFF ∧ e.pbase = y.pbase + y.len + 1 ∧ e.c = y.c ∧ e.tso = y.tso)

/-- The extents of `n` pages from page `vp`, after those of `xs`; `prev` are R and W of the page before in the range. -/
def rangePages (die pasid : Nat) (acc : BitVec 2) :
    Nat → Nat → Option (Bool × Bool) → List Extent → State → List Extent × State
  | 0, _, _, xs, s => (xs, s)
  | n + 1, vp, prev, xs, s =>
    match s.walk die pasid (vp * 4096) with
    | (none, s) => (xs, s)
    | (some l, s) =>
      let e : Extent := { len := 0, vbase := vp, pbase := l.pa / 4096, c := l.c, tso := l.tso, w := l.w && acc.getLsbD 1,
                          r := l.r && acc.getLsbD 0 }
      let fresh : Option (List Extent) := if xs.length < 16 then some (xs ++ [e]) else none
      let next : Option (List Extent) :=
        match prev, xs.getLast? with
        | some p, some y => if p = (l.r, l.w) ∧ y.joins e = true then some (xs.dropLast ++ [{ y with len := y.len + 1 }]) else fresh
        | _, _ => fresh
      match next with
      | some ys => rangePages die pasid acc n (vp + 1) (some (l.r, l.w)) ys s
      | none => (xs, s)

/-- The extents of a segment's ranges (R380). -/
def State.extents (s : State) (die pasid : Nat) (rs : List (Nat × Nat × BitVec 2)) : Tab Extent × State :=
  let r := rs.foldl (fun (acc : List Extent × State) r => rangePages die pasid r.2.2 r.2.1 r.1 none acc.1 acc.2) ([], s)
  (r.1.mapIdx fun i e => (i, e), r.2)

/-- Whether the walks of a segment's ranges meet an edge that holds its traffic: its dispatch waits (R43). -/
def State.rangesCut (s : State) (die : Nat) (g : Seg) : Bool :=
  !s.edges.isEmpty && g.desc.ranges.any fun r => (List.range r.2.1).any fun i => s.walkCut die g.pasid ((r.1 + i) * 4096)

/-! ### Placement requests (R383) -/

/-- Drops the placement request of an entry. -/
def State.dropPlace (s : State) (die idx : Nat) : State :=
  s.modHub fun h => { h with placeReq := h.placeReq.filter fun r => decide (¬(r.die = die ∧ r.idx = idx)) }

/-- Whether the placement of an entry has been asked of the host. -/
def State.placeAsked (s : State) (die idx : Nat) : Bool := s.hub.placeReq.any fun r => decide (r.die = die ∧ r.idx = idx)

/-- Sends the placement request of a waiting segment: its identifier and its shape. -/
def State.askPlace (s : State) (die idx : Nat) (g : Seg) : State :=
  if s.hub.placeReq.any fun r => decide (r.die = die ∧ r.idx = idx ∧ r.sent = true) then s
  else
    (s.dropPlace die idx).modHub fun h =>
      { h with placeReq := h.placeReq ++
          [{ die := die, idx := idx, segid := segIdent die idx g.serial, wm1 := g.desc.wm1, hm1 := g.desc.hm1, sent := true }] }

/-! ### Entry (R382, R385, R389) -/

/-- Cost of a likelihood code (R389): RNE(256 × −log2(p / 32768)). -/
def costOf (p : Nat) : Nat := 3840 - (Nat.log2 (p ^ 512) + 1) / 2

/-- The lowest free entry of a pending table. -/
def State.freeSeg (s : State) (die : Nat) : Option Nat := lowest 4096 fun i => ((s.beacon die).segs.find i).isNone

/-- Marks a die's Beacon for a dispatch decision (R381). -/
def State.decide_ (s : State) (die : Nat) : State := s.modBeacon die fun b => { b with due := true }

/-- Enters a segment into a die's table and draws its budget from its launch's pool (R385): its identifier. -/
def State.enterSeg (s : State) (die idx : Nat) (l : Launch) (d : SegDesc) (va : Word) (spec : Bool) (fs : List Factor)
    (parent : Option Word) : Word × State :=
  let serial := (s.beacon die).serial
  let draw := min (d.budget * 64) l.pool
  let g : Seg :=
    { st := if spec then .pends else .pendc, serial := serial, desc := d, descVa := va, launch := l.id, pasid := l.pasid,
      cost := costSum fs, factors := fs, parent := parent, deadline := d.deadline, budget := BitVec.ofNat 64 draw,
      requeues := 0, exts := [], origin := none, staged := false, set := none, stageAt := none, saveAt := none,
      heldSt := [], since := 0, preempt := false, yieldSup := false, heldRes := [], abortDue := none }
  let s := s.modBeacon die fun b => { b with segs := b.segs.put idx g, serial := (serial + 1) % 2 ^ 32, due := true }
  let s := s.modLaunch l.id fun l => { l with pool := l.pool - draw }
  (segIdent die idx serial, (s.ensureSlice l.id die).getD s)

/-- Whether a whole die is fenced: its Beacon enters nothing and its pulls wait (R433). -/
def Beacon.quarantined (b : Beacon) : Bool := (List.range 98).all fun c => b.fenced.contains c || b.fencing.contains c

/-! ### Freeing and stopping (R392, R396) -/

/-- Frees a segment's entry and returns its unspent budget (R385). -/
def State.freeEntry (s : State) (die idx : Nat) : State :=
  match (s.beacon die).segs.find idx with
  | none => s
  | some g =>
    let s := s.modLaunch g.launch fun l => { l with pool := l.pool + g.budget.toNat }
    let s := s.dropPlace die idx
    s.modBeacon die fun b =>
      { b with segs := b.segs.del idx, due := true, commits := b.commits.filter fun j => decide (j.idx ≠ idx) }

/-- Releases a resident segment's region: its Lantern goes idle and its budget count stops (R385). -/
def State.releaseRegion (s : State) (die idx : Nat) : State :=
  match ((s.beacon die).segs.find idx).bind (·.origin) with
  | none => s
  | some lead =>
    let b := (s.lan lead).budget
    let s := s.modLan lead fun l =>
      { l with st := .idle, sb := [], loads := [], dpoi := none, waits := [], phsw := none, xheld := none, stWait := none,
               cfgs := [], spaces := [] }
    let s := s.dropReplies lead
    (s.modSeg die idx fun g => { g with origin := none, budget := b, preempt := false, yieldSup := false }).decide_ die

/-- Stops a resident segment and discards its region's contexts, copies, requests and array (R330, R345, R392). -/
def State.stopRegion (s : State) (die idx : Nat) : State :=
  match ((s.beacon die).segs.find idx).bind (·.origin) with
  | none => s
  | some lead =>
    let s := s.withdraw lead
    let s := { s with chans := s.chans.filter fun c => !decide (c.2.lan = lead ∧ c.2.seg = (s.lan lead).segid) }
    ((s.mxDiscard lead).clearRegion lead).releaseRegion die idx

/-- Discards what a segment holds until commit: staged writes, held stores, held requests of the engines, held outcomes
(R214, R216, R253). -/
def State.discardHeld (s : State) (die idx : Nat) : State :=
  match (s.beacon die).segs.find idx with
  | none => s
  | some g =>
    let s := match g.set with
      | some k => s.dropSet k
      | none => s
    let s : State := { s with
      syncs := s.syncs.map fun y => (y.1, { y.2 with held := y.2.held.filter fun h => decide (h.seg ≠ segKey die idx) }) }
    s.modSeg die idx fun g => { g with heldSt := [], heldRes := [], set := none, stageAt := none, staged := false }

/-- Prunes one segment (R392). -/
def State.killSeg (s : State) (die idx : Nat) : State := ((s.stopRegion die idx).discardHeld die idx).freeEntry die idx

/-- The segments spawned by some segments, and by those, and so on. -/
def State.progeny (s : State) : Nat → List Word → List (Nat × Nat × Seg)
  | 0, _ => []
  | fuel + 1, ids =>
    let kids := s.allSegs.filter fun e => match e.2.2.parent with
      | some p => ids.contains p
      | none => false
    if kids.isEmpty then [] else kids ++ s.progeny fuel (kids.map fun e => segIdent e.1 e.2.1 e.2.2.serial)

/-- Prunes segments with everything they have spawned (R392); the count of segments pruned. -/
def State.prune (s : State) (ts : List (Nat × Nat × Seg)) : Nat × State :=
  let kids := s.progeny s.allSegs.length (ts.map fun e => segIdent e.1 e.2.1 e.2.2.serial)
  let names := ((kids ++ ts).map fun e => (e.1, e.2.1)).eraseDups
  (names.length, names.foldl (fun s e => s.killSeg e.1 e.2) s)

/-- Ends a launch with a status: every segment of it is pruned, its pulls end (R396, R425). -/
def State.endLaunch (s : State) (id status : Nat) : State :=
  let s := s.modLaunch id fun l =>
    { l with status := some (l.status.getD status), next := l.entries.length }
  let s := (s.prune (s.allSegs.filter fun e => decide (e.2.2.launch = id))).2
  { s with beacons := s.beacons.map fun b => (b.1, { b.2 with pulls := b.2.pulls.filter fun p => decide (p.launch ≠ id) }) }

/-- Aborts a segment (R396): its speculative children are pruned, and it is re-queued or ends its launch. -/
def State.abortSeg (s : State) (die idx : Nat) (requeue : Bool) : State :=
  match (s.beacon die).segs.find idx with
  | none => s
  | some g =>
    let me := segIdent die idx g.serial
    let kids := s.allSegs.filter fun e => decide (e.2.2.parent = some me) && e.2.2.isSpec
    let s := ((s.prune kids).2.stopRegion die idx).discardHeld die idx
    if requeue && g.staged && decide (g.requeues < 7) then
      (s.modSeg die idx fun x =>
        { x with st := if g.committed then .pendc else .pends, deadline := g.desc.deadline, requeues := g.requeues + 1,
                 exts := [], saveAt := none, preempt := false, yieldSup := false, abortDue := none }).decide_ die
    else (s.freeEntry die idx).endLaunch g.launch 4

/-! ### The predictor (R393) -/

/-- p of a site for a PASID, retagged if need be. -/
def Beacon.predOf (b : Beacon) (pasid site : Nat) : Nat :=
  match b.pred.find site with
  | some (p, some t) => if t = pasid then p.toNat else 16384
  | _ => 16384

/-- Sets p of a site for a PASID. -/
def State.setPred (s : State) (die pasid site p : Nat) : State :=
  s.modBeacon die fun b => { b with pred := b.pred.put site (BitVec.ofNat 16 p, some pasid) }

/-- p clamped to its range. -/
def clampP (p : Int) : Nat := (max 64 (min p 32704)).toNat

/-- p after an outcome. -/
def nextP (p : Nat) (taken : Bool) : Nat :=
  let d : Int := (if taken then 32768 else 0) - (p : Int)
  clampP (p + d / 8)

/-! ### Commit (R214, R216, R253, R379, R394) -/

/-- Performs at a region what its segment's staged stores held (R252): stores of elements and of stream ports. -/
def State.heldDone (s : State) (lead : Nat) : State :=
  let s := s.tiles.foldl (fun s t =>
    (t.2.reqs.filter fun r => decide (r.st = .held) && !r.op.isSync && s.inRegion lead (elTile r.el)).foldl
      (fun s r => s.storeDone t.1 r) s) s
  s.ports.foldl (fun s p =>
    if s.inRegion lead (portTile p.1) then
      (p.2.outq.filter fun r => decide (r.st = .held)).foldl (fun s r => s.markWritten p.1 r.h r.n) s
    else s) s

/-- Performs the engine requests of a segment that wait for its commit (R276), or, with `copy`, for the release of its
staged writes (R331). -/
def State.performHeld (s : State) (die idx : Nat) (copy : Bool) (lead : Option Nat) : State :=
  let hit (h : SyncHeld) : Bool := decide (h.seg = segKey die idx ∧ h.copy = copy)
  (List.range 8).foldl (fun s d =>
    let mine := (s.sync d).held.filter hit
    if mine.isEmpty then s
    else
      let s := s.modSync d fun y => { y with held := y.held.filter fun h => !hit h }
      mine.foldl (fun s h =>
        let r := if h.none_ then (s, some 0) else if h.copy then s.engCount d h.addr h.add else s.engPost d h.addr h.add
        match r.2 with
        | some reason => r.1.raise lead die { h.log with info := BitVec.ofNat 32 reason }
        | none => r.1) s) s

/-- Releases the commit at the head of a die's queue (R253, R394). -/
def State.releaseCommit (s : State) (die : Nat) : State :=
  match (s.beacon die).commits with
  | [] => s
  | j :: rest =>
    let s := s.modBeacon die fun b => { b with commits := rest }
    match (s.beacon die).segs.find j.idx with
    | none => s
    | some g =>
      let s := s.commitSet j.set g.origin g.heldSt
      let s := s.modSeg die j.idx fun g => { g with heldSt := [], stageAt := none }
      let s := match g.origin with
        | some lead => s.heldDone lead
        | none => s
      let s := s.performHeld die j.idx true g.origin
      if j.retire then s.freeEntry die j.idx else s

/-- Releases every commit that waits on a die, in order. -/
def State.releaseAll (s : State) (die : Nat) : State :=
  (List.range (s.beacon die).commits.length).foldl (fun s _ => s.releaseCommit die) s

/-- Puts a segment's commit in line, or retires it where nothing is staged (R379, R394). -/
def State.retire_ (s : State) (die idx : Nat) : State :=
  match (s.beacon die).segs.find idx with
  | none => s
  | some g =>
    match g.staged, g.set with
    | true, some k => s.modBeacon die fun b => { b with commits := b.commits ++ [{ set := k, idx := idx, retire := true }] }
    | _, _ => s.freeEntry die idx

/-- A segment commits: its last factor has resolved in its favour (R379, R391). -/
def State.commitState (s : State) (die idx : Nat) : State :=
  match (s.beacon die).segs.find idx with
  | none => s
  | some g =>
    let s := s.performHeld die idx false g.origin
    match g.st with
    | .pends => (s.modSeg die idx fun g => { g with st := .pendc }).decide_ die
    | .runs =>
      let s := s.modSeg die idx fun g => { g with st := .runc }
      (match g.origin with
       | some lead =>
         { s with tiles := s.tiles.map fun t =>
             (t.1, { t.2 with reqs := t.2.reqs.map fun r =>
               if r.st = .held ∧ r.op.isSync = true ∧ s.inRegion lead (elTile r.el) = true then { r with st := .new } else r }) }
       | none => s)
    | .ends => s.retire_ die idx
    | _ => s

/-- One resolution (R392): segments pruned, segments committed, and those committed by name. -/
def State.resolveOne (s : State) (die launch pasid site : Nat) (taken : Bool) : Nat × List (Nat × Seg) × State :=
  let hit (f : Factor) : Bool := decide (f.site = site)
  let open_ := (s.beacon die).segs.filter fun e => decide (e.2.launch = launch) && e.2.factors.any hit
  if open_.isEmpty then (0, [], s)
  else
    let s := s.setPred die pasid site (nextP ((s.beacon die).predOf pasid site) taken)
    let lose := open_.filter fun e => e.2.factors.any fun f => hit f && decide (f.side ≠ taken)
    let r := s.prune (lose.map fun e => (die, e.1, e.2))
    let left := open_.filter fun e => ((r.2.beacon die).segs.find e.1).isSome
    let s := left.foldl (fun s e =>
      let s := s.modSeg die e.1 fun g =>
        { g with factors := g.factors.filter (fun f => !hit f), cost := costSum (g.factors.filter fun f => !hit f) }
      match e.2.origin with
      | some lead => s.modLan lead fun l => { l with cost := BitVec.ofNat 64 (costSum (e.2.factors.filter fun f => !hit f)) }
      | none => s) r.2
    let done := left.filter fun e => (e.2.factors.filter fun f => !hit f).isEmpty
    (r.1, done, done.foldl (fun s e => s.commitState die e.1) s)

/-- A resolution and those that it sets free: a committed segment's held outcomes of CRES are resolved in turn (R216,
R392). `fuel` bounds them. -/
def State.resolveSites (s : State) (die launch pasid : Nat) : Nat → List (Nat × Bool) → Nat × Nat × State
  | 0, _ => (0, 0, s)
  | _, [] => (0, 0, s)
  | fuel + 1, (site, taken) :: rest =>
    let (p, done, s) := s.resolveOne die launch pasid site taken
    let more := (done.map fun e => e.2.heldRes).flatten
    let s := done.foldl (fun s e => s.modSeg die e.1 fun g => { g with heldRes := [] }) s
    let (_, _, s) := s.resolveSites die launch pasid fuel (more ++ rest)
    (p, done.length, s)

/-- Outcomes that a resolution can set free. -/
def State.resolveFuel (s : State) (die : Nat) : Nat :=
  1 + (s.beacon die).segs.foldl (fun acc e => acc + e.2.heldRes.length) 0

/-! ### Dispatch (R110, R381) -/

/-- REGION of a region (R113). -/
def regionWord (die o w h : Nat) : Word := BitVec.ofNat 64 (die * 2 ^ 24 + h * 2 ^ 16 + w * 2 ^ 8 + o)

/-- A lead Lantern at the start of its segment's entry function (R110, R124). -/
def Lantern.started (l : Lantern) (die o idx : Nat) (g : Seg) (rm : BitVec 2) : Lantern :=
  { l with
    st := .run, regs := [(1, endAddr), (2, g.desc.stack), (4, g.descVa)], pc := g.desc.entry + 8#64, prev := 0#64,
    came := .start, status := 4#64, emicro := 0#64, segid := segIdent die idx g.serial,
    region := regionWord die o (g.desc.wm1 + 1) (g.desc.hm1 + 1), deadln := g.deadline, budget := g.budget,
    cost := BitVec.ofNat 64 g.cost, head := l.tail, fpmode := rm.setWidth 64, fpflags := 0#64,
    launch := BitVec.ofNat 64 g.launch, pasid := g.pasid, loads := [], sb := [], dpoi := none, waits := [], phsw := none,
    cfgs := [], xheld := none, stWait := none, heldRecs := [], spaces := [], mx := none, mxPrio := 0, draining := false,
    prePend := false, cut := none }

/-- The bytes of a pre-empted segment's save area, read at its place in the pool (R143): header and body, where they pass
their tests. -/
def State.poolArea (s : State) (die : Nat) (at_ : Nat × Nat) : Option (List Byte × List Byte) :=
  let a := (s.beacon die).savebase + 4096 * at_.1
  let h := s.mem.bytes a 64
  if headerBad h || decide (4096 * at_.2 < fieldAt h 0 4) then none
  else
    let b := s.mem.bytes (a + 64) (fieldAt h 0 4 - 64)
    if s.hbmPoison a (fieldAt h 0 4) || decide ((sha512 b).take 8 ≠ (h.drop 0x20).take 8) then none else some (h, b)

/-- Puts a pre-empted segment back (R144, R386); a save area that fails its tests aborts the segment. -/
def State.resumeSeg (s : State) (die idx lead : Nat) (at_ : Nat × Nat) : State :=
  let area := (s.poolArea die at_).bind fun a => (s.areaOf a.1 a.2).map fun v => (v, BitVec.ofNat 64 (fieldAt a.1 0x10 8))
  let s := s.modSeg die idx fun g => { g with saveAt := none }
  match area.filter fun a => !a.1.mxBad with
  | none => s.abortSeg die idx true
  | some (v, pc) =>
    let s := s.restore lead v pc
    let s := if pc = endAddr then s.modLan lead fun l => { l with st := .ending } else s
    s.tracePreempt lead 2 0#32

/-- The packets of a dispatch: SYNC, then an INDIRECT of reason 4 (R474). -/
def State.traceStart (s : State) (lead : Nat) : State :=
  let l := s.lan lead
  if s.traced lead 0 then
    let s := (s.flushConds lead).packet lead 1 (BitVec.ofNat 64 (l.segid.toNat % 2 ^ 48 * 2 ^ 16 + s.tick / 2 ^ 48 % 2 ^ 16))
    s.traceIndirect lead 4 0 l.pc
  else s

/-- Dispatches a waiting segment to a region (R381). -/
def State.dispatch (s : State) (die idx o : Nat) : State :=
  match (s.beacon die).segs.find idx with
  | none => s
  | some g =>
    let lead := lanOf die o
    let l := s.hub.launches.find g.launch
    let spec := g.isSpec
    let staged := g.staged || spec || (match l with | some l => l.contained | none => false)
    let (exts, s) := s.extents die g.pasid g.desc.ranges
    let fresh := staged && g.set.isNone
    let g' : Seg :=
      { g with st := if spec then .runs else .runc, origin := some lead, since := s.tick, staged := staged, exts := exts,
               set := if fresh then some (segKey die idx) else g.set, stageAt := if fresh then some lead else g.stageAt,
               preempt := false, yieldSup := false }
    let s := s.modSeg die idx fun _ => g'
    let s := s.modLan lead fun k => k.started die o idx g' (match l with | some l => l.rm | none => 0#2)
    let s := s.dropPlace die idx
    let s := match g.saveAt with
      | some at_ => s.resumeSeg die idx lead at_
      | none => s
    if (s.resident lead).isSome then s.traceStart lead else s

/-! ### Pre-emption (R386, R387) -/

/-- Room for `n` pages in a die's save pool, beside the areas of other segments. -/
def State.poolRoom (s : State) (die n : Nat) : Option Nat :=
  let b := s.beacon die
  let taken := b.segs.filterMap fun e => e.2.saveAt
  let free (p : Nat) : Bool := decide (p + n ≤ b.savepg) && taken.all fun t => decide (p + n ≤ t.1 ∨ t.1 + t.2 ≤ p)
  (0 :: taken.map fun t => t.1 + t.2).find? free

/-- Starts the pre-emption of a resident segment by drain; `none` where the pool lacks room. -/
def State.startPreempt (s : State) (die idx : Nat) (sup : Bool) : Option State :=
  match (s.beacon die).segs.find idx with
  | none => none
  | some g =>
    match g.origin with
    | none => none
    | some lead =>
      let n := (areaBound false ((g.desc.wm1 + 1) * (g.desc.hm1 + 1)) + 4095) / 4096
      (s.poolRoom die n).map fun p =>
        ((s.withdraw lead).modSeg die idx fun g =>
          { g with preempt := true, yieldSup := sup, saveAt := some (p, n) }).beginPre lead false

/-- The resident speculative segment that gives way to a committed one (R387): of greatest cost, ties to the greater
SERIAL, whose region would fit it. -/
def State.givesWay (s : State) (die : Nat) (g : Seg) : Option Nat :=
  let cands := (s.beacon die).segs.filter fun e =>
    decide (e.2.st = .runs) && !e.2.preempt && e.2.origin.isSome && (s.fit die g e.2.origin).isSome
  (cands.foldl (fun (acc : Option (Nat × Seg)) e =>
    match acc with
    | none => some e
    | some y => if y.2.cost < e.2.cost ∨ (y.2.cost = e.2.cost ∧ y.2.serial < e.2.serial) then some e else acc) none).map (·.1)

/-- Goes on with the fences of a die: residents are pre-empted as the pool allows, and clusters that no region covers are
fenced (R433). -/
def State.fenceStep (s : State) (die : Nat) : State :=
  if (s.beacon die).fencing.isEmpty then s
  else
    let s := (s.beacon die).segs.foldl (fun s e =>
      match e.2.origin with
      | none => s
      | some lead =>
        let hit := (s.beacon die).fencing.any fun c => s.covers lead (clX c) (clY c)
        if hit && !e.2.preempt then (s.startPreempt die e.1 false).getD s else s) s
    let done := (s.beacon die).fencing.filter fun c => (s.leadOf (lanOf die c)).isNone
    s.modBeacon die fun b =>
      { b with fencing := b.fencing.filter (fun c => !done.contains c), fenced := b.fenced ++ done }

/-- Sends the placement requests of waiting segments: under MODE.PLACE = 1 of each one, else again of those that were asked
of the host before (R44). -/
def State.askPlaces (s : State) (die : Nat) (ws : List (Nat × Seg)) : State :=
  ws.foldl (fun s e => if modePlace (s.modeOf die) || s.placeAsked die e.1 then s.askPlace die e.1 e.2 else s) s

/-- What a dispatch decision does for one waiting segment (R381, R387): it dispatches the segment where it fits, or else
pre-empts for a committed one, at most once in a decision. A segment whose placement has been asked of the host is left to the
host (R44), and one whose ranges an edge holds waits for the next decision (R43). -/
def State.decideOne (die : Nat) (acc : State × Bool) (e : Nat × Seg) : State × Bool :=
  if acc.1.placeAsked die e.1 then acc
  else if acc.1.rangesCut die e.2 then (acc.1.decide_ die, acc.2)
  else
    match acc.1.fit die e.2 none with
    | some o => (acc.1.dispatch die e.1 o, acc.2)
    | none =>
      if acc.2 || !e.2.committed then acc
      else
        match acc.1.givesWay die e.2 with
        | none => acc
        | some i =>
          match acc.1.startPreempt die i false with
          | some s => (s, true)
          | none => acc

/-- A dispatch decision (R381, R383, R387); fences in progress go on first (R441). -/
def State.decision (s : State) (die : Nat) : State :=
  let s := s.fenceStep die
  if !(s.beacon die).due then s
  else
    let s := s.modBeacon die fun b => { b with due := false }
    let ws := s.waitingSegs die
    let s := s.askPlaces die ws
    if modePlace (s.modeOf die) then s
    else (ws.foldl (State.decideOne die) (s, false)).1

end Sys2Proof.Machine
end

