-- ==== Sys2Proof/Machine/BeaconCmd.lean ====
section
/-! DEFINITION. The B-class instructions (R400 to R408, R410 to R412) and CRES (R216). -/

namespace Sys2Proof.Machine

/-- All ones. -/
def allOnes : Word := 0xFFFFFFFFFFFFFFFF#64

/-- Runs a command of the segment on the Lantern whose turn it is: its die, entry, contents and launch. Without a segment
there is nothing to act on, and rd is all ones (DESIGN CHOICE, log entry 31). -/
def State.onSeg (s : State) (rd : Reg) (k : Nat → Nat → Seg → Launch → State) : State :=
  match s.resident s.focus with
  | none => s.retireReg rd allOnes 1
  | some (idx, g) =>
    match s.hub.launches.find g.launch with
    | none => s.retireReg rd allOnes 1
    | some l => k (lanDie s.focus) idx g l

/-! ### SPAWN and SPWNC (R390, R401) -/

/-- The error value of SPAWN and SPWNC (R401). -/
def spawnErr (reason : Nat) : Word := BitVec.ofNat 64 (2 ^ 63 + reason)

/-- The condition word of SPWNC (R401): P, SIDE, SITE; `none` where a zero bit is set or P lies outside its codes. -/
def condWord (v : Word) (like : Nat) : Option (Nat × Bool × Nat) :=
  let n := v.toNat
  let p := n / 2 ^ 16 % 2 ^ 16
  if n / 2 ^ 32 ≠ 0 ∨ n / 2 ^ 13 % 8 ≠ 0 ∨ (0x8000 < p ∧ p < 0xFFFF) ∨ (p = 0 ∧ (like = 0 ∨ 0x8000 < like)) then none
  else some (if p = 0 then like else p, v.getLsbD 12, n % 4096)

/-- The likelihood code in effect, and the state in which the predictor's entry is retagged (R393). -/
def State.effectiveP (s : State) (die pasid : Nat) (c : Nat × Bool × Nat) : Nat × State :=
  if c.1 = 0xFFFF then
    let p := (s.beacon die).predOf pasid c.2.2
    (if c.2.1 then p else 32768 - p, s.setPred die pasid c.2.2 p)
  else (c.1, s)

/-- Enters a spawned segment, once the table and the depth rule allow it (R390, R401). -/
def State.enterSpawn (s : State) (rd : Reg) (die tgt idx : Nat) (g : Seg) (l : Launch) (d : SegDesc) (va : Word)
    (cond : Option (Nat × Bool × Nat)) : State :=
  let (p, s') := match cond with
    | some c => s.effectiveP die g.pasid c
    | none => (0x8000, s)
  let inherited := if g.isSpec then g.factors else []
  let fs := match cond with
    | some (_, side, site) => if p = 0x8000 then inherited else inherited ++ [{ site := site, side := side, cost := costOf p }]
    | none => inherited
  if 4 < fs.length || (s'.beacon tgt).quarantined then s
  else
    match s'.freeSeg tgt with
    | none => s
    | some i =>
      let spec := g.isSpec || (cond.isSome && decide (p ≠ 0x8000))
      let r := s'.enterSeg tgt i l d va spec fs (some (segIdent die idx g.serial))
      r.2.retireReg rd r.1 1

/-- SPAWN and SPWNC (R401); `cw` is the condition word. -/
def State.spawn (s : State) (rd ra : Reg) (cw : Option Word) : State :=
  let va := s.x ra
  if va.toNat % 64 ≠ 0 then s.trap cALIGN va
  else
    ((s.performLoads s.focus).readVirt va 64 1).finish fun bs s =>
      (s.readVirt (BitVec.ofNat 64 (descTable bs)) (8 * descExtra bs) 1).finish fun ex s =>
        s.onSeg rd fun die idx g l =>
          let d := descOf bs ex
          let tgt := if d.die = 15 then die else d.die
          let err (n : Nat) : State := s.retireReg rd (spawnErr n) 1
          if segDescBad bs d l.clMax then err 1
          else if decide (d.die ≠ 15) && decide (l.dies ≤ d.die) then err 2
          else if s.diesCut die tgt then s
          else
            match cw with
            | none => s.enterSpawn rd die tgt idx g l d va none
            | some v =>
              match condWord v d.like with
              | none => err 3
              | some c => if tgt ≠ die then err 3 else s.enterSpawn rd die tgt idx g l d va (some c)

/-! ### RESLV, COMMIT, ABORT, YIELD (R402 to R405) -/

/-- A count of 16 bits, saturating. -/
def sat16 (n : Nat) : Nat := min n 0xFFFF

/-- RESLV (R402, R411): its commits are released before rd is written. -/
def State.reslv (s : State) (rd ra : Reg) : State :=
  if s.speculative s.focus then s
  else
    let v := s.x ra
    if v.toNat / 2 ^ 13 ≠ 0 then s.retireReg rd allOnes 1
    else
      let s := s.performLoads s.focus
      s.onSeg rd fun die _ g l =>
        let (pruned, done, s) := s.resolveSites die l.id g.pasid (s.resolveFuel die) [(v.toNat % 4096, v.getLsbD 12)]
        (s.releaseAll die).retireReg rd (BitVec.ofNat 64 (sat16 done * 2 ^ 16 + sat16 pruned)) 1

/-- COMMIT (R403, R412). -/
def State.commitNow (s : State) (rd : Reg) : State :=
  if s.speculative s.focus then s
  else
    let s := s.performLoads s.focus
    match s.stagedSet s.focus, s.resident s.focus with
    | some k, some (idx, _) =>
      let die := lanDie s.focus
      let s := s.modBeacon die fun b => { b with commits := b.commits ++ [{ set := k, idx := idx, retire := false }] }
      (s.releaseAll die).retireReg rd 0#64 1
    | _, _ => s.retireReg rd 1#64 1

/-- ABORT (R404): it does not return. -/
def State.abort_ (s : State) (requeue : Bool) : State :=
  match s.resident s.focus with
  | some (idx, _) => s.abortSeg (lanDie s.focus) idx requeue
  | none => s.modCur fun l => { l with st := .idle }

/-- YIELD (R405): rd is 1 once the segment runs again. -/
def State.yield_ (s : State) (rd : Reg) (ifWaiting : Bool) : State :=
  match s.resident s.focus with
  | none => s.retireReg rd 0#64 1
  | some (idx, g) =>
    let die := lanDie s.focus
    if g.preempt then s
    else if ifWaiting && !s.beaten die g then s.retireReg rd 0#64 1
    else
      match (s.performLoads s.focus).startPreempt die idx s.cur.sup with
      | some s => s.retireReg rd 1#64 1
      | none => s.retireReg rd 0#64 1

/-! ### DLINE, BUDGT, SEGID, PRED (R406 to R408) -/

/-- DLINE (R406). -/
def State.dline (s : State) (rd ra : Reg) : State :=
  let v := s.x ra
  (s.performLoads s.focus).onSeg rd fun die idx g _ =>
    let s := (s.performLoads s.focus).modSeg die idx fun g => { g with deadline := v }
    (s.modCur fun l => { l with deadln := v }).retireReg rd g.deadline 1

/-- BUDGT (R406). -/
def State.budgt (s : State) (rd ra : Reg) : State :=
  let v := s.x ra
  (s.performLoads s.focus).onSeg rd fun _ _ _ l =>
    let s := s.performLoads s.focus
    if v = 0#64 then s.retireReg rd (BitVec.ofNat 64 (min l.pool (2 ^ 64 - 1))) 1
    else
      let n := min v.toNat l.pool
      let s := s.modLaunch l.id fun l => { l with pool := l.pool - n }
      (s.modCur fun l => { l with budget := satAdd l.budget n }).retireReg rd (BitVec.ofNat 64 n) 1

/-- The code of a segment state (R379). -/
def SegSt.code : SegSt → Nat
  | .pendc => 1
  | .pends => 2
  | .runc => 3
  | .runs => 4
  | .ends => 5

/-- The state word of a segment (R407). -/
def State.segWord (s : State) (g : Seg) : Word :=
  BitVec.ofNat 64 (g.cost * 2 ^ 48 + g.factors.length * 2 ^ 16 + (if g.deadline.toNat < s.tick then 16 else 0) + g.st.code)

/-- SEGID (R407). -/
def State.segid_ (s : State) (rd ra : Reg) : State :=
  let v := s.x ra
  (s.performLoads s.focus).onSeg rd fun die _ g l =>
    let s := s.performLoads s.focus
    if decide (v ≠ 0#64) && (s.segAt v).any fun e => s.diesCut die e.1 then s
    else
    let w := if v = 0#64 then s.segWord g
      else match s.segAt v with
        | some (_, _, t) => if t.launch = l.id then s.segWord t else 0#64
        | none => 0#64
    s.retireReg rd w 1

/-- PRED (R408); a write waits for the commit (R391). -/
def State.pred_ (s : State) (w : Bool) (rd ra rb : Reg) : State :=
  if w && s.speculative s.focus then s
  else
    let v := s.x ra
    let new := s.x rb
    if v.toNat / 2 ^ 12 ≠ 0 then s.retireReg rd allOnes 1
    else
      (s.performLoads s.focus).onSeg rd fun die _ g _ =>
        let s := s.performLoads s.focus
        let p := (s.beacon die).predOf g.pasid v.toNat
        (s.setPred die g.pasid v.toNat (if w then clampP new.toNat else p)).retireReg rd (BitVec.ofNat 64 p) 1

/-! ### TAILW (R398, R399, R404) -/

/-- A ring header's fields (R398): BASE, LOG2N, TDIE, HEAD; `none` where it is malformed. -/
def ringHeader (h : List Byte) : Option (Nat × Nat × Nat × Nat) :=
  let base := fieldAt h 0 8
  let log := fieldAt h 8 1
  let die := fieldAt h 9 1
  if base % 64 ≠ 0 ∨ 12 < log ∨ 7 < die ∨ fieldAt h 10 2 ≠ 0 ∨ fieldAt h 0x18 40 ≠ 0 then none
  else some (base, log, die, fieldAt h 0x10 8)

/-- TAILW (R404): the target Beacon accepts the tail, or extends a pull of the same ring (R399). -/
def State.tailw (s : State) (rd ra rb : Reg) : State :=
  if s.speculative s.focus then s
  else
    let va := s.x ra
    let t := (s.x rb).toNat
    if va.toNat % 64 ≠ 0 then s.trap cALIGN va
    else
      ((s.performLoads s.focus).readVirt va 64 1).finish fun h s =>
        s.onSeg rd fun die idx g l =>
          match ringHeader h with
          | none => s.retireReg rd 1#64 1
          | some (base, log, tgt, head) =>
            if t < head ∨ 2 ^ log < t - head then s.retireReg rd 2#64 1
            else if s.diesCut die tgt then s
            else
              let p : Pull := { hdr := va, base := base, log := log, head := head, tail := t, pasid := g.pasid, launch := l.id,
                                sender := segIdent die idx g.serial, miss := Miss.zero, wait := false }
              let same (q : Pull) : Bool := decide (q.hdr = va ∧ q.pasid = g.pasid)
              (s.modBeacon tgt fun b =>
                { b with pulls :=
                    if b.pulls.any same then b.pulls.map fun q => if same q then { q with tail := max q.tail t } else q
                    else b.pulls ++ [p] }).retireReg rd 0#64 1

/-! ### CRES (R216) -/

/-- The outcome of a site reaches the Beacon of its die: held while its segment is speculative. -/
def State.cresOutcome (s : State) (tile site : Nat) (taken : Bool) : State :=
  match (s.leadOfTile tile).bind s.resident with
  | none => s
  | some (idx, g) =>
    let die := tileDie tile
    if g.isSpec then s.modSeg die idx fun g => { g with heldRes := g.heldRes ++ [(site, taken)] }
    else (s.resolveSites die g.launch g.pasid (s.resolveFuel die) [(site, taken)]).2.2

/-- SPAWN (R401). -/
def execSpawn (rd ra : Reg) (s : State) : Out := .next (s.spawn rd ra none)
/-- SPWNC (R401). -/
def execSpwnc (rd ra rb : Reg) (s : State) : Out := .next (s.spawn rd ra (some (s.x rb)))
/-- RESLV (R402). -/
def execReslv (rd ra : Reg) (s : State) : Out := .next (s.reslv rd ra)
/-- COMMIT (R403). -/
def execCommit (rd : Reg) (s : State) : Out := .next (s.commitNow rd)
/-- ABORT #0 (R404). -/
def execAbortNorequeue (s : State) : Out := .next (s.abort_ false)
/-- ABORT #1 (R404). -/
def execAbortRequeue (s : State) : Out := .next (s.abort_ true)
/-- YIELD #0 (R405). -/
def execYield (rd : Reg) (s : State) : Out := .next (s.yield_ rd false)
/-- YIELD #1 (R405). -/
def execYieldIfWaiting (rd : Reg) (s : State) : Out := .next (s.yield_ rd true)
/-- DLINE (R406). -/
def execDline (rd ra : Reg) (s : State) : Out := .next (s.dline rd ra)
/-- BUDGT (R406). -/
def execBudgt (rd ra : Reg) (s : State) : Out := .next (s.budgt rd ra)
/-- SEGID (R407). -/
def execSegid (rd ra : Reg) (s : State) : Out := .next (s.segid_ rd ra)
/-- PRED (R408). -/
def execPred (w : Bool) (rd ra rb : Reg) (s : State) : Out := .next (s.pred_ w rd ra rb)
/-- TAILW (R404). -/
def execTailw (rd ra rb : Reg) (s : State) : Out := .next (s.tailw rd ra rb)
/-- CRES (R216). -/
def execCres (f : Slot) (s : State) : Out :=
  s.fire (.cres f) movesNone fun w s => s.cresOutcome (elTile w.el) (w.f.imm.toNat % 4096) (w.cond w.f.cin)

end Sys2Proof.Machine
end

