-- ==== Sys2Proof/Machine/Copy.lean ====
section
/-! DEFINITION. The copy engine (R323 to R331, R333, R334): channels, translation, the move, errors and completion. -/

namespace Sys2Proof.Machine

/-! ### Channels (R323) -/

/-- The number of a channel. -/
def chanKey (die ch : Nat) : Nat := die * 16 + ch

/-- Whether a channel is free. -/
def State.chanFree (s : State) (die ch : Nat) : Bool := (s.chans.find (chanKey die ch)).isNone

/-- The lowest free channel of a die. -/
def State.freeChan (s : State) (die : Nat) : Option Nat := lowest 16 (s.chanFree die)

/-- The commands of a die that wait for a channel: those whose Lantern still stands at them. -/
def State.copyWaiters (s : State) (die : Nat) : List (Nat × Word) :=
  (s.copyq.get [] die).filter fun w => decide ((s.lan w.1).st = .run ∧ (s.lan w.1).pc = w.2)

/-- The channel that a command of the Lantern whose turn it is takes, and the state without it in the queue; or the state
in which it waits in arrival order. -/
def State.takeChan (s : State) : Except State (Nat × State) :=
  let die := lanDie s.focus
  let me := (s.focus, s.cur.pc)
  let q := s.copyWaiters die
  let q' := if q.contains me then q else q ++ [me]
  match s.freeChan die with
  | some ch =>
    if q'.head? = some me then .ok (ch, { s with copyq := s.copyq.put die q'.tail })
    else .error { s with copyq := s.copyq.put die q' }
  | none => .error { s with copyq := s.copyq.put die q' }

/-- Issues a copy (R323, R333 to R335): it takes a channel, or waits for one; no bytes complete at once. -/
def State.issueCopy (s : State) (kind : CopyKind) (rd rbar : Reg) (scope : BitVec 3) (dst src : Word) (len : Nat) : State :=
  if len = 0 then s.retireReg rd 0#64 1
  else
    match s.takeChan with
    | .error s => s
    | .ok (ch, s) =>
      let c : Chan :=
        { lan := s.focus, seg := s.cur.segid, launch := s.cur.launch.toNat, pasid := s.cur.pasid, sup := s.cur.sup, kind := kind,
          rd := rd, dst := dst, src := src, len := len, bar := if rbar = 0#5 then none else some (s.x rbar), scope := scope,
          wait := false, miss := Miss.zero, moved := 0, entWait := none, fin := false }
      let s : State := { s with chans := s.chans.put (chanKey (lanDie s.focus) ch) c }
      s.modCur fun l => (l.block rd).advance 1

/-- Changes a channel. -/
def State.modChan (s : State) (die ch : Nat) (f : Chan → Chan) : State :=
  match s.chans.find (chanKey die ch) with
  | some c => { s with chans := s.chans.put (chanKey die ch) (f c) }
  | none => s

/-! ### Translation (R324, R325, R328) -/

/-- The region whose queue takes a copy's records. -/
def State.chanLead (s : State) (c : Chan) : Option Nat := (s.chanSeg c).map fun _ => c.lan

/-- A record of a copy channel (R328). -/
def chanRecord (ch : Nat) (kind : Byte) (addr : Word) (info : Nat) : Record := unitRecord 4#3 ch kind addr info

/-- A run of bytes of a copy at one place: its offset in the copy, physical address, length, and what it names. -/
structure CopyPart where
  off  : Nat
  pa   : Nat
  n    : Nat
  kind : PaKind

/-- How a copy fails at an offset: REASON (0: the channel waits), the address, and the reason of the XLATE record. -/
structure CopyFail where
  off    : Nat
  code   : Nat
  va     : Word
  reason : Nat

/-- Whether a copy may read or write `n` bytes at a place: the view of the Lantern that issued it, whole registers. -/
def State.copyMay (s : State) (c : Chan) (wr : Bool) (n : Nat) (k : PaKind) : Bool :=
  !(if wr then s.writeRefused k else s.readRefused k) && (c.sup || (userReaches k && !s.hitsRing n k))
    && (match k with
        | .lanReg _ _ => !wr || decide (n = 8)
        | _ => true)

/-- The parts of `n` bytes from physical address `pa`, in one page, at offset `off` of a copy; a window takes dwords. -/
def State.copyParts (s : State) (c : Chan) (wr : Bool) (va : Word) (pa n off : Nat) : Option CopyFail × List CopyPart :=
  let one (pa n off : Nat) : Option CopyPart :=
    match s.classify pa n with
    | some k => if s.copyMay c wr n k then some ⟨off, pa, n, k⟩ else none
    | none => none
  match one pa n off with
  | some p => (none, [p])
  | none =>
    (dwordParts (BitVec.ofNat 64 pa) n).foldl (fun acc d =>
      let i := d.1.toNat - pa
      match one d.1.toNat d.2 (off + i) with
      | some p => (acc.1, acc.2 ++ [p])
      | none => (acc.1.or (some ⟨off + i, 2, va + BitVec.ofNat 64 i, 2⟩), acc.2)) (none, [])

/-- Translates the bytes of one page for a copy: extents first, then the walker (R324). -/
def State.copyPage (s : State) (die : Nat) (c : Chan) (wr : Bool) (va : Word) (n off : Nat) :
    Option CopyFail × List CopyPart × State :=
  let exts := match s.chanSeg c with
    | some (_, g) => g.exts
    | none => []
  if 2 ^ 48 ≤ va.toNat then (some ⟨off, 1, va, 3⟩, [], s)
  else
    let near := (extentOf exts va.toNat).map (·.2)
    if near.isNone && modeWalk (s.modeOf die) && !c.miss.may va.toNat then (some ⟨off, 0, va, 5⟩, [], s)
    else if near.isNone && s.walkCut die c.pasid va.toNat then (some ⟨off, 0, va, xlCut⟩, [], s)
    else
      let (leaf, s) : Option Leaf × State := match near with
        | some l => (some l, s)
        | none => s.walk die c.pasid va.toNat
      match leaf with
      | none => (some ⟨off, 0, va, 0⟩, [], s)
      | some l =>
        if !(if wr then l.w else l.r) then (some ⟨off, 3, va, 1⟩, [], s)
        else
          let r := s.copyParts c wr va l.pa n off
          (r.1, r.2, s)

/-- The pages of `n` bytes from a virtual address: offset, address, length. -/
def copyPages (va : Word) (n : Nat) : List (Nat × Word × Nat) :=
  let lead := va.toNat % 4096
  (List.range ((lead + n + 4095) / 4096)).map fun i =>
    let lo := 4096 * i - lead
    let hi := min n (4096 * (i + 1) - lead)
    (lo, va + BitVec.ofNat 64 lo, hi - lo)

/-- The earlier of two failures; the first where they meet. -/
def earlier (a b : Option CopyFail) : Option CopyFail :=
  match a, b with
  | some x, some y => if y.off < x.off then some y else some x
  | some x, none => some x
  | none, y => y

/-- Translates one side of `n` bytes of a copy at offset `off`. -/
def State.copySide (s : State) (die : Nat) (c : Chan) (wr : Bool) (va : Word) (n off : Nat) :
    Option CopyFail × List CopyPart × State :=
  (copyPages va n).foldl (fun acc p =>
    let r := acc.2.2.copyPage die c wr p.2.1 p.2.2 (off + p.1)
    (earlier acc.1 r.1, acc.2.1 ++ r.2.1, r.2.2)) (none, [], s)

/-! ### Reading and writing -/

/-- The first byte of a part that cannot be read. -/
def State.firstBadByte (s : State) (p : CopyPart) : Nat :=
  ((List.range p.n).find? fun i =>
    match s.classify (p.pa + i) 1 with
    | some k => (s.readHome (p.pa + i) 1 0 k).bad
    | none => false).getD 0

/-- Reads a part of the source with the segment's own staged bytes over it; for uncorrectable data, its failure, with the
record (R328 reason 4). -/
def State.copyRead (s : State) (die ch : Nat) (c : Chan) (p : CopyPart) : Option CopyFail × List Byte × State :=
  let lead := s.chanLead c
  let r := s.readHome p.pa p.n 0 p.kind
  let own (s : State) (pa : Nat) (bs : List Byte) : List Byte := match lead with
    | some k => s.overlay k pa bs
    | none => bs
  let whole := match lead with
    | some k => s.allStaged k p.pa p.n
    | none => false
  let t := r.s.raiseHome lead die (chanRecord ch) p.kind (r.owed.filter fun o => decide (o.1 ≠ kPOISON))
  if r.bad && !whole then
    let i := s.firstBadByte p
    let a := BitVec.ofNat 64 ((p.pa + i) / 4 * 4)
    (some ⟨p.off + i, 4, a, 0⟩, own t p.pa r.bytes, t.raise lead die (chanRecord ch kPOISON a 2))
  else (none, own t p.pa r.bytes, t)

/-- Bytes laid out by offset from `at_`; places between them hold none. -/
def layOut : Nat → List (Nat × List Byte) → List (Option Byte)
  | _, [] => []
  | at_, (off, bs) :: r => List.replicate (off - at_) none ++ bs.map some ++ layOut (off + bs.length) r

/-- The runs of bytes that a list holds: offset and bytes. -/
def byteRuns : Nat → List (Option Byte) → List (Nat × List Byte)
  | _, [] => []
  | i, none :: r => byteRuns (i + 1) r
  | i, some b :: r =>
    match byteRuns (i + 1) r with
    | (j, bs) :: rest => if j = i + 1 then (i, b :: bs) :: rest else (i, [b]) :: (j, bs) :: rest
    | [] => [(i, [b])]

/-- Writes bytes of a copy at a place: at home, or staged (R331); `none` where a staging entry is wanting. -/
def State.copyPut (s : State) (die ch : Nat) (c : Chan) (kind : PaKind) (pa : Nat) (bs : List Byte) : Option State :=
  if (s.chanStaged c).isSome then s.stageWrite c.lan pa bs
  else
    let r := s.writeHome pa 0 bs kind
    some (r.1.raiseHome (s.chanLead c) die (chanRecord ch) kind r.2)

/-- The bytes of `data` that a part of the destination takes: registers take whole ones only. -/
def CopyPart.take (p : CopyPart) (data : List (Option Byte)) : List (Nat × List Byte) :=
  let bs := (data.drop p.off).take p.n
  match p.kind with
  | .lanReg _ _ => if bs.all Option.isSome then byteRuns 0 bs else []
  | _ => byteRuns 0 bs

/-- Writes the bytes of `data`, by offset, to the parts of the destination. -/
def State.copyWrite (s : State) (die ch : Nat) (c : Chan) (ps : List CopyPart) (data : List (Option Byte)) : Option State :=
  ps.foldl (fun acc p =>
    (p.take data).foldl (fun acc r =>
      acc.bind fun s =>
        match s.classify (p.pa + r.1) r.2.length with
        | some k => s.copyPut die ch c k (p.pa + r.1) r.2
        | none => some s) acc) (some s)

/-! ### Completion (R326 to R331) -/

/-- The packets of an ended copy that stand in replay buffers are nobody's any more. -/
def State.orphan (s : State) (die ch : Nat) : State :=
  s.modHub fun h => { h with links := h.links.map fun l =>
    let ps := l.2.rbuf.filter fun p => decide (p.sdie.toNat = die ∧ p.schan.toNat = ch) && !l.2.dead.contains p.seq
    if ps.isEmpty then l else (l.1, { l.2 with dead := l.2.dead ++ ps.map (·.seq) }) }

/-- Ends a copy: the channel is free, and the token register is written if its segment still runs (R327, R330). -/
def State.copyToken (s : State) (die ch : Nat) (c : Chan) (v : Nat) : State :=
  let s : State := { s.orphan die ch with chans := s.chans.del (chanKey die ch) }
  if (s.lan c.lan).st ≠ .idle ∧ (s.lan c.lan).segid = c.seg then
    s.modLan c.lan fun l => (l.setReg c.rd (BitVec.ofNat 64 v)).unblock c.rd
  else s

/-- Ends a copy with an error (R326, R328). -/
def State.copyError (s : State) (die ch : Nat) (c : Chan) (code off : Nat) : State :=
  s.copyToken die ch c (2 ^ 63 + code * 2 ^ 48 + off)

/-- Bytes that a copy moves (R334). -/
def Chan.total (c : Chan) : Nat :=
  match c.kind with
  | .block row rows _ _ => row * rows
  | _ => c.len

/-- The barrier that a copy names: its place in an engine's space (R300, R329). -/
def State.copyBar (s : State) (die : Nat) (c : Chan) (va : Word) : Option (Nat × Nat) × State :=
  if va.toNat < 0x10000 then
    match s.hub.launches.find c.launch with
    | none => (none, s)
    | some l => ((l.slices.find die).map fun b => (die, b + va.toNat), s)
  else if 2 ^ 48 ≤ va.toNat then (none, s)
  else
    let exts := match s.chanSeg c with
      | some (_, g) => g.exts
      | none => []
    let (leaf, s) : Option Leaf × State := match extentOf exts va.toNat with
      | some (_, l) => (some l, s)
      | none => s.walk die c.pasid va.toNat
    match leaf with
    | none => (none, s)
    | some l =>
      if !l.r || !l.w then (none, s)
      else
        match s.classify l.pa 8 with
        | some (.sync d a) => (some (d, a), s)
        | _ => (none, s)

/-- The barrier address of a copy whose walk has to be asked of the host first (R257), or is held at an edge (R43): address
and reason. -/
def State.barWalk (s : State) (die : Nat) (c : Chan) : Option (Word × Nat) :=
  (c.bar.filter fun va =>
    decide (0x10000 ≤ va.toNat ∧ va.toNat < 2 ^ 48)
      && (extentOf (match s.chanSeg c with
          | some (_, g) => g.exts
          | none => []) va.toNat).isNone).bind fun va =>
    if modeWalk (s.modeOf die) && !c.miss.may va.toNat then some (va, 5)
    else if s.walkCut die c.pasid va.toNat then some (va, xlCut)
    else none

/-- The end of a copy whose writes are performed: the barrier's bytes, then the token (R327, R329, R331). -/
def State.copyFinish (s : State) (die ch : Nat) (c : Chan) : State :=
  let n := c.total
  let lead := s.chanLead c
  match c.bar with
  | none => s.copyToken die ch c n
  | some va =>
    let log (reason : Nat) : Record := chanRecord ch kSYNC va reason
    match s.copyBar die c va, s.chanStaged c with
    | (at_, s), some idx =>
      let h : SyncHeld :=
        { copy := true, none_ := at_.isNone, seg := segKey die idx, addr := (at_.map (·.2)).getD 0, add := n, log := log 0 }
      (s.modSync ((at_.map (·.1)).getD die) fun y => { y with held := y.held ++ [h] }).copyToken die ch c n
    | (none, s), none => (s.raise lead die (log 0)).copyToken die ch c (2 ^ 62 + n)
    | (some (d, a), s), none =>
      match s.engCount d a n with
      | (s, none) => s.copyToken die ch c n
      | (s, some 1) => (s.raise lead die (log 1)).copyToken die ch c n
      | (s, some reason) => (s.raise lead die (log reason)).copyToken die ch c (2 ^ 62 + n)

/-! ### The move -/

/-- INFO access codes of a copy (R227, R328): a source read or a destination write. -/
def copyAccess (wr : Bool) : Nat := if wr then 10 else 9

/-- A failure of a copy: the channel waits for a REPLAY (R229, R231), or the copy ends. -/
def State.copyFails (s : State) (die ch : Nat) (c : Chan) (f : CopyFail) (access : Nat) : State :=
  let lead := s.chanLead c
  let r := chanRecord ch kXLATE f.va (f.reason + access * 16)
  if f.code = 0 ∧ f.reason = xlCut then s
  else if f.code = 0 then
    let m := c.miss.next s.tick f.va.toNat
    (s.modChan die ch fun c => { c with wait := true, miss := m }).raise lead die (r.missed m)
  else if f.code = 4 then s.copyError die ch c 4 f.off
  else (s.raise lead die r).copyError die ch c f.code f.off

/-- The rows of a copy: destination, source, bytes, offset. -/
def Chan.rows (c : Chan) : List (Word × Word × Nat × Nat) :=
  match c.kind with
  | .block row rows dstr sstr =>
    (List.range rows).map fun r =>
      (c.dst + dstr.signExtend 64 * BitVec.ofNat 64 r, c.src + sstr.signExtend 64 * BitVec.ofNat 64 r, row, r * row)
  | _ => [(c.dst, c.src, c.len, 0)]

/-- Both sides of a copy: the first failure of each, and the parts. -/
structure CopyPlan where
  src  : Option CopyFail
  dst  : Option CopyFail
  from_ : List CopyPart
  to_  : List CopyPart
  s    : State

/-- Translates every row of a copy. -/
def State.copyPlan (s : State) (die : Nat) (c : Chan) : CopyPlan :=
  c.rows.foldl (fun acc r =>
    let a := acc.s.copySide die c false r.2.1 r.2.2.1 r.2.2.2
    let b := a.2.2.copySide die c true r.1 r.2.2.1 r.2.2.2
    { src := earlier acc.src a.1, dst := earlier acc.dst b.1, from_ := acc.from_ ++ a.2.1, to_ := acc.to_ ++ b.2.1,
      s := b.2.2 }) { src := none, dst := none, from_ := [], to_ := [], s := s }

/-- Reads the whole source (R324). -/
def State.copyReads (s : State) (die ch : Nat) (c : Chan) (ps : List CopyPart) :
    Option CopyFail × List (Nat × List Byte) × State :=
  ps.foldl (fun acc p =>
    let r := acc.2.2.copyRead die ch c p
    (earlier acc.1 r.1, acc.2.1 ++ [(p.off, r.2.1)], r.2.2)) (none, [], s)

/-- The bytes of a copy that ends with an error at offset `off` which it has written: left open (R328, log entry 20). -/
def openBytes (n off : Nat) (data : List (Option Byte)) : List (Option Byte) :=
  data.mapIdx fun i b => if i ≠ off ∧ Config.copyWritten n i = true then b else none

/-- The physical address of byte `i` of a copy's source. -/
def srcPa (ps : List CopyPart) (i : Nat) : Option Nat :=
  (ps.find? fun p => decide (p.off ≤ i ∧ i < p.off + p.n)).map fun p => p.pa + (i - p.off)

/-- The last byte of a copy that is written to a physical address. -/
def writerOf (ps : List CopyPart) (pa : Nat) : Option Nat :=
  (ps.reverse.find? fun p => decide (p.pa ≤ pa ∧ pa < p.pa + p.n)).map fun p => p.off + (pa - p.pa)

/-- What byte `i` of a copy carries where it overwrites its own source (R324): the source as it was, or as the copy has
already overwritten it, as `Config.copyOld` picks (log entry 20). -/
def overlapByte (n : Nat) (p : CopyPlan) (data : List (Option Byte)) : Nat → Nat → Option Byte
  | 0, i => data.getD i none
  | fuel + 1, i =>
    match (srcPa p.from_ i).bind (writerOf p.to_) with
    | none => data.getD i none
    | some j => if Config.copyOld n i then data.getD i none else overlapByte n p data fuel j

/-- Whether a copy overwrites its own source, other than a CPY whose virtual ranges overlap (R324). -/
def Chan.overlaps (c : Chan) (p : CopyPlan) : Bool :=
  (match c.kind with
   | .flat => !decide (c.dst.toNat < c.src.toNat + c.len ∧ c.src.toNat < c.dst.toNat + c.len)
   | _ => true) &&
  p.from_.any fun x => p.to_.any fun y => decide (x.pa < y.pa + y.n ∧ y.pa < x.pa + x.n)

/-- The bytes that a copy writes. -/
def Chan.shown (c : Chan) (n : Nat) (p : CopyPlan) (data : List (Option Byte)) : List (Option Byte) :=
  if c.overlaps p then (List.range data.length).map (overlapByte n p data data.length) else data

/-- Moves the bytes of a CPY or CPY2 and ends it (R324 to R328). -/
def State.copyMove (s : State) (die ch : Nat) (c : Chan) : State :=
  if 2 ^ 40 ≤ c.total then s.copyError die ch c 5 0
  else
    let p := s.copyPlan die c
    let first := earlier p.src p.dst
    if (p.from_ ++ p.to_).any (fun x => p.s.homeCut die x.pa x.kind) then p.s else
    match first with
    | some ⟨off, 0, va, reason⟩ =>
      p.s.copyFails die ch c ⟨off, 0, va, reason⟩ (copyAccess (decide ((p.src.map (·.off)) ≠ some off)))
    | _ =>
      if let some w := p.s.barWalk die c then p.s.copyFails die ch c ⟨0, 0, w.1, w.2⟩ 8
      else
      let r := p.s.copyReads die ch c p.from_
      let n := r.2.2.free
      let s := r.2.2.spend
      let data := c.shown n p (layOut 0 r.2.1)
      match earlier first r.1 with
      | none =>
        (match s.copyWrite die ch c p.to_ data with
         | some s => if s.postsDue then s.modChan die ch fun c => { c with fin := true } else s.copyFinish die ch c
         | none =>
           let at_ := p.to_.findSome? fun e => s.stageBlock c.lan e.pa (List.replicate e.n 0#8)
           s.modChan die ch fun c => { c with entWait := at_ })
      | some f =>
        let s := (s.copyWrite die ch c p.to_ (openBytes n f.off data)).getD s
        s.copyFails die ch c f (copyAccess (decide ((p.src.map (·.off)) ≠ some f.off)))

end Sys2Proof.Machine
end

