-- ==== Sys2Proof/Machine/Reach.lean ====
section
/-! DEFINITION. Accesses that the hub and the Beacons make under a process's PASID (R399, R420, R421, R423), in the user
view. -/

namespace Sys2Proof.Machine

/-- Whether the walk of an access under a PASID, or its home, lies behind an edge that holds its traffic (R43). -/
def State.asCut (s : State) (die pasid : Nat) (va : Word) (n : Nat) : Bool :=
  !s.edges.isEmpty && (dwordParts va n).any fun p =>
    s.walkCut die pasid p.1.toNat ||
      (match (s.walk die pasid p.1.toNat).1 with
       | some l => (s.classify l.pa p.2).any fun k => s.homeCut die l.pa k
       | none => false)

/-- The place of an access of `n` bytes in one page under a PASID, by the table of a die; or the reason of R207. -/
def State.placeAs (s : State) (die pasid : Nat) (va : Word) (n : Nat) (wr : Bool) : Except Nat (Nat × PaKind) × State :=
  if 2 ^ 48 ≤ va.toNat then (.error 3, s)
  else if s.asCut die pasid va n then (.error xlCut, s)
  else
    match s.walk die pasid va.toNat with
    | (none, s) => (.error 0, s)
    | (some l, s) =>
      if !(if wr then l.w else l.r) then (.error 1, s)
      else
        match s.classify l.pa n with
        | none => (.error 2, s)
        | some k =>
          if (if wr then s.writeRefused k else s.readRefused k) || !userReaches k || s.hitsRing n k then (.error 2, s)
          else (.ok (l.pa, k), s)

/-- What reading under a PASID gives: the bytes, and whether some are uncorrectable; or the address that fails and the
reason. -/
def State.readAs (s : State) (die pasid : Nat) (va : Word) (n : Nat) : Except (Word × Nat) (List Byte × Bool) × State :=
  (dwordParts va n).foldl (fun acc p =>
    match acc.1 with
    | .error e => (.error e, acc.2)
    | .ok (bs, bad) =>
      match acc.2.placeAs die pasid p.1 p.2 false with
      | (.error reason, s) => (.error (p.1, reason), s)
      | (.ok (pa, k), s) =>
        let r := s.readHome pa p.2 0 k
        (.ok (bs ++ r.bytes, bad || r.bad), r.s.raiseHome none die (unitRecord 7#3 0) k r.owed)) (.ok ([], false), s)

/-- Whether a range may be written under a PASID: the address that fails and the reason, if not. -/
def State.mayWriteAs (s : State) (die pasid : Nat) (va : Word) (n : Nat) : Option (Word × Nat) × State :=
  (dwordParts va n).foldl (fun acc p =>
    match acc.1 with
    | some e => (some e, acc.2)
    | none =>
      match acc.2.placeAs die pasid p.1 p.2 true with
      | (.error reason, s) => (some (p.1, reason), s)
      | (.ok _, s) => (none, s)) (none, s)

/-- Writes bytes under a PASID, where they may be written. -/
def State.writeAs (s : State) (die pasid : Nat) (va : Word) (bs : List Byte) : State :=
  (dwordParts va bs.length).foldl (fun s p =>
    match s.placeAs die pasid p.1 p.2 true with
    | (.error _, s) => s
    | (.ok (pa, k), s) =>
      let r := s.writeHome pa 0 ((bs.drop (p.1.toNat - va.toNat)).take p.2) k
      r.1.raiseHome none die (unitRecord 7#3 0) k r.2) s

end Sys2Proof.Machine
end

