-- ==== Sys2Proof/Machine/BeaconEvents.lean ====
section
/-! DEFINITION. What the Beacons do of themselves: placement of launches, dispatch, quanta, ends, aborts, reclaiming,
remote pulls, completed pre-emptions and commits. -/

namespace Sys2Proof.Machine

/-! ### LAUNCH_PLACEMENT (R40, R260, R382) -/

/-- Enters a launch's entry segments from number `n` on, until a table is full or a die is fenced. -/
def State.enterEntries (s : State) (id : Nat) : Nat → List (Word × SegDesc) → State
  | _, [] => s
  | n, e :: rest =>
    match s.hub.launches.find id with
    | none => s
    | some l =>
      let die := if e.2.die ≠ 15 then e.2.die else if l.hasDie then n % l.dies else 0
      if (s.beacon die).quarantined then s
      else
        match s.freeSeg die with
        | none => s
        | some i =>
          let s := (s.enterSeg die i l e.2 e.1 false [] none).2
          (s.modLaunch id fun l => { l with next := n + 1 }).enterEntries id (n + 1) rest

/-- Places a launch, all or nothing, and enters its entry segments. -/
def State.launchPlacement (s : State) (id : Nat) : State :=
  match s.hub.launches.find id with
  | none => s
  | some l =>
    if l.status.isSome then s
    else
      match if l.placed then some s else s.placeLaunch id with
      | none => s
      | some s => s.enterEntries id l.next (l.entries.drop l.next)

/-! ### PLACE (R383, R384) -/

/-- Logs a discarded register write to the management controller. -/
def State.refuseWrite (s : State) (off : Nat) (v : Word) : State :=
  s.modHub fun h => { h with refusedWrites := h.refusedWrites ++ [(off, v)] }

/-- A write of PLACE on die `die`'s Beacon page. An origin that is taken, or does not fit, is ignored, and the request is
sent again at the next decision. -/
def State.placeWrite (s : State) (die : Nat) (v : Word) : State :=
  let org := v.toNat / 2 ^ 16 % 128
  let idx := v.toNat % 4096
  match (s.beacon die).segs.find idx with
  | none => s.refuseWrite (0x30018 + 0x1000 * die) v
  | some g =>
    if v.toNat / 2 ^ 12 % 16 ≠ die ∨ g.waiting = false ∨ (98 ≤ org ∧ org ≤ 126) then s.refuseWrite (0x30018 + 0x1000 * die) v
    else
      let s := s.modBeacon die fun b => { b with place := v &&& 0x7FFFFF#64 }
      if org = 127 then s
      else if s.fitsAt die g none org then s.dispatch die idx org
      else s.modHub fun h =>
        { h with placeReq := h.placeReq.map fun r => if r.die = die ∧ r.idx = idx then { r with sent := false } else r }

/-! ### The end of a segment (R141, R379) -/

/-- The CONFIG packets of the configurations that a segment's end discards: those that were never armed (R141, R473). -/
def State.traceDiscards (s : State) (k : Nat) : State :=
  ((s.lan k).cfgs.filter fun x => !x.armed).foldl (fun s x => s.traceConfig k 3 x.ctx x.addr) s

/-- The end of a segment. -/
def State.segmentEnd (s : State) (k : Nat) : State :=
  if !s.endReady k then s
  else
    match s.resident k with
    | none => s.modLan k fun l => { l with st := .idle }
    | some (idx, g) =>
      let die := lanDie k
      let s := (s.flushConds k).traceDiscards k
      let s := (((s.mxAccrue k).mxDiscard k).clearRegion k).releaseRegion die idx
      if g.st = .runs then s.modSeg die idx fun g => { g with st := .ends, saveAt := none } else s.retire_ die idx

/-! ### Quanta and pre-emption (R386, R388) -/

/-- Quantum expiry of a resident segment; the end wins. -/
def State.quantumExpiry (s : State) (die idx : Nat) : State :=
  match (s.beacon die).segs.find idx with
  | none => s
  | some g =>
    match g.origin with
    | none => s
    | some lead =>
      if g.preempt || s.endReady lead || decide (s.tick - g.since < (s.beacon die).quantum) then s
      else
        let restart := s.modSeg die idx fun g => { g with since := s.tick }
        if s.beaten die g then (s.startPreempt die idx false).getD restart else restart

/-- The trap registers that a save area of the Beacon keeps. -/
def Lantern.trapRegs (l : Lantern) : List Word := [l.status, l.epc, l.ecause, l.evalr, l.emicro, l.retFirst, l.retNext]

/-- Completes a pre-emption made by the Beacon, once the region is quiet (R386): the area goes to the pool, the segment waits
again and its region is free. -/
def State.preemptDone (s : State) (die idx : Nat) : State :=
  match (s.beacon die).segs.find idx with
  | none => s
  | some g =>
    match g.origin, g.saveAt with
    | some lead, some at_ =>
      let l := s.lan lead
      if g.preempt && decide (l.st = .run ∨ l.st = .ending) && s.ownQuiet lead && l.dpoi.isNone && g.abortDue.isNone
          && s.preReady lead false then
        let s := (s.accrueCtxs lead).mxAccrue lead
        let a := s.buildArea lead false l.pc 0#5 (some (s.lan lead).trapRegs)
        let s := (s.writeHome ((s.beacon die).savebase + 4096 * at_.1) 0 a.2 .hbm).1
        let s := ((s.keepArea a.1).releaseSaved lead).tracePreempt lead 3 0#32
        let s := s.releaseRegion die idx
        s.modSeg die idx fun g => { g with st := if g.st = .runs then .pends else .pendc }
      else s
    | _, _ => s

/-! ### Aborts and reclaiming (R396, R397) -/

/-- An abort that is due. -/
def State.segmentAbort (s : State) (die idx : Nat) : State :=
  match ((s.beacon die).segs.find idx).bind (·.abortDue) with
  | some rq => s.abortSeg die idx rq
  | none => s

/-- Whether a region's segment is committed and staged. -/
def State.committedStaged (s : State) (lead : Nat) : Bool :=
  match s.resident lead with
  | some (_, g) => decide (g.st = .runc) && g.staged
  | none => false

/-- Whether a staged write of a committed segment waits for an entry of a tile (R254): an element's, at whatever tile serves
it. -/
def State.entryWanted (s : State) (t : Nat) : Bool :=
  (s.tiles.any fun y => y.2.reqs.any fun r =>
      decide (r.st = .entry) && !r.op.isSync && (r.word.any fun w => decide (w.1 = t)) && (match s.leadOfTile (elTile r.el) with
        | some k => s.committedStaged k
        | none => false))
    || (s.lans.any fun l => (l.2.mx.bind (·.cmd)).any (fun c => decide (c.wants = some t)) && s.committedStaged l.1)
    || (s.lans.any fun l => decide (l.2.stWait = some t) && s.committedStaged l.1)
    || (s.ports.any fun p => decide (p.2.entWait = some t) && (match p.2.prog with
        | some g => s.committedStaged g.lan
        | none => false))
    || (s.chans.any fun c => decide (c.2.entWait = some t) && s.committedStaged c.2.lan)

/-- The speculative segment of greatest cost that holds entries in a tile; ties go to the greater SERIAL. -/
def State.costliest (s : State) (t : Nat) : Option (Nat × Nat × Seg) :=
  let cands := s.allSegs.filter fun e =>
    e.2.2.isSpec && (match e.2.2.set with
      | some k => (s.tile t).ents.any fun v => decide (v.setOf = some k)
      | none => false)
  cands.foldl (fun acc e =>
    match acc with
    | none => some e
    | some y => if y.2.2.cost < e.2.2.cost ∨ (y.2.2.cost = e.2.2.cost ∧ y.2.2.serial < e.2.2.serial) then some e else acc) none

/-- Reclaims entries of a tile. -/
def State.reclaim (s : State) (t : Nat) : State :=
  if s.entryWanted t then
    match s.costliest t with
    | some (die, idx, _) => s.abortSeg die idx true
    | none => s
  else s

/-! ### Remote pulls (R399) -/

/-- Changes a pull of a die's Beacon. -/
def State.modPull (s : State) (die : Nat) (p : Pull) (f : Pull → Option Pull) : State :=
  s.modBeacon die fun b => { b with pulls := b.pulls.filterMap fun q => if q = p then f q else some q }

/-- A pull waits on a translation fault, logged to the sender's region (R229, R399). -/
def State.pullWaits (s : State) (die : Nat) (p : Pull) (va : Word) (reason access : Nat) : State :=
  let lead := (s.segAt p.sender).bind fun e => e.2.2.origin
  if reason = xlCut then s
  else
  let m := p.miss.next s.tick va.toNat
  (s.modPull die p fun q => some { q with wait := true, miss := m }).raise lead die
    ((unitRecord 5#3 0 kXLATE va (reason + access * 16)).missed m)

/-- Takes the record at HEAD: enters it, or counts it as refused; then HEAD moves. -/
def State.pullRecord (s : State) (die : Nat) (p : Pull) (l : Launch) (va : Word) (bs extra : List Byte) (bad : Bool) : State :=
  let d := descOf bs extra
  let next (s : State) : State :=
    (s.writeAs die p.pasid (p.hdr + 0x10#64) (leBytes 8 (p.head + 1))).modPull die p fun q =>
      if p.tail ≤ p.head + 1 then none else some { q with head := p.head + 1, miss := Miss.zero }
  if bad || segDescBad bs d l.clMax || !(decide (d.die = die ∨ d.die = 15)) then
    match s.readAs die p.pasid (p.hdr + 12#64) 4 with
    | (.ok (old, _), s) => next (s.writeAs die p.pasid (p.hdr + 12#64) (leBytes 4 (leNat old + 1)))
    | (.error e, s) => s.pullWaits die p e.1 e.2 accRead
  else
    match s.freeSeg die with
    | none => s
    | some i => next (s.enterSeg die i l d va false [] (some p.sender)).2

/-- Pulls the next remote record of a die. -/
def State.remotePull (s : State) (die : Nat) : State :=
  match (s.beacon die).pulls.find? fun p => !p.wait with
  | none => s
  | some p =>
    match s.hub.launches.find p.launch with
    | none => s.modPull die p fun _ => none
    | some l =>
      if (s.beacon die).quarantined then s
      else if p.tail ≤ p.head then s.modPull die p fun _ => none
      else
        let va := BitVec.ofNat 64 (p.base + 64 * (p.head % 2 ^ p.log))
        if modeWalk (s.modeOf die) && !p.miss.may va.toNat then s.pullWaits die p va 5 accRead
        else
          match s.readAs die p.pasid va 64 with
          | (.error e, s) => s.pullWaits die p e.1 e.2 accRead
          | (.ok (bs, bad), s) =>
            match s.readAs die p.pasid (BitVec.ofNat 64 (descTable bs)) (8 * descExtra bs) with
            | (.error e, s) => s.pullWaits die p e.1 e.2 accRead
            | (.ok (extra, bad2), s) =>
              match s.mayWriteAs die p.pasid (p.hdr + 12#64) 12 with
              | (some e, s) => s.pullWaits die p e.1 e.2 accWrite
              | (none, s) => s.pullRecord die p l va bs extra (bad || bad2)

/-- LAUNCH_PLACEMENT (R260). -/
def execLaunchPlacement (launch : Nat) (s : State) : Out := .next (s.launchPlacement launch)
/-- DISPATCH_DECISION (R381). -/
def execDispatchDecision (die : Nat) (s : State) : Out := .next (s.decision die)
/-- PLACE (R383). -/
def execPlace (die : Nat) (v : Word) (s : State) : Out := .next (s.placeWrite die v)
/-- QUANTUM_EXPIRY (R386). -/
def execQuantumExpiry (die idx : Nat) (s : State) : Out := .next (s.quantumExpiry die idx)
/-- PREEMPTION_COMPLETE (R386). -/
def execPreemptionComplete (die idx : Nat) (s : State) : Out := .next (s.preemptDone die idx)
/-- SEGMENT_END (R141). -/
def execSegmentEnd (lan : Nat) (s : State) : Out := .next (s.segmentEnd lan)
/-- SEGMENT_ABORT (R396). -/
def execSegmentAbort (die idx : Nat) (s : State) : Out := .next (s.segmentAbort die idx)
/-- STAGING_RECLAIM (R397). -/
def execStagingReclaim (tile : Nat) (s : State) : Out := .next (s.reclaim tile)
/-- REMOTE_PULL (R399). -/
def execRemotePull (die : Nat) (s : State) : Out := .next (s.remotePull die)
/-- COMMIT_RELEASE (R253). -/
def execCommitRelease (die : Nat) (s : State) : Out := .next (s.releaseCommit die)

end Sys2Proof.Machine
end

