-- ==== Sys2Proof/Machine/Link.lean ====
section
/-! DEFINITION. The C-class instructions (R333 to R336) and the package links (R337 to R340, R427). -/

namespace Sys2Proof.Machine

/-! ### The links' tables -/

/-- A package link. -/
def State.link (s : State) (k : Nat) : Link := s.hub.links.get Link.reset k
/-- Changes a package link by a function of it. -/
def State.modLink (s : State) (k : Nat) (f : Link → Link) : State :=
  s.modHub fun h => { h with links := h.links.put k (f (s.link k)) }

/-- Whether a link carries flits. -/
def Link.up (l : Link) : Bool := decide (l.width ≠ 0) && !l.retrain && !l.pend

/-- Puts the replay buffer on the link again (R339). -/
def Link.replay (l : Link) (tick : Nat) : Link := { l with wire := l.wire ++ l.rbuf, since := tick }

/-! ### Packets (R338) -/

/-- CRC-64 with the ECMA-182 polynomial: register and reflection as that standard has them, initial value and final
inversion zero (PRESUMED, log entry 36). -/
def crcBit (c : BitVec 64) (b : Bool) : BitVec 64 :=
  if c.getMsbD 0 != b then (c <<< 1) ^^^ 0x42F0E1EBA9EA3693#64 else c <<< 1
/-- One byte. -/
def crcByte (c : BitVec 64) (b : Byte) : BitVec 64 := (List.range 8).foldl (fun c i => crcBit c (b.getMsbD i)) c
/-- CRC-64 of bytes. -/
def crc64 (bs : List Byte) : BitVec 64 := bs.foldl crcByte 0#64

/-- Payload flits of a packet of `n` bytes. -/
def flitCount (n : Nat) : Nat := (n + 63) / 64

/-- The flits of a data packet: `ack`, if any, is the acknowledgement that rides on it, and whether it is a NAK. -/
def packetFlits (p : Packet) (ack : Option (BitVec 12 × Bool)) : List Byte :=
  let n := p.data.length
  let d0 := p.seq.toNat * 2 ^ 52
    + (match ack with
       | some (a, nak) => a.toNat * 2 ^ 40 + 2 ^ 39 + (if nak then 2 ^ 38 else 0)
       | none => 0)
    + (n - 1) * 2 ^ 28 + (if p.lastp then 2 ^ 27 else 0) + p.win.toNat * 2 ^ 19 + p.sdie.toNat * 2 ^ 12
    + p.schan.toNat * 2 ^ 8
  let head := leBytes 8 d0 ++ leBytes 8 p.off.toNat ++ List.replicate 40 0#8
  let body := p.data ++ List.replicate (64 * flitCount n - n) 0#8
  head ++ leBytes 8 (crc64 (head ++ body)).toNat ++ body

/-- The flit of an acknowledgement that travels alone (R338). -/
def ackFlit (ack : BitVec 12) (nak : Bool) : List Byte :=
  let head := leBytes 8 (ack.toNat * 2 ^ 40 + 2 ^ 39 + (if nak then 2 ^ 38 else 0) + 2 ^ 36) ++ List.replicate 48 0#8
  head ++ leBytes 8 (crc64 head).toNat

/-- The flits of the acknowledgements that a link has sent. A refused packet is acknowledged like any other; how the sender
learns of the refusal is outside the spec (log entry 37). -/
def Link.ackFlits (l : Link) : List (List Byte) := l.ackOut.map fun a => ackFlit a.1 (decide (a.2 = .nak))

/-- Whether every zero field of a packet's flits is zero (R15, R338). -/
def zerosOk (bs : List Byte) (data : Bool) : Bool :=
  let d0 : Word := BitVec.ofNat 64 (fieldAt bs 0 8)
  let n := (d0.extractLsb' 28 8).toNat + 1
  decide (d0.extractLsb' 16 3 = 0#3 ∧ d0.extractLsb' 0 8 = 0#8) && (bs.drop 14).take 42 == List.replicate 42 0#8
    && (if data then (bs.drop (64 + n)).all (· == 0#8)
        else decide (d0.extractLsb' 52 12 = 0#12 ∧ d0.extractLsb' 0 36 = 0#36 ∧ fieldAt bs 8 8 = 0))

/-- What arriving flits say: a data packet, or an acknowledgement alone; with the acknowledgement that they carry. -/
structure FlitRead where
  data : Option Packet
  ack  : Option (BitVec 12 × Bool)
  deriving DecidableEq, Repr

/-- Reads flits (R338); `none` where the CRC or the length is wrong, TYPE is reserved, or a zero field is not zero (R15). -/
def readFlits (bs : List Byte) : Option FlitRead :=
  let d0 : Word := BitVec.ofNat 64 (fieldAt bs 0 8)
  let n := (d0.extractLsb' 28 8).toNat + 1
  let typ := (d0.extractLsb' 36 2).toNat
  let ack := if d0.getLsbD 39 then some (d0.extractLsb' 40 12, d0.getLsbD 38) else none
  if bs.length < 64 ∨ crc64 (bs.take 56 ++ bs.drop 64) ≠ BitVec.ofNat 64 (fieldAt bs 56 8) ∨ zerosOk bs (decide (typ = 0)) = false then none
  else if typ = 1 then (if bs.length = 64 then some ⟨none, ack⟩ else none)
  else if typ = 0 ∧ bs.length = 64 + 64 * flitCount n then
    some ⟨some { seq := d0.extractLsb' 52 12, lastp := d0.getLsbD 27, win := d0.extractLsb' 19 8,
                 off := BitVec.ofNat 48 (fieldAt bs 8 8), sdie := d0.extractLsb' 12 4, schan := d0.extractLsb' 8 4,
                 data := (bs.drop 64).take n }, ack⟩
  else none

/-! ### The sender (R335, R339, R340) -/

/-- The link of an RCPY's remote address. -/
def rcpyLink (a : Word) : Nat := a.toNat / 2 ^ 56 % 2
/-- Its inbound window. -/
def rcpyWin (a : Word) : BitVec 8 := a.extractLsb' 48 8
/-- Its offset. -/
def rcpyOff (a : Word) : BitVec 48 := a.extractLsb' 0 48

/-- Whether a packet belongs to a channel. -/
def packetOf (p : Packet) (die ch : Nat) : Bool := decide (p.sdie.toNat = die ∧ p.schan.toNat = ch)

/-- The packets in a link's replay buffer whose copies have not ended. -/
def Link.live (l : Link) : List Packet := l.rbuf.filter fun p => !l.dead.contains p.seq

/-- The offset of a packet's bytes in its copy. -/
def packetAt (c : Chan) (p : Packet) : Nat := (p.off - rcpyOff c.dst).toNat

/-- Cuts an RCPY's data into packets while the replay buffer has room (R335, R339); it ends with an error where its source
fails. -/
def State.rcpySend (s : State) (die ch : Nat) : Nat → State
  | 0 => s
  | fuel + 1 =>
    match s.chans.find (chanKey die ch) with
    | none => s
    | some c =>
      let k := rcpyLink c.dst
      let l := s.link k
      if c.wait ∨ c.len ≤ c.moved ∨ 256 ≤ l.rbuf.length ∨ s.hubCut die = true then s
      else
        let off := rcpyOff c.dst + BitVec.ofNat 48 c.moved
        let n := min (256 - off.toNat % 256) (c.len - c.moved)
        let a := s.copySide die c false (c.src + BitVec.ofNat 64 c.moved) n c.moved
        if a.2.1.any (fun x => s.homeCut die x.pa x.kind) then a.2.2 else
        match a.1 with
        | some f => a.2.2.copyFails die ch c f (copyAccess false)
        | none =>
          let r := a.2.2.copyReads die ch c a.2.1
          match r.1 with
          | some f => r.2.2.copyFails die ch c f (copyAccess false)
          | none =>
            let p : Packet :=
              { seq := l.nextSeq, lastp := decide (c.moved + n = c.len), win := rcpyWin c.dst, off := off,
                sdie := BitVec.ofNat 4 die, schan := BitVec.ofNat 4 ch, data := (r.2.1.map (·.2)).flatten }
            let s := r.2.2.modLink k fun l =>
              { l with nextSeq := l.nextSeq + 1#12, rbuf := l.rbuf ++ [p], wire := if l.up then l.wire ++ [p] else l.wire,
                       since := if l.rbuf.isEmpty then s.tick else l.since }
            (s.modChan die ch fun c => { c with moved := c.moved + n }).rcpySend die ch fuel

/-- Ends an RCPY whose packets are all acknowledged (R339). -/
def State.rcpyDone (s : State) (die ch : Nat) : State :=
  match s.chans.find (chanKey die ch) with
  | none => s
  | some c =>
    if c.kind = .remote ∧ c.len ≤ c.moved ∧ (s.link (rcpyLink c.dst)).live.any (fun p => packetOf p die ch) = false then
      s.copyFinish die ch c
    else s

/-- The channels that have packets among some. -/
def packetChans (ps : List Packet) : List (Nat × Nat) := (ps.map fun p => (p.sdie.toNat, p.schan.toNat)).eraseDups

/-- Ends the copies of some packets with an error at the lowest of their bytes. -/
def State.failPackets (s : State) (code : Nat) (ps : List Packet) : State :=
  (packetChans ps).foldl (fun s d =>
    match s.chans.find (chanKey d.1 d.2) with
    | none => s
    | some c =>
      if c.kind = .remote then
        let offs := (ps.filter fun p => packetOf p d.1 d.2).map (packetAt c)
        s.copyError d.1 d.2 c code (offs.foldl min (offs.headD 0))
      else s) s

/-- A cumulative acknowledgement (R339): the packets up to it leave the replay buffer. `refused` names those whose window
was refused (R337): how the far end says so is outside the spec (log entry 37). -/
def State.linkAck (s : State) (k : Nat) (ack : BitVec 12) (refused : List (BitVec 12)) : State :=
  let l := s.link k
  let n := (ack - l.lastAck).toNat
  if n = 0 ∨ l.rbuf.length < n then s
  else
    let past := l.rbuf.take n
    let gone := past.filter fun p => !l.dead.contains p.seq
    let s := s.modLink k fun l =>
      { l with rbuf := l.rbuf.drop n, lastAck := ack, since := s.tick, dead := l.dead.filter fun q => !past.any fun p => p.seq == q }
    let s := s.failPackets 6 (gone.filter fun p => refused.contains p.seq)
    (packetChans gone).foldl (fun s d => s.rcpyDone d.1 d.2) s

/-- A request for replay from the packet after `ack` (R339). -/
def State.linkNak (s : State) (k : Nat) (ack : BitVec 12) : State :=
  let s := s.linkAck k ack []
  s.modLink k fun l => l.replay s.tick

/-! ### The receiver (R337, R339) -/

/-- Where a packet's bytes go: the place in its inbound window; `none` where the window refuses it (R337). -/
def State.inboundAt (s : State) (p : Packet) : Option (Nat × PaKind) :=
  let w := s.hub.wins.get (0#64, 0#64, 0#64) p.win.toNat
  let n := p.data.length
  let base := (w.1.extractLsb' 12 40).toNat * 4096
  if !w.1.getLsbD 63 || decide ((w.2.1.extractLsb' 0 32).toNat * 4096 < p.off.toNat + n) then none
  else
    match s.classify (base + p.off.toNat) n with
    | some (.tileData t off) => some (base + p.off.toNat, .tileData t off)
    | some .hbm => some (base + p.off.toNat, .hbm)
    | _ => none

/-- Adds a packet's bytes to the barrier of its window (R337); an object that takes none is logged to the management
controller (DEDUCED, log entry 37). -/
def State.inboundBar (s : State) (p : Packet) : State :=
  let bar := (s.hub.wins.get (0#64, 0#64, 0#64) p.win.toNat).2.2
  if bar = 0#64 then s
  else
    match s.classify bar.toNat 8 with
    | some (.sync d a) =>
      (match s.engPost d a p.data.length with
       | (s, some reason) => s.raise none d (unitRecord 3#3 0 kSYNC bar reason)
       | (s, none) => s)
    | _ => s.raise none 0 (unitRecord 3#3 0 kSYNC bar 0)

/-- The copies of the far end that are under way once a packet of one has been accepted. -/
def Link.inwardAfter (l : Link) (p : Packet) : List (BitVec 4 × BitVec 4 × BitVec 8) :=
  let c := (p.sdie, p.schan, p.win)
  (l.inward.filter fun x => decide (x ≠ c)) ++ (if p.lastp then [] else [c])

/-- Accepts a packet: its bytes are written and acknowledged, or its window refuses it. -/
def State.inbound (s : State) (k : Nat) (p : Packet) : State :=
  let answer (s : State) (a : AckKind) : State :=
    s.modLink k fun l => { l with expect := l.expect + 1#12, ackOut := l.ackOut ++ [(p.seq, a)] }
  match s.inboundAt p with
  | none => answer s .refused
  | some (pa, kind) =>
    let s := s.modLink k fun l => { l with inward := l.inwardAfter p }
    let r := s.writeHome pa 0 p.data kind
    answer ((r.1.raiseHome none 0 (unitRecord 7#3 0) kind r.2).inboundBar p) .ack

/-- A packet arrives on a link (R339). One whose CRC fails, or that is out of sequence, asks for replay. -/
def State.linkReceive (s : State) (k : Nat) (flits : List Byte) : State :=
  if !(s.link k).up then s
  else
    let nak (s : State) : State :=
      s.modLink k fun l => { l with ackOut := l.ackOut ++ [(l.expect - 1#12, .nak)] }
    match readFlits flits with
    | none => nak s
    | some a =>
      let s := match a.ack with
        | some (n, true) => s.linkNak k n
        | some (n, false) => s.linkAck k n []
        | none => s
      match a.data with
      | none => s
      | some p =>
        let behind := ((s.link k).expect - p.seq).toNat
        if behind = 0 then s.inbound k p
        else if behind ≤ 2048 then s.modLink k fun l => { l with ackOut := l.ackOut ++ [(l.expect - 1#12, .ack)] }
        else nak s

/-! ### Failures and retraining (R340, R427) -/

/-- Whether a lane belongs to a width; a number above 15 stands for a burst of CRC failures. -/
def laneIn (width lane : Nat) : Bool :=
  decide (15 < lane) || (match width with
    | 1 => true
    | 2 => decide (lane < 8)
    | 3 => decide (8 ≤ lane)
    | _ => false)

/-- A link goes down: the copies that have unacknowledged packets on it end (R340). -/
def State.linkDown (s : State) (k : Nat) : State :=
  let ps := (s.link k).live
  let s := s.modLink k fun l =>
    { l with width := 0, next := 0, retrain := false, pend := false, rbuf := [], dead := [], inward := [] }
  s.failPackets 7 ps

/-- A lane failure, or a burst of CRC failures (R340): retraining, at once or at the host's go (R427). -/
def State.laneFailure (s : State) (k lane : Nat) : State :=
  let l := s.link k
  if l.width = 0 then s
  else if l.retrain || l.pend then (if laneIn l.next lane then s.linkDown k else s)
  else if !laneIn l.width lane then s
  else if l.width = 1 then
    s.modLink k fun l => { l with next := if lane < 8 then 3 else 2, retrain := !l.hostrt, pend := l.hostrt }
  else s.linkDown k

/-- A retrained link comes back, and the sender replays (R339, R340). -/
def State.retrainDone (s : State) (k : Nat) : State :=
  if (s.link k).retrain then s.modLink k fun l => { l with width := l.next, retrain := false }.replay s.tick else s

/-! ### The instructions -/

/-- PEND of CPYQ: register sk is scoreboarded by a copy, no load, command or run having taken it since (R31, R336). -/
def State.copyPends (s : State) (k : Nat) : Bool :=
  let r := BitVec.ofNat 5 k
  s.cur.busy r && (s.chans.any fun c => decide (c.2.lan = s.focus ∧ c.2.rd = r)) && !(s.cur.loads.any fun p => decide (p.rd = r))
    && !(s.tiles.any fun t => t.2.jobs.any fun j => decide (j.lan = s.focus ∧ j.rd = r))
    && !(s.cur.mx.any fun a => a.run.any (fun x => decide (x.rd = r)) || a.cmd.any (fun x => decide (x.rd = r))
          || a.snapq.any (fun x => decide (x.rd = r)))

/-- CPYQ (R336). -/
def State.cpyq (s : State) (k : Nat) : Nat :=
  let die := lanDie s.focus
  if k < 32 then
    let mine := s.chans.filter fun c => decide (c.2.lan = s.focus)
    (if s.copyPends k then 1 else 0) + mine.length * 2 ^ 8
      + ((List.range 16).filter (s.chanFree die)).length * 2 ^ 16
  else
    let l := s.link (k - 32)
    l.width + (if l.retrain then 4 else 0) + l.rbuf.length * 8 + l.lastAck.toNat * 2 ^ 12

/-- CPY (R333). -/
def execCpy (scope : BitVec 3) (rd ra rs rl rbar : Reg) (s : State) : Out :=
  .next ((s.performLoads s.focus).issueCopy .flat rd rbar scope (s.x ra) (s.x rs) (s.x rl).toNat)

/-- CPY2 (R334). -/
def execCpy2 (scope : BitVec 3) (rd ra rbar : Reg) (s : State) : Out :=
  let va := s.x ra
  .next (if va.toNat % 32 ≠ 0 then s.trap cALIGN va
    else
      ((s.performLoads s.focus).readVirt va 32 1).finish fun d s =>
        let row := fieldAt d 16 4
        let rows := fieldAt d 20 4
        s.issueCopy (.block row rows (BitVec.ofNat 32 (fieldAt d 24 4)) (BitVec.ofNat 32 (fieldAt d 28 4))) rd rbar scope
          (BitVec.ofNat 64 (fieldAt d 0 8)) (BitVec.ofNat 64 (fieldAt d 8 8)) (row * rows))

/-- RCPY (R335); it waits in a speculative segment (R331). -/
def execRcpy (scope : BitVec 3) (rd ra rs rl rbar : Reg) (s : State) : Out :=
  .next (if s.speculative s.focus then s
    else (s.performLoads s.focus).issueCopy .remote rd rbar scope (s.x ra) (s.x rs) (s.x rl).toNat)

/-- CPYQ (R336). -/
def execCpyq (rd : Reg) (k : BitVec 32) (s : State) : Out :=
  .next (if 34 ≤ k.toNat then s.illop (.cpyq rd k)
    else (s.performLoads s.focus).retireReg rd (BitVec.ofNat 64 (s.cpyq k.toNat)) 1)

/-- COPY_COMPLETE (R327): a CPY or CPY2 moves its bytes and ends; an RCPY sends what it can. -/
def execCopyComplete (die ch : Nat) (s : State) : Out :=
  .next (match s.chans.find (chanKey die ch) with
    | none => s
    | some c =>
      if c.wait then s
      else if c.fin then (if s.postsDue then s else s.copyFinish die ch c)
      else
        match c.kind with
        | .remote =>
          if 2 ^ 40 ≤ c.len then s.copyError die ch c 5 0
          else if c.dst.toNat / 2 ^ 57 ≠ 0 then s.copyError die ch c 6 0
          else if (s.link (rcpyLink c.dst)).width = 0 then s.copyError die ch c 7 c.moved
          else if let some va := s.barWalk die c then s.copyFails die ch c ⟨0, 0, va.1, va.2⟩ 8
          else s.rcpySend die ch 256
        | _ => s.copyMove die ch c)

/-- LINK_PACKET_RECEIVE (R339). -/
def execLinkPacketReceive (k : Nat) (flits : List Byte) (s : State) : Out := .next (s.linkReceive k flits)
/-- LINK_ACK_RECEIVE (R339). -/
def execLinkAckReceive (k : Nat) (ack : BitVec 12) (refused : List (BitVec 12)) (s : State) : Out :=
  .next (if (s.link k).up then s.linkAck k ack refused else s)
/-- LINK_NAK_RECEIVE (R339). -/
def execLinkNakReceive (k : Nat) (ack : BitVec 12) (s : State) : Out :=
  .next (if (s.link k).up then s.linkNak k ack else s)
/-- LINK_REPLAY_TIMEOUT (R339). -/
def execLinkReplayTimeout (k : Nat) (s : State) : Out :=
  let l := s.link k
  .next (if l.up && !l.rbuf.isEmpty && decide (16384 ≤ s.tick - l.since) then s.modLink k fun l => l.replay s.tick else s)
/-- LINK_LANE_FAILURE (R340). -/
def execLinkLaneFailure (k lane : Nat) (s : State) : Out := .next (s.laneFailure k lane)
/-- LINK_RETRAIN_DONE (R340). -/
def execLinkRetrainDone (k : Nat) (s : State) : Out := .next (s.retrainDone k)

end Sys2Proof.Machine
end

