-- ==== Sys2Proof/Machine/Replay.lean ====
section
/-! DEFINITION. Walks made ahead of an access (R257), records that waited for a full ring (R125), and REPLAY (R230,
R231). -/

namespace Sys2Proof.Machine

/-! ### TRANSLATION_WALK -/

/-- The walks that a copy needs (R324, R328). -/
def State.walkCopy (s : State) (die ch : Nat) : State :=
  match s.chans.find (chanKey die ch) with
  | none => s
  | some c =>
    if c.wait ∨ 2 ^ 40 ≤ c.total then s
    else
      let fail (s : State) (f : Option CopyFail) (wr : Bool) : State :=
        match f with
        | some f => if f.code = 0 then s.copyFails die ch c f (copyAccess wr) else s
        | none => s
      match c.kind with
      | .remote =>
        let r := s.copySide die c false (c.src + BitVec.ofNat 64 c.moved) (min 256 (c.len - c.moved)) c.moved
        fail r.2.2 r.1 false
      | _ =>
        let p := s.copyPlan die c
        let f := earlier p.src p.dst
        fail p.s f (decide (p.src.map (·.off) ≠ f.map (·.off)))

/-- The walk for a Lantern's next line: it is held where the walk is to be asked for (R122). -/
def State.walkLantern (s : State) (k : Nat) : State :=
  let s := { s with focus := k }
  if s.cur.st ≠ .run ∨ s.cur.xheld.isSome then s
  else
    match (s.fetch k).1 with
    | .held reason => (s.fetch k).2.holdAccess reason accFetch s.cur.pc
    | _ => s

/-- A walk made ahead of its access. -/
def State.walkAhead (s : State) (w : WalkFor) : State :=
  match w with
  | .request t i => s.walkRequest t i
  | .stream p i => s.walkStream p i
  | .copy die ch => s.walkCopy die ch
  | .lantern k => s.walkLantern k

/-! ### FAULT_RECORD_APPEND (R125) -/

/-- Writes the oldest record that waits, once there is room for it. -/
def State.appendHeld (s : State) (k : Nat) : State :=
  match (s.lan k).heldRecs with
  | [] => s
  | r :: rest =>
    if (s.lan k).ringFull && !s.foldsInto k r then s
    else (s.modLan k fun l => { l with heldRecs := rest }).writeRecord k r

/-! ### REPLAY (R230, R231) -/

/-- The lead Lantern that a REPLAY names. -/
def replayLead (v : Word) : Nat := lanOf (v.toNat % 16) (v.toNat / 16 % 128)

/-- A write of REPLAY: held at the hub until the requester's earlier writes are performed. -/
def State.replayWrite (s : State) (requester : Nat) (v : Word) : State :=
  if v.toNat / 2 ^ 11 ≠ 0 ∨ 98 ≤ v.toNat / 16 % 128 ∨ 8 ≤ v.toNat % 16 ∨ (s.lan (replayLead v)).st = .idle then s.refuseWrite 0x200 v
  else s.modHub fun h => { h with replays := h.replays ++ [(requester, v)] }

/-- A request of a region that waits on a translation fault. -/
inductive Waiter where
  | request (tile id : Nat)
  | stream (port h n : Nat)
  | copy (die ch : Nat)
  | pull (die : Nat) (p : Pull)

/-- Puts a waiter into a list in the order of records. -/
def insertWaiter (e : Nat × Waiter) : List (Nat × Waiter) → List (Nat × Waiter)
  | [] => [e]
  | x :: r => if e.1 < x.1 then e :: x :: r else x :: insertWaiter e r

/-- The requests of a region that wait on a translation fault, in the order of their records. -/
def State.waiters (s : State) (lead : Nat) : List (Nat × Waiter) :=
  let rq := (s.tiles.map fun t =>
    (t.2.reqs.filter fun r => decide (r.st = .xlate) && s.inRegion lead (elTile r.el)).map fun r =>
      (r.miss.at_, Waiter.request t.1 r.id)).flatten
  let st := (s.ports.map fun p =>
    if s.inRegion lead (portTile p.1) then
      (p.2.outq.filter fun r => decide (r.st = .xlate)).map fun r => (r.miss.at_, Waiter.stream p.1 r.h r.n)
    else []).flatten
  let cp := (s.chans.filter fun c => c.2.wait && decide (c.2.lan = lead)).map fun c =>
    (c.2.miss.at_, Waiter.copy (c.1 / 16) (c.1 % 16))
  let pl := (s.beacons.map fun b => (b.2.pulls.filter fun p =>
    p.wait && (match (s.segAt p.sender).bind fun e => e.2.2.origin with
      | some k => decide (k = lead)
      | none => false)).map fun p => (p.miss.at_, Waiter.pull b.1 p)).flatten
  (rq ++ st ++ cp ++ pl).foldl (fun acc e => insertWaiter e acc) []

/-- A request that is not waiting any more: a later failure of it has its record then (R230). -/
def Miss.over (m : Miss) : Miss := { m with at_ := 0 }

/-- Retries one waiter: its walk is made again, and a fault that is still there is raised again. -/
def State.retry (s : State) (w : Waiter) : State :=
  match w with
  | .request t id =>
    let s := s.modTile t fun x => { x with reqs := x.reqs.map fun r => if r.id = id ∧ r.st = .xlate then { r with st := .new } else r }
    let s := match (s.tile t).reqs.findIdx? fun r => decide (r.id = id) with
      | some i => s.walkRequest t i
      | none => s
    s.modTile t fun x =>
      { x with reqs := x.reqs.map fun r => if r.id = id ∧ r.st ≠ .xlate then { r with miss := r.miss.over } else r }
  | .stream p h n =>
    let s := s.modPort p fun q =>
      { q with outq := q.outq.map fun r => if r.h = h ∧ r.n = n ∧ r.st = .xlate then { r with st := .new } else r }
    let s := match (s.port p).outq.findIdx? fun r => decide (r.h = h ∧ r.n = n) with
      | some i => s.walkStream p i
      | none => s
    s.modPort p fun q =>
      { q with outq := q.outq.map fun r => if r.h = h ∧ r.n = n ∧ r.st ≠ .xlate then { r with miss := r.miss.over } else r }
  | .copy die ch =>
    ((s.modChan die ch fun c => { c with wait := false }).walkCopy die ch).modChan die ch fun c =>
      if c.wait then c else { c with miss := c.miss.over }
  | .pull die p => s.modPull die p fun q => some { q with wait := false, miss := q.miss.over }

/-- A held instruction whose retry is asked for. -/
def askRetry (h : Option Miss) : Option Miss := h.map fun m => { m with ask := true }

/-- Asks for the retry of what a region's Lantern, stream programs and matrix unit hold for a translation (R122, R277,
R357). -/
def State.askRetries (s : State) (lead : Nat) : State :=
  let s := s.modLan lead fun l =>
    { l with xheld := askRetry l.xheld, mx := l.mx.map fun a =>
        { a with run := a.run.map fun r => { r with held := askRetry r.held },
                 cmd := a.cmd.map fun c => { c with held := askRetry c.held },
                 snapq := a.snapq.map fun c => { c with held := askRetry c.held } } }
  { s with ports := s.ports.map fun p =>
      if s.inRegion lead (portTile p.1) then
        (p.1, { p.2 with prog := p.2.prog.map fun g => { g with xheld := askRetry g.xheld } })
      else p }

/-- The retry that the oldest REPLAY for a region asks for. -/
def State.replayRetry (s : State) (lead : Nat) : State :=
  if s.hub.replays.any fun r => decide (replayLead r.2 = lead) then
    let s := s.modHub fun h =>
      match h.replays.findIdx? fun r => decide (replayLead r.2 = lead) with
      | some i => { h with replays := h.replays.eraseIdx i }
      | none => h
    let s := s.askRetries lead
    (s.waiters lead).foldl (fun s w => s.retry w.2) s
  else s

/-- TRANSLATION_WALK (R257). -/
def execTranslationWalk (w : WalkFor) (s : State) : Out := .next (s.walkAhead w)
/-- FAULT_RECORD_APPEND (R125). -/
def execFaultRecordAppend (lan : Nat) (s : State) : Out := .next (s.appendHeld lan)
/-- REPLAY (R230). -/
def execReplay (requester : Nat) (v : Word) (s : State) : Out := .next (s.replayWrite requester v)
/-- REPLAY_RETRY (R231). -/
def execReplayRetry (lan : Nat) (s : State) : Out := .next (s.replayRetry lan)

end Sys2Proof.Machine
end

