-- ==== Sys2Proof/Machine/HubRegs.lean ====
section
/-! DEFINITION. The hub's registers (R337, R368, R384, R413 to R416, R422, R424, R427, R471), notify pages, status words and
interrupts (R417, R418, R421, R422), revocation (R425). -/

namespace Sys2Proof.Machine

/-! ### Interfaces -/

/-- An interface. -/
def State.iface (s : State) (n : Nat) : Iface := s.hub.ifaces.get Iface.reset n
/-- Changes an interface by a function of it. -/
def State.modIface (s : State) (n : Nat) (f : Iface → Iface) : State :=
  s.modHub fun h => { h with ifaces := h.ifaces.put n (f (h.ifaces.get Iface.reset n)) }

/-- V. -/
def Iface.v (f : Iface) : Bool := f.d0.getLsbD 63
/-- MAINT. -/
def Iface.maint (f : Iface) : Bool := f.d0.getLsbD 62
/-- RVK. -/
def Iface.rvk (f : Iface) : Bool := f.d0.getLsbD 61
/-- PASID. -/
def Iface.pasid (f : Iface) : Nat := (f.d0.extractLsb' 0 20).toNat
/-- Packets of the ring. -/
def Iface.ring (f : Iface) : Nat := 2 ^ (f.d1.extractLsb' 0 4).toNat
/-- RINGBASE. -/
def Iface.ringBase (f : Iface) : Nat := (f.d1.extractLsb' 12 36).toNat * 4096
/-- STATADDR. -/
def Iface.stat (f : Iface) : Nat := (f.d2.extractLsb' 6 42).toNat * 64
/-- IE. -/
def Iface.ie (f : Iface) : Bool := f.d3.getLsbD 16
/-- IRTE. -/
def Iface.irte (f : Iface) : Nat := (f.d3.extractLsb' 0 12).toNat

/-- A counter plus one, saturating (R421). -/
def satInc (v : Word) : Word := if v = 0xFFFFFFFFFFFFFFFF#64 then v else v + 1#64

/-- Writes a status word through the host-owned stage; an access that the stage refuses stops the interface (R424). -/
def State.statusWord (s : State) (n off : Nat) (v : Word) : State :=
  match s.hostStage ((s.iface n).stat + off) true with
  | some a => { s with mem := s.mem.store (hostPa a) (leBytes 8 v.toNat) }
  | none => s.modIface n fun f => { f with stopped := true }

/-- Counts a write to a notify page that is ignored (R417, R418). -/
def State.ignoreWrite (s : State) (n : Nat) : State :=
  let s := s.modIface n fun f => { f with ignored := satInc f.ignored }
  s.statusWord n 0x18 (s.iface n).ignored

/-! ### Interrupts (R422) -/

/-- Sends an interface's interrupt through its remap entry, past the host-owned stage. PEND is set also where the entry drops
the message, and every owed interrupt is counted (DESIGN CHOICE, log entry 76). -/
def State.sendIrq (s : State) (n : Nat) : State :=
  let s := s.modIface n fun f => { f with pend := true }
  let e := s.hub.irtes.get (0#64, 0#64) (s.iface n).irte
  if e.1.getLsbD 63 then
    let a := (e.2.extractLsb' 2 46).toNat * 4
    let d := e.1.extractLsb' 0 32
    { s with mem := s.mem.store (hostPa a) (leBytes 4 d.toNat) }.modHub fun h => { h with irqs := h.irqs ++ [(a, d)] }
  else s.modHub fun h => { h with irqdrop := satInc h.irqdrop }

/-- The interrupt of a completion that asks for one. -/
def State.raiseIrq (s : State) (n : Nat) : State :=
  let f := s.iface n
  if f.pend then s.modIface n fun f => { f with owed := f.owed + 1 }
  else if f.ie then s.sendIrq n
  else s

/-- An acknowledge: PEND is cleared, and an owed interrupt is sent. -/
def State.ackIrq (s : State) (n : Nat) : State :=
  let f := s.iface n
  if !f.v then s
  else
    let s := s.modIface n fun f => { f with pend := false, owed := f.owed - 1 }
    if f.owed = 0 then s else s.sendIrq n

/-! ### Doorbells (R417, R418) -/

/-- A doorbell. -/
def State.doorbell (s : State) (n : Nat) (v : Word) : State :=
  let f := s.iface n
  let t := v.extractLsb' 0 16
  if !f.v then s
  else if f.ring < (t - f.head).toNat then s.ignoreWrite n
  else s.modIface n fun f => { f with tail := t }

/-- A write of `size` bytes to a notify page (R417). -/
def State.notifyWrite (s : State) (off size : Nat) (v : Word) : State :=
  let n := off / 4096
  if size = 4 ∨ size = 8 then
    match off % 4096 with
    | 0x000 => s.doorbell n v
    | 0x040 => s.ackIrq n
    | _ => if (s.iface n).v then s.ignoreWrite n else s
  else if (s.iface n).v then s.ignoreWrite n else s

/-! ### Completions (R420, R421) -/

/-- What a packet asks for at its completion. -/
structure Reply where
  iface : Nat
  pasid : Nat
  tag   : Nat
  compl : Word
  irq   : Bool

/-- Completes a packet: the record first, then the counters, then the interrupt. -/
def State.complete (s : State) (r : Reply) (status : Nat) (launch : Nat) : State :=
  let rec_ := leBytes 4 r.tag ++ leBytes 1 status ++ leBytes 3 0 ++ leBytes 8 launch
  let w := s.mayWriteAs 0 r.pasid r.compl 16
  let lost := w.1.isSome
  let s := if lost then w.2 else w.2.writeAs 0 r.pasid r.compl rec_
  let s := s.modIface r.iface fun f =>
    { f with done := satInc f.done, refused := if status = 0 then f.refused else satInc f.refused,
             lost := if lost then satInc f.lost else f.lost }
  let f := s.iface r.iface
  let s := s.statusWord r.iface 0x08 f.done
  let s := if status = 0 then s else s.statusWord r.iface 0x10 f.refused
  let s := if lost then s.statusWord r.iface 0x20 f.lost else s
  if r.irq then s.raiseIrq r.iface else s

/-! ### Interface entries (R415, R416, R425) -/

/-- Ends every accepted launch of an interface (R425). -/
def State.killIface (s : State) (n : Nat) : State :=
  (s.hub.launches.filter fun l => decide (l.2.iface = n) && l.2.status.isNone).foldl (fun s l => s.endLaunch l.1 5) s

/-- A write of an entry's dword 0 (R416). With HEAD and PEND, the count of packets read in the status words and the owed
interrupts begin again, and the other status words count on (DESIGN CHOICE, log entry 76). -/
def State.ifaceWrite0 (s : State) (n : Nat) (v : Word) : State :=
  let f := s.iface n
  if f.v && decide (v.extractLsb' 0 20 ≠ f.d0.extractLsb' 0 20) then s
  else
    let rvk := v.getLsbD 61 || (v.getLsbD 63 && f.rvk)
    let d0 := (v &&& 0xC0000000000FFFFF#64) ||| (if rvk then 0x2000000000000000#64 else 0#64)
    let s := s.modIface n fun f =>
      let f := { f with d0 := d0, stopped := f.stopped && v.getLsbD 63 }
      if v.getLsbD 63 && !(s.iface n).v then
        { f with head := 0#16, tail := 0#16, pend := false, owed := 0, sHead := 0#64 }
      else f
    if v.getLsbD 61 && v.getLsbD 60 then s.killIface n else s

/-- A write of one of an entry's dwords. Dwords 1 to 3 change only while V = 0, but for IE. -/
def State.ifaceWrite (s : State) (n k : Nat) (v : Word) : State :=
  let f := s.iface n
  match k with
  | 0 => s.ifaceWrite0 n v
  | 1 => if f.v then s else s.modIface n fun f => { f with d1 := v &&& 0x0000FFFFFFFFF00F#64 }
  | 2 => if f.v then s else s.modIface n fun f => { f with d2 := v &&& 0x0000FFFFFFFFFFC0#64 }
  | 3 =>
    if f.v && decide (v.extractLsb' 0 12 ≠ f.d3.extractLsb' 0 12) then s
    else s.modIface n fun f => { f with d3 := v &&& 0x10FFF#64 }
  | _ => s

/-- Revokes an interface (R425). -/
def State.revoke (s : State) (n : Nat) (kill : Bool) : State :=
  let s := s.modIface n fun f => { f with d0 := f.d0 ||| 0x2000000000000000#64 }
  if kill then s.killIface n else s

/-! ### Package-link control (R427) -/

/-- A write of GO for a link. -/
def State.retrainGo (s : State) (k : Nat) : State :=
  if (s.link k).pend then s.modLink k fun l => { l with pend := false, retrain := true } else s

/-- A write of LINKCTL. -/
def State.linkctl (s : State) (v : Word) : State :=
  (List.range 2).foldl (fun s k =>
    let s := s.modLink k fun l => { l with hostrt := v.getLsbD k }
    if v.getLsbD (8 + k) then s.retrainGo k else s) s

/-! ### The Beacon page (R384, R471) -/

/-- Whether bytes lie wholly in a die's HBM. -/
def inHbm (die base n : Nat) : Bool := decide (die * 2 ^ 37 ≤ base ∧ base + n ≤ (die + 1) * 2 ^ 37)

/-- Whether some launch holds a segment, a buffer or a local slice on a die. -/
def State.dieInUse (s : State) (die : Nat) : Bool :=
  !(s.beacon die).segs.isEmpty || s.hub.launches.any fun l =>
    (l.2.slices.find die).isSome || l.2.bufs.any fun b => decide (b.die = die)

/-- Whether an overflow area of a die may be set. -/
def State.syncAreaOk (s : State) (die base pages : Nat) : Bool :=
  let b := s.beacon die
  inHbm die base (4096 * pages) && !s.dieInUse die
    && (decide (pages = 0) || decide (b.savepg = 0)
        || decide (base + 4096 * pages ≤ b.savebase ∨ b.savebase + 4096 * b.savepg ≤ base))

/-- Writes BASE or PAGES of a die's Daymark; HEAD becomes 0 (R471). -/
def State.ringReset (s : State) (die off : Nat) (v : Word) : State :=
  s.modBeacon die fun b =>
    match off with
    | 0x108 => { b with dayBase := v &&& 0x000FFFFFFFFFF000#64, dayHead := 0#64 }
    | 0x110 => { b with dayPages := v &&& 0xFFFFFFFF#64, dayHead := 0#64 }
    | _ => b

/-- A write to a die's Beacon page; one that is discarded whole is logged. -/
def State.beaconWrite (s : State) (die off : Nat) (v : Word) : State :=
  let b := s.beacon die
  let no := s.refuseWrite (0x30000 + 0x1000 * die + off) v
  let n := v.toNat
  let badBase := n / 2 ^ 52 ≠ 0 ∨ n % 4096 ≠ 0
  let badPages := n / 2 ^ 32 ≠ 0
  match off with
  | 0x000 => if n % 2 ^ 32 < 1024 then no else s.modBeacon die fun b => { b with quantum := n % 2 ^ 32 }
  | 0x008 => if badBase ∨ inHbm die n (4096 * b.savepg) = false then no else s.modBeacon die fun b => { b with savebase := n }
  | 0x010 =>
    if badPages ∨ inHbm die b.savebase (4096 * n) = false then no else s.modBeacon die fun b => { b with savepg := n }
  | 0x018 => s.placeWrite die v
  | 0x020 =>
    if badBase ∨ s.syncAreaOk die n b.syncpg = false then no else s.modBeacon die fun b => { b with syncbase := n }
  | 0x028 =>
    if badPages ∨ s.syncAreaOk die b.syncbase n = false then no else s.modBeacon die fun b => { b with syncpg := n }
  | 0x100 => s.modBeacon die fun b => { b with dayCtl := v &&& 0x1F1F#64 }
  | 0x108 => s.ringReset die 0x108 v
  | 0x110 => s.ringReset die 0x110 v
  | 0x120 => s.modBeacon die fun b => { b with cmask0 := v }
  | 0x128 => s.modBeacon die fun b => { b with cmask1 := v &&& 0x3FFFFFFFF#64 }
  | _ => s

/-! ### The matrix arbiter (R368) -/

/-- A write to a die's arbiter. One of CAP makes a decision due where no k-step is left whose end would make one (R368;
DEDUCED, log entry 72). -/
def State.arbWrite (s : State) (die off : Nat) (v : Word) : State :=
  let no := s.refuseWrite (0x20000 + 0x1000 * die + off) v
  let cap := v.toNat % 2 ^ 17
  if off = 0 then
    if v.toNat / 2 ^ 21 ≠ 0 ∨ cap = 0 ∨ 50176 < cap then no
    else
      let s := { s with mgmt := { s.mgmt with capSaved := s.mgmt.capSaved.del die } }
      s.modArb die fun a =>
        { a with smode := v.getLsbD 20, pmax := (v.extractLsb' 17 3).toNat, cap := cap, due := a.due || s.mxHeld die = 0 }
  else if 0x100 ≤ off ∧ off < 0x300 then
    if v.toNat / 2 ^ 20 % 2 ^ 43 ≠ 0 then no
    else
      let i := (off - 0x100) / 8
      s.modArb die fun a => { a with slots := a.slots.put i v }
  else s

/-! ### Every register (R413, R414) -/

/-- A write of dword `k` of an inbound window entry (R337). -/
def State.windowEntry (s : State) (n k : Nat) (v : Word) : State :=
  s.modHub fun h =>
    let w := h.wins.get (0#64, 0#64, 0#64) n
    let w := match k with
      | 0 => (v &&& 0x800FFFFFFFFFF000#64, w.2.1, w.2.2)
      | 1 => (w.1, v &&& 0xFFFFFFFF#64, w.2.2)
      | 2 => (w.1, w.2.1, v)
      | _ => w
    { h with wins := h.wins.put n w }

/-- A write of dword `k` of an interrupt remap entry (R422). -/
def State.irteWrite (s : State) (n k : Nat) (v : Word) : State :=
  s.modHub fun h =>
    let e := h.irtes.get (0#64, 0#64) n
    { h with irtes := h.irtes.put n (if k = 0 then (v &&& 0x80000000FFFFFFFF#64, e.2) else (e.1, v &&& 0x0000FFFFFFFFFFFC#64)) }

/-- A write to a hub register in a view. `requester` is the hub's name for whoever writes: 0 the supervisor's side, 1 the
host. Register offsets are multiples of 8, and no other offset is a register's (DESIGN CHOICE, log entry 78). -/
def State.regWrite (s : State) (view : View) (off : Nat) (v : Word) : State :=
  match view with
  | .iface size => s.notifyWrite off size v
  | _ =>
    let pf := decide (view = .physical)
    if off % 8 ≠ 0 then s
    else if off = 0x10 then s.modHub fun h => { h with hstroot := v &&& 0x800FFFFFFFFFF000#64 }
    else if off = 0x100 then s.linkctl v
    else if off = 0x200 then s.replayWrite (if pf then 1 else 0) v
    else if 0x10000 ≤ off ∧ off < 0x12000 then
      if pf then s else s.windowEntry ((off - 0x10000) / 32) (off / 8 % 4) v
    else if 0x20000 ≤ off ∧ off < 0x28000 then s.arbWrite (off / 0x1000 % 16) (off % 0x1000) v
    else if 0x30000 ≤ off ∧ off < 0x38000 then s.beaconWrite (off / 0x1000 % 16) (off % 0x1000) v
    else if 0x100000 ≤ off ∧ off < 0x140000 then s.ifaceWrite ((off - 0x100000) / 64) (off / 8 % 8) v
    else if 0x180000 ≤ off ∧ off < 0x190000 then s.irteWrite ((off - 0x180000) / 16) (off / 8 % 2) v
    else s

/-- DOORBELL (R418). -/
def execDoorbell (iface : Nat) (v : Word) (s : State) : Out := .next (s.doorbell iface v)
/-- INTERRUPT_ACK (R422). -/
def execInterruptAck (iface : Nat) (s : State) : Out := .next (s.ackIrq iface)
/-- IFACE_ASSIGN (R416). -/
def execIfaceAssign (iface : Nat) (dword0 : Word) (s : State) : Out := .next (s.ifaceWrite0 iface (dword0 ||| 0x8000000000000000#64))
/-- IFACE_REVOKE (R425). -/
def execIfaceRevoke (iface : Nat) (s : State) : Out := .next (s.revoke iface false)
/-- IFACE_KILL (R425). -/
def execIfaceKill (iface : Nat) (s : State) : Out := .next (s.revoke iface true)
/-- IFACE_UNASSIGN (R416). -/
def execIfaceUnassign (iface : Nat) (s : State) : Out :=
  .next (s.ifaceWrite0 iface ((s.iface iface).d0 &&& 0x40000000000FFFFF#64))
/-- LINK_RETRAIN_GO (R427). -/
def execLinkRetrainGo (k : Nat) (s : State) : Out := .next (s.retrainGo k)
/-- DAYMARK_RING_RESET (R471). -/
def execDaymarkRingReset (die off : Nat) (v : Word) (s : State) : Out := .next (s.ringReset die off v)
/-- REGISTER_WRITE (R414). -/
def execRegisterWrite (view : View) (off : Nat) (v : Word) (s : State) : Out := .next (s.regWrite view off v)

end Sys2Proof.Machine
end

