-- ==== Sys2Proof/Machine/Hub.lean ====
section
/-! DEFINITION. Request packets and launches at the hub (R35 to R41, R295, R376, R418 to R421, R425). -/

namespace Sys2Proof.Machine

/-! ### Launch records (R35 to R39) -/

/-- A level entry's COUNT, SCOPE and DOMAIN. -/
structure Level where
  count : Nat
  scope : Nat
  dom   : Nat
  deriving DecidableEq, Repr

/-- Level entry `i` of a record, as a number. -/
def levelWord (r : List Byte) (i : Nat) : Nat := fieldAt r (0x20 + 4 * i) 4

/-- A level entry (R36). -/
def levelOf (v : Nat) : Level := { count := v / 2 ^ 16, scope := v / 2 ^ 8 % 8, dom := v % 8 }

/-- The levels of a record. -/
def levelsOf (r : List Byte) : List Level := (List.range (fieldAt r 0 1)).map fun i => levelOf (levelWord r i)

/-- Whether DOMAIN decreases strictly from level to level. -/
def descending : List Level → Bool
  | a :: b :: r => decide (b.dom < a.dom) && descending (b :: r)
  | _ => true

/-- COUNT of a record's level of a domain. -/
def levelCount (ls : List Level) (dom : Nat) : Option Nat := (ls.find? fun l => decide (l.dom = dom)).map (·.count)

/-- Whether a level entry fails R36, R37 or R39; a die level names dies of the package. -/
def levelBad (v : Nat) : Bool :=
  let l := levelOf v
  decide (l.count = 0) || decide (v / 2 ^ 11 % 32 ≠ 0) || decide (v / 2 ^ 3 % 32 ≠ 0) || decide (5 < l.dom)
    || decide (l.scope < l.dom) || decide (l.dom = 5 ∧ l.count ≠ 1) || decide (l.dom = 4 ∧ 8 < l.count)

/-- Whether a launch record is malformed (R35 to R37, R39). What counts as out of range where no rule bounds a field is log
entry 75 (DESIGN CHOICE). -/
def recordBad (r : List Byte) : Bool :=
  let nlev := fieldAt r 0 1
  let nent := fieldAt r 1 1
  decide (nlev = 0 ∨ 8 < nlev ∨ nent = 0 ∨ 8 < nent ∨ 64 < fieldAt r 2 1) || decide (8 ≤ fieldAt r 3 1)
    || decide (fieldAt r 4 4 / 2 ^ 20 ≠ 0) || decide (fieldAt r 0x80 128 ≠ 0)
    || ((List.range 8).any fun i => if i < nlev then levelBad (levelWord r i) else decide (levelWord r i ≠ 0))
    || ((List.range 8).any fun i =>
        let e := fieldAt r (0x40 + 8 * i) 8
        if i < nent then decide (e % 64 ≠ 0) else decide (e ≠ 0))
    || !descending (levelsOf r)

/-! ### The buffer table (R38, R295) -/

/-- A buffer table entry. -/
def bufferOf (e : List Byte) : Buffer :=
  let tx := fieldAt e 0x12 1
  let ty := fieldAt e 0x13 1
  { va := fieldAt e 0 8, size := fieldAt e 8 8, phaser := decide (fieldAt e 0x10 1 = 1), die := fieldAt e 0x11 1,
    tile := if tx = 0xFF ∧ ty = 0xFF then none else some (tx, ty), members := fieldAt e 0x14 4, pa := 0, onTiles := false,
    wasTiles := false, pins := 0 }

/-- Whether a buffer table entry is malformed by itself. -/
def bufferBad (dies : Nat) (e : List Byte) : Bool :=
  let b := bufferOf e
  decide (1 < fieldAt e 0x10 1) || decide (fieldAt e 0x18 8 ≠ 0) || (!b.phaser && decide (b.members ≠ 0))
    || decide (dies ≤ b.die) || decide (b.size = 0 ∨ 2 ^ 40 ≤ b.size) || decide (b.va % 4096 ≠ 0 ∨ 2 ^ 48 < b.va + b.size)
    || (match b.tile with
        | some (x, y) => !isMemTile x y || decide (b.size % 4096 ≠ 0) || b.phaser
        | none => false)
    || (b.phaser && decide (b.size ≠ 32))

/-- Whether two buffers share a page. -/
def Buffer.meets (a b : Buffer) : Bool := decide (a.va < b.va + b.pages * 4096 ∧ b.va < a.va + a.pages * 4096)

/-- Whether a buffer meets a later one. -/
def buffersMeet : List Buffer → Bool
  | [] => false
  | b :: r => r.any b.meets || buffersMeet r

/-- Bytes of a launch's buffers on the tile of a buffer. -/
def tileBytes (bs : List Buffer) (b : Buffer) : Nat :=
  bs.foldl (fun acc c => if c.tile = b.tile ∧ c.die = b.die then acc + c.size else acc) 0

/-- Whether a buffer table is malformed for a PASID. -/
def State.tableBad (s : State) (pasid dies : Nat) (es : List (List Byte)) : Bool :=
  let bs := es.map bufferOf
  es.any (bufferBad dies) || buffersMeet bs || (bs.any fun b => b.tile.isSome && decide (393216 < tileBytes bs b))
    || bs.any fun b => s.anyMapped pasid b.va b.pages

/-! ### Acceptance (R40, R376, R420) -/

/-- `n` records of `size` bytes. -/
def cut (bs : List Byte) (size n : Nat) : List (List Byte) := (List.range n).map fun i => (bs.drop (size * i)).take size

/-- The model's own status of a packet whose reads an edge holds: it waits (R43). -/
def packetHeld : Nat := 0

/-- Reads bytes for the hub by die 0's table, or the status of the refusal: translation fails, the access is refused, or
the data are uncorrectable (R420, R423; the last DEDUCED, log entry 38). -/
def State.hubReadAs (s : State) (pasid : Nat) (va : Word) (n : Nat) : Except Nat (List Byte) × State :=
  match s.readAs 0 pasid va n with
  | (.ok (bs, false), s) => (.ok bs, s)
  | (.ok (_, true), s) => (.error 3, s)
  | (.error e, s) => (.error (if e.2 = xlCut then packetHeld else 3), s)

/-- Reads and checks a launch's entry descriptors (R374, R376): the status of the first that fails. -/
def State.readEntries (s : State) (pasid dies : Nat) (clMax : Option Nat) (vas : List Word) :
    Except Nat (List (Word × SegDesc)) × State :=
  vas.foldl (fun acc va =>
    match acc.1 with
    | .error e => (.error e, acc.2)
    | .ok ds =>
      match acc.2.hubReadAs pasid va 64 with
      | (.error e, s) => (.error e, s)
      | (.ok bs, s) =>
        match s.hubReadAs pasid (BitVec.ofNat 64 (descTable bs)) (8 * descExtra bs) with
        | (.error e, s) => (.error e, s)
        | (.ok ex, s) =>
          let d := descOf bs ex
          if segDescBad bs d clMax || (decide (d.die ≠ 15) && decide (dies ≤ d.die)) then (.error 2, s)
          else (.ok (ds ++ [(va, d)]), s)) (.ok [], s)

/-- Reads and checks a launch record and accepts it; or the status of its refusal. The launch runs in the interface's PASID
(DESIGN CHOICE, log entry 75). -/
def State.readLaunch (s : State) (r : Reply) (maint : Bool) (va : Word) : Except Nat Launch × State :=
  match s.hubReadAs r.pasid va 256 with
  | (.error e, s) => (.error e, s)
  | (.ok b, s) =>
    if recordBad b then (.error 2, s)
    else
      let ls := levelsOf b
      let dies := (levelCount ls 4).getD 1
      let nbuf := fieldAt b 2 1
      match s.hubReadAs r.pasid (BitVec.ofNat 64 (fieldAt b 0x18 8)) (32 * nbuf) with
      | (.error e, s) => (.error e, s)
      | (.ok bt, s) =>
        let es := cut bt 32 nbuf
        if s.tableBad r.pasid dies es then (.error 2, s)
        else
          let vas := (List.range (fieldAt b 1 1)).map fun i => BitVec.ofNat 64 (fieldAt b (0x40 + 8 * i) 8)
          match s.readEntries r.pasid dies (levelCount ls 2) vas with
          | (.error e, s) => (.error e, s)
          | (.ok ds, s) =>
            (.ok { id := r.iface * 2 ^ 32 + s.hub.count, iface := r.iface, pasid := r.pasid, tag := r.tag, compl := r.compl,
                   irq := r.irq, contained := decide (fieldAt b 3 1 % 2 = 1), rm := BitVec.ofNat 2 (fieldAt b 3 1 / 2),
                   maint := maint, dies := dies, hasDie := (levelCount ls 4).isSome, regMax := levelCount ls 3,
                   clMax := levelCount ls 2, deadline := BitVec.ofNat 64 (fieldAt b 8 8), pool := fieldAt b 0x10 8,
                   bufs := es.map bufferOf, entries := ds, next := 0, placed := false, status := none, slices := [] }, s)

/-! ### Service (R418 to R420) -/

/-- Whether an interface has a packet to serve. -/
def Iface.ready (f : Iface) : Bool := f.v && !f.stopped && decide (f.head ≠ f.tail)

/-- The interface whose packet the hub serves next: in rotating order after the one it served last. -/
def State.nextIface (s : State) : Option Nat :=
  ((List.range 4096).map fun i => (s.hub.served + 1 + i) % 4096).find? fun n => (s.iface n).ready

/-- Whether a packet is BADPKT (R419, R420). -/
def packetBad (p : List Byte) : Bool :=
  let op := fieldAt p 0 1
  !(decide (op = 1 ∨ op = 2)) || decide (2 ≤ fieldAt p 1 1) || decide (fieldAt p 2 2 ≠ 0) || decide (fieldAt p 0x18 40 ≠ 0)
    || (if op = 1 then decide (fieldAt p 8 8 % 256 ≠ 0) else decide (fieldAt p 8 8 ≠ 0)) || decide (fieldAt p 0x10 8 % 16 ≠ 0)

/-- Completes a packet at once; `none` where an edge holds the completion's write (R43). -/
def State.completeNow (s : State) (r : Reply) (status : Nat) : Option State :=
  if s.asCut 0 r.pasid r.compl 16 then none else some (s.complete r status 0)

/-- Checks a packet and completes it, or accepts its launch; `none` where it waits at an edge. -/
def State.checkPacket (s : State) (n : Nat) (p : List Byte) : Option State :=
  let f := s.iface n
  let r : Reply := { iface := n, pasid := f.pasid, tag := fieldAt p 4 4, compl := BitVec.ofNat 64 (fieldAt p 0x10 8),
                     irq := decide (fieldAt p 1 1 % 2 = 1) }
  if f.rvk then s.completeNow r 0x0B
  else if packetBad p then s.completeNow r 1
  else if fieldAt p 0 1 = 2 then s.completeNow r 0
  else
    match s.readLaunch r f.maint (BitVec.ofNat 64 (fieldAt p 8 8)) with
    | (.error e, s) => if e = packetHeld then none else s.completeNow r e
    | (.ok l, s) =>
      some <| s.modHub fun h => { h with launches := h.launches.put l.id l, count := (h.count + 1) % 2 ^ 32 }

/-- Serves one packet. A ring or status access that the host-owned stage refuses stops the interface (R424); a packet whose
accesses an edge holds is left in its ring (R43). -/
def State.servePacket (s : State) : State :=
  let s0 := s
  match (if s.hubCut 0 then none else s.nextIface) with
  | none => s
  | some n =>
    let f := s.iface n
    let s := s.modHub fun h => { h with served := n }
    match s.hostStage (f.ringBase + 64 * (f.head.toNat % f.ring)) false with
    | none => s.modIface n fun f => { f with stopped := true }
    | some a =>
      let p := s.mem.bytes (hostPa a) 64
      let s := s.modIface n fun f => { f with head := f.head + 1#16, sHead := satInc f.sHead }
      let s := s.statusWord n 0 (s.iface n).sHead
      (s.checkPacket n p).getD s0

/-! ### LAUNCH_COMPLETE (R41, R421) -/

/-- Whether nothing of a launch is left: its segments are gone, its pulls and copies over. -/
def State.launchGone (s : State) (l : Launch) : Bool :=
  (decide (l.status ≠ none) || (l.placed && decide (l.entries.length ≤ l.next)))
    && !(s.allSegs.any fun e => decide (e.2.2.launch = l.id))
    && !(s.beacons.any fun b => b.2.pulls.any fun p => decide (p.launch = l.id))
    && !(s.chans.any fun c => decide (c.2.launch = l.id))

/-- Whether no store stands in a bank's line or waits to be written home: then every write is visible (R41; log entry
39). -/
def State.settled (s : State) : Bool := s.tiles.all fun t => t.2.wb.isEmpty && t.2.bankq.all fun q => !q.store

/-- Completes a launch. -/
def State.launchComplete (s : State) (id : Nat) : State :=
  match s.hub.launches.find id with
  | none => s
  | some l =>
    if s.launchGone l && s.settled && !s.asCut 0 l.pasid l.compl 16 then
      let s := s.modHub fun h => { h with launches := h.launches.del id }
      s.complete { iface := l.iface, pasid := l.pasid, tag := l.tag, compl := l.compl, irq := l.irq } (l.status.getD 0) l.id
    else s

/-- HUB_SERVE_PACKET (R418). -/
def execHubServePacket (s : State) : Out := .next s.servePacket
/-- LAUNCH_COMPLETE (R41). -/
def execLaunchComplete (launch : Nat) (s : State) : Out := .next (s.launchComplete launch)

end Sys2Proof.Machine
end

