-- ==== Sys2Proof/Machine/Reliab.lean ====
section
/-! DEFINITION. The P-class instructions (R435 to R440), the spare's rotation and mismatches (R430, R431), fences (R433) and
failures of UCIe edges (R428). -/

namespace Sys2Proof.Machine

/-! ### What the six share -/

/-- A P-class instruction whose operands lie outside its limits: rd is all ones. -/
def State.pRefuse (s : State) (rd : Reg) : State := s.retireReg rd allOnes 1

/-- The Lantern's earlier loads are performed before a P-class instruction issues. -/
def State.pIssue (s : State) : State := s.performLoads s.focus

/-! ### TLBI (R435) -/

/-- Whether some bank access made by translation of a PASID still stands in line; `none` asks for any. -/
def State.bankBusy (s : State) (pasid : Option Nat) : Bool :=
  s.tiles.any fun t => t.2.bankq.any fun q =>
    match q.lead, pasid with
    | some k, some p => decide (s.pasidOf k = p)
    | _, _ => true

/-- Performs every load that Lanterns have translated and not yet performed. -/
def State.performAll (s : State) : State := s.lans.foldl (fun s l => s.performLoads l.1) s

/-- TLBI: rd is 0 once the accesses made by a removed translation are performed. -/
def State.tlbiRun (s : State) (rd : Reg) (k : TlbiKind) (pasid : Option Nat) : State :=
  let s := s.performAll
  if s.bankBusy pasid then s else (s.tlbi k).retireReg rd 0#64 1

/-- KIND, and whether the zero bits of x(ra) are zero. -/
def tlbiKind (v : Word) : Option Nat := if v.toNat / 2 ^ 20 % 2 ^ 42 = 0 then some (v.toNat / 2 ^ 62) else none

/-- TLBI, KIND 0 and KIND 3. -/
def execTlbiPage (rd ra rb : Reg) (s : State) : Out :=
  let v := s.x ra
  let p := v.toNat % 2 ^ 20
  .next (if tlbiKind v = some 0 then s.tlbiRun rd (.page (s.x rb).toNat p) (some p) else s.pRefuse rd)

/-- TLBI, KIND 1. -/
def execTlbiPasid (rd ra rb : Reg) (s : State) : Out :=
  let v := s.x ra
  let p := v.toNat % 2 ^ 20
  .next (if tlbiKind v = some 1 ∧ s.x rb = 0#64 then s.tlbiRun rd (.pasid p) (some p) else s.pRefuse rd)

/-- TLBI, KIND 2. -/
def execTlbiAll (rd ra rb : Reg) (s : State) : Out :=
  let v := s.x ra
  .next (if tlbiKind v = some 2 ∧ v.toNat % 2 ^ 20 = 0 ∧ s.x rb = 0#64 then s.tlbiRun rd .all none else s.pRefuse rd)

/-! ### WMODE (R436) -/

/-- WMODE. -/
def execWmode (rd ra rb : Reg) (s : State) : Out :=
  let d := (s.x ra).toNat
  let v := s.x rb
  .next (if 8 ≤ d then s.pRefuse rd else (s.pIssue.setMode d v).retireReg rd (s.modeOf d) 1)

/-! ### SPARE (R437) -/

/-- A row word: die and row. -/
def rowOf (v : Word) : Option (Nat × Nat) :=
  let n := v.toNat
  if n / 2 ^ 13 ≠ 0 ∨ 8 ≤ n / 2 ^ 9 ∨ 448 ≤ n % 2 ^ 9 then none else some (n / 2 ^ 9, n % 2 ^ 9)

/-- An op word: OP and ARG. -/
def spareOp (v : Word) : Option (Nat × Nat) :=
  let n := v.toNat
  if n / 2 ^ 40 ≠ 0 ∨ n / 2 ^ 4 % 2 ^ 4 ≠ 0 then none else some (n % 2 ^ 4, n / 2 ^ 8 % 2 ^ 32)

/-- A SPARE of operation `op` on the Lantern whose turn it is. -/
def State.spareCmd (s : State) (op : Nat) (rd ra rb : Reg) (k : Nat → Nat → Nat → State → State) : State :=
  match rowOf (s.x ra), spareOp (s.x rb) with
  | some (die, row), some (o, arg) => if o = op then k die row arg s.pIssue else s.pRefuse rd
  | _, _ => s.pRefuse rd

/-- Whether an element holds a VALID context. -/
def State.hasContext (s : State) (el : Nat) : Bool := (s.el el).core.ctxs.any fun c => c.2.valid

/-- SPARE op 2: waits for the element to be free of contexts, then remaps it (R432). -/
def State.spareRemap_ (s : State) (rd : Reg) (die row pos : Nat) : State :=
  let v := s.spare die row
  if 111 < pos then s.pRefuse rd
  else if spRmap v then s.retireReg rd 2#64 1
  else
    let el := spareEl die row pos
    if s.hasContext el then
      { s with spareq := (s.spareq.filter fun w => decide (w.1 ≠ s.focus)) ++ [(s.focus, s.cur.pc, el)] }
    else
      let v := setBits (setBits (setBits v 63 1 1) 56 7 pos) 15 1 1
      ({ s with spareq := s.spareq.filter fun w => decide (w.1 ≠ s.focus) }.setSpare die row v).retireReg rd 0#64 1

/-- SPARE, OP 0. -/
def execSpareRead (rd ra rb : Reg) (s : State) : Out :=
  .next (s.spareCmd 0 rd ra rb fun die row _ s => s.retireReg rd (s.spare die row) 1)

/-- SPARE, OP 1. -/
def execSpareSetInterval (rd ra rb : Reg) (s : State) : Out :=
  .next (s.spareCmd 1 rd ra rb fun die row arg s =>
    if 0 < arg ∧ arg < 1024 then s.pRefuse rd
    else
      let old := s.spare die row
      ({ s with spareAt := s.spareAt.put (spareKey die row) s.tick }.setSpare die row (setBits old 16 32 arg)).retireReg rd old 1)

/-- SPARE, OP 2. -/
def execSpareRemap (rd ra rb : Reg) (s : State) : Out := .next (s.spareCmd 2 rd ra rb fun die row arg s => s.spareRemap_ rd die row arg)

/-- SPARE, OP 3. -/
def execSpareClear (rd ra rb : Reg) (s : State) : Out :=
  .next (s.spareCmd 3 rd ra rb fun die row _ s =>
    let old := s.spare die row
    (s.setSpare die row (setBits (setBits old 48 8 0) 15 1 0)).retireReg rd old 1)

/-- SPARE, OP 4. -/
def execSpareSetPos (rd ra rb : Reg) (s : State) : Out :=
  .next (s.spareCmd 4 rd ra rb fun die row arg s =>
    let old := s.spare die row
    if 111 < arg then s.pRefuse rd
    else if spSusp old || spRmap old then s.retireReg rd 3#64 1
    else
      let s := s.modHub fun h => { h with askHost := h.askHost.filter fun a => decide (a ≠ (die, row)) }
      (s.setSpare die row (setBits old 0 7 arg)).retireReg rd old 1)

/-! ### Rotation and mismatches (R430, R431, R441) -/

/-- Whether a row's interval has passed. -/
def State.intervalOver (s : State) (die row : Nat) : Bool :=
  let n := spInterval (s.spare die row)
  decide (0 < n ∧ s.spareAt.get 0 (spareKey die row) + n ≤ s.tick)

/-- At each interval the spare moves on, or the die asks the host. -/
def State.spareRotate_ (s : State) (die row : Nat) : State :=
  let v := s.spare die row
  if !s.intervalOver die row || spHold v then s
  else
    let s := { s with spareAt := s.spareAt.put (spareKey die row) s.tick }
    if modeRotate (s.modeOf die) then
      s.modHub fun h => if h.askHost.contains (die, row) then h else { h with askHost := h.askHost ++ [(die, row)] }
    else if s.hub.askHost.contains (die, row) then s
    else s.setSpare die row (setBits v 0 7 ((spPos v + 1) % 112))

/-- The spare's result differs from the shadowed element's (R431). -/
def State.spareMismatch_ (s : State) (die row : Nat) : State :=
  match s.shadowed die row with
  | none => s
  | some el =>
    let v := s.spare die row
    let pos := spPos v
    let s := { s with spareForce := s.spareForce.filter fun k => decide (k ≠ spareKey die row) }
    let s := s.setSpare die row (setBits (setBits (setBits v 55 1 1) 48 7 pos) 15 1 1)
    let r := { elRecord el kSUSPECT 0#5 0#36 0#64 (row + pos * 2 ^ 9) with
               cfg := false, tick := BitVec.ofNat 32 s.tick, die := BitVec.ofNat 4 die }
    match s.leadOfTile (elTile el) with
    | none => (s.toMc r).traceFault (clusterAt die (tileX (elTile el)) (tileY (elTile el))) r
    | some k => ((s.toMc { r with spec := s.speculative k }).raise (some k) die r).askAbort k true

/-! ### QCTL (R438) -/

/-- A QCTL of operation `op`. -/
def State.qctl (s : State) (op : Nat) (rd ra rb : Reg) (k : Nat → State → State) : State :=
  let n := (s.x ra).toNat
  if 4096 ≤ n ∨ (s.x rb).toNat ≠ op then s.pRefuse rd else k n s.pIssue

/-- Whether a launch of an interface runs. -/
def State.ifaceRuns (s : State) (n : Nat) : Bool := s.hub.launches.any fun l => decide (l.2.iface = n)

/-- QCTL 0. -/
def execQctlRead (rd ra rb : Reg) (s : State) : Out :=
  .next (s.qctl 0 rd ra rb fun n s => s.retireReg rd (s.iface n).d0 1)
/-- QCTL 1. -/
def execQctlRevoke (rd ra rb : Reg) (s : State) : Out :=
  .next (s.qctl 1 rd ra rb fun n s =>
    let old := (s.iface n).d0
    (s.revoke n false).retireReg rd old 1)
/-- QCTL 2. It may end the launch of its own segment. -/
def execQctlKill (rd ra rb : Reg) (s : State) : Out :=
  .next (s.qctl 2 rd ra rb fun n s =>
    let old := (s.iface n).d0
    (s.retireReg rd old 1).revoke n true)
/-- QCTL 3. -/
def execQctlRelease (rd ra rb : Reg) (s : State) : Out :=
  .next (s.qctl 3 rd ra rb fun n s =>
    if s.ifaceRuns n then s.retireReg rd 1#64 1
    else (s.modIface n fun f => { f with d0 := f.d0 &&& 0xFFFFF#64, stopped := false }).retireReg rd 0#64 1)

/-! ### DIEQ (R433, R439, R441) -/

/-- The target of a DIEQ: its die and clusters. -/
def dieqTarget (v : Word) : Option (Nat × List Nat) :=
  let n := v.toNat
  let c := n % 2 ^ 7
  if n / 2 ^ 12 ≠ 0 ∨ n / 2 ^ 7 % 2 ≠ 0 ∨ 8 ≤ n / 2 ^ 8 ∨ (98 ≤ c ∧ c ≠ 127) then none
  else some (n / 2 ^ 8, if c = 127 then List.range 98 else [c])

/-- A DIEQ of operation `op`. -/
def State.dieq (s : State) (op : Nat) (rd ra rb : Reg) (k : Nat → List Nat → State → State) : State :=
  match dieqTarget (s.x ra) with
  | some (die, cs) => if (s.x rb).toNat = op then k die cs s.pIssue else s.pRefuse rd
  | none => s.pRefuse rd

/-- DIEQ 0: the instruction waits until the fence is complete. -/
def execDieqFence (rd ra rb : Reg) (s : State) : Out :=
  .next (s.dieq 0 rd ra rb fun die cs s =>
    if lanDie s.focus = die ∧ cs.contains (lanCl s.focus) = true then s.retireReg rd 3#64 1
    else
      let s := s.modBeacon die fun b =>
        { b with fencing := b.fencing ++ cs.filter fun c => !b.fenced.contains c && !b.fencing.contains c }
      let s := s.fenceStep die
      if cs.all fun c => (s.beacon die).fenced.contains c then s.retireReg rd 0#64 1 else s)

/-- DIEQ 1: it waits for a fence in progress, then releases. -/
def execDieqRelease (rd ra rb : Reg) (s : State) : Out :=
  .next (s.dieq 1 rd ra rb fun die cs s =>
    let s := s.fenceStep die
    if cs.any fun c => (s.beacon die).fencing.contains c then s
    else
      ((s.modBeacon die fun b => { b with fenced := b.fenced.filter fun c => !cs.contains c }).decide_ die).retireReg rd 0#64 1)

/-- DIEQ 2. -/
def execDieqStatus (rd ra rb : Reg) (s : State) : Out :=
  .next (s.dieq 2 rd ra rb fun die cs s =>
    let b := s.beacon die
    let v := (if cs.all fun c => b.fenced.contains c then 1 else 0) + (if cs.any fun c => b.fencing.contains c then 2 else 0)
    s.retireReg rd (BitVec.ofNat 64 v) 1)

/-! ### BINJ (R440) -/

/-- KIND and BIT of a BINJ. -/
def binjOp (v : Word) : Option (Nat × Nat) :=
  let n := v.toNat
  let bit := n / 2 ^ 4 % 2 ^ 6
  if n / 2 ^ 10 ≠ 0 ∨ n / 4 % 4 ≠ 0 ∨ 38 < bit then none else some (n % 4, bit)

/-- Flips bits of a stored codeword; a word with the pattern that marks it uncorrectable stays so. -/
def State.flip (s : State) (pa : Nat) (m : BitVec 39) : State :=
  match s.ecc.get (0#39, false) (pa / 4) with
  | (_, true) => s
  | (old, false) =>
    let new := old ^^^ m
    { s with ecc := if new = 0#39 then s.ecc.del (pa / 4) else s.ecc.put (pa / 4) (new, false) }

/-- A memory-tile word's address, data or parity. -/
def State.binjPlace (s : State) (v : Word) : Bool :=
  decide (v.toNat % 4 = 0) &&
    (match s.classify v.toNat 4 with
     | some (.tileData _ _) => true
     | some (.tileParity _ _) => true
     | _ => false)

/-- BINJ of KIND 0 or 1. -/
def State.binjFlip (s : State) (kind : Nat) (rd ra rb : Reg) : State :=
  match binjOp (s.x rb) with
  | some (k, bit) =>
    if k = kind ∧ s.binjPlace (s.x ra) = true ∧ bit + kind ≤ 38 then
      (s.pIssue.flip (s.x ra).toNat (BitVec.ofNat 39 ((2 ^ (kind + 1) - 1) * 2 ^ bit))).retireReg rd 0#64 1
    else s.pRefuse rd
  | none => s.pRefuse rd

/-- BINJ, KIND 0. -/
def execBinjFlipOne (rd ra rb : Reg) (s : State) : Out := .next (s.binjFlip 0 rd ra rb)
/-- BINJ, KIND 1. -/
def execBinjFlipTwo (rd ra rb : Reg) (s : State) : Out := .next (s.binjFlip 1 rd ra rb)
/-- BINJ, KIND 2. -/
def execBinjSpare (rd ra rb : Reg) (s : State) : Out :=
  .next (match binjOp (s.x rb), rowOf (s.x ra) with
    | some (2, _), some (die, row) =>
      let k := spareKey die row
      ({ s.pIssue with spareForce := if s.spareForce.contains k then s.spareForce else s.spareForce ++ [k] }).retireReg rd 0#64 1
    | _, _ => s.pRefuse rd)

/-! ### UCIe edges (R20, R428) -/

/-- Whether a UCIe edge joins two dies; 8 is the hub. -/
def isEdge (a b : Nat) : Bool :=
  decide ((a / 2 = b / 2 ∧ a % 2 = 0 ∧ b = a + 1 ∧ b < 8) ∨ (b = a + 2 ∧ b < 8) ∨ (a < 2 ∧ b = 8))

/-- A failed edge retrains by itself; where an end's MODE.RETRAIN is 1 the die asks the host through the hub, and the edge
holds its traffic (`State.cutOff`) until the firmware answers the host's go (`go`; R43, R428). -/
def State.edgeFailure (s : State) (a b : Nat) (go : Bool) : State :=
  let k := 16 * a + b
  if !isEdge a b then s
  else if go then { s with edges := s.edges.del k }.modHub fun h => { h with askEdge := h.askEdge.filter fun e => decide (e ≠ k) }
  else if modeRetrain (s.modeOf a) || modeRetrain (s.modeOf b) then
    { s with edges := s.edges.put k 1 }.modHub fun h =>
      { h with askEdge := if h.askEdge.contains k then h.askEdge else h.askEdge ++ [k] }
  else s

/-- SPARE_ROTATE (R430). -/
def execSpareRotate (die row : Nat) (s : State) : Out := .next (s.spareRotate_ die row)
/-- SPARE_MISMATCH (R431). -/
def execSpareMismatch (die row : Nat) (s : State) : Out := .next (s.spareMismatch_ die row)
/-- UCIE_EDGE_FAILURE (R428). -/
def execUcieEdgeFailure (a b : Nat) (go : Bool) (s : State) : Out := .next (s.edgeFailure a b go)

end Sys2Proof.Machine
end

