-- ==== Sys2Proof/Machine/Boot.lean ====
section
/-! DEFINITION. The trace rings (R471, R475, R476), package reset and bring-up (R434, R477), the management mailbox
(R478 to R482) and the module's limits (R483). -/

namespace Sys2Proof.Machine

/-! ### Trace rings -/

/-- Writes bytes of a trace packet at a physical address in HBM or host memory; `none` where no ring can stand. -/
def State.traceStore (s : State) (pa : Nat) (bs : List Byte) : Option State :=
  match s.classify pa bs.length with
  | some .hbm => some (s.writeHome pa 0 bs .hbm).1
  | some (.host hba) => if (s.hostStage hba true).isSome then some (s.writeHome pa 0 bs (.host hba)).1 else none
  | _ => none

/-- The oldest packet of a cluster's FIFO goes to the die's ring, and HEAD past it. A ring that is full with STOP set, or
that cannot be written, takes no packet, and the packet is dropped (log entry 41). -/
def State.traceWrite (s : State) (die cluster : Nat) : State :=
  let k := lanOf die cluster
  let b := s.beacon die
  if 8 ≤ die ∨ 98 ≤ cluster ∨ b.dayPages = 0#64 then s
  else
    match (s.lan k).day.fifo with
    | [] => s
    | p :: rest =>
      let size := 4096 * b.dayPages.toNat
      let s := s.modLan k fun l => { l with day := { l.day with fifo := rest } }
      if b.dayCtl.getLsbD 12 && decide (size ≤ b.dayHead.toNat) then s
      else
        match s.traceStore (b.dayBase.toNat + b.dayHead.toNat % size) (leBytes 8 p.1.toNat ++ leBytes 8 p.2.toNat) with
        | none => s
        | some s => s.modBeacon die fun b => { b with dayHead := b.dayHead + 16#64 }

/-- DAYMARK_PACKET_WRITE (R475). -/
def execDaymarkPacketWrite (die cluster : Nat) (s : State) : Out := .next (s.traceWrite die cluster)

/-! ### Package reset and bring-up -/

/-- The repair log (R434): kind, die and place of every retired bank (1), remapped element (2), fenced cluster (3) and
quarantined die (4). -/
def State.repairLog (s : State) : List (Nat × Nat × Nat) :=
  let banks := s.tiles.flatMap fun t =>
    (List.range 3).filterMap fun g => (t.2.retired g).map fun b => (1, tileDie t.1, t.1 % 8192 * 16 + g * 4 + b)
  let spares := (s.spares.filter fun r => spRmap r.2).map fun r =>
    (2, r.1 / 512, r.1 % 512 * 128 + (r.2.extractLsb' 56 7).toNat)
  let fences := s.beacons.flatMap fun b =>
    if (List.range 98).all fun c => b.2.fenced.contains c then [(4, b.1, 0)] else b.2.fenced.map fun c => (3, b.1, c)
  banks ++ spares ++ fences

/-- Reapplies one entry of the repair log: BRET, SPARE op 2, or DIEQ op 0. -/
def State.reapply (s : State) (e : Nat × Nat × Nat) : State :=
  let (kind, die, at_) := e
  match kind with
  | 1 => s.modTile (die * 8192 + at_ / 16) fun x => { x with cnt := x.cnt.put 0x38 (retireBits x.groups (at_ % 16 / 4) (at_ % 4)) }
  | 2 =>
    let row := at_ / 128
    s.setSpare die row (setBits (setBits (setBits (s.spare die row) 63 1 1) 56 7 (at_ % 128)) 15 1 1)
  | 3 => s.modBeacon die fun b => { b with fenced := b.fenced ++ [at_] }
  | 4 => s.modBeacon die fun b => { b with fenced := List.range 98 }
  | _ => s

/-- The address from which host memory's bytes are kept. -/
def hostStart : Nat := 8 * 2 ^ 48

/-- Package reset: the state of `State.reset`, with host memory, the fuses and the firmware image as they were. `fails` is
the step of bring-up that fails, 0 when all succeed; the repair log is reapplied at step 4 (log entry 42). -/
def State.packageReset (s : State) (fails : Nat) : State :=
  let r : State :=
    { State.reset with
      agenda := s.agenda, free := s.free, mem := s.mem.filter fun c => decide (hostStart ≤ c.1),
      mgmt := { Mgmt.reset with svn := s.mgmt.svn, measure := s.mgmt.measure, bootFail := if fails ≤ 5 then fails else 0 } }
  s.repairLog.foldl State.reapply r

/-- PACKAGE_RESET (R477). -/
def execPackageReset (fails : Nat) (s : State) : Out := .next (s.packageReset fails)

/-! ### The management mailbox -/

/-- A command as the host writes it to the mailbox (R480): COMMAND, ADDR, and LEN where the command has one. -/
def State.mailCommand (s : State) (cmd : Nat) (addr : Word) (len : Option Nat) : State :=
  { s with mgmt := { s.mgmt with command := cmd, cmdAddr := addr, cmdLen := len.getD s.mgmt.cmdLen } }

/-- Sets the mailbox's STATUS: 0 done, 2 failed (R482; 0 is the model's, log entry 43). -/
def State.mailStatus (s : State) (v : Nat) : State := { s with mgmt := { s.mgmt with cmdStatus := v } }

/-- The parts of `n` bytes from an address that lie in one 4 KiB page each: address and length. -/
def pageParts (a n : Nat) : List (Nat × Nat) :=
  (List.range ((a % 4096 + n + 4095) / 4096)).map fun i =>
    let lo := max a (a / 4096 * 4096 + 4096 * i)
    (lo, min (a + n) (a / 4096 * 4096 + 4096 * (i + 1)) - lo)

/-- Reads bytes at a host bus address; `none` where the host-owned stage refuses one. -/
def State.hostBytes (s : State) (hba n : Nat) : Option (List Byte) :=
  (pageParts hba n).foldl (fun acc p =>
    match acc, s.hostStage p.1 false with
    | some bs, some a => some (bs ++ s.mem.bytes (hostPa a) p.2)
    | _, _ => none) (some [])

/-- Writes bytes inside one page at a host bus address. -/
def State.hostStore (s : State) (hba : Nat) (bs : List Byte) : Option State :=
  (s.hostStage hba true).map fun a => { s with mem := s.mem.store (hostPa a) bs }

/-- The measurement of the running firmware. -/
def Mgmt.measurement (m : Mgmt) : List Byte := m.measure.getD Config.firmwareMeasurement

/-- Exactly `n` bytes: the first ones, or all and zeros. -/
def fitBytes (n : Nat) (bs : List Byte) : List Byte := (bs ++ List.replicate n 0#8).take n

/-- The attestation report for a nonce (R481). -/
def State.report (s : State) (nonce : List Byte) : List Byte :=
  let body := nonce ++ fitBytes 64 Config.bootMeasurement ++ fitBytes 64 s.mgmt.measurement
    ++ sha512 (Config.repairBytes s.repairLog) ++ leBytes 8 s.mgmt.svn ++ List.replicate 248 0#8
  body ++ fitBytes 512 (Config.deviceSign body)

/-- The mailbox's ATTEST at an address. -/
def State.attest (s : State) (addr : Nat) : State :=
  if addr % 4096 ≠ 0 ∨ 2 ^ 48 ≤ addr then s.mailStatus 2
  else
    match s.hostBytes addr 64 with
    | none => s.mailStatus 2
    | some nonce =>
      match s.hostStore addr (s.report nonce) with
      | none => s.mailStatus 2
      | some s => s.mailStatus 0

/-- ATTEST (R480, R481). -/
def execAttest (addr : Word) (s : State) : Out := .next ((s.mailCommand 1 addr none).attest addr.toNat)

/-- Whether a firmware image is sound (R478) and verifies with an SVN of at least `least` (R479). -/
def imageOk (img : List Byte) (least : Nat) : Bool :=
  let size := leNat ((img.drop 8).take 8)
  decide (leNat (img.take 4) = 0x4D465A4D ∧ img.length = 64 + size + 512 ∧ leNat ((img.drop 0x10).take 48) = 0)
    && decide (least ≤ leNat ((img.drop 4).take 4)) && Config.imageVerifies img

/-- The mailbox's UPDATE: only the management cores change. -/
def State.update (s : State) (addr len : Nat) : State :=
  if addr % 4096 ≠ 0 ∨ 2 ^ 48 ≤ addr ∨ len < 576 then s.mailStatus 2
  else
    match s.hostBytes addr len with
    | none => s.mailStatus 2
    | some img =>
      if imageOk img s.mgmt.svn then
        { s with mgmt := { s.mgmt with cmdStatus := 0, svn := leNat ((img.drop 4).take 4), measure := some (sha512 img) } }
      else s.mailStatus 2

/-- UPDATE (R480, R482). -/
def execUpdate (addr : Word) (len : Nat) (s : State) : Out :=
  .next ((s.mailCommand 2 addr (some len)).update addr.toNat len)

/-! ### The module's limits (R483) -/

/-- CAP one step lower: by one eighth of its value, to no less than 1,024. -/
def capLower (cap : Nat) : Nat := if cap ≤ 1024 then cap else max 1024 (cap - cap / 8)

/-- The limit is reached: CAP of every arbiter goes down, or, with CAP at 1,024 on every die, the clock stops. -/
def State.limitReached (s : State) : State :=
  if (List.range 8).all fun d => decide ((s.arb d).cap ≤ 1024) then { s with mgmt := { s.mgmt with clockOn := false } }
  else
    (List.range 8).foldl (fun s d =>
      let cap := (s.arb d).cap
      let saved := (s.mgmt.capSaved.find d).getD cap
      ({ s with mgmt := { s.mgmt with capSaved := s.mgmt.capSaved.put d saved } }).modArb d fun a =>
        { a with cap := capLower cap }) s

/-- The module is back within its limits: every CAP is what it was before. -/
def State.limitOver (s : State) : State :=
  let s := s.mgmt.capSaved.foldl (fun s e => s.modArb e.1 fun a => { a with cap := e.2, due := true }) s
  { s with mgmt := { s.mgmt with capSaved := [] } }

/-- POWER_LIMIT (R483). -/
def execPowerLimit (s : State) : Out := .next s.limitReached
/-- BACK_WITHIN_LIMITS (R483). -/
def execBackWithinLimits (s : State) : Out := .next s.limitOver

end Sys2Proof.Machine
end

