-- ==== Sys2Proof/Machine/Branch.lean ====
section
/-! DEFINITION. Branches and jumps (R131 to R133, R58, R120). -/

namespace Sys2Proof.Machine

/-- Transfers control to the parcel at offset `off` from the branch (R58, R131); an index below zero is FETCH. -/
def State.branchTo (s : State) (i : Instr) (off : BitVec 32) : State :=
  let n := parcelIndex s.cur.pc + off.toInt
  if n < 0 then s.trap cFETCH (parcelOf i) else s.jumpTo .jump (parcelAddr n)

/-- A conditional branch (R131), with its trace bit (R474). -/
def State.branchIf (s : State) (i : Instr) (c : Bool) (off : BitVec 32) : State :=
  let s := s.traceCond s.focus c
  if c then s.branchTo i off else s.retire 1

/-- JAL (R131): s1 takes the address of the parcel that follows. -/
def State.callTo (s : State) (off : BitVec 32) : State :=
  let n := parcelIndex s.cur.pc + off.toInt
  if n < 0 then s.trap cFETCH (parcelOf (.jal off))
  else
    let link := nextParcel s.cur.pc
    (s.modCur fun l => l.setReg 1#5 link).jumpTo .jump (parcelAddr n)

/-- JR (R132): to the end address the segment ends (R141). -/
def State.jumpReg (s : State) (ra : Reg) : State :=
  let a := s.x ra
  if a = endAddr then
    let s := s.traceIndirect s.focus 0 0 a
    s.modCur fun l => { l with pc := a, prev := l.pc, came := .jump, st := .ending, xheld := none }
  else if a.toNat % 8 ≠ 0 then s.trap cALIGN a
  else if a.toNat % 128 = 0 then
    s.trapAt s.focus cCFI a s.cur.pc 0#64 (nextParcel a)
  else (s.traceIndirect s.focus 0 0 a).jumpTo .afterJal a

/-- JTAB's read of the table entry at a parcel address (R133): LDF or ILLOP with EVAL the entry's address. -/
def State.tableEntry (s : State) (a : Word) : Vis Word :=
  let r := s.fetchLine s.focus (a &&& ~~~127#64)
  match r.1 with
  | .error none => .stop (r.2.trap cLDF a 2)
  | .error (some reason) => .stop (r.2.missAccess reason accRead cLDF a 2)
  | .ok ws =>
    let e := ws.getD (a.toNat % 128 / 8) 0#64
    if (ws.getD 0 0#64).extractLsb' 30 2 ≠ 1#2 ∨ e.extractLsb' 32 32 ≠ 0#32 then .stop (r.2.trap cILLOP a 2)
    else .ok e r.2

/-- A JTAB's jump to parcel index `n`; one below zero is FETCH at the JTAB, as for a branch (R131; DESIGN CHOICE, log
entry 62). -/
def State.tableJump (s : State) (i : Instr) (n : Int) : State :=
  if n < 0 then s.trap cFETCH (parcelOf i) 2
  else (s.traceIndirect s.focus 1 0 (parcelAddr n)).jumpTo .jump (parcelAddr n)

/-- JTAB (R64, R133). A table index below zero is LDF (DESIGN CHOICE, log entry 62). -/
def State.tableBranch (s : State) (ra : Reg) (base dflt : BitVec 32) (len : BitVec 16) : State :=
  let i := Instr.jtab ra base dflt len
  let n := parcelIndex s.cur.pc
  let j := s.x ra
  if len.toNat ≤ j.toNat then s.tableJump i (n + dflt.toInt)
  else
    let m := n + base.toInt + j.toNat
    if m < 0 then s.trap cLDF (parcelAddr m) 2
    else
      match s.tableEntry (parcelAddr m) with
      | .stop s => s
      | .ok e s => s.tableJump i (n + (e.extractLsb' 0 32).toInt)

/-- BEQ (R131). -/
def execBeq (ra rb : Reg) (off : BitVec 32) (s : State) : Out :=
  .next (s.branchIf (.beq ra rb off) (decide (s.x ra = s.x rb)) off)
/-- BNE (R131). -/
def execBne (ra rb : Reg) (off : BitVec 32) (s : State) : Out :=
  .next (s.branchIf (.bne ra rb off) (decide (s.x ra ≠ s.x rb)) off)
/-- BLT (R131). -/
def execBlt (ra rb : Reg) (off : BitVec 32) (s : State) : Out :=
  .next (s.branchIf (.blt ra rb off) ((s.x ra).slt (s.x rb)) off)
/-- BGE (R131). -/
def execBge (ra rb : Reg) (off : BitVec 32) (s : State) : Out :=
  .next (s.branchIf (.bge ra rb off) (!(s.x ra).slt (s.x rb)) off)
/-- BLTU (R131). -/
def execBltu (ra rb : Reg) (off : BitVec 32) (s : State) : Out :=
  .next (s.branchIf (.bltu ra rb off) ((s.x ra).ult (s.x rb)) off)
/-- BGEU (R131). -/
def execBgeu (ra rb : Reg) (off : BitVec 32) (s : State) : Out :=
  .next (s.branchIf (.bgeu ra rb off) (!(s.x ra).ult (s.x rb)) off)
/-- JMP (R131). -/
def execJmp (off : BitVec 32) (s : State) : Out := .next (s.branchTo (.jmp off) off)
/-- JAL (R131). -/
def execJal (off : BitVec 32) (s : State) : Out := .next (s.callTo off)
/-- JR (R132). -/
def execJr (ra : Reg) (s : State) : Out := .next (s.jumpReg ra)
/-- JTAB (R133). -/
def execJtab (ra : Reg) (base dflt : BitVec 32) (len : BitVec 16) (s : State) : Out :=
  .next (s.tableBranch ra base dflt len)

end Sys2Proof.Machine
end

