-- ==== Sys2Proof/Machine/ElemFloat.lean ====
section
/-! DEFINITION. The float family (R178 to R182). -/

namespace Sys2Proof.Machine

/-- A float firing with one operand. -/
def State.float1 (s : State) (i : Instr) (g : RM → WVal → Res Pay) : Out :=
  s.compute i fun w s =>
    let r := g (s.rmOf w) ((s.operand w .w w.f.selA).asW false)
    .ok fmtW r.val r.flags none

/-- A float firing with two operands. -/
def State.float2 (s : State) (i : Instr) (g : RM → WVal → WVal → Res Pay) : Out :=
  s.compute i fun w s =>
    let r := g (s.rmOf w) ((s.operand w .w w.f.selA).asW false) ((s.operand w .w w.f.selB).asW false)
    .ok fmtW r.val r.flags none

/-- A float firing with three operands. -/
def State.float3 (s : State) (i : Instr) (g : RM → WVal → WVal → WVal → Res Pay) : Out :=
  s.compute i fun w s =>
    let r := g (s.rmOf w) ((s.operand w .w w.f.selA).asW false) ((s.operand w .w w.f.selB).asW false)
      ((s.operand w .w w.f.selC).asW false)
    .ok fmtW r.val r.flags none

/-- |a| (R179). -/
def wabs (a : WVal) : Res Pay :=
  match a with
  | .nan => ⟨wNaN, 0#5⟩
  | .inf _ => ⟨wInf false, 0#5⟩
  | .fin _ m e => ⟨wexact (.fin false m e), 0#5⟩

/-- −a (R179). -/
def wneg (a : WVal) : Res Pay := ⟨wexact a.negate, 0#5⟩

/-- FADD (R178). -/
def execFadd (f : Slot) (s : State) : Out := s.float2 (.fadd f) wadd
/-- FSUB (R178). -/
def execFsub (f : Slot) (s : State) : Out := s.float2 (.fsub f) fun rm a b => wadd rm a b.negate
/-- FMUL (R178). -/
def execFmul (f : Slot) (s : State) : Out := s.float2 (.fmul f) wmul
/-- FMA (R178). -/
def execFma (f : Slot) (s : State) : Out := s.float3 (.fma f) fun rm a b c => wfma rm false a b c
/-- FMS (R178). -/
def execFms (f : Slot) (s : State) : Out := s.float3 (.fms f) fun rm a b c => wfma rm false a b c.negate
/-- FNMA (R178). -/
def execFnma (f : Slot) (s : State) : Out := s.float3 (.fnma f) fun rm a b c => wfma rm true a b c
/-- FMIN (R179). -/
def execFmin (f : Slot) (s : State) : Out := s.float2 (.fmin f) fun _ a b => wminmax false a b
/-- FMAX (R179). -/
def execFmax (f : Slot) (s : State) : Out := s.float2 (.fmax f) fun _ a b => wminmax true a b
/-- FABS (R179). -/
def execFabs (f : Slot) (s : State) : Out := s.float1 (.fabs f) fun _ a => wabs a
/-- FNEG (R179). -/
def execFneg (f : Slot) (s : State) : Out := s.float1 (.fneg f) fun _ a => wneg a
/-- FDIV (R180). -/
def execFdiv (f : Slot) (s : State) : Out := s.float2 (.fdiv f) wdiv
/-- FSQRT (R180). -/
def execFsqrt (f : Slot) (s : State) : Out := s.float1 (.fsqrt f) wsqrt
/-- FRCP (R180). -/
def execFrcp (f : Slot) (s : State) : Out := s.float1 (.frcp f) fun rm a => wdiv rm (.fin false 1 0) a
/-- FRSQ (R180). -/
def execFrsq (f : Slot) (s : State) : Out := s.float1 (.frsq f) wrsqrt
/-- FLG2 (R180). -/
def execFlg2 (f : Slot) (s : State) : Out := s.float1 (.flg2 f) wlog2
/-- FEX2 (R180). -/
def execFex2 (f : Slot) (s : State) : Out := s.float1 (.fex2 f) wexp2
/-- FRND (R181). -/
def execFrnd (f : Slot) (s : State) : Out := s.float1 (.frnd f) wrnd
/-- FCMP (R182). -/
def execFcmp (f : Slot) (s : State) : Out :=
  s.compute (.fcmp f) fun w s =>
    let c := fcmpHolds f.imm.toNat ((s.operand w .w f.selA).asW false) ((s.operand w .w f.selB).asW false)
    .ok fmtI64 (if c then 1#80 else 0#80) 0#5 (some c)

end Sys2Proof.Machine
end

