-- ==== Sys2Proof/Machine/Loader.lean ====
section
/-! DEFINITION. The loader (R442 to R453): the checks of a binary, the deadlock-freedom declarations (R234, R451), and
the placing of its sections. -/

namespace Sys2Proof.Machine

/-- A load that is refused: its STATUS and DETAIL (R447). -/
structure LoadFail where
  status : Nat
  detail : Nat
  deriving DecidableEq, Repr

/-- The first of some failures. -/
def firstFail (l : List (Option LoadFail)) : Option LoadFail :=
  match l with
  | [] => none
  | some f :: _ => some f
  | none :: r => firstFail r

/-- A failure, unless a condition holds. -/
def unlessOk (ok : Bool) (status detail : Nat) : Option LoadFail := if ok then none else some ⟨status, detail⟩

/-! ### Header and sections -/

/-- The header's checks (R442, R453). -/
def fileHeaderFail (f : List Byte) : Option LoadFail :=
  let nsect := fieldAt f 6 2
  let off := fieldAt f 0x10 4
  firstFail
    [unlessOk (decide (64 ≤ f.length ∧ fieldAt f 0 4 = 0x34464C48)) 1 0xFFFF,
     unlessOk (decide (fieldAt f 4 2 = 4)) 2 (fieldAt f 4 2),
     unlessOk (decide (1 ≤ nsect ∧ nsect ≤ 1024 ∧ fieldAt f 8 8 = f.length ∧ off % 8 = 0 ∧ fieldAt f 0x14 4 = 0
        ∧ fieldAt f 0x20 32 = 0 ∧ off + 32 * nsect ≤ f.length)
        && decide ((f.drop 0x18).take 8 = (sha512 (f.drop 0x40)).take 8)) 1 0xFFFF]

/-- A section table entry (R443): its number, type code and SKIP, permissions, alignment, address, offset, length. -/
structure Section where
  idx   : Nat
  code  : Nat
  skip  : Bool
  perm  : Nat
  align : Nat
  va    : Nat
  off   : Nat
  len   : Nat
  deriving DecidableEq, Repr

/-- The section table. -/
def sectionsOf (f : List Byte) : List Section :=
  (List.range (fieldAt f 6 2)).map fun i =>
    let b := f.drop (fieldAt f 0x10 4 + 32 * i)
    { idx := i, code := fieldAt b 0 2 % 2 ^ 15, skip := decide (fieldAt b 0 2 / 2 ^ 15 = 1), perm := fieldAt b 2 2,
      align := fieldAt b 4 4, va := fieldAt b 8 8, off := fieldAt b 16 8, len := fieldAt b 24 8 }

/-- Whether a section is placed in memory (R444). -/
def Section.placed (x : Section) : Bool := [1, 2, 4, 5, 6].contains x.code
/-- Whether it is placed on every die. -/
def Section.everyDie (x : Section) : Bool := decide (x.code = 1 ∨ x.code = 2)
/-- Its bytes in the file. -/
def Section.bytes (x : Section) (f : List Byte) : List Byte := if x.code = 5 then [] else (f.drop x.off).take x.len
/-- The permissions that R444 gives its type. -/
def Section.permOk (x : Section) : Bool :=
  match x.code with
  | 1 => decide (x.perm = 5)
  | 2 => decide (x.perm = 1)
  | 4 => decide (x.perm = 1 ∨ x.perm = 3)
  | 5 => decide (x.perm = 3)
  | 6 => decide (x.perm = 1)
  | _ => true
/-- Whether its entry is in order (R443). -/
def Section.formOk (x : Section) (size : Nat) : Bool :=
  decide (x.perm < 8 ∧ 3 ≤ x.align ∧ x.align ≤ 30)
    && decide (x.code = 5 ∨ x.off + x.len ≤ size)
    && decide (x.code < 7 ∨ x.va = 0)
    && (!x.placed || decide (x.va % 2 ^ x.align = 0 ∧ x.va + x.len ≤ 2 ^ 48))

/-- The pages that a section lies in, by number. -/
def Section.pages (x : Section) : List Nat :=
  if x.len = 0 then [] else (List.range ((x.va + x.len - 1) / 4096 - x.va / 4096 + 1)).map (x.va / 4096 + ·)

/-- Whether two placed sections cannot stand together: they share a byte, or a page of which one needs a copy on every die
and the other does not. -/
def Section.clash (x y : Section) : Bool :=
  decide (x.va < y.va + y.len ∧ y.va < x.va + x.len) ||
    ((x.everyDie != y.everyDie) && x.pages.any fun p => y.pages.contains p)

/-- The note entries of a NOTE section: kind and descriptor; `none` stands for bytes that are no note. -/
def notesOf : Nat → List Byte → List (Option (Nat × List Byte))
  | 0, _ => []
  | fuel + 1, bs =>
    if bs.isEmpty then []
    else
      let n := fieldAt bs 4 4
      let len := 8 + (n + 7) / 8 * 8
      if bs.length < len then [none]
      else
        let pad := leNat ((bs.drop (8 + n)).take (len - 8 - n))
        (if fieldAt bs 2 2 = 0 ∧ pad = 0 then some (fieldAt bs 0 2, (bs.drop 8).take n) else none)
          :: notesOf fuel (bs.drop len)

/-- The failure of one note (R446). -/
def noteFail (idx : Nat) : Option (Nat × List Byte) → Option LoadFail
  | none => some ⟨1, idx⟩
  | some (kind, d) =>
    match kind % 2 ^ 15 with
    | 1 => none
    | 2 => unlessOk (decide (d.length = 1 ∧ leNat d < 8)) 1 idx
    | 3 => unlessOk d.isEmpty 1 idx
    | _ => unlessOk (decide (kind < 2 ^ 15)) 4 kind

/-- The failure of one section; `before` are the sections that come before it (R445). Type code 0 is unknown (DESIGN CHOICE,
log entry 81). -/
def State.sectionFail (s : State) (pasid : Nat) (f : List Byte) (before : List Section) (x : Section) : Option LoadFail :=
  if x.code = 0 ∨ 10 ≤ x.code then unlessOk x.skip 3 x.idx
  else
    firstFail
      [unlessOk (x.formOk f.length && x.permOk) 1 x.idx,
       unlessOk (!(x.placed && (before.any fun y => y.placed && x.clash y))) 6 x.idx,
       unlessOk (!(x.placed && x.pages.any fun p => s.anyMapped pasid (4096 * p) 1)) 6 x.idx,
       if x.code = 9 then firstFail ((notesOf (f.length + 1) (x.bytes f)).map (noteFail x.idx)) else none]

/-! ### The declarations (R234, R451) -/

/-- A slot entry of a CHCK record: its slot's place (dx, dy, element, slot as R135's first four bytes) and space. -/
structure SlotDecl where
  key   : Nat
  space : Nat
  zero  : Bool
  deriving DecidableEq, Repr

/-- A space entry: id, kind, opener, live bound. -/
structure SpaceDecl where
  id     : Nat
  kind   : Nat
  opener : Nat
  live   : Nat
  deriving DecidableEq, Repr

/-- A CHCK record. -/
structure ImageDecl where
  va     : Nat
  ok     : Bool
  slots  : List SlotDecl
  spaces : List SpaceDecl
  deriving DecidableEq, Repr

/-- The records of a CHCK section. -/
def declsOf : Nat → List Byte → List ImageDecl
  | 0, _ => []
  | fuel + 1, bs =>
    if bs.isEmpty then []
    else
      let n := fieldAt bs 8 2
      let m := fieldAt bs 10 2
      let slot (i : Nat) : SlotDecl :=
        let b := bs.drop (16 + 8 * i)
        { key := fieldAt b 0 4, space := fieldAt b 4 1, zero := decide (fieldAt b 5 3 = 0) }
      let space (i : Nat) : SpaceDecl :=
        let b := bs.drop (16 + 8 * n + 8 * i)
        { id := fieldAt b 0 1, kind := fieldAt b 1 1, opener := fieldAt b 2 2, live := fieldAt b 4 4 }
      { va := fieldAt bs 0 8, ok := decide (16 + 8 * n + 8 * m ≤ bs.length ∧ fieldAt bs 12 4 = 0),
        slots := (List.range n).map slot, spaces := (List.range m).map space }
        :: declsOf fuel (bs.drop (16 + 8 * n + 8 * m))

/-- The stream records of an image that lie one behind the other from an offset. -/
def rawStreams (bs : List Byte) : Nat → Nat → List RawRec
  | 0, _ => []
  | n + 1, off =>
    let b := bs.drop off
    let len := 8 + 8 * fieldAt b 3 1 + 8 * fieldAt b 4 4
    { off := off, bs := b.take len } :: rawStreams bs n (off + len)

/-- An image of its bytes, if its sections lie inside it (R135). -/
def rawImageOf (bs : List Byte) : Option RawImage :=
  let size := fieldAt bs 8 4
  let sec (o n rec_ : Nat) : List RawRec := rawRecs (fieldAt bs o 4) n rec_ (bs.drop (fieldAt bs o 4))
  let strms := rawStreams bs (fieldAt bs 0x0E 1) (fieldAt bs 0x24 4)
  let im : RawImage :=
    { hdr := bs.take 64, slots := sec 0x20 (fieldAt bs 0x0C 2) 24, strms := strms, fars := sec 0x28 (fieldAt bs 0x0F 1) 8,
      spaces := sec 0x2C (fieldAt bs 0x10 1) 8, holds := sec 0x30 (fieldAt bs 0x11 1) 16,
      ctrls := sec 0x34 (fieldAt bs 0x12 2) 8 }
  let inside (rs : List RawRec) : Bool := rs.all fun r => decide (r.off + r.bs.length ≤ size)
  if 64 ≤ size ∧ size ≤ bs.length ∧ inside im.slots ∧ inside im.strms ∧ inside im.fars ∧ inside im.spaces ∧ inside im.holds
      ∧ inside im.ctrls then some im else none

/-- The bytes of the file that stand at an address of a CONF section, to the section's end. -/
def confAt (f : List Byte) (xs : List Section) (va : Nat) : List Byte :=
  match xs.find? fun x => decide (x.code = 2 ∧ x.va ≤ va ∧ va < x.va + x.len) with
  | some x => (x.bytes f).drop (va - x.va)
  | none => []

/-- The slot records of an image that hold an instruction (R69), with it. -/
def RawImage.used (im : RawImage) : List (RawRec × Instr) :=
  im.slots.filterMap fun r =>
    if r.u 8 8 = 0 ∧ r.u 16 8 = 0 then none else (decodeSlot (BitVec.ofNat 64 (r.u 8 8))).map fun i => (r, i)

/-- Whether an instruction opens a tag space, and its window. -/
def opens : Instr → Option Nat
  | .talloc f => some ((f.imm.extractLsb' 8 8).toNat + 1)
  | .tcall f => some ((f.imm.extractLsb' 8 8).toNat + 1)
  | _ => none

/-- The live bound that a record gives a space. -/
def ImageDecl.live (d : ImageDecl) (id : Nat) : Nat := ((d.spaces.find? fun x => decide (x.id = id)).map (·.live)).getD 0

/-- The spaces that a record gives a slot. -/
def ImageDecl.spacesOf (d : ImageDecl) (key : Nat) : List Nat := (d.slots.filter fun e => decide (e.key = key)).map (·.space)

/-- L(space(n)) of a slot: the sum over its spaces. -/
def ImageDecl.bound (d : ImageDecl) (key : Nat) : Nat := ((d.spacesOf key).map d.live).sum

/-- The space that an opening slot's entry opens. -/
def ImageDecl.opened (d : ImageDecl) (entry : Nat) : Option SpaceDecl :=
  d.spaces.find? fun x => decide (x.kind = 1 ∧ x.opener = entry)

/-- The space that a space lies in; `none` for a declared one. -/
def ImageDecl.parent (d : ImageDecl) (id : Nat) : Option Nat :=
  match d.spaces.find? fun x => decide (x.id = id) with
  | some x => if x.kind = 1 then (d.slots[x.opener]?).map (·.space) else none
  | none => none

/-- The valid destinations of a slot: DEST0, DEST1, and that of the control entry that COUT names. -/
def RawImage.dests (im : RawImage) (r : RawRec) (i : Instr) : List (BitVec 31) :=
  let rp := BitVec.ofNat 64 (r.u 16 8)
  let cout := match slotRow i with
    | some (_, f) => f.cout.toNat
    | none => 0
  let ctl := (im.ctrls.filter fun c => decide (cout ≠ 0 ∧ c.u 0 3 = r.u 0 3 ∧ c.u 3 1 = cout)).map fun c => BitVec.ofNat 31 (c.u 4 4)
  ([dest0 rp, dest1 rp] ++ ctl).filter dV

/-- The key of the slot that a destination of tile (dx, dy) names; `none` for a far one or a port of a memory tile. -/
def dstKey (dx dy : Nat) (d : BitVec 31) : Option Nat :=
  if dFar d then none
  else
    let t := dstRel dx dy d
    if (t.1 + t.2) % 2 = 1 then none else some (t.1.toNat + t.2.toNat * 2 ^ 8 + dEl d * 2 ^ 16 + dSlot d * 2 ^ 24)

/-- The space in which a slot's emission leaves, from its entry `j` in space `sp`: the `n`-th destination `d`. -/
def ImageDecl.leaves (d : ImageDecl) (i : Instr) (j sp n : Nat) (dst : BitVec 31) : Option Nat :=
  if dTop dst = 2 then d.parent sp
  else
    match i with
    | .talloc _ => (d.opened j).map (·.id)
    | .tcall _ => if n = 0 then (d.opened j).map (·.id) else some sp
    | _ => some sp

/-- The index of the entry of a slot and a space. -/
def ImageDecl.entryAt (d : ImageDecl) (key sp : Nat) : Option Nat := d.slots.findIdx? fun e => decide (e.key = key ∧ e.space = sp)

/-- The slots that a stream record's destinations name. -/
def strmKeys (r : RawRec) : List Nat := r.binds.filterMap fun b => dstKey (r.u 0 1) (r.u 1 1) (b.extractLsb' 0 31)

/-- The space that an image's streams stamp (R51): its first declared one. -/
def RawImage.strmSpace (im : RawImage) : Option Nat := im.spaces.head?.map fun r => r.u 0 1

/-- The slots that some emission or stream of an image names. -/
def RawImage.fed (im : RawImage) : List Nat :=
  (im.strms.map strmKeys).flatten
    ++ (im.used.map fun u => (im.dests u.1 u.2).filterMap fun x => dstKey (u.1.u 0 1) (u.1.u 1 1) x).flatten

/-- The entries to which the tokens that fire slot entry `j` send theirs. -/
def ImageDecl.flow (d : ImageDecl) (im : RawImage) (j : Nat) : List Nat :=
  match d.slots[j]? with
  | none => []
  | some e =>
    match im.used.find? fun u => decide (recKey u.1 = e.key) with
    | none => []
    | some (r, i) =>
      ((im.dests r i).mapIdx fun n dst => (n, dst)).filterMap fun (n, dst) =>
        match dstKey (r.u 0 1) (r.u 1 1) dst, d.leaves i j e.space n dst with
        | some key, some sp => d.entryAt key sp
        | _, _ => none

/-- The slot entries that tokens reach from some entries. -/
def ImageDecl.reach (d : ImageDecl) (im : RawImage) : Nat → List Nat → List Nat
  | 0, js => js
  | n + 1, js => ImageDecl.reach d im n (js ++ (js.map (d.flow im)).flatten).eraseDups

/-- The slot entries that the image gives (R451): those that its streams' tokens reach, and, as nothing in the image says in
which spaces their tokens come, those of slots that nothing in it names (DESIGN CHOICE, log entry 40). -/
def ImageDecl.derived (d : ImageDecl) (im : RawImage) : List Nat :=
  let fed := im.fed
  let strm := match im.strmSpace with
    | some sp => (im.strms.map strmKeys).flatten.filterMap fun k => d.entryAt k sp
    | none => []
  let free := (List.range d.slots.length).filter fun j =>
    match d.slots[j]? with
    | some e => !fed.contains e.key
    | none => false
  d.reach im d.slots.length (strm ++ free)

/-- Whether the entries of a record agree with the image (R451): its slots, its spaces with their windows and bounds, the
spaces in which tokens go from streams to slots and from slot to slot, and no slot entry that no token gives. -/
def ImageDecl.agrees (d : ImageDecl) (im : RawImage) : Bool :=
  let used := im.used
  let find (key : Nat) : Option (RawRec × Instr) := used.find? fun u => decide (recKey u.1 = key)
  d.ok
    && (d.slots.all fun e => e.zero && (find e.key).isSome && d.spaces.any fun x => decide (x.id = e.space))
    && decide d.slots.Nodup && decide (d.spaces.map (·.id)).Nodup
    && (used.all fun u => !(d.spacesOf (recKey u.1)).isEmpty)
    && (im.spaces.all fun r => d.spaces.any fun x => decide (x.kind = 0 ∧ x.id = r.u 0 1))
    && (d.spaces.all fun x =>
        if x.kind = 0 then im.spaces.any fun r => decide (r.u 0 1 = x.id ∧ x.id < 32 ∧ r.u 2 2 = x.live)
        else
          decide (x.kind = 1 ∧ 32 ≤ x.id) &&
            match d.slots[x.opener]? with
            | none => false
            | some e => match (find e.key).bind fun u => opens u.2 with
              | some k => decide (x.live = k * d.live e.space)
              | none => false)
    && ((d.slots.mapIdx fun j e => (j, e)).all fun (j, e) =>
        match find e.key with
        | none => false
        | some (r, i) =>
          (!(opens i).isSome || decide ((d.spaces.filter fun x => decide (x.kind = 1 ∧ x.opener = j)).length = 1))
            && ((im.dests r i).mapIdx fun n dst => (n, dst)).all fun (n, dst) =>
              match dstKey (r.u 0 1) (r.u 1 1) dst, d.leaves i j e.space n dst with
              | some key, some sp => (find key).isNone || (d.spacesOf key).contains sp
              | _, _ => true)
    && (match im.strmSpace with
        | some sp => (im.strms.map strmKeys).flatten.all fun key => (find key).isNone || (d.spacesOf key).contains sp
        | none => true)
    && (let got := d.derived im
        (List.range d.slots.length).all fun j => got.contains j)

/-- held(n) of R234. -/
def heldBy (i : Instr) : Nat := arity i + (if isMerge i then 1 else 0)

/-- park(n) of R234. -/
def ImageDecl.park (d : ImageDecl) (im : RawImage) (r : RawRec) (i : Instr) : Nat :=
  let ds := im.dests r i
  match i with
  | .tnext _ => ds.length
  | .titer _ => d.bound (recKey r) * ds.length
  | _ => (ds.filter fun x => decide (dTop x = 1)).length

/-- The bounds of R234 for one image. -/
def ImageDecl.bounds (d : ImageDecl) (im : RawImage) : Bool :=
  let used := im.used
  let need (key : Nat) : Nat :=
    ((used.filter fun u => decide (u.1.u 0 3 = key)).map fun u =>
      (heldBy u.2 - 1) * d.bound (recKey u.1) + d.park im u.1 u.2).sum
  let els := (used.map fun u => u.1.u 0 3).eraseDups
  let cl (key : Nat) : Nat := key % 256 / 8 + key / 256 % 256 / 8 * 8
  let quota := fieldAt im.hdr 3 1
  (els.all fun e => decide (((els.filter fun x => decide (cl x = cl e)).map fun x => need x - quota).sum ≤ 4096))
    && decide (im.spaces.length + ((used.filter fun u => (opens u.2).isSome).map fun u => d.bound (recKey u.1)).sum ≤ 32)

/-! ### Slots that fire once per tag (R234) -/

/-- What may send a token to a port of a slot: a stream record's handle, or a slot with its tag operation. -/
inductive Feeder where
  | strm (r : RawRec) (h : Nat)
  | slot (key top : Nat)
  deriving DecidableEq, Repr

/-- What an image sends to a data port of a slot. -/
def RawImage.feeders (im : RawImage) (key port : Nat) : List Feeder :=
  (im.strms.map fun r => r.binds.filterMap fun b =>
      let d := b.extractLsb' 0 31
      if dstKey (r.u 0 1) (r.u 1 1) d = some key ∧ dPort d = port then some (Feeder.strm r (b.extractLsb' 32 2).toNat) else none).flatten
    ++ (im.used.map fun u =>
      let rp := BitVec.ofNat 64 (u.1.u 16 8)
      ([dest0 rp, dest1 rp].filter dV).filterMap fun d =>
        if dstKey (u.1.u 0 1) (u.1.u 1 1) d = some key ∧ dPort d = port then some (Feeder.slot (recKey u.1) (dTop d)) else none).flatten

/-- Whether a program opens a handle once, outside every loop, so that it pushes each iteration once. -/
def opensOnce (ps : List Word) (h : Nat) : Bool :=
  let is := (readProg (ps.length + 1) 0 ps []).1
  match is.filter fun x => match x.i with
      | .sopen k false _ _ _ _ _ _ _ _ _ => decide (k.toNat = h)
      | _ => false with
  | [x] => (loopsOf is).all fun l => !decide (l.1 ≤ x.idx ∧ x.idx ≤ l.2)
  | _ => false

/-- Whether a slot surely fires at most once per tag: one of its data ports has one sender, which sends a token at most
once per tag and keeps tags apart. `fuel` bounds the chain of senders. -/
def RawImage.firesOnce (im : RawImage) : Nat → Nat → Bool
  | 0, _ => false
  | fuel + 1, key =>
    match im.used.find? fun u => decide (recKey u.1 = key) with
    | none => false
    | some (_, i) =>
      match slotRow i with
      | none => false
      | some (row, f) =>
        (dataPorts row f).any fun p =>
          match im.feeders key p.toNat with
          | [.strm r h] => opensOnce r.parcels h
          | [.slot k top] =>
            decide (top < 2) && RawImage.firesOnce im fuel k
              && (match im.used.find? fun u => decide (recKey u.1 = k) with
                  | some (_, .titer _) => false
                  | some _ => true
                  | none => false)
          | _ => false

/-- Whether every TALLOC and TCALL slot of an image fires at most once per tag of its space (R234). Where the image's own
edges do not show it, `Config.firesOnce` decides (log entry 40). -/
def opensOk (im : RawImage) (bytes : List Byte) : Bool :=
  (im.used.all fun u => !(opens u.2).isSome || im.firesOnce im.slots.length (recKey u.1)) || Config.firesOnce bytes

/-- Whether the STRM entries of an image, and its stream programs, are in order (R267, R444). -/
def streamsOk (f : List Byte) (xs : List Section) (va : Nat) (im : RawImage) : Bool :=
  let ents := (xs.filter fun x => decide (x.code = 3)).flatMap fun x =>
    (rawRecs 0 (x.len / 16) 16 (x.bytes f)).filter fun r => decide (r.u 0 8 = va)
  (ents.all fun e => decide (e.u 15 1 = 0) && im.strms.any fun r => decide (r.off = e.u 8 4 ∧ r.u 0 3 = e.u 12 3))
    && im.strms.all fun r => (ents.any fun e => decide (r.off = e.u 8 4)) && (progBad r.parcels).isEmpty

/-- The failure of the declarations: the first record that fails, or one past the last where an image has none. -/
def checkFail (f : List Byte) (xs : List Section) : Option LoadFail :=
  let ds := (xs.filter fun x => decide (x.code = 8)).flatMap fun x => declsOf (x.len + 1) (x.bytes f)
  let bad (d : ImageDecl) : Bool :=
    match rawImageOf (confAt f xs d.va) with
    | none => true
    | some im => !(d.agrees im && d.bounds im && opensOk im (confAt f xs d.va) && streamsOk f xs d.va im)
  let vas := (xs.filter fun x => decide (x.code = 3)).flatMap fun x => (rawRecs 0 (x.len / 16) 16 (x.bytes f)).map (·.u 0 8)
  match ds.findIdx? bad with
  | some i => some ⟨5, i⟩
  | none => unlessOk (vas.all fun v => ds.any fun d => decide (d.va = v)) 5 ds.length

/-! ### The whole check -/

/-- The failures of the sections, in table order. -/
def State.sectionFails (s : State) (pasid : Nat) (f : List Byte) : List Section → List Section → Option LoadFail
  | _, [] => none
  | before, x :: rest =>
    match s.sectionFail pasid f before x with
    | some e => some e
    | none => s.sectionFails pasid f (before ++ [x]) rest

/-- The first failure that the loader meets (R447). -/
def State.loadFail (s : State) (pasid : Nat) (f : List Byte) : Option LoadFail :=
  match fileHeaderFail f with
  | some e => some e
  | none =>
    let xs := sectionsOf f
    match s.sectionFails pasid f [] xs with
    | some e => some e
    | none =>
      if !((xs.any fun x => decide (x.code = 1)) && xs.any fun x => decide (x.code = 6)) then some ⟨1, 0xFFFF⟩
      else checkFail f xs

/-! ### Placing (R444, R449, R450) -/

/-- DMOV parcels of a TEXT section (R448): its lines lie at multiples of 128. -/
def Section.dmovs (x : Section) (f : List Byte) : Nat :=
  let lines := x.bytes f
  ((List.range (x.len / 8)).filter fun i =>
    let a := x.va + 8 * i
    let hdr := a / 128 * 128
    decide (a ≠ hdr ∧ x.va ≤ hdr) && (BitVec.ofNat 64 (fieldAt lines (hdr - x.va) 8)).getLsbD ((a - hdr) / 8 - 1)
      && decide (fieldAt lines (8 * i) 8 / 2 ^ 58 = 0x3C)).length

/-- The die of DATA, BSS and LNCH (R446). -/
def dataDie (f : List Byte) (xs : List Section) : Nat :=
  (((xs.filter fun x => decide (x.code = 9)).flatMap fun x => notesOf (f.length + 1) (x.bytes f)).findSome? fun n =>
    match n with
    | some (kind, d) => if kind % 2 ^ 15 = 2 then some (leNat d) else none
    | none => none).getD 0

/-- Takes `n` pages at the same place in the HBM of every die: the address in die 0's. -/
def State.allocEvery (s : State) (n : Nat) : Option (Nat × State) :=
  let start := (List.range 8).foldl (fun m d => max m (s.nextPage.get Config.firstPage d)) 0
  let p := (List.range 32).foldl (fun p _ => (List.range 8).foldl (fun p d => s.clearOf d n 4 p) p) start
  if 2 ^ 25 < p + n then none
  else
    let s := (List.range 8).foldl (fun s d =>
      let a := d * 2 ^ 37 + p * 4096
      { s with nextPage := s.nextPage.put d (p + n), mem := s.mem.forget a (n * 4096),
               hbmBad := s.hbmBad.filter fun b => !decide (a ≤ b ∧ b < a + n * 4096) }) s
    some (p * 4096, s)

/-- A page that the loader has placed: its number, its address, and the permissions of its sections. -/
structure LoadPage where
  vpn  : Nat
  pa   : Nat
  perm : Nat

/-- Places one section: its pages, then its bytes. -/
def State.placeSection (s : State) (f : List Byte) (die : Nat) (x : Section) (ps : List LoadPage) : Option (State × List LoadPage) :=
  let new := x.pages.filter fun p => !ps.any fun q => decide (q.vpn = p)
  let got := if new.isEmpty then some (0, s) else if x.everyDie then s.allocEvery new.length else s.allocPages die new.length
  got.map fun (a, s) =>
    let ps := (ps.map fun q => if x.pages.contains q.vpn then { q with perm := q.perm ||| x.perm } else q)
      ++ new.mapIdx fun i p => { vpn := p, pa := a + 4096 * i, perm := x.perm }
    let write (s : State) (die : Nat) : State :=
      ps.foldl (fun s q =>
        let lo := max x.va (4096 * q.vpn)
        let hi := min (x.va + x.len) (4096 * q.vpn + 4096)
        if lo < hi then
          { s with mem := s.mem.store (die * 2 ^ 37 + q.pa + lo % 4096) (((x.bytes f).drop (lo - x.va)).take (hi - lo)) }
        else s) s
    (if x.everyDie then (List.range 8).foldl write s else write s 0, ps)

/-- Places the sections of one kind and maps their pages; `extra` are further bits of their entries. -/
def State.placeKind (s : State) (pasid : Nat) (f : List Byte) (die extra : Nat) (xs : List Section) : Except Nat State :=
  let r := xs.foldl (fun acc x =>
    match acc with
    | .error i => .error i
    | .ok (s, ps) => match s.placeSection f die x ps with
      | none => .error x.idx
      | some sp => .ok sp) (Except.ok (s, ([] : List LoadPage)))
  match r with
  | .error i => .error i
  | .ok (s, ps) =>
    ps.foldl (fun acc q =>
      match acc with
      | .error i => .error i
      | .ok s => match s.mapPages pasid (4096 * q.vpn) q.pa 1 (1 + 4 * q.perm + extra) with
        | none => .error ((xs.find? fun x => x.pages.contains q.vpn).map (·.idx) |>.getD 0)
        | some s => .ok s) (Except.ok s)

/-- A load status word (R447). -/
def loadWord (status detail dmov : Nat) : Word :=
  BitVec.ofNat 64 (min dmov (2 ^ 32 - 1) * 2 ^ 32 + detail % 2 ^ 16 * 2 ^ 8 + status)

/-- Reports a load status word. -/
def State.loadReport (s : State) (v : Word) : State := { s with mgmt := { s.mgmt with loadStatus := v } }

/-- Loads a binary into a PASID; a refused load places nothing. Before OK, the PASID's translations are removed. -/
def State.loadBinary (s : State) (pasid : Nat) (f : List Byte) : State :=
  match s.loadFail pasid f with
  | some e => s.loadReport (loadWord e.status e.detail 0)
  | none =>
    let xs := sectionsOf f
    let dmov := ((xs.filter fun x => decide (x.code = 1)).map fun x => x.dmovs f).sum
    let die := dataDie f xs
    match s.placeKind pasid f 0 512 (xs.filter Section.everyDie) with
    | .error i => s.loadReport (loadWord 7 i 0)
    | .ok t =>
      match t.placeKind pasid f die 0 (xs.filter fun x => x.placed && !x.everyDie) with
      | .error i => s.loadReport (loadWord 7 i 0)
      | .ok t => (t.tlbi (.pasid pasid)).loadReport (loadWord 0 0 dmov)

/-- LOAD_BINARY (R442 to R453). -/
def execLoadBinary (pasid : Nat) (file : List Byte) (s : State) : Out := .next (s.loadBinary pasid file)

end Sys2Proof.Machine
end

