-- ==== Sys2Proof/Machine/SyncLantern.lean ====
section
/-! DEFINITION. The Lantern forms of the Y class (R300, R303 to R321). A request is performed at the engine when the
instruction issues, and its reply returns at once; only the waits of R308 take further turns. -/

namespace Sys2Proof.Machine

/-- The synchronisation address of a byte of the local slice of a Lantern's launch on its die (R300). -/
def State.sliceAt (s : State) (k va : Nat) : Option Nat :=
  match s.launchOf k with
  | none => none
  | some l => (l.slices.find (lanDie k)).map fun b => b + va

/-- Translates the address of a Y-class instruction of the Lantern whose turn it is (R300, R305): die and address of the
object. `w` says that it needs W as well as R. -/
def State.syncAddr (s : State) (va : Word) (w : Bool) : Vis (Nat × Nat) :=
  let cause := if w then cSTF else cLDF
  let k := s.focus
  if va.toNat < 0x10000 then
    match s.sliceAt k va.toNat with
    | some a => .ok (lanDie k, a) s
    | none => .stop (s.missAccess 0 accCommand cause va 1)
  else
    let r := s.lanXlate k va 8 .load
    match r.1 with
    | .miss reason => .stop (r.2.missAccess reason accCommand cause va 1)
    | .perm => .stop (r.2.trap cPERM va)
    | .at_ _ (.sync die a) _ =>
      if w then
        let q := r.2.lanXlate k va 8 .store
        match q.1 with
        | .at_ _ _ _ => .ok (die, a) q.2
        | .miss reason => .stop (q.2.missAccess reason accCommand cause va 1)
        | .perm => .stop (q.2.trap cPERM va)
      else .ok (die, a) r.2
    | .at_ _ _ _ => .stop (r.2.missAccess 2 accCommand cause va 1)

/-- An error at the engine (R305): a SYNC record, rd all ones, and the instruction retires. -/
def State.syncErr (s : State) (rd : Reg) (va : Word) (reason : Nat) : State :=
  (s.syncLog s.focus va reason).finishLan s.focus rd (0#64 - 1#64)

/-- A Y-class instruction's request (R303 to R306): alignment, translation, then `k` at the engine. A speculative
segment's request stalls until commit, unless it only reads. -/
def State.sync_ (s : State) (ra : Reg) (align : Nat) (w : Bool) (k : Nat → Nat → State → State) : State :=
  let va := s.x ra
  if w && s.speculative s.focus then s
  else if va.toNat % align ≠ 0 then s.trap cALIGN va
  else
    match (s.performLoads s.focus).syncAddr va w with
    | .stop s => s
    | .ok p s => if s.diesCut (lanDie s.focus) p.1 then s else k p.1 p.2 s

/-- Ends a request with the engine's answer: the reply enters its phase into the wait table (R309) and writes rd. -/
def State.syncReply (s : State) (rd : Reg) (va : Word) (die a : Nat) : Eng → State
  | .err reason => s.syncErr rd va reason
  | .ok v sig ovr t =>
    let t := if ovr then t.syncLog t.focus va 1 else t
    let t := match sig with
      | some q => t.modCur fun l => l.remember (syncKey die a) q
      | none => t
    t.finishLan t.focus rd (BitVec.ofNat 64 v)

/-- PHNEW (R311). -/
def State.phnew (s : State) (rd ra rb : Reg) : State :=
  s.sync_ ra 32 true fun die a s => s.syncReply rd (s.x ra) die a (s.engNew die a (s.x rb).toNat)

/-- PHREG (R312). -/
def State.phreg (s : State) (i : Instr) (rd ra : Reg) (mode : BitVec 32) : State :=
  if mode &&& 0xFFFFFFFE#32 ≠ 0#32 then s.illop i
  else s.sync_ ra 32 true fun die a s => s.syncReply rd (s.x ra) die a (s.engReg die a (mode.getLsbD 0))

/-- PHDRP (R312): the entry leaves the wait table. -/
def State.phdrp (s : State) (i : Instr) (rd ra : Reg) (mode : BitVec 32) : State :=
  let w := mode.getLsbD 0
  let arr := mode.getLsbD 1
  if mode &&& 0xFFFFFFFC#32 ≠ 0#32 then s.illop i
  else if w && arr then s.illop i
  else
    s.sync_ ra 32 true fun die a s =>
      let q : Option Nat :=
        if arr then
          match s.cur.sigOf (syncKey die a) with
          | some v => some (v + 1#32).toNat
          | none => s.phaseAt die a
        else none
      match s.engDrop die a w q with
      | .err reason => s.syncErr rd (s.x ra) reason
      | .ok v sig ovr t =>
        let t := t.modCur fun l => l.forget (syncKey die a)
        t.syncReply rd (s.x ra) die a (.ok v sig ovr t)

/-- PHSIG (R313). -/
def State.phsig (s : State) (rd ra : Reg) : State :=
  s.sync_ ra 32 true fun die a s =>
    s.syncReply rd (s.x ra) die a (s.engSig die a (s.cur.sigOf (syncKey die a)))

/-- The phase that a waiting request of Lantern `k` on an object waits for. -/
def State.waitPhase (s : State) (k die a : Nat) : Option (BitVec 32) :=
  (s.sync die).waits.findSome? fun w =>
    if w.ofLan k && decide (w.addr = a) then
      (match w.what with
       | .phase p => some p
       | _ => none)
    else none

/-- The wait of PHWT and PHSW on phase `sig` (R308, R314): it returns once the phase has completed, and stands at the
engine until then. `v` is what rd receives. -/
def State.waitOn (s : State) (rd : Reg) (v : Word) (die a phase : Nat) (sig : BitVec 32) : State :=
  if phaseDone phase sig then
    ((s.withdraw s.focus).modCur fun l => l.forget (syncKey die a)).finishLan s.focus rd v
  else if (s.waitPhase s.focus die a).isSome then s
  else s.modSync die fun y => { y with waits := y.waits ++ [{ who := .lan s.focus rd, what := .phase sig, addr := a }] }

/-- PHWT (R314): on the table's SIG; with no entry, on the phase open when its request came. -/
def State.phwt (s : State) (ra : Reg) : State :=
  s.sync_ ra 32 false fun die a s =>
    match s.phaseAt die a with
    | none => (s.withdraw s.focus).syncErr 0#5 (s.x ra) 2
    | some phase =>
      let sig := match s.waitPhase s.focus die a with
        | some p => p
        | none => (s.cur.sigOf (syncKey die a)).getD (BitVec.ofNat 32 phase)
      s.waitOn 0#5 0#64 die a phase sig

/-- PHSW (R314): PHSIG, then the wait on the phase it signalled. A PHSW that has signalled and starts again only waits
(DEDUCED, log entry 15). -/
def State.phsw (s : State) (rd ra : Reg) : State :=
  s.sync_ ra 32 true fun die a s =>
    let held := match s.cur.phsw with
      | some (pc, q) => if pc = s.cur.pc then some q else none
      | none => none
    match held with
    | some q =>
      (match s.phaseAt die a with
       | none => (s.withdraw s.focus).syncErr rd (s.x ra) 2
       | some phase => s.waitOn rd (q.setWidth 64) die a phase q)
    | none =>
      match s.engSig die a (s.cur.sigOf (syncKey die a)) with
      | .err reason => s.syncErr rd (s.x ra) reason
      | .ok v _ _ t =>
        let q := BitVec.ofNat 32 v
        let t := t.modCur fun l => { l.remember (syncKey die a) q with phsw := some (l.pc, q) }
        match t.phaseAt die a with
        | none => t
        | some phase => t.waitOn rd (q.setWidth 64) die a phase q

/-- BEXP (R315). -/
def State.bexp (s : State) (ra rb : Reg) : State :=
  s.sync_ ra 32 true fun die a s => s.syncReply 0#5 (s.x ra) die a (s.engExpect die a (s.x rb).toNat)

/-- BADD (R315). -/
def State.badd (s : State) (rd ra rb : Reg) : State :=
  s.sync_ ra 32 true fun die a s => s.syncReply rd (s.x ra) die a (s.engBytes die a (s.x rb).toNat)

/-- An atomic (R317). -/
def State.atom (s : State) (o : AtomOp) (rd ra rb : Reg) : State :=
  s.sync_ ra 8 true fun die a s => s.syncReply rd (s.x ra) die a (s.engAtom die a o (s.x rb))

/-- FBRD (R320): flags go into FPFLAGS. -/
def State.fbrd (s : State) (rd ra : Reg) : State :=
  s.sync_ ra 16 false fun die a s =>
    match s.engRead die a (s.cur.fpmode.extractLsb' 0 2) with
    | none => s.syncErr rd (s.x ra) 2
    | some r => (s.accrue s.focus r.flags).finishLan s.focus rd r.val

/-- A request that finds its queue full or empty (R321): QWAIT, or with B a wait at the engine. -/
def State.queueWait (s : State) (b : Bool) (va : Word) (die a : Nat) (rd : Reg) (what : WaitWhat) : State :=
  if !b then s.trap cQWAIT va
  else if (s.sync die).waits.any fun w => w.ofLan s.focus then s
  else s.modSync die fun y => { y with waits := y.waits ++ [{ who := .lan s.focus rd, what := what, addr := a }] }

/-- QPSH (R321). -/
def State.qpsh (s : State) (b : Bool) (ra rb : Reg) : State :=
  s.sync_ ra 32 true fun die a s =>
    if (s.sync die).waits.any fun w => w.ofLan s.focus then s.serveAll die a
    else
      match s.engPush die a fmtI64 ((s.x rb).setWidth 80) with
      | .bad => s.syncErr 0#5 (s.x ra) 2
      | .done _ t => t.finishLan s.focus 0#5 0#64
      | .blocked => s.queueWait b (s.x ra) die a 0#5 (.push fmtI64 ((s.x rb).setWidth 80))

/-- QPOP (R321). -/
def State.qpop (s : State) (b : Bool) (rd ra : Reg) : State :=
  s.sync_ ra 32 true fun die a s =>
    if (s.sync die).waits.any fun w => w.ofLan s.focus then s.serveAll die a
    else
      match s.engPop die a with
      | .bad => s.syncErr rd (s.x ra) 2
      | .done v t => t.finishLan s.focus rd v
      | .blocked => s.queueWait b (s.x ra) die a rd (.pop (s.x ra))

/-- PHNEW (R311). -/
def execPhnew (_scope : BitVec 3) (rd ra rb : Reg) (s : State) : Out := .next (s.phnew rd ra rb)
/-- PHREG (R312). -/
def execPhreg (scope : BitVec 3) (rd ra : Reg) (mode : BitVec 32) (s : State) : Out :=
  .next (s.phreg (.phreg scope rd ra mode) rd ra mode)
/-- PHDRP (R312). -/
def execPhdrp (scope : BitVec 3) (rd ra : Reg) (mode : BitVec 32) (s : State) : Out :=
  .next (s.phdrp (.phdrp scope rd ra mode) rd ra mode)
/-- PHSIG (R313). -/
def execPhsig (_scope : BitVec 3) (rd ra : Reg) (s : State) : Out := .next (s.phsig rd ra)
/-- PHWT (R314). -/
def execPhwt (ra : Reg) (s : State) : Out := .next (s.phwt ra)
/-- PHSW (R314). -/
def execPhsw (_scope : BitVec 3) (rd ra : Reg) (s : State) : Out := .next (s.phsw rd ra)
/-- BEXP (R315). -/
def execBexp (_scope : BitVec 3) (ra rb : Reg) (s : State) : Out := .next (s.bexp ra rb)
/-- BADD (R315). -/
def execBadd (_scope : BitVec 3) (rd ra rb : Reg) (s : State) : Out := .next (s.badd rd ra rb)
/-- AADD (R317). -/
def execAadd (_scope : BitVec 3) (rd ra rb : Reg) (s : State) : Out := .next (s.atom .add rd ra rb)
/-- AAND (R317). -/
def execAand (_scope : BitVec 3) (rd ra rb : Reg) (s : State) : Out := .next (s.atom .and rd ra rb)
/-- AOR (R317). -/
def execAor (_scope : BitVec 3) (rd ra rb : Reg) (s : State) : Out := .next (s.atom .or rd ra rb)
/-- AXOR (R317). -/
def execAxor (_scope : BitVec 3) (rd ra rb : Reg) (s : State) : Out := .next (s.atom .xor rd ra rb)
/-- AMIN (R317). -/
def execAmin (u : Bool) (_scope : BitVec 3) (rd ra rb : Reg) (s : State) : Out := .next (s.atom (.min u) rd ra rb)
/-- AMAX (R317). -/
def execAmax (u : Bool) (_scope : BitVec 3) (rd ra rb : Reg) (s : State) : Out := .next (s.atom (.max u) rd ra rb)
/-- AXCH (R317). -/
def execAxch (_scope : BitVec 3) (rd ra rb : Reg) (s : State) : Out := .next (s.atom .xchg rd ra rb)
/-- ACAS (R317): it writes x(rb) where the word holds x(rd). -/
def execAcas (_scope : BitVec 3) (rd ra rb : Reg) (s : State) : Out :=
  .next (s.sync_ ra 8 true fun die a s => s.syncReply rd (s.x ra) die a (s.engCas die a (s.x rd) (s.x rb)))
/-- FBIN (R319). -/
def execFbin (_scope : BitVec 3) (ra rb : Reg) (s : State) : Out :=
  .next (s.sync_ ra 16 true fun die a s =>
    s.syncReply 0#5 (s.x ra) die a (s.engBin die a (floatLoad 0 (s.x rb).toNat)))
/-- FBRD (R320). -/
def execFbrd (rd ra : Reg) (s : State) : Out := .next (s.fbrd rd ra)
/-- FBCLR (R318). -/
def execFbclr (_scope : BitVec 3) (ra rb : Reg) (s : State) : Out :=
  .next (s.sync_ ra 16 true fun die a s => s.syncReply 0#5 (s.x ra) die a (s.engClear die a (s.x rb).toNat))
/-- QPSH (R321). -/
def execQpsh (b : Bool) (_scope : BitVec 3) (ra rb : Reg) (s : State) : Out := .next (s.qpsh b ra rb)
/-- QPOP (R321). -/
def execQpop (b : Bool) (_scope : BitVec 3) (rd ra : Reg) (s : State) : Out := .next (s.qpop b rd ra)

end Sys2Proof.Machine
end

