-- ==== Sys2Proof/Machine/System.lean ====
section
/-! DEFINITION. System instructions (R134), the state-register accesses (R111), DMOV (R146), and the traps that a
Lantern takes at a boundary as events (R119). -/

namespace Sys2Proof.Machine

/-- TRAP and SVC (R134): EVAL is the zero-extended code. -/
def State.trapCode (s : State) (cause : Nat) (code : BitVec 32) : State := s.trap cause (code.setWidth 64)

/-- ERET (R120, R134); in user mode PRIV. It waits until every earlier instruction has completed (R114). A return to
the end address resumes the wait at the end of the segment (R141). -/
def State.eret (s : State) : State :=
  if !s.cur.sup then s.trap cPRIV (parcelOf .eret)
  else if s.loadsOut s.focus then s
  else
    let s := s.traceIndirect s.focus 3 0 s.cur.epc
    s.modCur fun l =>
      let l := l.leaveTrap
      if l.pc = endAddr then { l with st := .ending } else l

/-- SRR (R111, R134). -/
def State.readSr (s : State) (rd : Reg) (num : BitVec 32) : State :=
  match s.srValue s.focus num.toNat with
  | none => s.illop (.srr rd num)
  | some v =>
    if s.cur.sup || srUserReads num.toNat then s.retireReg rd v 1 else s.trap cPRIV (parcelOf (.srr rd num))

/-- SRW (R111, R123, R134): a register marked "no" is ILLOP before the mode is checked. It waits until every earlier
instruction has completed (R114). -/
def State.writeSr (s : State) (num : BitVec 32) (ra : Reg) : State :=
  let i := Instr.srw num ra
  let n := num.toNat
  if !srWritable n then s.illop i
  else if !s.cur.sup && !srUserWrites n then s.trap cPRIV (parcelOf i)
  else if s.loadsOut s.focus then s
  else if decide (n = 0xC) && !fqbaseOk (s.x ra) then s.illop i
  else (s.srWrite s.focus n (s.x ra)).retire 1

/-- HALT (R134); in user mode PRIV. -/
def State.halt (s : State) : State :=
  if !s.cur.sup then s.trap cPRIV (parcelOf .halt)
  else (s.modCur fun l => { l with st := .halted }).retire 1

/-- The first of three values that is not a multiple of 8. -/
def firstOdd (a b c : Word) : Option Word :=
  if a.toNat % 8 ≠ 0 then some a else if b.toNat % 8 ≠ 0 then some b else if c.toNat % 8 ≠ 0 then some c else none

/-- A trap of DMOV in move `i` (R146): EMICRO holds the move. -/
def State.dmovTrap (s : State) (cause : Nat) (va i : Word) : State :=
  s.trapAt s.focus cause s.cur.pc va i (nextParcel s.cur.pc)

/-- The fate of a DMOV access that finds no translation. -/
def State.dmovMiss (s : State) (reason access cause : Nat) (va i : Word) : State :=
  if s.holds (lanDie s.focus) reason then s.holdAccess reason access va else s.dmovTrap cause va i

/-- One move of DMOV (R146): loads 8 bytes, waiting for them, and stores them; EMICRO counts the moves. -/
def State.dmovMove (s : State) (src dst : Word) : State :=
  let i := s.cur.emicro
  let a := src + 8#64 * i
  let b := dst + 8#64 * i
  let r := s.lanXlate s.focus a 8 .load
  match r.1 with
  | .miss reason => r.2.dmovMiss reason accRead cLDF a i
  | .perm => r.2.dmovTrap cPERM a i
  | .at_ pa from_ _ =>
    if r.2.homeCut (lanDie s.focus) pa from_ then r.2 else
    let d := r.2.lanLoad s.focus pa 8
    if d.2.1 then d.2.2.dmovTrap cLDF a i
    else
      let w := d.2.2.lanXlate s.focus b 8 .store
      match w.1 with
      | .miss reason => w.2.dmovMiss reason accWrite cSTF b i
      | .perm => w.2.dmovTrap cPERM b i
      | .at_ pb kind _ =>
        if w.2.homeCut (lanDie s.focus) pb kind then w.2 else
        match w.2.lanStore s.focus pb kind d.1 with
        | some s => s.modCur fun l => { l with emicro := i + 1#64, xheld := none, stWait := none }
        | none => w.2.modCur fun l => { l with stWait := w.2.stageBlock s.focus pb d.1 }

/-- DMOV (R146): one move at a time, so that traps are taken between moves; the registers change in the last step. -/
def State.dmov (s : State) (rd ra rb : Reg) : State :=
  let dst := s.x rd
  let src := s.x ra
  let len := s.x rb
  match firstOdd dst src len with
  | some v => s.trap cALIGN v
  | none =>
    if s.cur.emicro.toNat < len.toNat / 8 then (s.performLoads s.focus).dmovMove src dst
    else
      s.modCur fun l =>
        ({ (((l.setReg rd (dst + len)).setReg ra (src + len)).setReg rb 0#64) with emicro := 0#64 }).advance 1

/-- TRAP (R134). -/
def execTrap (code : BitVec 32) (s : State) : Out := .next (s.trapCode cTRAP code)
/-- SVC (R134). -/
def execSvc (code : BitVec 32) (s : State) : Out := .next (s.trapCode cSVC code)
/-- ERET (R134). -/
def execEret (s : State) : Out := .next s.eret
/-- SRR (R134). -/
def execSrr (rd : Reg) (num : BitVec 32) (s : State) : Out := .next (s.readSr rd num)
/-- SRW (R134). -/
def execSrw (num : BitVec 32) (ra : Reg) (s : State) : Out := .next (s.writeSr num ra)
/-- HALT (R134). -/
def execHalt (s : State) : Out := .next s.halt
/-- NOP (R134). -/
def execNop (s : State) : Out := .next (s.retire 1)
/-- DMOV (R146). -/
def execDmov (rd ra rb : Reg) (s : State) : Out := .next (s.dmov rd ra rb)

/-- FETCH_FAULT: the fetch of Lantern `lan` fails its checks (R59, R60, R121). -/
def execFetchFault (lan : Nat) (s : State) : Out :=
  if (s.lan lan).st = .run then
    let f := s.fetch lan
    match f.1 with
    | .fault cause epc val n => .next (f.2.fetchTrap lan cause epc val n)
    | _ => .next s
  else .next s

/-- The parcel after the instruction that Lantern `k` is about to execute, and the step of a DMOV there. An end wait that is
over is no boundary: the segment's end wins over BUDGET (R388). -/
def State.boundaryAt (s : State) (k : Nat) : Option (Word × Word) :=
  let l := s.lan k
  match l.st with
  | .ending => if s.endReady k then none else some (0#64, nextParcel l.pc)
  | .run =>
    match (s.fetch k).1 with
    | .run i n => some (microOf l i, afterParcels l.pc n)
    | _ => none
  | _ => none

/-- BUDGET_TRAP (R119 item 2). -/
def execBudgetTrap (lan : Nat) (s : State) : Out :=
  match s.boundaryAt lan with
  | some (micro, next) => .next (if (s.lan lan).budgetDue then s.budgetTrapAt lan micro next else s)
  | none => .next s

/-- FAULT_QUEUE_TRAP (R119 item 3): after BUDGET. -/
def execFaultQueueTrap (lan : Nat) (s : State) : Out :=
  match s.boundaryAt lan with
  | some (micro, next) =>
    .next (if !(s.lan lan).budgetDue && (s.lan lan).queueDue then s.queueTrapAt lan micro next else s)
  | none => .next s

/-- DPOISON (R119 item 4): after BUDGET and the fault queue. -/
def execDpoison (lan : Nat) (s : State) : Out :=
  match s.boundaryAt lan with
  | some (_, next) =>
    .next (if !(s.lan lan).budgetDue && !(s.lan lan).queueDue then s.poisonTrapAt lan next else s)
  | none => .next s

end Sys2Proof.Machine
end

