-- ==== Sys2Proof/Machine/Windows.lean ====
section
/-! DEFINITION. Writes to a Lantern's windows and to element debug space, as they take effect at the unit that they name
(R31, R33), and what has been posted to a unit. -/

namespace Sys2Proof.Machine

/-- Whether a register is the token register of a copy or of a matrix command in flight (R115, R355). -/
def State.tokenReg (s : State) (k : Nat) (r : Reg) : Bool :=
  (s.chans.any fun c => decide (c.2.lan = k ∧ c.2.rd = r)) ||
    (match (s.lan k).mx with
     | none => false
     | some a => (a.run.any fun x => decide (x.rd = r)) || (a.cmd.any fun x => decide (x.rd = r))
        || (a.snapq.any fun x => decide (x.rd = r)))

/-- A window write to a general register: s0 discards it, and a token register is released (R31). -/
def State.windowGpr (s : State) (k : Nat) (r : Reg) (v : Word) : State :=
  let free := s.tokenReg k r
  s.modLan k fun l => if free then (l.setReg r v).unblock r else l.setReg r v

/-- A window write to a state register, by the rules of SRW; a refused write changes nothing (R31). -/
def State.windowState (s : State) (k num : Nat) (v : Word) : State :=
  if !srWritable num || (decide (num = 0xC) && !fqbaseOk v) then s else s.srWrite k num v

/-- A write to element debug space: only while the element's regions are stopped (R33). -/
def State.windowDebug (s : State) (el area off : Nat) (v : Word) : State :=
  if !s.debugRefused el area off && debugOk area off then s.writeDebug el area off v else s

/-- What a posted write or comparison does when it arrives. -/
def State.takePost (s : State) (p : Post) : State :=
  match p with
  | .gpr k r v => s.windowGpr k r v
  | .sreg k num v => s.windowState k num v
  | .debug el area off v => s.windowDebug el area off v
  | .hub view off v => s.regWrite view off v
  | .mismatch die row => s.spareMismatch_ die row

/-- WINDOW_GPR_WRITE (R31). -/
def execWindowGprWrite (lan : Nat) (r : Reg) (v : Word) (s : State) : Out := .next (s.windowGpr lan r v)
/-- WINDOW_STATE_WRITE (R31). -/
def execWindowStateWrite (lan num : Nat) (v : Word) (s : State) : Out := .next (s.windowState lan num v)
/-- ELEMENT_DEBUG_WRITE (R33). -/
def execElementDebugWrite (el area off : Nat) (v : Word) (s : State) : Out := .next (s.windowDebug el area off v)

end Sys2Proof.Machine
end

