-- ==== Sys2Proof/Machine/Dispatch.lean ====
section
/-! DEFINITION. The one dispatch: each constructor of Instr and its meaning. -/

namespace Sys2Proof.Machine
open Sys2Proof

/-- What an instruction or event does. -/
def exec (i : Instr) (s : State) : Host.Outcome State Fault Refusal :=
  match i with
  | .add rd ra rb => Sys2Proof.Machine.execAdd rd ra rb s
  | .sub rd ra rb => Sys2Proof.Machine.execSub rd ra rb s
  | .mul rd ra rb => Sys2Proof.Machine.execMul rd ra rb s
  | .mulh u rd ra rb => Sys2Proof.Machine.execMulh u rd ra rb s
  | .div u rd ra rb => Sys2Proof.Machine.execDiv u rd ra rb s
  | .rem u rd ra rb => Sys2Proof.Machine.execRem u rd ra rb s
  | .and rd ra rb => Sys2Proof.Machine.execAnd rd ra rb s
  | .or rd ra rb => Sys2Proof.Machine.execOr rd ra rb s
  | .xor rd ra rb => Sys2Proof.Machine.execXor rd ra rb s
  | .addi rd ra imm => Sys2Proof.Machine.execAddi rd ra imm s
  | .andi rd ra imm => Sys2Proof.Machine.execAndi rd ra imm s
  | .ori rd ra imm => Sys2Proof.Machine.execOri rd ra imm s
  | .xori rd ra imm => Sys2Proof.Machine.execXori rd ra imm s
  | .li rd v => Sys2Proof.Machine.execLi rd v s
  | .mov rd ra => Sys2Proof.Machine.execMov rd ra s
  | .shl rd ra op => Sys2Proof.Machine.execShl rd ra op s
  | .shr rd ra op => Sys2Proof.Machine.execShr rd ra op s
  | .sar rd ra op => Sys2Proof.Machine.execSar rd ra op s
  | .slt u rd ra op => Sys2Proof.Machine.execSlt u rd ra op s
  | .ld sz rd ra imm => Sys2Proof.Machine.execLd sz rd ra imm s
  | .ldz sz rd ra imm => Sys2Proof.Machine.execLdz sz rd ra imm s
  | .st sz rd ra imm => Sys2Proof.Machine.execSt sz rd ra imm s
  | .fence scope => Sys2Proof.Machine.execFence scope s
  | .beq ra rb off => Sys2Proof.Machine.execBeq ra rb off s
  | .bne ra rb off => Sys2Proof.Machine.execBne ra rb off s
  | .blt ra rb off => Sys2Proof.Machine.execBlt ra rb off s
  | .bge ra rb off => Sys2Proof.Machine.execBge ra rb off s
  | .bltu ra rb off => Sys2Proof.Machine.execBltu ra rb off s
  | .bgeu ra rb off => Sys2Proof.Machine.execBgeu ra rb off s
  | .jmp off => Sys2Proof.Machine.execJmp off s
  | .jal off => Sys2Proof.Machine.execJal off s
  | .jr ra => Sys2Proof.Machine.execJr ra s
  | .jtab ra base dflt len => Sys2Proof.Machine.execJtab ra base dflt len s
  | .trap code => Sys2Proof.Machine.execTrap code s
  | .svc code => Sys2Proof.Machine.execSvc code s
  | .eret => Sys2Proof.Machine.execEret s
  | .srr rd num => Sys2Proof.Machine.execSrr rd num s
  | .srw num ra => Sys2Proof.Machine.execSrw num ra s
  | .halt => Sys2Proof.Machine.execHalt s
  | .nop => Sys2Proof.Machine.execNop s
  | .cfgld ra => Sys2Proof.Machine.execCfgld ra s
  | .cfggo ra => Sys2Proof.Machine.execCfggo ra s
  | .cfgwt ra => Sys2Proof.Machine.execCfgwt ra s
  | .cfgst rd ra => Sys2Proof.Machine.execCfgst rd ra s
  | .preDrain rd ra => Sys2Proof.Machine.execPreDrain rd ra s
  | .preMarker rd ra => Sys2Proof.Machine.execPreMarker rd ra s
  | .rsm ra => Sys2Proof.Machine.execRsm ra s
  | .dmov rd ra rb => Sys2Proof.Machine.execDmov rd ra rb s
  | .fadd f => Sys2Proof.Machine.execFadd f s
  | .fsub f => Sys2Proof.Machine.execFsub f s
  | .fmul f => Sys2Proof.Machine.execFmul f s
  | .fma f => Sys2Proof.Machine.execFma f s
  | .fms f => Sys2Proof.Machine.execFms f s
  | .fnma f => Sys2Proof.Machine.execFnma f s
  | .fmin f => Sys2Proof.Machine.execFmin f s
  | .fmax f => Sys2Proof.Machine.execFmax f s
  | .fabs f => Sys2Proof.Machine.execFabs f s
  | .fneg f => Sys2Proof.Machine.execFneg f s
  | .fdiv f => Sys2Proof.Machine.execFdiv f s
  | .fsqrt f => Sys2Proof.Machine.execFsqrt f s
  | .frcp f => Sys2Proof.Machine.execFrcp f s
  | .frsq f => Sys2Proof.Machine.execFrsq f s
  | .flg2 f => Sys2Proof.Machine.execFlg2 f s
  | .fex2 f => Sys2Proof.Machine.execFex2 f s
  | .frnd f => Sys2Proof.Machine.execFrnd f s
  | .fcmp f => Sys2Proof.Machine.execFcmp f s
  | .iadd f => Sys2Proof.Machine.execIadd f s
  | .isub f => Sys2Proof.Machine.execIsub f s
  | .imul f => Sys2Proof.Machine.execImul f s
  | .imulh f => Sys2Proof.Machine.execImulh f s
  | .idiv f => Sys2Proof.Machine.execIdiv f s
  | .irem f => Sys2Proof.Machine.execIrem f s
  | .imin f => Sys2Proof.Machine.execImin f s
  | .imax f => Sys2Proof.Machine.execImax f s
  | .ineg f => Sys2Proof.Machine.execIneg f s
  | .icmp f => Sys2Proof.Machine.execIcmp f s
  | .eAnd f => Sys2Proof.Machine.execEAnd f s
  | .eOr f => Sys2Proof.Machine.execEOr f s
  | .eXor f => Sys2Proof.Machine.execEXor f s
  | .andn f => Sys2Proof.Machine.execAndn f s
  | .eNot f => Sys2Proof.Machine.execENot f s
  | .eShl f => Sys2Proof.Machine.execEShl f s
  | .eShr f => Sys2Proof.Machine.execEShr f s
  | .eSar f => Sys2Proof.Machine.execESar f s
  | .rol f => Sys2Proof.Machine.execRol f s
  | .popc f => Sys2Proof.Machine.execPopc f s
  | .clz f => Sys2Proof.Machine.execClz f s
  | .ctz f => Sys2Proof.Machine.execCtz f s
  | .bext f => Sys2Proof.Machine.execBext f s
  | .bins f => Sys2Proof.Machine.execBins f s
  | .cvtfi f => Sys2Proof.Machine.execCvtfi f s
  | .cvtif f => Sys2Proof.Machine.execCvtif f s
  | .cvtfl f => Sys2Proof.Machine.execCvtfl f s
  | .cvtlf f => Sys2Proof.Machine.execCvtlf f s
  | .lget f => Sys2Proof.Machine.execLget f s
  | .lput f => Sys2Proof.Machine.execLput f s
  | .lspl f => Sys2Proof.Machine.execLspl f s
  | .ldot f => Sys2Proof.Machine.execLdot f s
  | .lsum f => Sys2Proof.Machine.execLsum f s
  | .bdot f => Sys2Proof.Machine.execBdot f s
  | .packedBadd f => Sys2Proof.Machine.execPackedBadd f s
  | .pass f => Sys2Proof.Machine.execPass f s
  | .sel f => Sys2Proof.Machine.execSel f s
  | .const f => Sys2Proof.Machine.execConst f s
  | .sink f => Sys2Proof.Machine.execSink f s
  | .cond f => Sys2Proof.Machine.execCond f s
  | .cand f => Sys2Proof.Machine.execCand f s
  | .cor f => Sys2Proof.Machine.execCor f s
  | .cnot f => Sys2Proof.Machine.execCnot f s
  | .steer f => Sys2Proof.Machine.execSteer f s
  | .merge f => Sys2Proof.Machine.execMerge f s
  | .gate f => Sys2Proof.Machine.execGate f s
  | .talloc f => Sys2Proof.Machine.execTalloc f s
  | .tfree f => Sys2Proof.Machine.execTfree f s
  | .tnext f => Sys2Proof.Machine.execTnext f s
  | .titer f => Sys2Proof.Machine.execTiter f s
  | .tcall f => Sys2Proof.Machine.execTcall f s
  | .tret f => Sys2Proof.Machine.execTret f s
  | .eLd f => Sys2Proof.Machine.execELd f s
  | .eSt f => Sys2Proof.Machine.execESt f s
  | .ldv f => Sys2Proof.Machine.execLdv f s
  | .stv f => Sys2Proof.Machine.execStv f s
  | .ldx f => Sys2Proof.Machine.execLdx f s
  | .stx f => Sys2Proof.Machine.execStx f s
  | .eNop f => Sys2Proof.Machine.execENop f s
  | .cres f => Sys2Proof.Machine.execCres f s
  | .mxon rd ra => Sys2Proof.Machine.execMxon rd ra s
  | .mxoff rd => Sys2Proof.Machine.execMxoff rd s
  | .mxwl rd ra rb fmt => Sys2Proof.Machine.execMxwl rd ra rb fmt s
  | .mxrun rd ra rb => Sys2Proof.Machine.execMxrun rd ra rb s
  | .mxprm c rd k => Sys2Proof.Machine.execMxprm c rd k s
  | .mxout rd ra rb fmt => Sys2Proof.Machine.execMxout rd ra rb fmt s
  | .mxzero => Sys2Proof.Machine.execMxzero s
  | .mxsnap rd ra => Sys2Proof.Machine.execMxsnap rd ra s
  | .mxrest rd ra => Sys2Proof.Machine.execMxrest rd ra s
  | .mxslot rd => Sys2Proof.Machine.execMxslot rd s
  | .mxprio rd level => Sys2Proof.Machine.execMxprio rd level s
  | .sopen h input fmt lay rtz ord grp uni count stride base => Sys2Proof.Machine.execSopen h input fmt lay rtz ord grp uni count stride base s
  | .sclose h => Sys2Proof.Machine.execSclose h s
  | .spush h n => Sys2Proof.Machine.execSpush h n s
  | .sacpt h n => Sys2Proof.Machine.execSacpt h n s
  | .sgath h ifmt n ibase => Sys2Proof.Machine.execSgath h ifmt n ibase s
  | .sscat h ifmt n ibase => Sys2Proof.Machine.execSscat h ifmt n ibase s
  | .sloop h adv back times stp => Sys2Proof.Machine.execSloop h adv back times stp s
  | .swait addr => Sys2Proof.Machine.execSwait addr s
  | .ssig h aft scope bytes addr => Sys2Proof.Machine.execSsig h aft scope bytes addr s
  | .wload mask => Sys2Proof.Machine.execWload mask s
  | .wdrop mask => Sys2Proof.Machine.execWdrop mask s
  | .vopen win ent first nw => Sys2Proof.Machine.execVopen win ent first nw s
  | .vrecl win rel v => Sys2Proof.Machine.execVrecl win rel v s
  | .mlay segs xs chk => Sys2Proof.Machine.execMlay segs xs chk s
  | .bret rd ra imm => Sys2Proof.Machine.execBret rd ra imm s
  | .bscrb rd ra imm => Sys2Proof.Machine.execBscrb rd ra imm s
  | .bstat c rd ra imm => Sys2Proof.Machine.execBstat c rd ra imm s
  | .mpin rd ra => Sys2Proof.Machine.execMpin rd ra s
  | .munpn rd ra => Sys2Proof.Machine.execMunpn rd ra s
  | .mevct rd ra => Sys2Proof.Machine.execMevct rd ra s
  | .spawn rd ra => Sys2Proof.Machine.execSpawn rd ra s
  | .spwnc rd ra rb => Sys2Proof.Machine.execSpwnc rd ra rb s
  | .reslv rd ra => Sys2Proof.Machine.execReslv rd ra s
  | .commit rd => Sys2Proof.Machine.execCommit rd s
  | .abortNorequeue => Sys2Proof.Machine.execAbortNorequeue s
  | .abortRequeue => Sys2Proof.Machine.execAbortRequeue s
  | .yield rd => Sys2Proof.Machine.execYield rd s
  | .yieldIfWaiting rd => Sys2Proof.Machine.execYieldIfWaiting rd s
  | .dline rd ra => Sys2Proof.Machine.execDline rd ra s
  | .budgt rd ra => Sys2Proof.Machine.execBudgt rd ra s
  | .segid rd ra => Sys2Proof.Machine.execSegid rd ra s
  | .pred w rd ra rb => Sys2Proof.Machine.execPred w rd ra rb s
  | .tailw rd ra rb => Sys2Proof.Machine.execTailw rd ra rb s
  | .phnew scope rd ra rb => Sys2Proof.Machine.execPhnew scope rd ra rb s
  | .phreg scope rd ra mode => Sys2Proof.Machine.execPhreg scope rd ra mode s
  | .phdrp scope rd ra mode => Sys2Proof.Machine.execPhdrp scope rd ra mode s
  | .phsig scope rd ra => Sys2Proof.Machine.execPhsig scope rd ra s
  | .phwt ra => Sys2Proof.Machine.execPhwt ra s
  | .phsw scope rd ra => Sys2Proof.Machine.execPhsw scope rd ra s
  | .bexp scope ra rb => Sys2Proof.Machine.execBexp scope ra rb s
  | .badd scope rd ra rb => Sys2Proof.Machine.execBadd scope rd ra rb s
  | .aadd scope rd ra rb => Sys2Proof.Machine.execAadd scope rd ra rb s
  | .aand scope rd ra rb => Sys2Proof.Machine.execAand scope rd ra rb s
  | .aor scope rd ra rb => Sys2Proof.Machine.execAor scope rd ra rb s
  | .axor scope rd ra rb => Sys2Proof.Machine.execAxor scope rd ra rb s
  | .amin u scope rd ra rb => Sys2Proof.Machine.execAmin u scope rd ra rb s
  | .amax u scope rd ra rb => Sys2Proof.Machine.execAmax u scope rd ra rb s
  | .axch scope rd ra rb => Sys2Proof.Machine.execAxch scope rd ra rb s
  | .acas scope rd ra rb => Sys2Proof.Machine.execAcas scope rd ra rb s
  | .fbin scope ra rb => Sys2Proof.Machine.execFbin scope ra rb s
  | .fbrd rd ra => Sys2Proof.Machine.execFbrd rd ra s
  | .fbclr scope ra rb => Sys2Proof.Machine.execFbclr scope ra rb s
  | .qpsh b scope ra rb => Sys2Proof.Machine.execQpsh b scope ra rb s
  | .qpop b scope rd ra => Sys2Proof.Machine.execQpop b scope rd ra s
  | .slotPhsig f => Sys2Proof.Machine.execSlotPhsig f s
  | .slotAadd f => Sys2Proof.Machine.execSlotAadd f s
  | .slotAand f => Sys2Proof.Machine.execSlotAand f s
  | .slotAor f => Sys2Proof.Machine.execSlotAor f s
  | .slotAxor f => Sys2Proof.Machine.execSlotAxor f s
  | .slotAmin f => Sys2Proof.Machine.execSlotAmin f s
  | .slotAmax f => Sys2Proof.Machine.execSlotAmax f s
  | .slotAxch f => Sys2Proof.Machine.execSlotAxch f s
  | .slotAcas f => Sys2Proof.Machine.execSlotAcas f s
  | .slotFbin f => Sys2Proof.Machine.execSlotFbin f s
  | .slotQpsh f => Sys2Proof.Machine.execSlotQpsh f s
  | .cpy scope rd ra rs rl rbar => Sys2Proof.Machine.execCpy scope rd ra rs rl rbar s
  | .cpy2 scope rd ra rbar => Sys2Proof.Machine.execCpy2 scope rd ra rbar s
  | .rcpy scope rd ra rs rl rbar => Sys2Proof.Machine.execRcpy scope rd ra rs rl rbar s
  | .cpyq rd k => Sys2Proof.Machine.execCpyq rd k s
  | .tlbiPage rd ra rb => Sys2Proof.Machine.execTlbiPage rd ra rb s
  | .tlbiPasid rd ra rb => Sys2Proof.Machine.execTlbiPasid rd ra rb s
  | .tlbiAll rd ra rb => Sys2Proof.Machine.execTlbiAll rd ra rb s
  | .wmode rd ra rb => Sys2Proof.Machine.execWmode rd ra rb s
  | .spareRead rd ra rb => Sys2Proof.Machine.execSpareRead rd ra rb s
  | .spareSetInterval rd ra rb => Sys2Proof.Machine.execSpareSetInterval rd ra rb s
  | .spareRemap rd ra rb => Sys2Proof.Machine.execSpareRemap rd ra rb s
  | .spareClear rd ra rb => Sys2Proof.Machine.execSpareClear rd ra rb s
  | .spareSetPos rd ra rb => Sys2Proof.Machine.execSpareSetPos rd ra rb s
  | .qctlRead rd ra rb => Sys2Proof.Machine.execQctlRead rd ra rb s
  | .qctlRevoke rd ra rb => Sys2Proof.Machine.execQctlRevoke rd ra rb s
  | .qctlKill rd ra rb => Sys2Proof.Machine.execQctlKill rd ra rb s
  | .qctlRelease rd ra rb => Sys2Proof.Machine.execQctlRelease rd ra rb s
  | .dieqFence rd ra rb => Sys2Proof.Machine.execDieqFence rd ra rb s
  | .dieqRelease rd ra rb => Sys2Proof.Machine.execDieqRelease rd ra rb s
  | .dieqStatus rd ra rb => Sys2Proof.Machine.execDieqStatus rd ra rb s
  | .binjFlipOne rd ra rb => Sys2Proof.Machine.execBinjFlipOne rd ra rb s
  | .binjFlipTwo rd ra rb => Sys2Proof.Machine.execBinjFlipTwo rd ra rb s
  | .binjSpare rd ra rb => Sys2Proof.Machine.execBinjSpare rd ra rb s
  | .tokenArrive el link => Sys2Proof.Machine.execTokenArrive el link s
  | .markerArrive el link => Sys2Proof.Machine.execMarkerArrive el link s
  | .firingIssue el => Sys2Proof.Machine.execFiringIssue el s
  | .ovflTokenRetry el link => Sys2Proof.Machine.execOvflTokenRetry el link s
  | .tagBaseAdvance lan ctx space => Sys2Proof.Machine.execTagBaseAdvance lan ctx space s
  | .parkedTokenRelease el idx => Sys2Proof.Machine.execParkedTokenRelease el idx s
  | .tagWaitEnd el idx => Sys2Proof.Machine.execTagWaitEnd el idx s
  | .slotSwitch el ctx => Sys2Proof.Machine.execSlotSwitch el ctx s
  | .clockGate el => Sys2Proof.Machine.execClockGate el s
  | .conditionCredit el link => Sys2Proof.Machine.execConditionCredit el link s
  | .ctrlAudit el link => Sys2Proof.Machine.execCtrlAudit el link s
  | .elementMemReply tile idx => Sys2Proof.Machine.execElementMemReply tile idx s
  | .storeCompletion tile idx => Sys2Proof.Machine.execStoreCompletion tile idx s
  | .translationWalk w => Sys2Proof.Machine.execTranslationWalk w s
  | .faultRecordAppend lan => Sys2Proof.Machine.execFaultRecordAppend lan s
  | .replay requester v => Sys2Proof.Machine.execReplay requester v s
  | .replayRetry lan => Sys2Proof.Machine.execReplayRetry lan s
  | .bankGrant tile => Sys2Proof.Machine.execBankGrant tile s
  | .correctionWriteBack tile => Sys2Proof.Machine.execCorrectionWriteBack tile s
  | .scrubRow tile => Sys2Proof.Machine.execScrubRow tile s
  | .writeBack tile => Sys2Proof.Machine.execWriteBack tile s
  | .commitRelease die => Sys2Proof.Machine.execCommitRelease die s
  | .streamProgramStart port => Sys2Proof.Machine.execStreamProgramStart port s
  | .streamElementIssue port h => Sys2Proof.Machine.execStreamElementIssue port h s
  | .streamReplyPush port idx => Sys2Proof.Machine.execStreamReplyPush port idx s
  | .sinkElementWrite port idx => Sys2Proof.Machine.execSinkElementWrite port idx s
  | .bufferEviction die => Sys2Proof.Machine.execBufferEviction die s
  | .launchPlacement launch => Sys2Proof.Machine.execLaunchPlacement launch s
  | .dispatchDecision die => Sys2Proof.Machine.execDispatchDecision die s
  | .place die v => Sys2Proof.Machine.execPlace die v s
  | .quantumExpiry die idx => Sys2Proof.Machine.execQuantumExpiry die idx s
  | .budgetTrap lan => Sys2Proof.Machine.execBudgetTrap lan s
  | .faultQueueTrap lan => Sys2Proof.Machine.execFaultQueueTrap lan s
  | .lanternLoadReturn lan idx => Sys2Proof.Machine.execLanternLoadReturn lan idx s
  | .dpoison lan => Sys2Proof.Machine.execDpoison lan s
  | .configComplete lan idx => Sys2Proof.Machine.execConfigComplete lan idx s
  | .segmentEnd lan => Sys2Proof.Machine.execSegmentEnd lan s
  | .segmentAbort die idx => Sys2Proof.Machine.execSegmentAbort die idx s
  | .stagingReclaim tile => Sys2Proof.Machine.execStagingReclaim tile s
  | .remotePull die => Sys2Proof.Machine.execRemotePull die s
  | .launchComplete launch => Sys2Proof.Machine.execLaunchComplete launch s
  | .hubServePacket => Sys2Proof.Machine.execHubServePacket s
  | .doorbell iface v => Sys2Proof.Machine.execDoorbell iface v s
  | .interruptAck iface => Sys2Proof.Machine.execInterruptAck iface s
  | .ifaceAssign iface dword0 => Sys2Proof.Machine.execIfaceAssign iface dword0 s
  | .ifaceRevoke iface => Sys2Proof.Machine.execIfaceRevoke iface s
  | .ifaceKill iface => Sys2Proof.Machine.execIfaceKill iface s
  | .ifaceUnassign iface => Sys2Proof.Machine.execIfaceUnassign iface s
  | .linkRetrainGo k => Sys2Proof.Machine.execLinkRetrainGo k s
  | .copyComplete die ch => Sys2Proof.Machine.execCopyComplete die ch s
  | .linkPacketReceive k flits => Sys2Proof.Machine.execLinkPacketReceive k flits s
  | .linkAckReceive k ack refused => Sys2Proof.Machine.execLinkAckReceive k ack refused s
  | .linkNakReceive k ack => Sys2Proof.Machine.execLinkNakReceive k ack s
  | .linkReplayTimeout k => Sys2Proof.Machine.execLinkReplayTimeout k s
  | .linkLaneFailure k lane => Sys2Proof.Machine.execLinkLaneFailure k lane s
  | .linkRetrainDone k => Sys2Proof.Machine.execLinkRetrainDone k s
  | .ucieEdgeFailure a b go => Sys2Proof.Machine.execUcieEdgeFailure a b go s
  | .matrixArbiterDecision die => Sys2Proof.Machine.execMatrixArbiterDecision die s
  | .kstepEnd lan => Sys2Proof.Machine.execKstepEnd lan s
  | .spareRotate die row => Sys2Proof.Machine.execSpareRotate die row s
  | .spareMismatch die row => Sys2Proof.Machine.execSpareMismatch die row s
  | .daymarkPacketWrite die cluster => Sys2Proof.Machine.execDaymarkPacketWrite die cluster s
  | .daymarkRingReset die off v => Sys2Proof.Machine.execDaymarkRingReset die off v s
  | .packageReset fails => Sys2Proof.Machine.execPackageReset fails s
  | .attest addr => Sys2Proof.Machine.execAttest addr s
  | .update addr len => Sys2Proof.Machine.execUpdate addr len s
  | .powerLimit => Sys2Proof.Machine.execPowerLimit s
  | .loadBinary pasid file => Sys2Proof.Machine.execLoadBinary pasid file s
  | .windowGprWrite lan r v => Sys2Proof.Machine.execWindowGprWrite lan r v s
  | .windowStateWrite lan num v => Sys2Proof.Machine.execWindowStateWrite lan num v s
  | .elementDebugWrite el area off v => Sys2Proof.Machine.execElementDebugWrite el area off v s
  | .registerWrite view off v => Sys2Proof.Machine.execRegisterWrite view off v s
  | .fetchFault lan => Sys2Proof.Machine.execFetchFault lan s
  | .matrixCommandComplete lan => Sys2Proof.Machine.execMatrixCommandComplete lan s
  | .preemptionComplete die idx => Sys2Proof.Machine.execPreemptionComplete die idx s
  | .backWithinLimits => Sys2Proof.Machine.execBackWithinLimits s

end Sys2Proof.Machine
end

