-- ==== Sys2Proof/Machine/Firmware.lean ====
section
/-! DEFINITION. The service of the device firmware that the spec describes, SVC #0x26 (R298), and the Lantern's instruction
boundary (R114, R115, R119 to R122), at which it stands in for the firmware's own parcels. -/

namespace Sys2Proof.Machine

/-! ### SVC #0x26 (R298) -/

/-- The service number of a bank retirement. -/
def svcRetire : Word := 0x26#64

/-- Whether a Lantern runs the firmware's retirement service: it has come to the firmware's trap entry (R124) by SVC #0x26,
or stands behind the service's BRET (DESIGN CHOICE, log entry 71: the service's parcels are two). -/
def Lantern.inRetire (l : Lantern) : Bool :=
  l.sup && decide (l.ecause = BitVec.ofNat 64 cSVC ∧ l.evalr = svcRetire)
    && ((decide (l.came = .start) && decide (l.pc = Config.firmwareEntry))
        || (decide (l.came = .seq) && decide (l.pc = afterParcels Config.firmwareEntry 1)))

/-- The service's answer before any retirement: 3 where the launch is not marked for maintenance or s5 names no memory tile of
the segment's region, 4 where s6 names no bank. -/
def State.retireRefusal (s : State) : Option Word :=
  let maint := (s.launchOf s.focus).any Launch.maint
  let here := (tileNamed (s.x 5#5)).any fun t => s.inRegion s.focus t
  if !maint || !here then some 3#64 else if 11 < (s.x 6#5).toNat then some 4#64 else none

/-- The service: it answers in s4, by BRET s4, s5 where nothing refuses it; once s4 is written it returns to the parcel after
the SVC. -/
def State.firmTurn (s : State) (k : Nat) : State :=
  let s := { s with focus := k }
  if s.cur.busy 4#5 || s.cur.busy 5#5 || s.cur.busy 6#5 then s
  else if s.cur.came = .start then
    match s.retireRefusal with
    | some v => s.retireReg 4#5 v 1
    | none => s.bret 4#5 5#5 ((s.x 6#5).setWidth 32)
  else (s.modCur fun l => { l with epc := l.retNext }).eret

/-! ### The Lantern -/

/-- The boundary of Lantern `k`. -/
def State.lanternTurn (s : State) (k : Nat) : Boundary :=
  let s := { s with focus := k }
  let l := s.cur
  match l.st with
  | .idle => .taken s
  | .halted => .taken s
  | .stopped => .taken s
  | .ending => .taken (if s.endReady k then s else (s.pendingTrap k 0#64 (nextParcel l.pc)).getD s)
  | .run =>
    if heldWaits l.xheld then .taken (s.heldTurn k)
    else if l.inRetire then .taken (s.firmTurn k)
    else
      let f := s.fetch k
      match f.1 with
      | .held reason => .taken (f.2.holdAccess reason accFetch l.pc)
      | .fault cause epc val n => .taken (f.2.fetchTrap k cause epc val n)
      | .run i n =>
        match f.2.pendingTrap k (microOf l i) (afterParcels l.pc n) with
        | some s' => .taken s'
        | none => if l.stalls i || f.2.frozen k then .taken f.2 else .run i f.2

end Sys2Proof.Machine
end

