-- ==== Sys2Proof/Machine/Place.lean ====
section
/-! DEFINITION. Placing an instruction where the machine executes its next one: a fetch line of a Lantern, an element's
slot with an operand set that has issued, or a port's stream program. -/

namespace Sys2Proof.Machine

/-- Writes a dword at a physical address. -/
def State.putDword (s : State) (pa : Nat) (v : Word) : State := { s with mem := s.mem.store pa (leBytes 8 v.toNat) }

/-- The header of a fetch line whose only instruction starts at position 1 (R57): GEN 4, START bit 0. -/
def oneStart : Word := 0x0000000400000001#64

/-- Places Lantern code: PASID 0 on die 0 maps the lowest GiB onto itself, and Lantern 0, in supervisor mode, stands at
the first parcel of the line at 0x10000. -/
def State.placeLantern (s : State) (p x : Word) : State :=
  let s := ((s.putDword 0x1000 0x2001#64).putDword 0x2000 0x9D#64).putDword 0x10000 oneStart
  let s := (s.putDword 0x10008 p).putDword 0x10010 x
  let s := { s with roots := s.roots.put (rootKey 0 0) 0x1000, mode := s.mode.put 0 0#64, agenda := [.lantern 0] }
  s.modLan 0 fun l =>
    { l with st := .run, pc := 0x10008#64, prev := 0#64, came := .start, status := 1#64, pasid := 0, sb := [],
             dpoi := none, xheld := none, icache := l.icache.del (0x10000 / 128) }

/-- A zero I64 token. -/
def Token.zero : Token := { tag := 0#36, fmt := fmtI64, pay := 0#80, last := false, poison := false, marker := false }

/-- Places an element instruction: slot 0 of element 0 of tile (0, 0), with an operand set of zeros that has issued. -/
def State.placeSlot (s : State) (p : Word) : State :=
  let set : OpSet := { slot := 0#5, tag := 0#36,
                       data := (List.range 4).map fun i => (BitVec.ofNat 2 i, Token.zero),
                       conds := [(0#2, false), (1#2, false), (2#2, false), (3#2, false)] }
  let s := s.modEl 0 fun e =>
    { e with core := { e.core with slots := e.core.slots.put 0 { ctx := 0, instr := p, route := 0#64 } },
             firing := some set }
  { s with agenda := [.element 0] }

/-- Places a stream instruction: the armed program of port 0 of memory tile (1, 0). -/
def State.placeStream (s : State) (p x : Word) : State :=
  let g : Prog := { parcels := [p, x], pc := 0, ctx := 0, lan := 0, armed := true, binds := [], loops := [],
                    wins := [], waitPh := none, xheld := none }
  let s := s.modPort 4 fun q => { q with prog := some g, stopped := false }
  { s with agenda := [.port 4] }

/-- Places the instruction whose parcels are `p` and `x` where its agent executes its next one. -/
def State.placeWord (s : State) (p x : Word) : State :=
  let s := { s with mgmt := { s.mgmt with bootFail := 0, clockOn := true } }
  match decodeLantern p x with
  | .ok _ => s.placeLantern p x
  | .error _ =>
    match decodeSlot p with
    | some _ => s.placeSlot p
    | none =>
      match decodeStream p x with
      | some _ => s.placeStream p x
      | none => s.placeLantern p x

end Sys2Proof.Machine
end

