-- ==== Sys2Proof/Machine/Schedule.lean ====
section
/-! DEFINITION. Who moves next when the agenda names nobody: one of the turns and events that the package brings about by
itself, in rotation. The order among agents is open: a run's agenda may name any other (log entry 44). -/

namespace Sys2Proof.Machine

/-- A turn or an event that the package brings about by itself. -/
inductive Auto where
  | turn (t : Turn)
  | token (el link : Nat)
  | marker (el link : Nat)
  | firing (el : Nat)
  | retry (el link : Nat)
  | base (lan ctx space : Nat)
  | unpark (el idx : Nat)
  | tagWait (el idx : Nat)
  | switch (el ctx : Nat)
  | credit (el link : Nat)
  | reply (tile idx : Nat)
  | stored (tile idx : Nat)
  | append (lan : Nat)
  | replayed (lan : Nat)
  | bank (tile : Nat)
  | correct (tile : Nat)
  | scrub (tile : Nat)
  | home (tile : Nat)
  | release (die : Nat)
  | progStart (port : Nat)
  | issue (port h : Nat)
  | push (port idx : Nat)
  | sink (port idx : Nat)
  | evict (die : Nat)
  | placement (launch : Nat)
  | dispatch (die : Nat)
  | quantum (die idx : Nat)
  | loaded (lan idx : Nat)
  | configured (lan idx : Nat)
  | ended (lan : Nat)
  | aborted (die idx : Nat)
  | reclaim (tile : Nat)
  | pull (die : Nat)
  | completed (launch : Nat)
  | serve
  | copied (die ch : Nat)
  | arbiter (die : Nat)
  | kstep (lan : Nat)
  | matrix (lan : Nat)
  | preempted (die idx : Nat)
  | rotate (die row : Nat)
  | trace (die cluster : Nat)
  deriving DecidableEq, Repr

/-- The numbers below the length of a list. -/
def indices {α : Type} (l : List α) : List Nat := List.range l.length

/-- What a Lantern may do. -/
def autosOfLan (k : Nat) (l : Lantern) : List Auto :=
  (match l.st with
   | .run => [.turn (.lantern k)]
   | .ending => [.turn (.lantern k), .ended k]
   | _ => [])
    ++ (indices l.loads).map (.loaded k) ++ (indices l.cfgs).map (.configured k)
    ++ (l.spaces.filter fun e => decide (e.2.st ≠ .free)).map (fun e => .base k (e.1 / 32) (e.1 % 32))
    ++ (if l.heldRecs.isEmpty then [] else [.append k]) ++ [.replayed k]
    ++ (match l.mx with
        | none => []
        | some a => (if a.run.isSome then [.kstep k] else []) ++ [.matrix k])
    ++ (if l.day.fifo.isEmpty then [] else [.trace (lanDie k) (lanCl k)])

/-- What an element may do, its cluster's overflow store included. -/
def autosOfEl (s : State) (el : Nat) (e : Element) : List Auto :=
  (e.links.filter fun q => !q.2.isEmpty).flatMap (fun q => [.token el q.1, .retry el q.1, .marker el q.1])
    ++ (if e.core.ready.isEmpty then [] else [.firing el]) ++ (if e.firing.isSome then [.turn (.element el)] else [])
    ++ (if e.core.heldOut.isEmpty then [] else [.retry el 10])
    ++ (e.core.store.filter fun m => decide (m.2.kind = 1#2)).map (fun m => .unpark el m.1)
    ++ ((indices (s.lan (tileLan (elTile el))).ovfl).map fun i => .unpark el (64 + i))
    ++ (indices e.core.waits).map (.tagWait el)
    ++ (e.core.ctxs.filter fun c => c.2.armed).map (fun c => .switch el c.1)
    ++ (e.ctl.filter fun c => decide (0 < c.2.flight)).map (fun c => .credit el c.1)

/-- What a memory tile may do. -/
def autosOfTile (t : Nat) (x : Tile) : List Auto :=
  (indices x.reqs).flatMap (fun i => [.reply t i, .stored t i])
    ++ (if x.bankq.isEmpty && x.pipe.isEmpty && x.jobs.isEmpty then [] else [.bank t]) ++ (if x.corr.isEmpty then [] else [.correct t])
    ++ (if x.wb.isEmpty then [] else [.home t]) ++ [.reclaim t, .scrub t]

/-- What a stream port may do. -/
def autosOfPort (p : Nat) (q : Port) : List Auto :=
  (if q.prog.isSome then [.turn (.port p)] else []) ++ (if q.prog.isSome || q.pend.isSome then [.progStart p] else [])
    ++ (q.hs.map fun h => .issue p h.1) ++ (indices q.outq).map (.push p) ++ (indices q.inq).map (.sink p)

/-- What a Beacon may do. -/
def autosOfBeacon (die : Nat) (b : Beacon) : List Auto :=
  (if b.due || !b.fencing.isEmpty then [.dispatch die] else [])
    ++ b.segs.flatMap (fun g => [.quantum die g.1, .aborted die g.1, .preempted die g.1])
    ++ (if b.pulls.isEmpty then [] else [.pull die]) ++ (if b.commits.isEmpty then [] else [.release die])

/-- Everything that the package may do next by itself. Spares take their turn, one row after the other. -/
def State.autos (s : State) : List Auto :=
  s.lans.flatMap (fun l => autosOfLan l.1 l.2) ++ s.elems.flatMap (fun e => autosOfEl s e.1 e.2)
    ++ s.tiles.flatMap (fun t => autosOfTile t.1 t.2) ++ s.ports.flatMap (fun p => autosOfPort p.1 p.2)
    ++ s.beacons.flatMap (fun b => autosOfBeacon b.1 b.2)
    ++ s.chans.map (fun c => .copied (c.1 / 16) (c.1 % 16))
    ++ s.hub.launches.flatMap (fun l => [.placement l.1, .completed l.1])
    ++ (if s.hub.ifaces.any fun f => f.2.v && decide (f.2.head ≠ f.2.tail) then [.serve] else [])
    ++ (s.arbs.filter fun a => a.2.due).map (fun a => .arbiter a.1)
    ++ (if s.hub.launches.isEmpty then [] else (List.range 8).map .evict)
    ++ [.rotate (s.tick / 448 % 8) (s.tick % 448)]

/-- Does what has been picked, an agent's turn apart. -/
def runAuto (a : Auto) (s : State) : Out :=
  match a with
  | .turn _ => .next s
  | .token el link => execTokenArrive el link s
  | .marker el link => execMarkerArrive el link s
  | .firing el => execFiringIssue el s
  | .retry el link => execOvflTokenRetry el link s
  | .base lan ctx space => execTagBaseAdvance lan ctx space s
  | .unpark el idx => execParkedTokenRelease el idx s
  | .tagWait el idx => execTagWaitEnd el idx s
  | .switch el ctx => execSlotSwitch el ctx s
  | .credit el link => execConditionCredit el link s
  | .reply tile idx => execElementMemReply tile idx s
  | .stored tile idx => execStoreCompletion tile idx s
  | .append lan => execFaultRecordAppend lan s
  | .replayed lan => execReplayRetry lan s
  | .bank tile => execBankGrant tile s
  | .correct tile => execCorrectionWriteBack tile s
  | .scrub tile => execScrubRow tile s
  | .home tile => execWriteBack tile s
  | .release die => execCommitRelease die s
  | .progStart port => execStreamProgramStart port s
  | .issue port h => execStreamElementIssue port h s
  | .push port idx => execStreamReplyPush port idx s
  | .sink port idx => execSinkElementWrite port idx s
  | .evict die => execBufferEviction die s
  | .placement launch => execLaunchPlacement launch s
  | .dispatch die => execDispatchDecision die s
  | .quantum die idx => execQuantumExpiry die idx s
  | .loaded lan idx => execLanternLoadReturn lan idx s
  | .configured lan idx => execConfigComplete lan idx s
  | .ended lan => execSegmentEnd lan s
  | .aborted die idx => execSegmentAbort die idx s
  | .reclaim tile => execStagingReclaim tile s
  | .pull die => execRemotePull die s
  | .completed launch => execLaunchComplete launch s
  | .serve => execHubServePacket s
  | .copied die ch => execCopyComplete die ch s
  | .arbiter die => execMatrixArbiterDecision die s
  | .kstep lan => execKstepEnd lan s
  | .matrix lan => execMatrixCommandComplete lan s
  | .preempted die idx => execPreemptionComplete die idx s
  | .rotate die row => execSpareRotate die row s
  | .trace die cluster => execDaymarkPacketWrite die cluster s

/-- What stands at the tick's place in the rotation. -/
def State.pick (s : State) : Option Auto :=
  let as := s.autos
  as[s.tick % as.length]?

end Sys2Proof.Machine
end

