-- ==== Sys2Proof/Machine/Step.lean ====
section
/-! DEFINITION. One step of the package: the agent or event at the head of the agenda. -/

namespace Sys2Proof.Machine

/-- Runs what stands at a boundary. -/
def runBoundary : Boundary → Out
  | .taken s => .next s
  | .run i s => exec i s

/-- The turn of an agent, an event, or the arrival of a posted write. -/
def runTurn (t : Turn) (s : State) : Out :=
  match t with
  | .lantern k => runBoundary (s.lanternTurn k)
  | .element el => runBoundary (s.elementTurn el)
  | .port p => runBoundary (s.portTurn p)
  | .event i => exec i s
  | .post p => .next (s.takePost p)
  | .idle n => .next (s.tickBy (n - 1))

/-- A step in which nobody is named. -/
def autoStep (s : State) : Out :=
  match s.pick with
  | some (.turn t) => runTurn t s
  | some a => runAuto a s
  | none => .next s

/-- Why a part whose clock has stopped (R483), or that has not come up (R477), takes no step. -/
def State.down (s : State) : Option Fault :=
  if s.mgmt.bootFail ≠ 0 then some .notBroughtUp else if s.mgmt.clockOn then none else some .clockStopped

/-- Whether a turn is package reset. -/
def Turn.isReset : Turn → Bool
  | .event (.packageReset _) => true
  | _ => false

/-- One step: a cycle passes, and whoever stands at the head of the agenda acts. -/
def step (s : State) : Out :=
  match s.agenda with
  | t :: rest =>
    match (if t.isReset then none else s.down) with
    | some f => .fault f
    | none => runTurn t ({ s with agenda := rest }.tickBy 1)
  | [] =>
    match s.down with
    | some f => .fault f
    | none => autoStep (s.tickBy 1)

/-- The state in which the next step runs the instruction whose bits are `w`, numbered as `decodeTableWord` numbers
them. A program is loaded from outside the machine (log entry 1). -/
def State.withFetchWord (s : State) (nbits w : Nat) : State :=
  let v := w % 2 ^ nbits
  s.placeWord (BitVec.ofNat 64 v) (BitVec.ofNat 64 (v / 2 ^ 64))

end Sys2Proof.Machine
end

