-- ==== Sys2Proof/Safety.lean ====
section
/-! DEFINITION. The terms that claims use: a run that goes through, an instruction that completes, and what a step of a
Lantern leaves as it was. -/

namespace Sys2Proof

open Sys2Proof.Machine

/-- Whether a run of `k` steps from `s` goes through. -/
def runsThrough (k : Nat) (s : Machine.State) : Bool :=
  match core.run k s with
  | .next _ => true
  | .fault _ => false
  | .refused _ => false

/-- The states whose memory is in its canonical form. -/
def Tidy (s : Machine.State) : Prop := s.mem.wf = true

/-- Instruction `i` completes at state `s`: `exec` answers a next state, and `P` holds of it. -/
def Ends (i : Instr) (s : Machine.State) (P : Machine.State → Prop) : Prop := ∃ t, exec i s = .next t ∧ P t

/-- From `s` to `t` nothing has changed but the count of free values: what a translation does. -/
def SameButFree (s t : Machine.State) : Prop := { t with free := s.free } = s

/-- From `s` to `t` nothing has changed but Lantern `k`: every other Lantern, every element, tile, port and die-wide unit,
MODE, every byte of memory, the hub and the management cores are as they were. -/
def OnlyLan (k : Nat) (s t : Machine.State) : Prop :=
  { t with lans := s.lans } = s ∧ ∀ j, j ≠ k → t.lan j = s.lan j

/-- The general registers of Lantern `k` are as they were. -/
def SameRegs (k : Nat) (s t : Machine.State) : Prop := ∀ r, (t.lan k).reg r = (s.lan k).reg r

/-- Lantern `l'` is `l` but for its general registers and its place in the program. -/
def SameButRegs (l l' : Lantern) : Prop :=
  { l' with regs := l.regs, pc := l.pc, prev := l.prev, came := l.came, xheld := l.xheld, stWait := l.stWait } = l

/-- The whole effect of an instruction of `n` parcels that writes `v` to `rd` and nothing else: s0 discards a write
(R109), every other general register keeps its value, control goes on in sequence, and no state register, flag, special
register or byte of memory changes. -/
def Wrote (rd : Reg) (v : Word) (n : Nat) (s t : Machine.State) : Prop :=
  OnlyLan s.focus s t ∧ (∀ r, t.x r = if r = rd ∧ r ≠ 0#5 then v else s.x r) ∧
    t.cur.pc = afterParcels s.cur.pc n ∧ SameButRegs s.cur t.cur

/-- The whole effect of a transfer of control to `a`: no general register, state register, special register or byte of
memory changes; a traced cluster's packets may. -/
def WentTo (a : Word) (s t : Machine.State) : Prop :=
  OnlyLan s.focus s t ∧ SameRegs s.focus s t ∧ t.cur.pc = a ∧
    { t.cur with pc := s.cur.pc, prev := s.cur.prev, came := s.cur.came, xheld := s.cur.xheld, st := s.cur.st,
                 stWait := s.cur.stWait, day := s.cur.day } = s.cur

/-- The Lantern whose turn it is has become `l`, and nothing else has changed. -/
def Became (l : Lantern) (s t : Machine.State) : Prop := OnlyLan s.focus s t ∧ t.cur = l

/-- Lantern `k` has taken a trap (R117): EPC, ECAUSE, EVAL and EMICRO are written, PSUP and PIE hold the old SUP and IE,
SUP is 1 and IE 0, control stands at TVEC, and nothing else has changed: no general register, no other state register, no
byte of memory. A request that waited at an engine is withdrawn (R308), and a traced cluster's packets may change. -/
def Trapped (k cause : Nat) (epc val micro : Word) (s t : Machine.State) : Prop :=
  { t with lans := s.lans, syncs := s.syncs } = s ∧ (∀ j, j ≠ k → t.lan j = s.lan j) ∧ SameRegs k s t ∧
    (t.lan k).epc = epc ∧ (t.lan k).ecause = BitVec.ofNat 64 cause ∧ (t.lan k).evalr = val ∧ (t.lan k).emicro = micro ∧
    (t.lan k).sup = true ∧ (t.lan k).ie = false ∧ (t.lan k).status.getLsbD 1 = (s.lan k).sup ∧
    (t.lan k).status.getLsbD 3 = (s.lan k).ie ∧ (t.lan k).pc = (s.lan k).tvec ∧ (t.lan k).st = .run ∧
    { t.lan k with
      epc := (s.lan k).epc, ecause := (s.lan k).ecause, evalr := (s.lan k).evalr, emicro := (s.lan k).emicro,
      status := (s.lan k).status, pc := (s.lan k).pc, prev := (s.lan k).prev, came := (s.lan k).came,
      retFirst := (s.lan k).retFirst, retNext := (s.lan k).retNext, xheld := (s.lan k).xheld, st := (s.lan k).st,
      day := (s.lan k).day } = s.lan k

/-- The instruction at the program counter of the Lantern whose turn it is has trapped. -/
def TrappedHere (cause : Nat) (val : Word) (s t : Machine.State) : Prop := Trapped s.focus cause s.cur.pc val 0#64 s t

/-- The conditional branch at the program counter has gone on: in sequence where its condition fails, and to the
parcel `off` parcels from it where it holds, with FETCH where no parcel has that index (R131). -/
def Branched (i : Instr) (off : BitVec 32) (c : Prop) (s t : Machine.State) : Prop :=
  (¬ c → WentTo (nextParcel s.cur.pc) s t) ∧
  (c → 0 ≤ parcelIndex s.cur.pc + off.toInt → WentTo (parcelAddr (parcelIndex s.cur.pc + off.toInt)) s t) ∧
  (c → parcelIndex s.cur.pc + off.toInt < 0 → Trapped s.focus cFETCH s.cur.pc (parcelOf i) 0#64 s t)

/-! ### Firings of elements -/

/-- Firing `w` of instruction `i` has been issued to the element whose turn it is (R153, R171): its operand set is
latched, and its fields, its row of the slot table and its routing parcel are the slot's. -/
def Issued (i : Instr) (w : Fire) (s : Machine.State) : Prop :=
  (s.el s.elem).firing = some w.set ∧ slotRow i = some (w.row, w.f) ∧ w.el = s.elem ∧
    w.route = ((s.el s.elem).core.slots.find w.set.slot.toNat).elim 0#64 SlotImg.route ∧
    w.last = w.set.data.any fun d => d.2.last

/-- Firing `w` executes: its gate does not turn it off (R193), and it consumes no poison (R195). `mv` is the token that
its instruction moves on unread. -/
def Executes (i : Instr) (mv : Moves) (w : Fire) (s : Machine.State) : Prop :=
  Issued i w s ∧ w.gateOn = true ∧ w.poisoned mv = false

/-- The token that an instruction moves on unread (R195): PASS, STEER and GATE their data operand, SEL and MERGE the one
that their condition takes; no other instruction moves one. -/
def movesOn : Instr → Moves
  | .pass f => fun _ => portOfSel f.selA
  | .steer f => fun _ => portOfSel f.selA
  | .gate f => fun _ => portOfSel f.selA
  | .sel f => fun w => portOfSel (if w.cond f.cin then f.selA else f.selB)
  | .merge f => fun w => portOfSel (if w.cond f.cin then f.selA else f.selB)
  | _ => movesNone

/-- `s` once the operand set of firing `w` has been consumed, and LAST noted (R171, R194). -/
def consumed (w : Fire) (s : Machine.State) : Machine.State :=
  (s.modEl w.el fun e => { e with firing := none }).noteLast w

/-- `s` once firing `w` has completed with a result (R171, R174, R175): the flags are raised in its context, its token
goes to DEST0 and DEST1, and a condition goes through COUT; or a format error is logged and poisoned tokens of payload
zero go there. -/
def finished (w : Fire) (s : Machine.State) : Computed → Machine.State
  | .ok fmt pay fl c =>
    let u := ((consumed w s).raiseFlags w.el w.ctx fl).send w (w.result fmt pay) w.dests
    c.elim u fun c => u.emitCond w.el w.set.slot w.set.tag w.f.cout c
  | .bad fmt pos lane res => (consumed w s).formatError w fmt pos lane res w.dests

/-- Whenever firing `w` of instruction `i` executes at `s`, it completes with `r`. -/
def Gives (i : Instr) (w : Fire) (s : Machine.State) (r : Computed) : Prop :=
  Executes i movesNone w s → exec i s = .next (finished w s r)

/-- A result in the wide float. -/
def wideResult (r : Res Pay) : Computed := .ok fmtW r.val r.flags none

/-- Byte `b` of memory lies in a Lantern's fault queue. -/
def InFaultQueue (s : Machine.State) (b : Nat) : Prop :=
  ∃ k off, b = lanPa k 1 off ∧ (s.lan k).inRing off = true

/-- From `s` to `t` element `el` has emitted tokens, and nothing else has changed: no general register, state register
or flag of a Lantern, no tile, Beacon or engine, no byte of memory outside the fault queues (a record may be logged
there, or go to the management controllers and the host), no loaded slot, hold register or control route of an element,
and nothing of another element or port but the tokens that wait on its inputs or are on their way to it. -/
def Emitted (el : Nat) (s t : Machine.State) : Prop :=
  { t with mem := s.mem, lans := s.lans, elems := s.elems, ports := s.ports, hub := s.hub } = s ∧
  (∀ b, ¬ InFaultQueue s b → t.mem.read b = s.mem.read b) ∧
  (∀ k, { t.lan k with tail := (s.lan k).tail, heldRecs := (s.lan k).heldRecs, day := (s.lan k).day,
                       fqCfg := (s.lan k).fqCfg, ovfl := (s.lan k).ovfl, spaces := (s.lan k).spaces,
                       cut := (s.lan k).cut } = s.lan k) ∧
  { t.hub with mc := s.hub.mc, hostLog := s.hub.hostLog } = s.hub ∧
  (∀ p, { t.port p with inq := (s.port p).inq } = s.port p) ∧
  (∀ j, j ≠ el → { t.el j with links := (s.el j).links, road := (s.el j).road, ctl := (s.el j).ctl } = s.el j) ∧
  { t.el el with core := { (t.el el).core with store := (s.el el).core.store, seq := (s.el el).core.seq,
                                               ctxs := (s.el el).core.ctxs, waits := (s.el el).core.waits,
                                               heldOut := (s.el el).core.heldOut },
                 links := (s.el el).links, road := (s.el el).road, ctl := (s.el el).ctl, firing := (s.el el).firing } = s.el el

/-! ### Requests of a Lantern to a synchronisation engine -/

/-- The request of a Y-class instruction on x(ra) reaches its object (R300, R303 to R306): the address is aligned, a segment
that may still be dropped only reads, and the address names byte `a` of the engine of `die`; `u` is the state in which the
engine serves it, with earlier loads performed. -/
def SyncAt (ra : Reg) (align : Nat) (w : Bool) (s : Machine.State) (die a : Nat) (u : Machine.State) : Prop :=
  (s.x ra).toNat % align = 0 ∧ (w = true → s.speculative s.focus = false) ∧
    (s.performLoads s.focus).syncAddr (s.x ra) w = .ok (die, a) u ∧ u.diesCut (lanDie u.focus) die = false

/-- A Y-class instruction has been answered with `v` (R304, R308): `rd` holds it, s0 discards it, control goes on in
sequence, a PHSW is over, and no other register, state register or flag, nothing of another unit and no byte of memory has
changed. -/
def Answered (rd : Reg) (v : Word) (s t : Machine.State) : Prop :=
  OnlyLan s.focus s t ∧ (∀ r, t.x r = if r = rd ∧ r ≠ 0#5 then v else s.x r) ∧
    t.cur.pc = afterParcels s.cur.pc 1 ∧ SameButRegs s.cur { t.cur with phsw := s.cur.phsw }

/-! ### Fetch -/

/-- The parcel at the program counter of a Lantern, in its fetched line. -/
def parcelAt (l : Lantern) (ws : List Word) : Word := ws.getD (l.pc.toNat % 128 / 8) 0#64
/-- The parcel after it in that line; zero after the line's last. -/
def parcelAfter (l : Lantern) (ws : List Word) : Word :=
  if l.pc.toNat % 128 / 8 < 15 then ws.getD (l.pc.toNat % 128 / 8 + 1) 0#64 else 0#64

/-- Line `ws` lets an instruction begin at the program counter (R57, R59 items 2 to 5): it holds code of generation 4,
the program counter names a parcel that its header marks as a start, and, where control came by a jump, as a target. -/
def LinePermits (l : Lantern) (ws : List Word) : Prop :=
  l.pc.toNat % 8 = 0 ∧ l.pc.toNat % 128 ≠ 0 ∧ (ws.getD 0 0#64).extractLsb' 30 2 = 0#2 ∧
    (ws.getD 0 0#64).extractLsb' 32 32 = 4#32 ∧ (ws.getD 0 0#64).getLsbD (l.pc.toNat % 128 / 8 - 1) = true ∧
    (l.came = .seq ∨ l.came = .start ∨ (ws.getD 0 0#64).getLsbD (15 + (l.pc.toNat % 128 / 8 - 1)) = true)

end Sys2Proof
end

