-- ==== Sys2Proof/Certificates/Slice0/Obligations.lean ====
section
/-! DEFINITION. The statements about the model, for the provers. Each names the numbered rules of the specification
that it follows. -/

section

open Sys2Proof Sys2Proof.Machine

/-- R126: the register arithmetic and logic instructions, on every operand value. Signed quotients are taken toward zero
and remainders take the dividend's sign; `BitVec.sdiv` of the most negative value by -1 is that value. Flag U is legal
on MULH, DIV and REM only. -/
def Obligations.RegisterArithmetic : Prop :=
  (∀ (s : Machine.State) (rd ra rb : Reg),
    Ends (.add rd ra rb) s (Wrote rd (s.x ra + s.x rb) 1 s) ∧
    Ends (.sub rd ra rb) s (Wrote rd (s.x ra - s.x rb) 1 s) ∧
    Ends (.mul rd ra rb) s (Wrote rd (s.x ra * s.x rb) 1 s) ∧
    Ends (.mulh false rd ra rb) s
      (Wrote rd (((s.x ra).signExtend 128 * (s.x rb).signExtend 128).extractLsb' 64 64) 1 s) ∧
    Ends (.mulh true rd ra rb) s
      (Wrote rd (((s.x ra).setWidth 128 * (s.x rb).setWidth 128).extractLsb' 64 64) 1 s) ∧
    Ends (.div false rd ra rb) s
      (Wrote rd (if s.x rb = 0#64 then 0xFFFFFFFFFFFFFFFF#64 else (s.x ra).sdiv (s.x rb)) 1 s) ∧
    Ends (.div true rd ra rb) s
      (Wrote rd (if s.x rb = 0#64 then 0xFFFFFFFFFFFFFFFF#64 else (s.x ra) / (s.x rb)) 1 s) ∧
    Ends (.rem false rd ra rb) s
      (Wrote rd (if s.x rb = 0#64 then s.x ra else (s.x ra).srem (s.x rb)) 1 s) ∧
    Ends (.rem true rd ra rb) s (Wrote rd (if s.x rb = 0#64 then s.x ra else (s.x ra) % (s.x rb)) 1 s) ∧
    Ends (.and rd ra rb) s (Wrote rd (s.x ra &&& s.x rb) 1 s) ∧
    Ends (.or rd ra rb) s (Wrote rd (s.x ra ||| s.x rb) 1 s) ∧
    Ends (.xor rd ra rb) s (Wrote rd (s.x ra ^^^ s.x rb) 1 s)) ∧
  ∀ p x : Word, p.extractLsb' 58 6 = 1#6 → p.getLsbD 1 = true →
    (p.extractLsb' 52 6 ≠ 3#6 ∧ p.extractLsb' 52 6 ≠ 4#6 ∧ p.extractLsb' 52 6 ≠ 5#6) →
    decodeLantern p x = .error .illop

/-- R127: the immediate forms, LI and MOV. -/
def Obligations.ImmediateForms : Prop :=
  ∀ (s : Machine.State) (rd ra : Reg) (imm : BitVec 32) (v : Word),
    Ends (.addi rd ra imm) s (Wrote rd (s.x ra + imm.signExtend 64) 1 s) ∧
    Ends (.andi rd ra imm) s (Wrote rd (s.x ra &&& imm.signExtend 64) 1 s) ∧
    Ends (.ori rd ra imm) s (Wrote rd (s.x ra ||| imm.signExtend 64) 1 s) ∧
    Ends (.xori rd ra imm) s (Wrote rd (s.x ra ^^^ imm.signExtend 64) 1 s) ∧
    Ends (.li rd v) s (Wrote rd v 2 s) ∧
    Ends (.mov rd ra) s (Wrote rd (s.x ra) 1 s)

/-- R128: shifts and compare. The register form shifts by x(rb)[5:0]; an immediate of 64 or more is ILLOP, with
some EVAL. -/
def Obligations.ShiftsAndCompare : Prop :=
  ∀ (s : Machine.State) (rd ra rb : Reg) (imm : BitVec 32),
    Ends (.shl rd ra (.reg rb)) s (Wrote rd (s.x ra <<< ((s.x rb).extractLsb' 0 6).toNat) 1 s) ∧
    Ends (.shr rd ra (.reg rb)) s (Wrote rd (s.x ra >>> ((s.x rb).extractLsb' 0 6).toNat) 1 s) ∧
    Ends (.sar rd ra (.reg rb)) s (Wrote rd ((s.x ra).sshiftRight ((s.x rb).extractLsb' 0 6).toNat) 1 s) ∧
    (imm.toNat ≤ 63 →
      Ends (.shl rd ra (.imm imm)) s (Wrote rd (s.x ra <<< imm.toNat) 1 s) ∧
      Ends (.shr rd ra (.imm imm)) s (Wrote rd (s.x ra >>> imm.toNat) 1 s) ∧
      Ends (.sar rd ra (.imm imm)) s (Wrote rd ((s.x ra).sshiftRight imm.toNat) 1 s)) ∧
    (63 < imm.toNat →
      Ends (.shl rd ra (.imm imm)) s (fun t => ∃ v, TrappedHere cILLOP v s t) ∧
      Ends (.shr rd ra (.imm imm)) s (fun t => ∃ v, TrappedHere cILLOP v s t) ∧
      Ends (.sar rd ra (.imm imm)) s (fun t => ∃ v, TrappedHere cILLOP v s t)) ∧
    Ends (.slt false rd ra (.reg rb)) s
      (Wrote rd (if (s.x ra).toInt < (s.x rb).toInt then 1#64 else 0#64) 1 s) ∧
    Ends (.slt true rd ra (.reg rb)) s
      (Wrote rd (if (s.x ra).toNat < (s.x rb).toNat then 1#64 else 0#64) 1 s) ∧
    Ends (.slt false rd ra (.imm imm)) s
      (Wrote rd (if (s.x ra).toInt < (imm.signExtend 64).toInt then 1#64 else 0#64) 1 s) ∧
    Ends (.slt true rd ra (.imm imm)) s
      (Wrote rd (if (s.x ra).toNat < (imm.signExtend 64).toNat then 1#64 else 0#64) 1 s)

/-- R114, R115, R129: LD and LDZ of every size leave their access outstanding and go on. Where the access is in
the 48-bit space, aligned, translated and permitted, and fewer than eight loads are outstanding, it is listed with its
address, its home, its size and its parcel, rd (s0 apart) is scoreboarded and not written yet, and nothing else
changes but the count of free values that a walk may use. -/
def Obligations.LoadIssues : Prop :=
  ∀ (s u : Machine.State) (sz : Size) (rd ra : Reg) (imm : BitVec 32) (pa : Nat) (kind : PaKind) (tso : Bool),
    s.cur.loads.length < 8 → (s.x ra + imm.signExtend 64).toNat < 2 ^ 48 →
    (s.x ra + imm.signExtend 64).toNat % sizeBytes sz = 0 →
    s.lanXlate s.focus (s.x ra + imm.signExtend 64) (sizeBytes sz) .load = (.at_ pa kind tso, u) →
    ∀ b : Bool, Ends (if b then .ld sz rd ra imm else .ldz sz rd ra imm) s fun t =>
      { t with lans := s.lans, free := s.free } = s ∧ (∀ j, j ≠ s.focus → t.lan j = s.lan j) ∧ SameRegs s.focus s t ∧
        t.cur.loads = s.cur.loads ++ [{ rd := rd, sext := b, va := s.x ra + imm.signExtend 64, pa := pa,
                                        size := sizeBytes sz, at_ := s.cur.pc, tso := tso, data := none }] ∧
        (∀ r, t.cur.busy r = (s.cur.busy r || decide (r = rd ∧ r ≠ 0#5))) ∧ t.cur.pc = afterParcels s.cur.pc 1 ∧
        { t.cur with loads := s.cur.loads, sb := s.cur.sb, pc := s.cur.pc, prev := s.cur.prev, came := s.cur.came,
                     xheld := s.cur.xheld, stWait := s.cur.stWait } = s.cur

/-- R129: when the oldest outstanding load of a Lantern returns from HBM or from a Lantern's local memory, outside a
staged segment, rd takes the bytes at its home, sign-extended for LD and zero-extended for LDZ; its scoreboard is
released, and nothing else changes. Data that returns uncorrectable leaves rd and raises DPOISON. A load whose value was
taken when an earlier store or command was performed returns that value. -/
def Obligations.LoadReturns : Prop :=
  (∀ (s : Machine.State) (k : Nat) (p : PendLoad) (rest : List PendLoad) (kind : PaKind),
    (s.lan k).loads = p :: rest → p.data = none → s.classify p.pa p.size = some kind →
    (kind = .hbm ∧ s.hbmPoison p.pa p.size = false ∨ ∃ j off, kind = .lanMem j off) → s.stagedSet k = none →
    s.edges = [] →
    Ends (.lanternLoadReturn k 0) s fun t =>
      OnlyLan k s t ∧
        (∀ r, (t.lan k).reg r =
          if r = p.rd ∧ r ≠ 0#5 then
            (if p.sext then (BitVec.ofNat (8 * p.size) (leNat (s.mem.bytes p.pa p.size))).signExtend 64
             else BitVec.ofNat 64 (leNat (s.mem.bytes p.pa p.size)))
          else (s.lan k).reg r) ∧
        (t.lan k).loads = rest ∧ (∀ r, (t.lan k).busy r = ((s.lan k).busy r && decide (r ≠ p.rd))) ∧
        { t.lan k with regs := (s.lan k).regs, loads := (s.lan k).loads, sb := (s.lan k).sb } = s.lan k) ∧
  (∀ (s : Machine.State) (k : Nat) (p : PendLoad) (rest : List PendLoad) (v : Word) (bad : Bool),
    (s.lan k).loads = p :: rest → p.data = some (v, bad) → s.loadHeld k p.pa p.size = false → (s.lan k).dpoi = none →
    Ends (.lanternLoadReturn k 0) s fun t =>
      OnlyLan k s t ∧
        (∀ r, (t.lan k).reg r = if r = p.rd ∧ r ≠ 0#5 ∧ bad = false then v else (s.lan k).reg r) ∧
        (t.lan k).loads = rest ∧ (∀ r, (t.lan k).busy r = ((s.lan k).busy r && decide (r ≠ p.rd))) ∧
        (t.lan k).dpoi = (if bad then some (p.va, p.at_) else none) ∧ (t.lan k).pc = (s.lan k).pc)

/-- R129: ST of every size stores the low bytes of x(rd), the lowest byte at the lowest address, at the home that
translation gives, once earlier loads have taken their values (R116). `u` is the state after translation and those
loads; with no load outstanding it is `s` but for free values. At a home in HBM, a Lantern's local memory, a
synchronisation address or host memory, every byte outside the stored ones reads as before; a write to a Lantern's
window, to element debug space or to a hub register is posted to that unit and changes no byte of memory; at a memory
tile the tile's window port writes the words and the check bits. Within a staged segment the bytes are staged, and
the store stands while no entry is free (R254). That a store is performed when it retires is the model's reading (log
entry 11). -/
def Obligations.StoreStores : Prop :=
  ∀ (s u v : Machine.State) (sz : Size) (rd ra : Reg) (imm : BitVec 32) (pa : Nat) (kind : PaKind) (tso : Bool)
      (bs : List Byte),
    (s.x ra + imm.signExtend 64).toNat < 2 ^ 48 → (s.x ra + imm.signExtend 64).toNat % sizeBytes sz = 0 →
    s.lanXlate s.focus (s.x ra + imm.signExtend 64) (sizeBytes sz) .store = (.at_ pa kind tso, v) →
    s.homeCut (lanDie s.focus) pa kind = false → u = v.performLoads s.focus → bs = leBytes (sizeBytes sz) (s.x rd).toNat →
    (s.cur.loads = [] → SameButFree s u) ∧
    (s.stagedSet s.focus = none ∨ ownPlace s.focus kind = true →
      (∀ a, (kind = .hbm ∧ a = pa ∨ (∃ j off, kind = .lanMem j off ∧ a = pa) ∨
          (∃ d o, kind = .sync d o ∧ s.syncPa d o = some a) ∨
          (∃ hba h, kind = .host hba ∧ u.hostStage hba true = some h ∧ a = hostPa h)) →
        Ends (.st sz rd ra imm) s fun t =>
          (∀ i, i < sizeBytes sz → t.mem.read (a + i) = (s.x rd).extractLsb' (8 * i) 8) ∧
          (∀ b, b < a ∨ a + sizeBytes sz ≤ b → t.mem.read b = u.mem.read b) ∧
          (u.mem.wf = true → t.mem.wf = true) ∧
          { t with lans := u.lans, mem := u.mem, hbmBad := u.hbmBad } = u ∧ (∀ j, j ≠ s.focus → t.lan j = u.lan j) ∧
          (∀ r, t.x r = u.x r) ∧ t.cur.pc = afterParcels u.cur.pc 1 ∧ SameButRegs u.cur t.cur) ∧
      ((∃ j r, kind = .lanReg j r) ∨ (∃ j n, kind = .lanState j n) ∨ (∃ e r o, kind = .debug e r o) ∨ (∃ o, kind = .hub o) →
        Ends (.st sz rd ra imm) s fun t =>
          (∀ j r, kind = .lanReg j r → t.agenda =
            postInto (.gpr j (BitVec.ofNat 5 r) (mergeDword ((u.lan j).reg (BitVec.ofNat 5 r)) (pa % 8) bs)) u.agenda) ∧
          (∀ j n, kind = .lanState j n → t.agenda =
            postInto (.sreg j n (mergeDword ((u.srValue j n).getD 0#64) (pa % 8) bs)) u.agenda) ∧
          (∀ e r o, kind = .debug e r o → t.agenda = (u.postDwords (u.readDebug e r) (.debug e r) o bs).agenda) ∧
          (∀ o, kind = .hub o → t.agenda = (u.postDwords u.hubRead (.hub .supervisor) o bs).agenda) ∧
          t.mem = u.mem ∧ { t with lans := u.lans, agenda := u.agenda } = u ∧
          (∀ j, j ≠ s.focus → t.lan j = u.lan j) ∧ (∀ r, t.x r = u.x r) ∧ t.cur.pc = afterParcels u.cur.pc 1 ∧
          SameButRegs u.cur t.cur) ∧
      (∀ tile off, kind = .tileData tile off → Ends (.st sz rd ra imm) s fun t =>
        t = ((u.writeTile tile 0 off bs).1.raiseOwed (some s.focus) (tileDie tile) (tileRecord tile)
          (u.writeTile tile 0 off bs).2).retire 1)) ∧
    ((s.stagedSet s.focus).isSome = true → ownPlace s.focus kind = false →
      (∀ w, u.stageWrite s.focus pa bs = some w → Ends (.st sz rd ra imm) s fun t => t = w.retire 1) ∧
      (u.stageWrite s.focus pa bs = none → Ends (.st sz rd ra imm) s fun t =>
        t = u.modCur fun l => { l with stWait := u.stageBlock s.focus pa bs }))

/-- R129: where a load or a store faults, and with what: outside the 48-bit space LDF or STF, misaligned ALIGN, no
translation LDF or STF while MODE.XFAULT is 0 and no walk is asked of the host, no permission PERM, EVAL the address
each time; nothing of the instruction takes effect. That an address at or above 2^48 traps whatever MODE says is the
model's reading (log entry 6). -/
def Obligations.AccessFaults : Prop :=
  ∀ (s : Machine.State) (sz : Size) (rd ra : Reg) (imm : BitVec 32), s.cur.loads.length < 8 →
    (2 ^ 48 ≤ (s.x ra + imm.signExtend 64).toNat →
      Ends (.ld sz rd ra imm) s (TrappedHere cLDF (s.x ra + imm.signExtend 64) s) ∧
      Ends (.ldz sz rd ra imm) s (TrappedHere cLDF (s.x ra + imm.signExtend 64) s) ∧
      Ends (.st sz rd ra imm) s (TrappedHere cSTF (s.x ra + imm.signExtend 64) s)) ∧
    ((s.x ra + imm.signExtend 64).toNat < 2 ^ 48 → (s.x ra + imm.signExtend 64).toNat % sizeBytes sz ≠ 0 →
      Ends (.ld sz rd ra imm) s (TrappedHere cALIGN (s.x ra + imm.signExtend 64) s) ∧
      Ends (.ldz sz rd ra imm) s (TrappedHere cALIGN (s.x ra + imm.signExtend 64) s) ∧
      Ends (.st sz rd ra imm) s (TrappedHere cALIGN (s.x ra + imm.signExtend 64) s)) ∧
    (∀ u, (s.x ra + imm.signExtend 64).toNat < 2 ^ 48 → (s.x ra + imm.signExtend 64).toNat % sizeBytes sz = 0 →
      SameButFree s u →
      (s.lanXlate s.focus (s.x ra + imm.signExtend 64) (sizeBytes sz) .load = (.perm, u) →
        Ends (.ld sz rd ra imm) s (TrappedHere cPERM (s.x ra + imm.signExtend 64) u) ∧
        Ends (.ldz sz rd ra imm) s (TrappedHere cPERM (s.x ra + imm.signExtend 64) u)) ∧
      (s.lanXlate s.focus (s.x ra + imm.signExtend 64) (sizeBytes sz) .store = (.perm, u) →
        Ends (.st sz rd ra imm) s (TrappedHere cPERM (s.x ra + imm.signExtend 64) u)) ∧
      (∀ reason, modeXfault (s.modeOf (lanDie s.focus)) = false → reason < 5 →
        (s.lanXlate s.focus (s.x ra + imm.signExtend 64) (sizeBytes sz) .load = (.miss reason, u) →
          Ends (.ld sz rd ra imm) s (TrappedHere cLDF (s.x ra + imm.signExtend 64) u) ∧
          Ends (.ldz sz rd ra imm) s (TrappedHere cLDF (s.x ra + imm.signExtend 64) u)) ∧
        (s.lanXlate s.focus (s.x ra + imm.signExtend 64) (sizeBytes sz) .store = (.miss reason, u) →
          Ends (.st sz rd ra imm) s (TrappedHere cSTF (s.x ra + imm.signExtend 64) u))))

/-- R61, R130: FENCE at scope codes 0 and 1 is ILLOP. At codes 2 to 7 it stands while a load, its value taken, has not
returned; with none outstanding it discards the instruction cache, and changes nothing else. That earlier stores are
already performed is the model's reading (log entry 11), and so is the EVAL of the ILLOP (log entry 9). -/
def Obligations.FenceCompletes : Prop :=
  ∀ (s : Machine.State) (scope : BitVec 3),
    (scope.toNat < 2 → Ends (.fence scope) s (TrappedHere cILLOP (parcelOf (.fence scope)) s)) ∧
    (2 ≤ scope.toNat → s.cur.loads = [] →
      Ends (.fence scope) s fun t =>
        OnlyLan s.focus s t ∧ SameRegs s.focus s t ∧ t.cur.icache = [] ∧ t.cur.pc = afterParcels s.cur.pc 1 ∧
          { t.cur with icache := s.cur.icache, pc := s.cur.pc, prev := s.cur.prev, came := s.cur.came,
                       xheld := s.cur.xheld, stWait := s.cur.stWait } = s.cur) ∧
    (2 ≤ scope.toNat → s.cur.loads ≠ [] → (∀ p ∈ s.cur.loads, p.data.isSome = true) → Ends (.fence scope) s fun t => t = s)

/-- R131: the conditional branches, JMP and JAL, over every register value and offset. JAL writes the address of the
parcel that follows to s1. -/
def Obligations.BranchesAndJumps : Prop :=
  ∀ (s : Machine.State) (ra rb : Reg) (off : BitVec 32),
    Ends (.beq ra rb off) s (Branched (.beq ra rb off) off (s.x ra = s.x rb) s) ∧
    Ends (.bne ra rb off) s (Branched (.bne ra rb off) off (s.x ra ≠ s.x rb) s) ∧
    Ends (.blt ra rb off) s (Branched (.blt ra rb off) off ((s.x ra).toInt < (s.x rb).toInt) s) ∧
    Ends (.bge ra rb off) s (Branched (.bge ra rb off) off ((s.x rb).toInt ≤ (s.x ra).toInt) s) ∧
    Ends (.bltu ra rb off) s (Branched (.bltu ra rb off) off ((s.x ra).toNat < (s.x rb).toNat) s) ∧
    Ends (.bgeu ra rb off) s (Branched (.bgeu ra rb off) off ((s.x rb).toNat ≤ (s.x ra).toNat) s) ∧
    Ends (.jmp off) s (Branched (.jmp off) off True s) ∧
    (0 ≤ parcelIndex s.cur.pc + off.toInt →
      Ends (.jal off) s fun t =>
        OnlyLan s.focus s t ∧ (∀ r, t.x r = if r = 1#5 then nextParcel s.cur.pc else s.x r) ∧
          t.cur.pc = parcelAddr (parcelIndex s.cur.pc + off.toInt) ∧ SameButRegs s.cur t.cur) ∧
    (parcelIndex s.cur.pc + off.toInt < 0 → Ends (.jal off) s (TrappedHere cFETCH (parcelOf (.jal off)) s))

/-- R132, R133: JR and JTAB. JR to the end address ends the segment; to an address that is no multiple of 8 it is ALIGN; to
a line's header dword CFI at the target; anywhere else control goes there, and the landing is checked when it is fetched.
JTAB: an index at or above LEN selects DEFAULT, with no access to the table; any other reads the dword at parcel index
n + imm32 + j, which must stand in a line of KIND 01 with its upper half zero, and goes n plus that offset on. `u` is `s`
after the line's fetch. A target below index 0 is FETCH, and no register changes. -/
def Obligations.IndirectJumps : Prop :=
  (∀ (s : Machine.State) (ra : Reg),
     (s.x ra = 0xFFFFFFFFFFFFFFF8#64 →
       Ends (.jr ra) s fun t => WentTo 0xFFFFFFFFFFFFFFF8#64 s t ∧ t.cur.st = .ending) ∧
     ((s.x ra).extractLsb' 0 3 ≠ 0#3 → Ends (.jr ra) s (TrappedHere cALIGN (s.x ra) s)) ∧
     ((s.x ra).extractLsb' 0 7 = 0#7 → Ends (.jr ra) s (Trapped s.focus cCFI (s.x ra) s.cur.pc 0#64 s)) ∧
     ((s.x ra).extractLsb' 0 3 = 0#3 → (s.x ra).extractLsb' 0 7 ≠ 0#7 → s.x ra ≠ 0xFFFFFFFFFFFFFFF8#64 →
       Ends (.jr ra) s fun t => WentTo (s.x ra) s t ∧ t.cur.st = s.cur.st ∧ t.cur.came = .afterJal)) ∧
  (∀ (s : Machine.State) (ra : Reg) (base dflt : BitVec 32) (len : BitVec 16),
     (len.toNat ≤ (s.x ra).toNat → 0 ≤ parcelIndex s.cur.pc + dflt.toInt →
       Ends (.jtab ra base dflt len) s (WentTo (parcelAddr (parcelIndex s.cur.pc + dflt.toInt)) s)) ∧
     (len.toNat ≤ (s.x ra).toNat → parcelIndex s.cur.pc + dflt.toInt < 0 →
       Ends (.jtab ra base dflt len) s (TrappedHere cFETCH (parcelOf (.jtab ra base dflt len)) s)) ∧
     ((s.x ra).toNat < len.toNat → ∀ (a : Word) (ws : List Word) (u : Machine.State),
       0 ≤ parcelIndex s.cur.pc + base.toInt + (s.x ra).toNat →
       a = parcelAddr (parcelIndex s.cur.pc + base.toInt + (s.x ra).toNat) →
       s.fetchLine s.focus (a &&& 0xFFFFFFFFFFFFFF80#64) = (.ok ws, u) → u.cur.pc = s.cur.pc → u.focus = s.focus →
       ((ws.getD 0 0#64).extractLsb' 30 2 = 1#2 → (ws.getD (a.toNat % 128 / 8) 0#64).extractLsb' 32 32 = 0#32 →
         0 ≤ parcelIndex s.cur.pc + ((ws.getD (a.toNat % 128 / 8) 0#64).extractLsb' 0 32).toInt →
         Ends (.jtab ra base dflt len) s
           (WentTo (parcelAddr (parcelIndex s.cur.pc + ((ws.getD (a.toNat % 128 / 8) 0#64).extractLsb' 0 32).toInt)) u)) ∧
       ((ws.getD 0 0#64).extractLsb' 30 2 ≠ 1#2 ∨ (ws.getD (a.toNat % 128 / 8) 0#64).extractLsb' 32 32 ≠ 0#32 →
         Ends (.jtab ra base dflt len) s (TrappedHere cILLOP a u))))

/-- R117, R134: TRAP and SVC take a trap with EVAL the zero-extended code; ERET goes to EPC with SUP and IE as PSUP and
PIE hold them, once no load is outstanding; HALT stops the Lantern; NOP does nothing; ERET and HALT are PRIV in user
mode. -/
def Obligations.SystemInstructions : Prop :=
  ∀ (s : Machine.State) (code : BitVec 32),
    Ends (.trap code) s (TrappedHere cTRAP (code.setWidth 64) s) ∧
    Ends (.svc code) s (TrappedHere cSVC (code.setWidth 64) s) ∧
    (s.cur.sup = true → s.loadsOut s.focus = false →
      Ends .eret s fun t =>
        OnlyLan s.focus s t ∧ SameRegs s.focus s t ∧ t.cur.pc = s.cur.epc ∧
          t.cur.status.getLsbD 0 = s.cur.status.getLsbD 1 ∧ t.cur.status.getLsbD 2 = s.cur.status.getLsbD 3 ∧
          t.cur.status.getLsbD 1 = s.cur.status.getLsbD 1 ∧ t.cur.status.getLsbD 3 = s.cur.status.getLsbD 3 ∧
          t.cur.st = (if s.cur.epc = 0xFFFFFFFFFFFFFFF8#64 then .ending else s.cur.st) ∧ t.cur.came = .eret ∧
          { t.cur with pc := s.cur.pc, prev := s.cur.prev, came := s.cur.came, status := s.cur.status, st := s.cur.st,
                       xheld := s.cur.xheld, day := s.cur.day } = s.cur) ∧
    (s.cur.sup = true → s.loadsOut s.focus = true → Ends .eret s fun t => t = s) ∧
    (s.cur.sup = true → Ends .halt s (Became ({ s.cur with st := .halted }.advance 1) s)) ∧
    (s.cur.sup = false →
      Ends .eret s (TrappedHere cPRIV (parcelOf .eret) s) ∧ Ends .halt s (TrappedHere cPRIV (parcelOf .halt) s)) ∧
    Ends .nop s (Became (s.cur.advance 1) s)

/-- R111, R112, R134: SRR. A number that names no register is ILLOP; in supervisor mode rd takes any of the eighteen, in
user mode those that R111's user column gives, and any other raises PRIV. STATUS shows FQP and SPEC. The EVAL of its
ILLOP and PRIV is the model's reading (log entry 9). -/
def Obligations.StateRegisterReads : Prop :=
  ∀ (s : Machine.State) (rd : Reg) (num : BitVec 32),
    (0x12 ≤ num.toNat → Ends (.srr rd num) s (TrappedHere cILLOP (parcelOf (.srr rd num)) s)) ∧
    (num.toNat < 0x12 →
      let v : Word :=
        [(s.cur.status &&& 0xF#64) ||| (if s.cur.head.toNat % 2 ^ s.cur.fqsize.toNat ≠ s.cur.tail.toNat % 2 ^ s.cur.fqsize.toNat then 0x10#64 else 0#64)
           ||| (if s.speculative s.focus then 0x20#64 else 0#64),
         s.cur.epc, s.cur.ecause, s.cur.evalr, s.cur.emicro, s.cur.tvec, s.cur.segid, s.cur.region,
         BitVec.ofNat 64 s.tick, s.cur.deadln, s.cur.budget, s.cur.cost,
         BitVec.ofNat 64 (s.cur.fqsize.toNat * 2 ^ 20 + s.cur.fqbase.toNat * 2 ^ 5),
         BitVec.ofNat 64 (s.cur.tail.toNat * 2 ^ 32 + s.cur.head.toNat), s.cur.fpmode, s.cur.fpflags,
         s.modeOf (lanDie s.focus), s.cur.launch].getD num.toNat 0#64
      (s.cur.sup = true ∨ num.toNat ∈ [0, 6, 7, 8, 9, 10, 11, 14, 15, 17] → Ends (.srr rd num) s (Wrote rd v 1 s)) ∧
      (s.cur.sup = false → num.toNat ∉ [0, 6, 7, 8, 9, 10, 11, 14, 15, 17] →
        Ends (.srr rd num) s (TrappedHere cPRIV (parcelOf (.srr rd num)) s)))

/-- R14, R42, R111, R112, R123, R134: SRW. A number that names no register, or one that SRW does not write, is ILLOP in
either mode; user mode writes FPMODE and FPFLAGS only and is PRIV elsewhere; an FQBASE that puts the ring outside the
local memory is ILLOP. Reserved and read-only bits keep their values. It waits for outstanding loads. The EVAL of its
ILLOP and PRIV is the model's reading (log entry 9). -/
def Obligations.StateRegisterWrites : Prop :=
  ∀ (s : Machine.State) (num : BitVec 32) (ra : Reg),
    (num.toNat ∉ [0, 1, 2, 3, 4, 5, 0xC, 0xD, 0xE, 0xF, 0x10] →
      Ends (.srw num ra) s (TrappedHere cILLOP (parcelOf (.srw num ra)) s)) ∧
    (s.cur.sup = false → num.toNat ∈ [0, 1, 2, 3, 4, 5, 0xC, 0xD, 0x10] →
      Ends (.srw num ra) s (TrappedHere cPRIV (parcelOf (.srw num ra)) s)) ∧
    (s.loadsOut s.focus = true → num.toNat ∈ [0xE, 0xF] ∨ s.cur.sup = true ∧ num.toNat ∈ [0, 1, 2, 3, 4, 5, 0xC, 0xD, 0x10] →
      Ends (.srw num ra) s fun t => t = s) ∧
    (s.loadsOut s.focus = false →
      (num = 0xE#32 → Ends (.srw num ra) s (Became ({ s.cur with fpmode := s.x ra &&& 3#64 }.advance 1) s)) ∧
      (num = 0xF#32 → Ends (.srw num ra) s (Became ({ s.cur with fpflags := s.x ra &&& 0x1F#64 }.advance 1) s))) ∧
    (s.cur.sup = true → s.loadsOut s.focus = false →
      (num = 0#32 → Ends (.srw num ra) s (Became ({ s.cur with status := s.x ra &&& 0xF#64 }.advance 1) s)) ∧
      (num = 1#32 → Ends (.srw num ra) s (Became ({ s.cur with epc := s.x ra }.advance 1) s)) ∧
      (num = 2#32 → Ends (.srw num ra) s (Became ({ s.cur with ecause := s.x ra &&& 0xFF#64 }.advance 1) s)) ∧
      (num = 3#32 → Ends (.srw num ra) s (Became ({ s.cur with evalr := s.x ra }.advance 1) s)) ∧
      (num = 4#32 → Ends (.srw num ra) s (Became ({ s.cur with emicro := s.x ra }.advance 1) s)) ∧
      (num = 5#32 → Ends (.srw num ra) s (Became ({ s.cur with tvec := s.x ra }.advance 1) s)) ∧
      (num = 0xC#32 →
        (((s.x ra).extractLsb' 20 4).toNat ≤ 11 ∧
            ((s.x ra).extractLsb' 5 12).toNat * 32 + 32 * 2 ^ ((s.x ra).extractLsb' 20 4).toNat ≤ 0x10000 →
          Ends (.srw num ra) s
            (Became ({ s.cur with fqsize := (s.x ra).extractLsb' 20 4, fqbase := (s.x ra).extractLsb' 5 12 }.advance 1) s)) ∧
        (¬ (((s.x ra).extractLsb' 20 4).toNat ≤ 11 ∧
            ((s.x ra).extractLsb' 5 12).toNat * 32 + 32 * 2 ^ ((s.x ra).extractLsb' 20 4).toNat ≤ 0x10000) →
          Ends (.srw num ra) s (TrappedHere cILLOP (parcelOf (.srw num ra)) s))) ∧
      (num = 0xD#32 → Ends (.srw num ra) s (Became ({ s.cur with head := (s.x ra).extractLsb' 0 16 }.advance 1) s)) ∧
      (num = 0x10#32 →
        Ends (.srw num ra) s fun t =>
          { t with mode := s.mode, lans := s.lans } = s ∧ (∀ j, j ≠ s.focus → t.lan j = s.lan j) ∧
            t.cur = s.cur.advance 1 ∧
            ∀ d, t.modeOf d = if d = lanDie s.focus then s.x ra &&& 0x3F#64 else s.modeOf d))

/-- R146: DMOV. An address or a length that is no multiple of 8 is ALIGN with the first such value. A move between
places in HBM whose source and destination translate, outside a staged segment, stores the eight bytes of its source at its
destination, counts in EMICRO and leaves every register and the program counter; after the last move rd and ra have advanced
by the length, rb and EMICRO are zero, and control goes on. -/
def Obligations.DmovMoves : Prop :=
  ∀ (s : Machine.State) (rd ra rb : Reg),
    ((s.x rd).toNat % 8 ≠ 0 → Ends (.dmov rd ra rb) s (TrappedHere cALIGN (s.x rd) s)) ∧
    ((s.x rd).toNat % 8 = 0 → (s.x ra).toNat % 8 ≠ 0 → Ends (.dmov rd ra rb) s (TrappedHere cALIGN (s.x ra) s)) ∧
    ((s.x rd).toNat % 8 = 0 → (s.x ra).toNat % 8 = 0 → (s.x rb).toNat % 8 ≠ 0 →
      Ends (.dmov rd ra rb) s (TrappedHere cALIGN (s.x rb) s)) ∧
    ((s.x rd).toNat % 8 = 0 → (s.x ra).toNat % 8 = 0 → (s.x rb).toNat % 8 = 0 →
      ((s.x rb).toNat / 8 ≤ s.cur.emicro.toNat →
        Ends (.dmov rd ra rb) s
          (Became ({ (((s.cur.setReg rd (s.x rd + s.x rb)).setReg ra (s.x ra + s.x rb)).setReg rb 0#64) with
                     emicro := 0#64 }.advance 1) s)) ∧
      (s.cur.emicro.toNat < (s.x rb).toNat / 8 → s.cur.loads = [] → s.stagedSet s.focus = none →
        ∀ (pa pb : Nat) (c c' : Bool) (u v : Machine.State),
          s.lanXlate s.focus (s.x ra + 8#64 * s.cur.emicro) 8 .load = (.at_ pa .hbm c, u) →
          s.classify pa 8 = some .hbm → s.hbmPoison pa 8 = false →
          s.homeCut (lanDie s.focus) pa .hbm = false → s.homeCut (lanDie s.focus) pb .hbm = false →
          u.lanXlate s.focus (s.x rd + 8#64 * s.cur.emicro) 8 .store = (.at_ pb .hbm c', v) →
          Ends (.dmov rd ra rb) s fun t =>
            t.mem = s.mem.store pb (s.mem.bytes pa 8) ∧
              { t with lans := s.lans, mem := s.mem, hbmBad := s.hbmBad, free := s.free } = s ∧
              (∀ j, j ≠ s.focus → t.lan j = s.lan j) ∧
              t.cur = { s.cur with emicro := s.cur.emicro + 1#64, xheld := none, stWait := none }))

/-- R119, R121, R129: what a Lantern takes at a boundary. A fetch that fails traps with the cause, EPC and EVAL of its
check, but the first parcel at TVEC in supervisor mode stops the Lantern; BUDGET traps in user mode when the budget is
used up; then a fault-queue trap takes the record's kind as its cause and the record's local-memory offset as EVAL; then
DPOISON reports the load. The address that TVEC holds after bring-up is the model's (log entry 4); no clause rests on
it. -/
def Obligations.BoundaryTraps : Prop :=
  ∀ (s : Machine.State) (k : Nat),
    (∀ (cause : Nat) (epc val : Word) (n : Nat) (u : Machine.State), (s.lan k).st = .run →
      s.fetch k = (.fault cause epc val n, u) →
      (¬ ((u.lan k).sup = true ∧ (u.lan k).came = .start ∧ (u.lan k).pc = (u.lan k).tvec) →
        Ends (.fetchFault k) s (Trapped k cause epc val 0#64 u)) ∧
      ((u.lan k).sup = true ∧ (u.lan k).came = .start ∧ (u.lan k).pc = (u.lan k).tvec →
        Ends (.fetchFault k) s fun t =>
          t.lan k = { u.lan k with st := .stopped } ∧ (∃ r, t.hub.mc = u.hub.mc ++ [r] ∧ r.kind = kTVEC ∧
            r.addr = (u.lan k).tvec) ∧ { t with lans := u.lans, hub := u.hub, beacons := u.beacons } = u)) ∧
    (∀ micro next : Word, s.boundaryAt k = some (micro, next) →
      ((s.lan k).budget = 0#64 → (s.lan k).sup = false →
        Ends (.budgetTrap k) s (Trapped k cBUDGET (s.lan k).pc 0#64 micro s)) ∧
      ((s.lan k).budgetDue = false → (s.lan k).ie = true →
          (s.lan k).head.toNat % 2 ^ (s.lan k).fqsize.toNat ≠ (s.lan k).tail.toNat % 2 ^ (s.lan k).fqsize.toNat →
        Ends (.faultQueueTrap k) s
          (Trapped k (s.mem.read (lanPa k 1 (s.lan k).headOff)).toNat (s.lan k).pc (BitVec.ofNat 64 (s.lan k).headOff)
            micro s)) ∧
      (∀ va at_ : Word, (s.lan k).budgetDue = false → (s.lan k).queueDue = false → (s.lan k).dpoi = some (va, at_) →
        Ends (.dpoison k) s
          (Trapped k cDPOISON (s.lan k).pc va at_ (s.modLan k fun l => { l with dpoi := none }))))

/-- R136: CFGLD. A misaligned address is ALIGN; a full table, or one that already holds the address, CFGBAD with all
ones; a check that fails, CFGBAD with the lowest failing offset; an array element covered, CFGBAD with -3; a context
that is loaded but not armed, CFGBAD with -2. The instruction stands while an element that the image covers is held by a
spare row's move, while no context is free, while a configuration runs in the context, and while a resource holds a
pending image of a third context. Where nothing fails and nothing has to be waited for, the image goes into
the region's elements and ports, the table gains its entry, loaded and not armed, and control goes on with every
register as it was. `u` is the state once earlier loads and the image's bytes have been read. The order in which the
image is read is the model's reading (log entry 22). -/
def Obligations.ConfigurationLoads : Prop :=
  ∀ (s : Machine.State) (ra : Reg),
    ((s.x ra).toNat % 64 ≠ 0 → Ends (.cfgld ra) s (TrappedHere cALIGN (s.x ra) s)) ∧
    ((s.x ra).toNat % 64 = 0 → (8 ≤ s.cur.cfgs.length ∨ ∃ x ∈ s.cur.cfgs, x.addr = s.x ra) →
      Ends (.cfgld ra) s (TrappedHere cCFGBAD 0xFFFFFFFFFFFFFFFF#64 s)) ∧
    ((s.x ra).toNat % 64 = 0 → s.cur.cfgs.length < 8 → (∀ x ∈ s.cur.cfgs, x.addr ≠ s.x ra) →
      ∀ (raw : RawImage) (u : Machine.State),
      (s.performLoads s.focus).readImage (s.x ra) = .ok raw u →
      (∀ off, lowestOf (u.imageFails raw) = some off → Ends (.cfgld ra) s (TrappedHere cCFGBAD (BitVec.ofNat 64 off) u)) ∧
      (lowestOf (u.imageFails raw) = none → (∃ el ∈ u.imageEls u.focus raw.image, el ∈ u.spareHeld) →
        Ends (.cfgld ra) s fun t => t = u) ∧
      (lowestOf (u.imageFails raw) = none → (∀ el ∈ u.imageEls u.focus raw.image, el ∉ u.spareHeld) →
        ((∃ el ∈ u.imageEls u.focus raw.image, (u.arrayAt el).isSome = true) →
          Ends (.cfgld ra) s (TrappedHere cCFGBAD 0xFFFFFFFFFFFFFFFD#64 u)) ∧
        ((∀ el ∈ u.imageEls u.focus raw.image, u.arrayAt el = none) → u.cur.pickCtx raw.image.ctx = none →
          Ends (.cfgld ra) s fun t => t = u) ∧
        ((∀ el ∈ u.imageEls u.focus raw.image, u.arrayAt el = none) → ∀ c, u.cur.pickCtx raw.image.ctx = some c →
          ((∃ x ∈ u.cur.cfgs, x.ctx = c ∧ x.done = false ∧ x.armed = false) →
            Ends (.cfgld ra) s (TrappedHere cCFGBAD 0xFFFFFFFFFFFFFFFE#64 u)) ∧
          ((∃ x ∈ u.cur.cfgs, x.ctx = c ∧ x.done = false) → (∀ x ∈ u.cur.cfgs, x.ctx = c → x.done = false → x.armed = true) →
            Ends (.cfgld ra) s fun t => t = u) ∧
          ((∀ x ∈ u.cur.cfgs, x.ctx = c → x.done = true) → u.thirdCtx u.focus c raw.image = true →
            Ends (.cfgld ra) s fun t => t = u) ∧
          ((∀ x ∈ u.cur.cfgs, x.ctx = c → x.done = true) → u.thirdCtx u.focus c raw.image = false →
            Ends (.cfgld ra) s fun t =>
              t.cur.cfgs = u.cur.cfgs ++ [{ addr := s.x ra, ctx := c, armed := false, done := false, flags := 0#5,
                                            img := { raw.image with ctx := c } }] ∧
                (∀ r, t.x r = u.x r) ∧ t.cur.pc = afterParcels u.cur.pc 1 ∧ t.mem = u.mem ∧
                { t with lans := u.lans } = u.loadImage u.focus c raw.image ∧
                { t with elems := u.elems, ports := u.ports, lans := u.lans } = u))))

/-- R137, R138, R140: CFGGO, CFGWT and CFGST. CFGGO and CFGWT of an absent entry, CFGGO of an armed one and CFGWT of an
unarmed one are CFGBAD with the address. CFGGO arms the loaded entry and goes on with every register and all of memory as they were.
CFGWT holds until the entry has completed, and then the entry leaves the table. CFGST writes the state of an entry without
waiting: ITER saturates at 2^32 - 1, CTX stands in [6:4], FAULT, DONE, ARMED and LOADED in [3:0]; of an absent entry, 0. -/
def Obligations.ConfigurationUses : Prop :=
  (∀ (s : Machine.State) (ra : Reg),
     ((∀ x ∈ s.cur.cfgs, x.addr = s.x ra → x.armed = true) →
       Ends (.cfggo ra) s (TrappedHere cCFGBAD (s.x ra) s)) ∧
     (∀ x, s.cur.cfg? (s.x ra) = some x → x.armed = false →
       Ends (.cfggo ra) s fun t =>
         (∀ y ∈ t.cur.cfgs, y.addr = s.x ra → y.armed = true) ∧ t.cur.cfgs.length = s.cur.cfgs.length ∧
           (∀ r, t.x r = s.x r) ∧ t.cur.pc = afterParcels s.cur.pc 1 ∧ t.mem = s.mem ∧
           { t with elems := s.elems, ports := s.ports, lans := s.lans } = s)) ∧
  (∀ (s : Machine.State) (ra : Reg),
     ((∀ x ∈ s.cur.cfgs, x.addr = s.x ra → False) → Ends (.cfgwt ra) s (TrappedHere cCFGBAD (s.x ra) s)) ∧
     (∀ x, s.cur.cfg? (s.x ra) = some x →
       (x.armed = false → Ends (.cfgwt ra) s (TrappedHere cCFGBAD (s.x ra) s)) ∧
       (x.armed = true → x.done = false → Ends (.cfgwt ra) s fun t => t = s) ∧
       (x.armed = true → x.done = true →
         Ends (.cfgwt ra) s fun t =>
           OnlyLan s.focus s t ∧ t.cur.cfgs = s.cur.cfgs.filter (fun y => decide (y.addr ≠ s.x ra)) ∧
             (∀ r, t.x r = s.x r) ∧ t.cur.pc = afterParcels s.cur.pc 1))) ∧
  (∀ (s : Machine.State) (rd ra : Reg),
     ((∀ x ∈ s.cur.cfgs, x.addr ≠ s.x ra) → Ends (.cfgst rd ra) s (Wrote rd 0#64 1 s)) ∧
     (∀ x, s.cur.cfg? (s.x ra) = some x → x.ctx < 8 →
       Ends (.cfgst rd ra) s fun t => ∃ v : Word, Wrote rd v 1 s t ∧
         v.getLsbD 0 = true ∧ v.getLsbD 1 = x.armed ∧ v.getLsbD 2 = x.done ∧
         v.getLsbD 3 = (x.armed && !x.done && s.cfgFault s.focus x.ctx) ∧ (v.extractLsb' 4 3).toNat = x.ctx ∧
         v.extractLsb' 7 25 = 0#25 ∧
         (x.armed = true → x.done = false → (v.extractLsb' 32 32).toNat = min (s.iterOf s.focus x) (2 ^ 32 - 1))))

/-- R138: CONFIG_COMPLETE. An armed configuration whose streams have closed, whose tags have gone, for which no record
waits, and whose iterations have been run is marked completed, with the iterations retired; every other entry is as
it was. One that has not completed is left as it is. -/
def Obligations.ConfigurationCompletes : Prop :=
  ∀ (s : Machine.State) (lan idx : Nat) (x : CfgEntry), (s.lan lan).cfgs[idx]? = some x → x.done = false →
    (s.cfgDone lan x = false → Ends (.configComplete lan idx) s fun t => t = s) ∧
    (s.cfgDone lan x = true → ∀ u : Machine.State, (s.ctxElems lan x.ctx).foldl (fun s el => s.switchCtx el x.ctx) s = u →
      ∀ y, (u.lan lan).cfgs[idx]? = some y →
      Ends (.configComplete lan idx) s fun t =>
        (t.lan lan).cfgs[idx]? = some { y with done := true, flags := 0#5, img := { y.img with iters := s.iterOf lan x } } ∧
          (∀ i, i ≠ idx → (t.lan lan).cfgs[i]? = (u.lan lan).cfgs[i]?) ∧
          (t.lan lan).fpflags = (u.lan lan).fpflags ||| y.flags.setWidth 64 ∧
          (∀ r, (t.lan lan).reg r = (u.lan lan).reg r) ∧ t.mem = u.mem ∧
          { t with ports := u.ports, lans := u.lans } = u)

/-- R142: PRE with mode 0 (drain) and 1 (marker). A misaligned area is ALIGN. Once the Lantern's copies and loads have
completed and the region is quiet, the area's header and body are written at x(ra), rd takes the number of bytes
written, the region is released, and control goes on; until then the instruction stands. The bytes of the body are free
values (log entry 14). -/
def Obligations.PreemptionSaves : Prop :=
  ∀ (s : Machine.State) (marker : Bool) (rd ra : Reg),
    let i : Instr := if marker then .preMarker rd ra else .preDrain rd ra
    ((s.x ra).toNat % 4096 ≠ 0 → Ends i s (TrappedHere cALIGN (s.x ra) s)) ∧
    ((s.x ra).toNat % 4096 = 0 → s.ownQuiet s.focus = false → Ends i s fun t => t = s) ∧
    ((s.x ra).toNat % 4096 = 0 → s.ownQuiet s.focus = true →
      (s.beginPre s.focus marker).preReady s.focus marker = false → Ends i s fun t => t = s.beginPre s.focus marker) ∧
    ((s.x ra).toNat % 4096 = 0 → s.ownQuiet s.focus = true →
      ∀ (u v w : Machine.State) (a : Saved) (bs : List Byte), u = ((s.beginPre s.focus marker).accrueCtxs s.focus).mxAccrue s.focus →
      (s.beginPre s.focus marker).preReady s.focus marker = true →
      u.buildArea s.focus marker (afterParcels u.cur.pc 1) rd none = (a, bs) → u.writeVirt (s.x ra) bs 1 = .ok () v →
      (v.keepArea a).releaseSaved s.focus = w → w.focus = s.focus →
      Ends i s fun t =>
        bs = a.hdr ++ bodyBytes u.saves.length a.body ∧ OnlyLan s.focus w t ∧
        (∀ r, t.x r = if r = rd ∧ r ≠ 0#5 then BitVec.ofNat 64 bs.length else w.x r) ∧
        t.cur.pc = afterParcels w.cur.pc 1)

/-- R143 to R145, R372: RSM. A header that fails its test, a body that does not match CHECK, and an area whose body is no
saved area's or whose array MXREST would refuse are CFGBAD with the area's address; a region too small is CFGBAD with -4;
an array that MXON would refuse, CFGBAD with -5; an armed configuration that runs is waited for, and so are the version
entries of the area's windows. An area that passes is put back into the region in place of what it held, its array with
it, and control goes on at the PC of the header. A region at another place than the one that was saved is the model's
reading (log entry 25). -/
def Obligations.PreemptionResumes : Prop :=
  ∀ (s u v : Machine.State) (ra : Reg) (h body : List Byte),
    (s.performLoads s.focus).readVirt (s.x ra) 64 1 = .ok h u →
    (headerBad h = true → Ends (.rsm ra) s (TrappedHere cCFGBAD (s.x ra) u)) ∧
    (headerBad h = false → u.readVirt (s.x ra + 64#64) (fieldAt h 0 4 - 64) 1 = .ok body v →
      ((sha512 body).take 8 ≠ (h.drop 0x20).take 8 → Ends (.rsm ra) s (TrappedHere cCFGBAD (s.x ra) v)) ∧
      ((sha512 body).take 8 = (h.drop 0x20).take 8 → v.areaOf h body = none →
        Ends (.rsm ra) s (TrappedHere cCFGBAD (s.x ra) v)) ∧
      (∀ a, (sha512 body).take 8 = (h.drop 0x20).take 8 → v.areaOf h body = some a →
        (a.mxBad = true → Ends (.rsm ra) s (TrappedHere cCFGBAD (s.x ra) v)) ∧
        (a.mxBad = false → v.tooSmall s.focus a = true →
          Ends (.rsm ra) s (TrappedHere cCFGBAD 0xFFFFFFFFFFFFFFFC#64 v)) ∧
        (a.mxBad = false → v.tooSmall s.focus a = false → v.mxRefused s.focus a = true →
          Ends (.rsm ra) s (TrappedHere cCFGBAD 0xFFFFFFFFFFFFFFFB#64 v)) ∧
        (a.mxBad = false → v.tooSmall s.focus a = false → v.mxRefused s.focus a = false →
          ((∃ x ∈ v.cur.cfgs, x.armed = true ∧ x.done = false) ∨ v.winsFit s.focus a = false) →
          Ends (.rsm ra) s fun t => t = v) ∧
        (a.mxBad = false → v.tooSmall s.focus a = false → v.mxRefused s.focus a = false →
          (∀ x ∈ v.cur.cfgs, x.armed = true → x.done = true) → v.winsFit s.focus a = true →
          Ends (.rsm ra) s fun t =>
            OnlyLan s.focus ((v.clearRegion s.focus).restore s.focus a (BitVec.ofNat 64 (fieldAt h 0x10 8))) t ∧
              t.cur.pc = BitVec.ofNat 64 (fieldAt h 0x10 8) ∧
              (∀ r, t.x r = ({ v.cur with regs := a.regs } : Lantern).reg r) ∧ t.cur.fpmode = a.fpmode ∧
              t.cur.cfgs = a.cfgs ∧ t.cur.waits = a.waits)))

/-- R178 to R182: every firing of a float instruction that executes gives the result that its rule defines on its
operands decoded to the wide float, rounded once under the slot's mode, with that result's flags; FCMP gives I64 1 or 0,
raises no flag, and sends the same bit through COUT. That FLG2 and FEX2 are correctly rounded is the model's reading
(log entry 10). -/
def Obligations.FloatResults : Prop :=
  ∀ (f : Slot) (w : Fire) (s : Machine.State) (a b c : WVal) (rm : RM),
    a = (s.operand w .w f.selA).asW false → b = (s.operand w .w f.selB).asW false →
    c = (s.operand w .w f.selC).asW false → rm = s.rmOf w →
    Gives (.fadd f) w s (wideResult (wadd rm a b)) ∧
    Gives (.fsub f) w s (wideResult (wadd rm a b.negate)) ∧
    Gives (.fmul f) w s (wideResult (wmul rm a b)) ∧
    Gives (.fma f) w s (wideResult (wfma rm false a b c)) ∧
    Gives (.fms f) w s (wideResult (wfma rm false a b c.negate)) ∧
    Gives (.fnma f) w s (wideResult (wfma rm true a b c)) ∧
    Gives (.fmin f) w s (wideResult (wminmax false a b)) ∧
    Gives (.fmax f) w s (wideResult (wminmax true a b)) ∧
    Gives (.fabs f) w s (wideResult (wabs a)) ∧
    Gives (.fneg f) w s (wideResult ⟨wexact a.negate, 0#5⟩) ∧
    Gives (.fdiv f) w s (wideResult (wdiv rm a b)) ∧
    Gives (.fsqrt f) w s (wideResult (wsqrt rm a)) ∧
    Gives (.frcp f) w s (wideResult (wdiv rm (.fin false 1 0) a)) ∧
    Gives (.frsq f) w s (wideResult (wrsqrt rm a)) ∧
    Gives (.flg2 f) w s (wideResult (wlog2 rm a)) ∧
    Gives (.fex2 f) w s (wideResult (wexp2 rm a)) ∧
    Gives (.frnd f) w s (wideResult (wrnd rm a)) ∧
    Gives (.fcmp f) w s (.ok fmtI64 (if fcmpHolds f.imm.toNat a b then 1#80 else 0#80) 0#5 (some (fcmpHolds f.imm.toNat a b)))

/-- R183, R184: every firing of an integer instruction that executes computes on its operands' 64-bit patterns: the
exact sum, difference or product wrapped, or clamped to the range with .S; the high product; the quotient and the
remainder of DIV and REM; the smaller and the larger; the negation; and ICMP's predicate, which also goes through COUT. A
W operand is converted toward zero with its flags; any other format is a format error of that operand. -/
def Obligations.IntegerResults : Prop :=
  ∀ (f : Slot) (w : Fire) (s : Machine.State) (a b : Operand),
    a = s.operand w .i64 f.selA → b = s.operand w .i64 f.selB →
    (∀ x y, a.asI f.uns = some x → b.asI f.uns = some y →
      Gives (.iadd f) w s (i64Out (intResult f (sv f.uns x.val + sv f.uns y.val)) (x.flags ||| y.flags) none) ∧
      Gives (.isub f) w s (i64Out (intResult f (sv f.uns x.val - sv f.uns y.val)) (x.flags ||| y.flags) none) ∧
      Gives (.imul f) w s (i64Out (intResult f (sv f.uns x.val * sv f.uns y.val)) (x.flags ||| y.flags) none) ∧
      Gives (.imulh f) w s (i64Out (BitVec.ofInt 64 (sv f.uns x.val * sv f.uns y.val / 2 ^ 64)) (x.flags ||| y.flags) none) ∧
      Gives (.idiv f) w s (i64Out (idivResult f x.val y.val) (x.flags ||| y.flags) none) ∧
      Gives (.irem f) w s (i64Out (remWord f.uns x.val y.val) (x.flags ||| y.flags) none) ∧
      Gives (.imin f) w s (i64Out (if sv f.uns x.val ≤ sv f.uns y.val then x.val else y.val) (x.flags ||| y.flags) none) ∧
      Gives (.imax f) w s (i64Out (if sv f.uns x.val ≤ sv f.uns y.val then y.val else x.val) (x.flags ||| y.flags) none) ∧
      Gives (.icmp f) w s (i64Out (if icmpHolds f.imm.toNat (sv f.uns x.val) (sv f.uns y.val) then 1#64 else 0#64)
        (x.flags ||| y.flags) (some (icmpHolds f.imm.toNat (sv f.uns x.val) (sv f.uns y.val))))) ∧
    (∀ x, a.asI f.uns = some x →
      Gives (.ineg f) w s (i64Out (if f.sat ∧ x.val = 0x8000000000000000#64 then 0x7FFFFFFFFFFFFFFF#64 else 0#64 - x.val)
        x.flags none)) ∧
    (∀ i ∈ [Instr.iadd f, .isub f, .imul f, .imulh f, .idiv f, .irem f, .imin f, .imax f, .icmp f],
      (a.asI f.uns = none → Gives i w s (.bad a.fmt 0 0 fmtI64)) ∧
      ((a.asI f.uns).isSome → b.asI f.uns = none → Gives i w s (.bad b.fmt 1 0 fmtI64))) ∧
    (a.asI f.uns = none → Gives (.ineg f) w s (.bad a.fmt 0 0 fmtI64))

/-- R185, R186: every firing of a logic or shift instruction that executes acts on the low 64 bits of I64 operands and
gives I64 with no flag; shift counts are taken modulo 64; POPC, CLZ and CTZ count; BEXT and BINS take their field from
imm16. Any other format is a format error of that operand. -/
def Obligations.LogicResults : Prop :=
  ∀ (f : Slot) (w : Fire) (s : Machine.State) (a b : Operand),
    a = s.operand w .i64 f.selA → b = s.operand w .i64 f.selB →
    (a.fmt = fmtI64 → b.fmt = fmtI64 →
      Gives (.eAnd f) w s (i64Out (a.low &&& b.low) 0#5 none) ∧
      Gives (.eOr f) w s (i64Out (a.low ||| b.low) 0#5 none) ∧
      Gives (.eXor f) w s (i64Out (a.low ^^^ b.low) 0#5 none) ∧
      Gives (.andn f) w s (i64Out (a.low &&& ~~~b.low) 0#5 none) ∧
      Gives (.eShl f) w s (i64Out (a.low <<< (b.low.toNat % 64)) 0#5 none) ∧
      Gives (.eShr f) w s (i64Out (a.low >>> (b.low.toNat % 64)) 0#5 none) ∧
      Gives (.eSar f) w s (i64Out (a.low.sshiftRight (b.low.toNat % 64)) 0#5 none) ∧
      Gives (.rol f) w s (i64Out (a.low.rotateLeft (b.low.toNat % 64)) 0#5 none) ∧
      Gives (.bins f) w s (i64Out (binsWord f a.low b.low) 0#5 none)) ∧
    (a.fmt = fmtI64 →
      Gives (.eNot f) w s (i64Out (~~~a.low) 0#5 none) ∧
      Gives (.popc f) w s (i64Out (BitVec.ofNat 64 (popBits a.low.toNat 64)) 0#5 none) ∧
      Gives (.clz f) w s (i64Out (BitVec.ofNat 64 (clz64 a.low)) 0#5 none) ∧
      Gives (.ctz f) w s (i64Out (BitVec.ofNat 64 (ctz64 a.low)) 0#5 none) ∧
      Gives (.bext f) w s (i64Out (bextWord f a.low) 0#5 none)) ∧
    (a.fmt ≠ fmtI64 → ∀ i ∈ [Instr.eAnd f, .eOr f, .eXor f, .andn f, .eShl f, .eShr f, .eSar f, .rol f, .bins f, .eNot f,
      .popc f, .clz f, .ctz f, .bext f], Gives i w s (.bad a.fmt 0 0 fmtI64)) ∧
    (a.fmt = fmtI64 → b.fmt ≠ fmtI64 → ∀ i ∈ [Instr.eAnd f, .eOr f, .eXor f, .andn f, .eShl f, .eShr f, .eSar f, .rol f,
      .bins f], Gives i w s (.bad b.fmt 1 0 fmtI64))

/-- R187 to R191: every firing of a conversion, lane or packed instruction that executes gives the result that its rule
defines; a format without lanes, or a lane beyond the arriving format's, is a format error (R189), and so is an operand of
the packed BADD that is not I8X10. -/
def Obligations.LaneResults : Prop :=
  ∀ (f : Slot) (w : Fire) (s : Machine.State) (a b : Operand) (rm : RM) (k : Nat),
    a = s.operand w .i64 f.selA → b = s.operand w .i64 f.selB → rm = s.rmOf w → k = f.imm.toNat % 16 →
    (∀ r, r = wToInt rm (irange f.uns).1 (irange f.uns).2 ((s.operand w .w f.selA).asW f.uns) →
      Gives (.cvtfi f) w s (i64Out (BitVec.ofInt 64 r.val) r.flags none)) ∧
    Gives (.cvtif f) w s (.ok fmtW (wexact (if a.fmt = fmtI64 then wOfInt (sv f.uns a.low) else a.asW f.uns)) 0#5 none) ∧
    (∀ r, r = l6quant rm (f.imm.extractLsb' 8 8).toInt ((s.operand w .w f.selA).asW false) →
      Gives (.cvtfl f) w s (.ok fmtL6 (l6pack (f.imm.extractLsb' 8 8)
        ((List.range 12).map fun j => if j = k then r.val else 0x10#6)) r.flags none)) ∧
    (laneBad a k false = none →
      Gives (.cvtlf f) w s (.ok fmtW (wexact (if a.fmt = fmtL6 then laneValue (l6lane a.pay k) (l6scale a.pay)
        else wOfInt (i8lane a.pay k).toInt)) 0#5 none) ∧
      Gives (.lspl f) w s (.ok a.fmt (if a.fmt = fmtL6 then
          l6pack (a.pay.extractLsb' 72 8) (List.replicate 12 (l6lane a.pay k))
        else i8pack (List.replicate 10 (i8lane a.pay k))) 0#5 none)) ∧
    (laneBad a k true = none →
      Gives (.lget f) w s (i64Out (if a.fmt = fmtL6 then
          (if k = 15 then BitVec.ofInt 64 (l6scale a.pay) else (l6lane a.pay k).setWidth 64)
        else BitVec.ofInt 64 (sv8 f.uns (i8lane a.pay k))) 0#5 none) ∧
      (b.fmt = fmtI64 →
        Gives (.lput f) w s (.ok a.fmt (if a.fmt = fmtL6 then
            (if k = 15 then l6pack (b.pay.extractLsb' 0 8) ((List.range 12).map fun j => l6lane a.pay j)
             else l6set a.pay k (b.pay.extractLsb' 0 6))
          else i8pack ((List.range 10).map fun j => if j = k then b.pay.extractLsb' 0 8 else i8lane a.pay j)) 0#5 none)) ∧
      (b.fmt ≠ fmtI64 → Gives (.lput f) w s (.bad b.fmt 1 0 a.fmt))) ∧
    (∀ l, laneBad a k false = some l →
      Gives (.cvtlf f) w s (.bad a.fmt 0 l fmtW) ∧ Gives (.lspl f) w s (.bad a.fmt 0 l a.fmt)) ∧
    (∀ l, laneBad a k true = some l →
      Gives (.lget f) w s (.bad a.fmt 0 l fmtI64) ∧ Gives (.lput f) w s (.bad a.fmt 0 l a.fmt)) ∧
    Gives (.ldot f) w s (wideResult (ldotOf rm a b)) ∧
    Gives (.lsum f) w s (wideResult (ldotOf rm a l6One)) ∧
    (a.intPath = true → b.intPath = true →
      Gives (.bdot f) w s (i64Out (intResult f (((a.lanes10I f.uns).zip (b.lanes10I f.uns)).foldl
        (fun (acc : Int) p => acc + p.1 * p.2) 0)) 0#5 none)) ∧
    (a.intPath = false ∨ b.intPath = false →
      Gives (.bdot f) w s (wideResult (wdot rm (a.lanes10W f.uns) (b.lanes10W f.uns)))) ∧
    (a.fmt = fmtI8 → b.fmt = fmtI8 →
      Gives (.packedBadd f) w s (.ok fmtI8 (i8pack ((List.range 10).map fun j =>
        let x := sv8 f.uns (i8lane a.pay j) + sv8 f.uns (i8lane b.pay j)
        BitVec.ofInt 8 (if f.sat then (if f.uns then clampInt 0 255 x else clampInt (-128) 127 x) else x))) 0#5 none)) ∧
    (a.fmt ≠ fmtI8 → Gives (.packedBadd f) w s (.bad a.fmt 0 0 fmtI8)) ∧
    (a.fmt = fmtI8 → b.fmt ≠ fmtI8 → Gives (.packedBadd f) w s (.bad b.fmt 1 0 fmtI8))

/-- What the completion of a firing leaves as it was, whatever its result (R171, R174, R175): everything but the tokens
on their way, the element's own stores, and the fault queues. -/
def Obligations.FiringFrame : Prop := ∀ (w : Fire) (s : Machine.State) (r : Computed), Emitted w.el s (finished w s r)

/-- R192, R197, R215: what a firing of a route or control instruction that executes sends. PASS and SEL send the token
they take on, with LAST under LP; CONST sends its constant; SINK sends nothing. COND, CAND, COR and CNOT send a condition
through COUT. STEER sends its token, all of its bits unchanged, to one side, MERGE the token of the port that the
condition takes, and GATE its token only where the condition is 1 and the condition in either case. NOP never fires: what
is sent to it is dropped with a SLOTCTX record. -/
def Obligations.RouteAndControl : Prop :=
  ∀ (f : Slot) (w : Fire) (s u : Machine.State), u = consumed w s →
    (Executes (.pass f) (movesOn (.pass f)) w s → exec (.pass f) s = .next (u.send w (s.moved w f.selA) w.dests)) ∧
    (Executes (.sel f) (movesOn (.sel f)) w s →
      exec (.sel f) s = .next (u.send w (s.moved w (if w.cond f.cin then f.selA else f.selB)) w.dests)) ∧
    Gives (.const f) w s (.ok fmtI64 (if f.uns then f.imm.setWidth 80 else (f.imm.signExtend 64).setWidth 80) 0#5 none) ∧
    (Executes (.sink f) movesNone w s → exec (.sink f) s = .next u) ∧
    (Executes (.cond f) movesNone w s →
      exec (.cond f) s = .next (u.emitCond w.el w.set.slot w.set.tag f.cout (s.operand w .i64 f.selA).nonzero)) ∧
    (Executes (.cand f) movesNone w s →
      exec (.cand f) s = .next (u.emitCond w.el w.set.slot w.set.tag f.cout (w.cond 0#2 && w.cond 1#2))) ∧
    (Executes (.cor f) movesNone w s →
      exec (.cor f) s = .next (u.emitCond w.el w.set.slot w.set.tag f.cout (w.cond 0#2 || w.cond 1#2))) ∧
    (Executes (.cnot f) movesNone w s →
      exec (.cnot f) s = .next (u.emitCond w.el w.set.slot w.set.tag f.cout (!w.cond f.cin))) ∧
    (Executes (.steer f) (movesOn (.steer f)) w s →
      exec (.steer f) s = .next (u.send w (s.movedWhole w f.selA)
        [if w.cond f.cin then dest0 w.route else dest1 w.route])) ∧
    (Executes (.merge f) (movesOn (.merge f)) w s →
      exec (.merge f) s = .next (u.send w (s.movedWhole w (if w.cond f.cin then f.selA else f.selB)) w.dests)) ∧
    (Executes (.gate f) (movesOn (.gate f)) w s → w.cond f.cin = true →
      exec (.gate f) s = .next ((u.send w (s.movedWhole w f.selA) w.dests).emitCond w.el w.set.slot w.set.tag f.cout true)) ∧
    (Executes (.gate f) (movesOn (.gate f)) w s → w.cond f.cin = false →
      exec (.gate f) s = .next (u.emitCond w.el w.set.slot w.set.tag f.cout false)) ∧
    (∀ p t, portOfSel f.selA = some p → w.tok? p = some t →
      s.movedWhole w f.selA = t ∧ s.moved w f.selA = { t with last := w.lastOut }) ∧
    (Executes (.eNop f) movesNone w s → exec (.eNop f) s = .next (u.fireLog w kSLOTCTX 0#64 2))

/-- R193, R195: whichever element instruction fires. Gated off, the firing consumes its operand set and has no effect but
the completion of an instruction with O, I64 zero without POISON. Not gated off, with a poisoned token in its set that the
instruction does not move on unchanged, it has no effect but a POISON record and the request for the segment's abort. -/
def Obligations.GatingAndPoison : Prop :=
  ∀ (i : Instr) (w : Fire) (s : Machine.State), Issued i w s →
    (w.gateOn = false → w.f.o = false → exec i s = .next (consumed w s)) ∧
    (w.gateOn = false → w.f.o = true →
      exec i s = .next ((consumed w s).send w (w.result fmtI64 0#80) w.complDests)) ∧
    (w.gateOn = true → w.poisoned (movesOn i) = true → exec i s = .next ((consumed w s).consumePoison w))

/-- R201, R203: the tag instructions. TALLOC and TCALL open the lowest free space of their context, with the firing's
tag as its parent, TCALL with DEST1 as its return, and send their token there at iteration 0; none free, the firing waits.
TFREE and TRET close the space of their tag: they wait while other tokens of it exist, and with none send their token and
free the entry, TRET to the return destination with the parent's tag. Named on a space that is not open, all four log
TAGUSE with reason 5; so do TALLOC and TCALL of an element in no region. TNEXT and TITER send their token at another iteration; TITER wants an I64 below 2^24. TAG_WAIT_END
ends a firing that waits: once a space is free it opens it, and once its space holds no other token it closes it. -/
def Obligations.TagInstructions : Prop :=
  ∀ (f : Slot) (w : Fire) (s u : Machine.State), u = consumed w s →
    (∀ c : Bool, Executes (if c then .tcall f else .talloc f) movesNone w s →
      (∀ p lead n, u.ownOpen w = some p → u.leadOfTile (elTile w.el) = some lead → u.freeSpace lead w.ctx = some n →
        exec (if c then .tcall f else .talloc f) s = .next ((u.modSpace lead (spaceKey w.ctx n) (u.pastCut w.el) fun _ =>
          { st := .open, k := (f.imm.extractLsb' 8 8).toNat + 1, base := 0, next := 0, emitted := [],
            parent := some w.set.tag,
            ret := if c then some (u.resolve (some lead) w.ctx (elTile w.el) (dest1 w.route)) else none }).emitAll
          w.el w.set.slot { u.tagToken w with tag := mkTag w.die w.ctx n 0 } 0 (if c then [dest0 w.route] else w.dests))) ∧
      (∀ p lead, u.ownOpen w = some p → u.leadOfTile (elTile w.el) = some lead → u.freeSpace lead w.ctx = none →
        exec (if c then .tcall f else .talloc f) s = .next (u.modCore w.el fun e =>
          { e with waits := e.waits ++ [{ op := if c then .call else .alloc, f := f, route := w.route, set := w.set }] })) ∧
      (u.ownOpen w = none ∨ u.leadOfTile (elTile w.el) = none → exec (if c then .tcall f else .talloc f) s =
        .next (u.fireLog w kTAGUSE (BitVec.ofNat 64 w.iter) 5))) ∧
    (∀ c : Bool, Executes (if c then .tret f else .tfree f) movesNone w s →
      (∀ lead key v, u.ownOpen w = some (lead, key) → v = u.modSpace lead key (u.pastCut w.el) (fun e => { e with st := .closing }) →
        (v.spaceLive lead (tagDie w.set.tag) w.ctx (tagSpace w.set.tag) 0 = true →
          exec (if c then .tret f else .tfree f) s = .next (v.modCore w.el fun e =>
            { e with waits := e.waits ++ [{ op := if c then .ret else .free, f := f, route := w.route, set := w.set }] })) ∧
        (v.spaceLive lead (tagDie w.set.tag) w.ctx (tagSpace w.set.tag) 0 = false →
          ∀ z, z = (if c then
              v.emitFate w.el (elTile w.el) w.set.slot false (v.tagToken w) none false (v.returnFate w (v.space lead key))
            else v.send w (v.tagToken w) w.dests) →
          exec (if c then .tret f else .tfree f) s =
            .next (z.modSpace lead key (z.pastCut w.el) fun _ => SpaceEntry.empty))) ∧
      (u.ownOpen w = none → exec (if c then .tret f else .tfree f) s =
        .next (u.fireLog w kTAGUSE (BitVec.ofNat 64 w.iter) 5))) ∧
    (Executes (.tnext f) movesNone w s →
      exec (.tnext f) s = .next (u.emitAll w.el w.set.slot (u.tagToken w) (w.iter + 1) w.dests)) ∧
    (∀ b, Executes (.titer f) movesNone w s → b = s.operand w .i64 f.selB →
      (b.fmt = fmtI64 → b.low.toNat < 2 ^ 24 →
        exec (.titer f) s = .next (u.emitAll w.el w.set.slot (u.tagToken w) b.low.toNat w.dests (some b.low))) ∧
      (b.fmt = fmtI64 → 2 ^ 24 ≤ b.low.toNat →
        exec (.titer f) s = .next ((validDests w.dests).foldl (fun v _ => v.fireLog w kTAGUSE b.low 2) u)) ∧
      (b.fmt ≠ fmtI64 → exec (.titer f) s = .next (u.formatError w b.fmt 1 0 (u.tagToken w).fmt w.dests))) ∧
    (∀ el idx x i row k key lead (z d : Machine.State) (v : Fire), (z.el el).core.waits[idx]? = some x →
      (x.op, i) ∈ [(.alloc, Instr.talloc x.f), (.call, .tcall x.f), (.free, .tfree x.f), (.ret, .tret x.f)] →
      slotRow i = some (row, x.f) →
      v = { el := el, f := x.f, row := row, set := x.set, route := x.route, last := x.set.data.any fun d => d.2.last } →
      (z.ownSpace v = none ∨ z.leadOfTile (elTile el) = none → exec (.tagWaitEnd el idx) z = .next z) ∧
      (z.ownSpace v = some (k, key) → z.leadOfTile (elTile el) = some lead →
      d = z.modCore el (fun e => { e with waits := e.waits.eraseIdx idx }) →
      (x.op = .alloc ∨ x.op = .call →
        (z.freeSpace lead v.ctx = none → exec (.tagWaitEnd el idx) z = .next z) ∧
        (∀ n, z.freeSpace lead v.ctx = some n →
          exec (.tagWaitEnd el idx) z = .next (d.openSpace v lead n (decide (x.op = .call))))) ∧
      (x.op = .free ∨ x.op = .ret →
        (z.spaceLive k (tagDie v.set.tag) v.ctx (tagSpace v.set.tag) 1 = true → exec (.tagWaitEnd el idx) z = .next z) ∧
        (z.spaceLive k (tagDie v.set.tag) v.ctx (tagSpace v.set.tag) 1 = false →
          exec (.tagWaitEnd el idx) z = .next (d.closeSpace v k key (decide (x.op = .ret))))))) ∧
    (∀ el idx (z : Machine.State), (z.el el).core.waits[idx]? = none → exec (.tagWaitEnd el idx) z = .next z)

/-- R204 to R206, R213: a firing of a memory or synchronisation instruction that executes forms its address and, where
its operands are as the instruction wants them and the address is in the 48-bit space and aligned, does nothing but put
one request, with its operands, tag and destinations, at the end of its serving tile's queue. An operand of the wrong
format is a format error; an address at or above 2^48 is bad with reason 3, a misaligned one with reason 4. -/
def Obligations.ElementRequests : Prop :=
  ∀ (f : Slot) (w : Fire) (s u : Machine.State) (a b c : Operand) (fmt : Nat),
    u = consumed w s → a = s.operand w .i64 f.selA → b = s.operand w .i64 f.selB → c = s.operand w .i64 f.selC →
    fmt = (f.imm.extractLsb' 12 4).toNat →
    ∀ (i : Instr) (op : MemOp) (kb kc : Want) (index : Bool),
      (i, op, kb, kc, index) ∈
        [(.eLd f, .ld, .any, .any, false), (.eSt f, .st, .any, .any, false), (.ldv f, .ldv, .version, .any, false),
         (.stv f, .stv, .any, .version, false), (.ldx f, .ldx, .i64, .any, true), (.stx f, .stx, .i64, .any, true),
         (.slotPhsig f, .phsig, .any, .any, false), (.slotAadd f, .aadd, .i64, .any, false),
         (.slotAand f, .aand, .i64, .any, false), (.slotAor f, .aor, .i64, .any, false),
         (.slotAxor f, .axor, .i64, .any, false), (.slotAmin f, .amin f.uns, .i64, .any, false),
         (.slotAmax f, .amax f.uns, .i64, .any, false), (.slotAxch f, .axch, .i64, .any, false),
         (.slotAcas f, .acas, .i64, .i64, false), (.slotFbin f, .fbin, .w, .any, false),
         (.slotQpsh f, .qpsh, .any, .any, false)] →
      Executes i movesNone w s →
      (a.fmt ≠ fmtI64 → exec i s = .next (u.memFormatError w op fmt a.fmt 0)) ∧
      (a.fmt = fmtI64 → kb.ok b = false → exec i s = .next (u.memFormatError w op fmt b.fmt 1)) ∧
      (a.fmt = fmtI64 → kb.ok b = true → kc.ok c = false → exec i s = .next (u.memFormatError w op fmt c.fmt 2)) ∧
      (a.fmt = fmtI64 → kb.ok b = true → kc.ok c = true →
        ∀ va, va = (if op.isSync then a.low
          else if index then a.low + b.low * BitVec.ofNat 64 (fmtSize fmt) + (f.imm.extractLsb' 0 11).signExtend 64
          else a.low + (f.imm.extractLsb' 0 11).signExtend 64) →
          (2 ^ 48 ≤ va.toNat → exec i s = .next (u.badAddress w op fmt 3 va)) ∧
          (va.toNat < 2 ^ 48 → op.isSync = false → va.toNat % fmtAlign fmt ≠ 0 →
            exec i s = .next (u.badAddress w op fmt 4 va)) ∧
          (va.toNat < 2 ^ 48 → op.isSync = true ∨ va.toNat % fmtAlign fmt = 0 →
            exec i s = .next (u.modTile (servingTile w.el) fun x =>
              { x with
                reqs := x.reqs ++ [{ id := x.nextId, el := w.el, slot := w.set.slot, tag := w.set.tag, last := w.lastOut,
                                     op := op, fmt := fmt, rtz := f.imm.getLsbD 11, scope := f.rs, o := f.o, va := va,
                                     b := w.result b.fmt b.pay, c := w.result c.fmt c.pay, d0 := dest0 w.route,
                                     d1 := dest1 w.route, st := .new, miss := Miss.zero, old := false, outs := [],
                                     fault := false, word := none }]
                nextId := x.nextId + 1 })))

/-- R152 to R154, R156, R166: the token at the head of an input link. It waits while R153 puts another token of its cycle
first, while the ready queue holds eight sets, where it is a marker, or where its traffic is held back at a UCIe edge.
Otherwise it is matched, stored or spilled, and leaves the link; where it finds no place, it stays. A condition of wrong
parity is dropped with a POISON record and the request for an abort. A token whose record waits for room in a full fault
queue stays on its link until the record is in (R125). A token that an OVFL record holds back is processed again once its
context has room, and not before; so is the oldest result that a firing still holds: parked once there is room for it,
sent once its link has room, or let go once the record it stood for is in its queue. -/
def Obligations.TokensArrive : Prop :=
  ∀ (s : Machine.State) (el link : Nat),
    ((s.el el).links.get [] link = [] → exec (.tokenArrive el link) s = .next s) ∧
    (∀ (a : Arrival) (rest : List Arrival) (n : Nat), (s.el el).links.get [] link = a :: rest →
      n = s.heldNo (s.leadOfTile (elTile el)) →
      (s.itsTurn el link = false → exec (.tokenArrive el link) s = .next s) ∧
      (a.tok.marker = true ∨ 8 ≤ (s.el el).core.ready.length ∨ s.cutOff a.fromDie (tileDie (elTile el)) = true →
        exec (.tokenArrive el link) s = .next s) ∧
      (s.itsTurn el link = true → a.tok.marker = false → (s.el el).core.ready.length < 8 →
        s.cutOff a.fromDie (tileDie (elTile el)) = false →
        (a.logged = true → n ≠ 0 → exec (.tokenArrive el link) s = .next s) ∧
        (a.logged = true → n = 0 → exec (.tokenArrive el link) s = .next ((s.leaveLink el link).recordToken el a)) ∧
        (∀ v, a.logged = false → a.cond = true → a.bad = true →
          v = (s.elLog el kPOISON a.slot a.tok.tag 0#64 1).takeOff el link n a →
          exec (.tokenArrive el link) s = .next ((s.leadOfTile (elTile el)).elim v fun k => v.askAbort k true)) ∧
        (a.logged = false → (a.cond && a.bad) = false →
          (∀ t, s.arrive el a = .taken t → exec (.tokenArrive el link) s = .next (t.takeOff el link n a)) ∧
          (∀ t, s.arrive el a = .stays t → exec (.tokenArrive el link) s = .next t))) ∧
      (link ≠ 10 →
        (s.hasRoom el (tagCtx a.tok.tag) = true → exec (.ovflTokenRetry el link) s = .next (s.tokenArrive el link)) ∧
        (s.hasRoom el (tagCtx a.tok.tag) = true → s.itsTurn el link = true →
          exec (.ovflTokenRetry el link) s = exec (.tokenArrive el link) s) ∧
        (s.hasRoom el (tagCtx a.tok.tag) = false → exec (.ovflTokenRetry el link) s = .next s))) ∧
    (∀ (t u : Machine.State) (a : Arrival) (n : Nat), u = t.leaveLink el link →
      (t.heldNo (t.leadOfTile (elTile el)) ≤ n → t.takeOff el link n a = u.recordToken el a)) ∧
    ((s.el el).core.heldOut = [] → exec (.ovflTokenRetry el 10) s = .next s) ∧
    (∀ m r t, (s.el el).core.heldOut = m :: r → t = s.modCore el (fun x => { x with heldOut := r }) →
      (m.why = .place → s.hasRoom el (tagCtx m.tok.tag) = true → exec (.ovflTokenRetry el 10) s = .next (t.park el m)) ∧
      (m.why = .place → s.hasRoom el (tagCtx m.tok.tag) = false → exec (.ovflTokenRetry el 10) s = .next s) ∧
      (m.why = .link → m.tok.marker = true ∨ s.linkRoom (elTile el) m.cond m.dest = true →
        exec (.ovflTokenRetry el 10) s = .next (t.deliver (elTile el) el m.cond m.dest m.tok)) ∧
      (m.why = .link → m.tok.marker = false → s.linkRoom (elTile el) m.cond m.dest = false →
        exec (.ovflTokenRetry el 10) s = .next s) ∧
      (m.why = .record → s.recHeld (s.leadOfTile (elTile el)) = true → exec (.ovflTokenRetry el 10) s = .next s) ∧
      (m.why = .record → s.recHeld (s.leadOfTile (elTile el)) = false → exec (.ovflTokenRetry el 10) s = .next t))

/-- R151 to R153, R198: an arriving token of a loaded slot of its context completes an operand set as soon as its partners
of the same tag are present: they leave the stores, and the set is put at the end of the ready queue. Without them it is
stored under its kind. The partner of a MERGE is the token of the port that its condition selects, for a data token the
oldest stored condition that selects its port; a slot of arity 1 needs none. -/
def Obligations.TokensMatch : Prop :=
  ∀ (s : Machine.State) (el : Nat) (a : Arrival) (img : SlotImg) (i : Instr),
    a.cond = true ∨ a.tok.fmt.toNat < 4 ∧ (a.tok.fmt = fmtI64 → a.tok.pay.toNat < 2 ^ 64) →
    (s.el el).core.slots.find a.slot.toNat = some img → img.ctx = tagCtx a.tok.tag → decodeSlot img.instr = some i →
    (∀ f, i ≠ .eNop f) →
    (∀ o, s.partners el i a = some ([], o) → s.arrive el a = .taken (s.enqueueReady el o)) ∧
    (∀ p ps o, s.partners el i a = some (p :: ps, o) →
      s.arrive el a = .taken (((s.removeAt el (p :: ps)).clearSpilled el (tagCtx a.tok.tag)).enqueueReady el o)) ∧
    (s.partners el i a = none → s.arrive el a = s.keepToken el (if a.cond then 3#2 else 0#2) a) ∧
    (∀ r f, slotRow i = some (r, f) →
      (isMerge i = true → s.partners el i a = s.mergeSet el f a) ∧
      (isMerge i = false → arity i = 1 → s.partners el i a = some ([], loneSet r f a)))

/-- R153, R154, R486: the operand set at the head of an element's ready queue is issued while the element executes nothing,
no result of it waits, the unit it needs is free, and the set would not be a ninth waiting firing; the element executes it
next. Its unit is taken for its issue interval, the place in the queue goes first to an entry that waited for its slot's
switch, a traced cluster counts the firing, and the difference that a fault puts into a shadowed element's result follows. -/
def Obligations.FiringsIssue : Prop :=
  ∀ (s : Machine.State) (el : Nat),
    ((s.el el).core.ready = [] → exec (.firingIssue el) s = .next s) ∧
    (∀ (o : OpSet) (rest : List OpSet), (s.el el).core.ready = o :: rest →
      ((s.el el).firing ≠ none ∨ (s.el el).core.heldOut ≠ [] → exec (.firingIssue el) s = .next s) ∧
      (∀ w i, s.headFire el o = some (w, i) → s.tick < (s.el el).core.busy.get 0 (unitOf i) ∨ s.ninthWait w i = true →
        exec (.firingIssue el) s = .next s) ∧
      ((∀ w i, s.headFire el o = some (w, i) → (s.el el).core.busy.get 0 (unitOf i) ≤ s.tick ∧ s.ninthWait w i = false) →
        (s.el el).firing = none → (s.el el).core.heldOut = [] →
        ∀ v, v = ((s.takeUnit el o).modEl el fun e =>
          { e with core := { e.core with ready := rest }, firing := some o }).rearrive el →
          exec (.firingIssue el) s = .next { v.traceFire el o with
            agenda := .element el :: (v.forced el).elim v.agenda fun p => .post p :: v.agenda }))

/-- R157, R158, R203: an iteration that has been emitted and is no longer live leaves its window, whose base advances by
one; while a token of it, or an element of it that a port has still to push (log entry 69), is live the window stands. A
parked token goes on its way once its window has reached its iteration and its link has room, and stays parked otherwise. -/
def Obligations.WindowsAdvance : Prop :=
  (∀ (s : Machine.State) (k c p : Nat) (e : SpaceEntry), s.space k (spaceKey c p) = e →
    (e.st ≠ .free → e.base ∈ e.emitted → mkTag (lanDie k) c p e.base ∉ s.regionTags k →
      mkTag (lanDie k) c p e.base ∉ s.issuedTags k →
      Ends (.tagBaseAdvance k c p) s fun t =>
        t.space k (spaceKey c p) = { e with base := e.base + 1, emitted := e.emitted.filter fun i => decide (i ≠ e.base) } ∧
          { t.lan k with spaces := (s.lan k).spaces } = s.lan k ∧ OnlyLan k s t) ∧
    (e.st = .free ∨ e.base ∉ e.emitted ∨ mkTag (lanDie k) c p e.base ∈ s.regionTags k ∨
        mkTag (lanDie k) c p e.base ∈ s.issuedTags k →
      exec (.tagBaseAdvance k c p) s = .next s)) ∧
  (∀ (s : Machine.State) (el idx : Nat) (p : Place) (m : MatchEntry),
    idx < 64 ∧ (s.el el).core.store.find idx = some m ∧ p = .store idx ∨
      64 ≤ idx ∧ (s.lan (tileLan (elTile el))).ovfl[idx - 64]? = some m ∧ p = .ovfl (idx - 64) →
    (m.kind ≠ 1#2 ∨ m.owner ≠ el → exec (.parkedTokenRelease el idx) s = .next s) ∧
    (m.kind = 1#2 → m.owner = el → s.linkRoom (elTile el) m.cond m.dest = false →
      exec (.parkedTokenRelease el idx) s = .next s) ∧
    (∀ k e, s.spaceLead (s.leadOfTile (elTile el)) (tileDie (elTile el)) m.tok.tag = some k →
      e = s.space k (spaceKey (tagCtx m.tok.tag) (tagSpace m.tok.tag)) → e.base + e.k ≤ tagIter m.tok.tag →
      exec (.parkedTokenRelease el idx) s = .next s) ∧
    (m.kind = 1#2 → m.owner = el → s.linkRoom (elTile el) m.cond m.dest = true →
      (∀ k e, s.spaceLead (s.leadOfTile (elTile el)) (tileDie (elTile el)) m.tok.tag = some k →
        e = s.space k (spaceKey (tagCtx m.tok.tag) (tagSpace m.tok.tag)) → tagIter m.tok.tag < e.base + e.k) →
      exec (.parkedTokenRelease el idx) s =
        .next ((s.removeAt el [p]).deliver (elTile el) el m.cond m.dest m.tok)))

/-- R160, R161, R93: an element switches after a context once that context is armed there and the element's part of its
configuration is done, and not before. Every pending slot, hold register and control route at the element becomes active,
and the context's other places, its matching entries in both stores and its state are free; its flags stay with its
configuration. What waited for a switched slot then arrives (R159). -/
def Obligations.SlotSwitches : Prop :=
  ∀ (s : Machine.State) (el c : Nat) (e : Element), s.el el = e →
    ((e.core.ctx c).armed = false ∨ s.partDone el c = false → exec (.slotSwitch el c) s = .next s) ∧
    ((e.core.ctx c).armed = true → s.partDone el c = true →
      ∃ u : Machine.State, exec (.slotSwitch el c) s = .next (u.rearrive el) ∧
        u.el el = { e with
          core := { e.core with
            slots := switchTab SlotImg.ctx c e.core.slots e.core.pslots, pslots := [],
            holds := switchTab HoldImg.ctx c e.core.holds e.core.pholds, pholds := [],
            ctrls := switchTab CtrlImg.ctx c e.core.ctrls e.core.pctrls, pctrls := [],
            store := e.core.store.filter fun m => decide (tagCtx m.2.tok.tag ≠ c),
            ctxs := e.core.ctxs.del c }
          inch := e.inch.filter fun p => decide (p.1 ≠ c) } ∧
        (∀ j, j ≠ el → u.el j = s.el j) ∧ { u with elems := s.elems, lans := s.lans } = s ∧
        (∀ k, { u.lan k with ovfl := (s.lan k).ovfl, cfgs := (s.lan k).cfgs } = s.lan k) ∧
        (∀ k, (u.lan k).ovfl = if k = tileLan (elTile el) then
            (s.lan k).ovfl.filter fun m => !decide (m.owner = el ∧ tagCtx m.tok.tag = c)
          else (s.lan k).ovfl) ∧
        (∀ k, (u.lan k).cfgs = if s.leadOfTile (elTile el) = some k then
            (s.lan k).cfgs.map fun x =>
              if x.ctx = c ∧ x.done = false then { x with flags := x.flags ||| (e.core.ctx c).flags } else x
          else (s.lan k).cfgs))

/-- R163 to R165: an element whose skid buffers, ready queue and units are empty has its clock gated. A credit on its
way back to a control link's sender is added to C, and the sender sends what it holds while it has credits; where it holds
nothing, nothing else changes. The audit changes nothing on a link whose check bits and count are right, or that is
resynchronising. A wrong link holds its sender, delivers its buffer, and once that is empty returns to four credits, with a
CTRLSYNC record that holds the counts found. The moments of these events are the model's (log entry 35). -/
def Obligations.ControlLinks : Prop :=
  ∀ (s : Machine.State) (el link : Nat) (c : CtlLink), (s.el el).ctl.get CtlLink.empty link = c →
    ((s.el el).idle s.tick = true → exec (.clockGate el) s = .next (s.setEl el { s.el el with gated := true })) ∧
    ((s.el el).idle s.tick = false → exec (.clockGate el) s = .next s) ∧
    (c.flight = 0 → exec (.conditionCredit el link) s = .next s) ∧
    (c.flight ≠ 0 → exec (.conditionCredit el link) s = .next ((s.modEl el fun e => { e with
      ctl := e.ctl.put link { c.setC (c.c + 1#3) with got := c.got + 1#8, flight := c.flight - 1 } }).drainLink el link)) ∧
    (c.flight ≠ 0 → c.held = [] →
      Ends (.conditionCredit el link) s fun t =>
        (t.el el).ctl.get CtlLink.empty link = { c.setC (c.c + 1#3) with got := c.got + 1#8, flight := c.flight - 1 } ∧
          (∀ j, (t.el el).links.get [] j = (s.el el).links.get [] j) ∧
          { t.el el with ctl := (s.el el).ctl, links := (s.el el).links } = s.el el ∧ { t with elems := s.elems } = s) ∧
    (c.sync ≠ none ∨
        c.bad = false ∧ c.c.toNat + ((s.el el).links.get [] (5 + link)).length + (c.sent - c.got).toNat = 4 →
      exec (.ctrlAudit el link) s = .next s) ∧
    (c.sync = none →
      c.bad = true ∨ c.c.toNat + ((s.el el).links.get [] (5 + link)).length + (c.sent - c.got).toNat ≠ 4 →
      ∀ n info, n = ((s.el el).links.get [] (5 + link)).length →
      info = BitVec.ofNat 32 (c.c.toNat + n % 8 * 8 + (c.sent - c.got).toNat * 64 + (if c.bad then 2 ^ 14 else 0)
        + link * 2 ^ 15) →
      exec (.ctrlAudit el link) s = .next (((s.modEl el fun e =>
        { e with ctl := e.ctl.put link { c with sync := some info } }).deliverAll el link n).settle el link) ∧
      (n = 0 →
        exec (.ctrlAudit el link) s = .next (((s.modEl el fun e =>
          { e with ctl := (e.ctl.put link { c with sync := some info }).put link { CtlLink.empty with held := c.held } }).raise
          (s.leadOfTile (elTile el)) (tileDie (elTile el))
          { Record.blank with
            kind := kCTRLSYNC, unit := 6#3, el := BitVec.ofNat 4 (elNum el), y := BitVec.ofNat 7 (tileY (elTile el)),
            x := BitVec.ofNat 6 (tileX (elTile el)), info := info }).drainLink el link)))

/-- R168: a MARK at the head of an input link. It waits behind a full ready queue and behind a held edge. Of a snapshot that
its region is not taking, or outside a region, it is dropped. Of the region's snapshot, it first makes the element take its
own, where it has not yet; then its channel is noted as marked, once, and every context with tokens on that channel counts
one marker less to come. Which channels a region has is the model's reading (log entry 24). -/
def Obligations.MarkersArrive : Prop :=
  ∀ (s u : Machine.State) (el link : Nat),
    ((s.el el).links.get [] link = [] → exec (.markerArrive el link) s = .next s) ∧
    (∀ (a : Arrival) (rest : List Arrival), (s.el el).links.get [] link = a :: rest →
      (a.tok.marker = false ∨ 8 ≤ (s.el el).core.ready.length ∨ s.cutOff a.fromDie (tileDie (elTile el)) = true →
        exec (.markerArrive el link) s = .next s) ∧
      (u = s.leaveLink el link → a.tok.marker = true → (s.el el).core.ready.length < 8 →
        s.cutOff a.fromDie (tileDie (elTile el)) = false →
        (u.leadOfTile (elTile el) = none → exec (.markerArrive el link) s = .next u) ∧
        (∀ k, u.leadOfTile (elTile el) = some k →
          ((u.lan k).prePend = false ∨ a.tok.pay.setWidth 32 ≠ (u.lan k).snapNo →
            exec (.markerArrive el link) s = .next u) ∧
          ((u.lan k).prePend = true → a.tok.pay.setWidth 32 = (u.lan k).snapNo →
            ∀ v, v = (if (u.el el).snap.isSome then u else u.snapshot el (u.lan k).snapNo) →
              ((v.el el).marked.contains a.chan = true → exec (.markerArrive el link) s = .next v) ∧
              ((v.el el).marked.contains a.chan = false →
                Ends (.markerArrive el link) s fun t =>
                  (t.el el).marked = (v.el el).marked ++ [a.chan] ∧
                  (t.el el).core.ctxs = (v.el el).core.ctxs.map (fun c =>
                    if (v.el el).inch.contains (c.1, a.chan) then (c.1, { c.2 with mrem := c.2.mrem - 1 }) else c) ∧
                  { t with elems := v.elems } = v ∧
                  { t.el el with marked := (v.el el).marked,
                                 core := { (t.el el).core with ctxs := (v.el el).core.ctxs } } = v.el el)))))

/-- R154, R205 to R211, R213, R229: how a memory tile serves a request that stands among the first 32 of its port, is new, or
waits for a version or a staging entry; one that stands behind them, or waits for something else, stays. A range whose
translation fails waits, and its XLATE record counts the failure; one that may not be walked for at a held edge stays.
Translated, and reachable, a load of another home reads it and replies; one of the tile's own data asks its banks, and
replies once they have granted every word. A store whose format the rule refuses logs FMT and completes poisoned; outside a
staged segment it writes its bytes at their home and its completion is due; in one it stages them, waits where an entry is
wanting, and is held to commit where its home is a register. A synchronisation request goes to the engine. Replies leave
together once their links have room, and where a record was raised, once it is in its queue. A completion that is due is
sent, and the request is over; at scope .TILE it is sent while the store stands in line for its bank. -/
def Obligations.RequestsServed : Prop :=
  (∀ (s : Machine.State) (t idx : Nat),
    (32 ≤ idx ∨ (s.tile t).reqs[idx]? = none → exec (.elementMemReply t idx) s = .next s) ∧
    ((s.tile t).reqs[idx]? = none → exec (.storeCompletion t idx) s = .next s)) ∧
  (∀ (s u : Machine.State) (t idx : Nat) (r : EReq), (s.tile t).reqs[idx]? = some r →
    (s.leadOfTile (elTile r.el) = none → exec (.elementMemReply t idx) s = .next s) ∧
    (r.st = .done → exec (.storeCompletion t idx) s = .next (s.sendDone t r false)) ∧
    (r.st = .bank → r.op.hasData = false →
      ((s.tile t).granted 0 r.id = true → exec (.storeCompletion t idx) s = .next (s.sendDone t r false)) ∧
      ((s.tile t).granted 0 r.id = false → r.o = true → r.scope = 1#3 →
        (s.outsFit t { r with outs := r.doneOuts false } = true → exec (.storeCompletion t idx) s =
          .next ((s.setReq t { r with o := false }).sendOuts t { r with outs := r.doneOuts false })) ∧
        (s.outsFit t { r with outs := r.doneOuts false } = false → exec (.storeCompletion t idx) s = .next s)) ∧
      ((s.tile t).granted 0 r.id = false → r.o = false ∨ r.scope ≠ 1#3 → exec (.storeCompletion t idx) s = .next s)) ∧
    (r.st ≠ .done → r.st ≠ .bank ∨ r.op.hasData = true → exec (.storeCompletion t idx) s = .next s) ∧
    (∀ lead, idx < 32 → s.leadOfTile (elTile r.el) = some lead →
      (r.st = .xlate ∨ r.st = .held ∨ r.st = .done → exec (.elementMemReply t idx) s = .next s) ∧
      (r.st = .reply →
        (r.fault = true ∧ s.recHeld (some lead) = true ∨ s.outsFit t r = false →
          exec (.elementMemReply t idx) s = .next s) ∧
        (r.fault = false ∨ s.recHeld (some lead) = false → s.outsFit t r = true →
          exec (.elementMemReply t idx) s = .next ((s.dropEReq t r.id).sendOuts t r))) ∧
      (r.st = .new ∨ r.st = .version ∨ r.st = .entry → r.op.isSync = false →
        (∀ va, s.reqPlaces lead t r = (.error (va, xlCut), u) → exec (.elementMemReply t idx) s = .next u) ∧
        (∀ va reason m, s.reqPlaces lead t r = (.error (va, reason), u) → reason ≠ xlCut → m = r.miss.next u.tick (va % 2 ^ 64) →
          exec (.elementMemReply t idx) s = .next ((u.setReq t { r with st := .xlate, miss := m }).reqLog t r
            { reqRecord t r kXLATE (BitVec.ofNat 64 va) (reason + r.op.access * 16) with
              rep := m.rep, wait := true, tick := m.first })) ∧
        (∀ ps, s.reqPlaces lead t r = (.ok ps, u) →
          (u.piecesCut (tileDie t) ps = true → exec (.elementMemReply t idx) s = .next u) ∧
          (u.piecesCut (tileDie t) ps = false →
            (r.op = .ld ∨ r.op = .ldx → homeOff t ps = none → ∀ bs bad v, u.readPieces lead 0 ps = (bs, bad, v) →
              ∀ o, o = loadOperand r.fmt false (v.overlayPieces lead ps bs) →
                exec (.elementMemReply t idx) s = .next (v.sendData t r o.fmt o.pay (bad && !v.stagedPieces lead ps))) ∧
            (r.op = .ld ∨ r.op = .ldx → ∀ off, homeOff t ps = some off →
              exec (.elementMemReply t idx) s =
                .next ((u.askBank t 0 r.id 0 off r.size none (some lead)).setReq t { r with st := .bank })) ∧
            (r.op = .st ∨ r.op = .stx → acceptsFmt r.fmt false r.data.fmt = false →
              exec (.elementMemReply t idx) s = .next ((u.reqLog t r
                (reqRecord t r kFMT r.va (r.data.fmt.toNat + r.fmt * 16))).sendDone t r true)) ∧
            (r.op = .st ∨ r.op = .stx → acceptsFmt r.fmt false r.data.fmt = true →
              ∀ v, v = storeBytes r.fmt false (if r.rtz then rtz else rne) ⟨r.data.fmt, r.data.pay⟩ →
              (u.stagedSet lead = none →
                (homeOff t ps = none → exec (.elementMemReply t idx) s =
                  .next (((u.raiseFlags r.el (tagCtx r.tag) v.flags).writePieces lead 0 ps v.val).storeDone t r)) ∧
                (∀ off, homeOff t ps = some off → exec (.elementMemReply t idx) s =
                  .next (((u.raiseFlags r.el (tagCtx r.tag) v.flags).askBank t 0 r.id 0 off r.size (some v.val)
                    (some lead)).setReq t { r with st := .bank }))) ∧
              (u.stagedSet lead ≠ none →
                (u.stagePieces lead ps v.val = none → exec (.elementMemReply t idx) s =
                  .next (u.setReq t { r with st := .entry, word := (ps.findSome? fun p =>
                    u.stageBlock lead p.1 (List.replicate p.2.1 0#8)).map fun u => (u, 0) })) ∧
                (∀ z, u.stagePieces lead ps v.val = some z →
                  (anyHeld ps = true → exec (.elementMemReply t idx) s =
                    .next ((z.raiseFlags r.el (tagCtx r.tag) v.flags).setReq t { r with st := .held })) ∧
                  (anyHeld ps = false → exec (.elementMemReply t idx) s =
                    .next ((z.raiseFlags r.el (tagCtx r.tag) v.flags).storeDone t r))))) ∧
            (r.op = .ldv ∨ r.op = .stv → exec (.elementMemReply t idx) s = .next (u.serveVersion t lead r ps))))) ∧
      (r.st = .new ∨ r.st = .version ∨ r.st = .entry → r.op.isSync = true →
        (∀ a, r.va.toNat < 0x10000 → s.sliceOn lead (tileDie t) r.va.toNat = some a →
          exec (.elementMemReply t idx) s = .next (s.serveSync t lead r (tileDie t) a)) ∧
        (r.va.toNat < 0x10000 → s.sliceOn lead (tileDie t) r.va.toNat = none →
          exec (.elementMemReply t idx) s = .next (s.waitXlate t r r.va 0)) ∧
        (0x10000 ≤ r.va.toNat →
          (∀ va reason, s.reqPlaces lead t r = (.error (va, reason), u) →
            exec (.elementMemReply t idx) s = .next (u.waitXlate t r (BitVec.ofNat 64 va) reason)) ∧
          (∀ pa n d a tso rest, s.reqPlaces lead t r = (.ok ((pa, n, .sync d a, tso) :: rest), u) →
            (u.diesCut (tileDie t) d = true → exec (.elementMemReply t idx) s = .next u) ∧
            (u.diesCut (tileDie t) d = false → exec (.elementMemReply t idx) s = .next (u.serveSync t lead r d a))) ∧
          (∀ ps, s.reqPlaces lead t r = (.ok ps, u) → (∀ pa n d a tso rest, ps ≠ (pa, n, .sync d a, tso) :: rest) →
            exec (.elementMemReply t idx) s = .next ((u.reqLog t r (reqRecord t r kSYNC r.va 0)).failReq t r)))) ∧
      (r.st = .bank →
        ((s.tile t).granted 0 r.id = false → exec (.elementMemReply t idx) s = .next s) ∧
        ((s.tile t).granted 0 r.id = true → r.op.hasData = false →
          exec (.elementMemReply t idx) s = .next (s.storeDone t r)) ∧
        ((s.tile t).granted 0 r.id = true → r.op.hasData = true →
          exec (.elementMemReply t idx) s = .next (s.bankReply t lead r)))))

/-- R241 to R244, R247, R248, R253, R287, R299: the events of a memory tile. A cycle of its banks looks at the accesses in
line in the order of R241 and grants each whose banks no earlier one has taken; then each read that has lost its bank is
rebuilt from the others of its group where that is possible, or waits; the writes under way come one cycle nearer, and what
a command to the tile waited for returns. A correction is written where its bank is free. In a cycle that leaves the banks
alone a row is scrubbed: a BSCRB's, else the tile's next one unless MODE.SCRUB leaves that to the host. The first word that
waits to be written home is written. When a correction is counted and written is the model's reading (log entry 48). -/
def Obligations.TileEvents : Prop :=
  (∀ (s : Machine.State) (t : Nat) (g : Grant),
    g = (s.tile t).order.foldl (fun g q => g.rebuild t q) ((s.tile t).order.foldl (fun g q => g.direct t q)
      { used := (s.tile t).writing, rec_ := [], reads := [], s := s }) →
    exec (.bankGrant t) s = .next ((g.s.modTile t fun y => Tile.retireStep { y with
      rot := ((s.tile t).rot + 1) % 6
      bankq := y.bankq.map fun q => { q with waited := true }
      pipe := y.pipe.filterMap fun p =>
        if !(s.tile t).pipe.contains p then some p else if p.left ≤ 1 then none else some { p with left := p.left - 1 }
      }).tileReplies t)) ∧
  (∀ (g : Grant) (t : Nat) (q : BankReq),
    (g.s.bankNeeds t q = none ∨ g.full q = true ∨ (∃ need, g.s.bankNeeds t q = some need ∧ ∃ b ∈ need, b ∈ g.used) →
      g.direct t q = g) ∧
    (∀ need, g.s.bankNeeds t q = some need → g.full q = false → (∀ b ∈ need, b ∉ g.used) →
      g.direct t q = { g with used := g.used ++ need, reads := if q.store then g.reads else q.src :: g.reads,
                              s := (g.s.dropReq t q).performBank t q }) ∧
    ((g.s.tile t).bankq.contains q = true → g.full q = false → g.s.bankNeeds t q ≠ none →
      (g.canRebuild t q = false → g.rebuild t q = { g with s := g.s.count t 0x18 1 }) ∧
      (g.canRebuild t q = true → g.rebuild t q =
        { used := g.used ++ q.others, rec_ := q.g :: g.rec_, reads := if q.store then g.reads else q.src :: g.reads,
          s := ((g.s.dropReq t q).performBank t q true).count t 0x10 1 }))) ∧
  ∀ (s : Machine.State) (t : Nat),
    ((s.tile t).bankq = [] →
      exec (.bankGrant t) s = .next ((s.modTile t fun x => Tile.retireStep { x with
        rot := (x.rot + 1) % 6, bankq := [],
        pipe := x.pipe.filterMap fun p => if p.left ≤ 1 then none else some { p with left := p.left - 1 }
        }).tileReplies t)) ∧
    (∀ pa, ((s.tile t).corr.find? fun pa => s.bankFree t (bankOfPa t pa)) = some pa →
      exec (.correctionWriteBack t) s = .next (s.writeFix t pa)) ∧
    ((∀ pa ∈ (s.tile t).corr, s.bankFree t (bankOfPa t pa) = false) →
      exec (.correctionWriteBack t) s = .next s) ∧
    ((s.tile t).bankq ≠ [] ∨ (s.tile t).pipe ≠ [] ∨ (s.tile t).wb ≠ [] → exec (.scrubRow t) s = .next s) ∧
    ((s.tile t).bankq = [] → (s.tile t).pipe = [] → (s.tile t).wb = [] →
      (∀ i row left n u owed k w, (s.tile t).scrubJob = some (i, row, left, n) → s.scrub t row = (u, owed, k) →
        w = (if left ≤ 1 then TileWork.reply (BitVec.ofNat 64 (n + k)) else .scrub (row + 1) (left - 1) (n + k)) →
        exec (.scrubRow t) s = .next (((u.raiseOwed none (tileDie t) (tileRecord t) owed).modTile t fun x =>
          { x with jobs := x.jobs.modify i fun j => { j with work := w } }).tileReplies t)) ∧
      ((s.tile t).scrubJob = none → modeScrub (s.modeOf (tileDie t)) = true ∨ isMemTile (tileX t) (tileY t) = false →
        exec (.scrubRow t) s = .next s) ∧
      ((s.tile t).scrubJob = none → modeScrub (s.modeOf (tileDie t)) = false → isMemTile (tileX t) (tileY t) = true →
        ∀ u owed n, s.scrub t (s.tile t).scrub = (u, owed, n) →
          exec (.scrubRow t) s = .next ((u.raiseOwed none (tileDie t) (tileRecord t) owed).modTile t fun x =>
            { x with scrub := ((s.tile t).scrub + 1) % 8192 }))) ∧
    ((s.tile t).wb = [] → exec (.writeBack t) s = .next s) ∧
    (∀ b rest, (s.tile t).wb = b :: rest →
      exec (.writeBack t) s = .next ((s.modTile t fun x => { x with wb := rest }).doWBack t b))

/-- R125, R230, R231, R257: a record that waited for a full ring is written once there is room; a REPLAY that names an
idle cluster, or none, is refused, and any other is kept until its retry; that retry, oldest first, makes every request
of the region that waits on a translation try again; a walk ahead of an access leaves what translates as it was, and makes
what does not wait with its record: a request of an element, an element of a stream, a copy, and the Lantern's next line.
The order in which held records are written is the model's reading (log entry 32). -/
def Obligations.FaultsReplay : Prop :=
  ∀ (s : Machine.State) (k : Nat),
    ((s.lan k).heldRecs = [] → exec (.faultRecordAppend k) s = .next s) ∧
    (∀ r rest, (s.lan k).heldRecs = r :: rest →
      ((s.lan k).ringFull = true → s.foldsInto k r = false → exec (.faultRecordAppend k) s = .next s) ∧
      ((s.lan k).ringFull = false ∨ s.foldsInto k r = true →
        exec (.faultRecordAppend k) s = .next ((s.modLan k fun l => { l with heldRecs := rest }).writeRecord k r))) ∧
    (∀ q v, 2 ^ 11 ≤ v.toNat ∨ 98 ≤ v.toNat / 16 % 128 ∨ 8 ≤ v.toNat % 16 ∨
        (s.lan (lanOf (v.toNat % 16) (v.toNat / 16 % 128))).st = .idle →
      exec (.replay q v) s =
        .next (s.modHub fun h => { h with refusedWrites := h.refusedWrites ++ [(0x200, v)] })) ∧
    (∀ q v, v.toNat < 2 ^ 11 → v.toNat / 16 % 128 < 98 → v.toNat % 16 < 8 →
        (s.lan (lanOf (v.toNat % 16) (v.toNat / 16 % 128))).st ≠ .idle →
      exec (.replay q v) s = .next (s.modHub fun h => { h with replays := h.replays ++ [(q, v)] })) ∧
    ((∀ r ∈ s.hub.replays, replayLead r.2 ≠ k) → exec (.replayRetry k) s = .next s) ∧
    (∀ i u, s.hub.replays.findIdx? (fun r => decide (replayLead r.2 = k)) = some i →
      u = (s.modHub fun h => { h with replays := h.replays.eraseIdx i }).askRetries k →
      exec (.replayRetry k) s = .next ((u.waiters k).foldl (fun u w => u.retry w.2) u)) ∧
    (∀ t idx, (s.tile t).reqs[idx]? = none → exec (.translationWalk (.request t idx)) s = .next s) ∧
    (∀ t idx r u, (s.tile t).reqs[idx]? = some r →
      (r.st ≠ .new ∨ s.leadOfTile (elTile r.el) = none ∨ r.op.isSync = true ∧ r.va.toNat < 0x10000 →
        exec (.translationWalk (.request t idx)) s = .next s) ∧
      (r.st = .new → s.leadOfTile (elTile r.el) = some k → r.op.isSync = false ∨ 0x10000 ≤ r.va.toNat →
        (∀ ps, s.reqPlaces k t r = (.ok ps, u) → exec (.translationWalk (.request t idx)) s = .next u) ∧
        (∀ va reason, s.reqPlaces k t r = (.error (va, reason), u) →
          exec (.translationWalk (.request t idx)) s = .next (u.waitXlate t r (BitVec.ofNat 64 va) reason)))) ∧
    (∀ p idx g r x u, (s.port p).prog = some g → (s.port p).outq[idx]? = some r → (s.port p).hs.find r.h = some x →
      (r.st ≠ .new ∨ r.idx ≠ none → exec (.translationWalk (.stream p idx)) s = .next s) ∧
      (r.st = .new → r.idx = none →
        (∀ ps, s.elemPlaces p (s.port p) g x r = (.ok ps, u) → exec (.translationWalk (.stream p idx)) s = .next u) ∧
        (∀ va reason, s.elemPlaces p (s.port p) g x r = (.error (va, reason), u) →
          exec (.translationWalk (.stream p idx)) s = .next (u.waitElem p g x r (BitVec.ofNat 64 va) reason)))) ∧
    (∀ p idx, (s.port p).prog = none ∨ (s.port p).outq[idx]? = none →
      exec (.translationWalk (.stream p idx)) s = .next s) ∧
    (∀ die ch, exec (.translationWalk (.copy die ch)) s = .next (s.walkCopy die ch)) ∧
    (∀ die ch, s.chans.find (chanKey die ch) = none → exec (.translationWalk (.copy die ch)) s = .next s) ∧
    (∀ die ch c p f, s.chans.find (chanKey die ch) = some c → c.wait = false → c.total < 2 ^ 40 → c.kind ≠ .remote →
      p = s.copyPlan die c → f = earlier p.src p.dst →
      (f = none → exec (.translationWalk (.copy die ch)) s = .next p.s) ∧
      (∀ x, f = some x → x.code ≠ 0 → exec (.translationWalk (.copy die ch)) s = .next p.s) ∧
      (∀ x, f = some x → x.code = 0 → exec (.translationWalk (.copy die ch)) s =
        .next (p.s.copyFails die ch c x (copyAccess (decide (p.src.map (·.off) ≠ f.map (·.off))))))) ∧
    (∀ u, u = { s with focus := k } →
      (u.cur.st ≠ .run ∨ u.cur.xheld.isSome = true ∨ (∀ reason, (u.fetch k).1 ≠ .held reason) →
        exec (.translationWalk (.lantern k)) s = .next u) ∧
      (∀ reason, u.cur.st = .run → u.cur.xheld = none → (u.fetch k).1 = .held reason →
        exec (.translationWalk (.lantern k)) s = .next ((u.fetch k).2.holdAccess reason accFetch u.cur.pc)))

/-- R343, R345, R355, R356, R358 to R362, R364, R365, R370: the commands of a Lantern's matrix array; `u` is the state once
its earlier loads have been performed. With the array off, MXOFF answers 1, MXPRM reads 0, and MXWL, MXOUT, MXRUN, MXSNAP
and MXREST end at once with the error token of reason 8; MXON answers its status, and with 0 turns the array on, its
priority 0. With the array idle, MXOFF accrues its flags and turns it off; MXWL, MXOUT, MXSNAP and MXREST become its one
command, with the token register scoreboarded; MXZERO clears the accumulators; MXRUN of a good descriptor of no k-step
answers 0, of a bad one the error token of reason 10, and of any other starts to wait for its grant, with the weights of an
earlier MXWL swapped in. MXWL is accepted in a run's last k-step too, and MXSNAP while a run or a command is active: it
stops the run at its boundary, or waits for it. A busy array makes every other command but MXPRM wait. Formats and register
numbers outside the rules are ILLOP, a misaligned descriptor is ALIGN. MXPRM, MXSLOT and MXPRIO read and set what their
rules say. -/
def Obligations.MatrixCommands : Prop :=
  ∀ (s u : Machine.State) (rd ra rb : Reg) (fmt : BitVec 4) (k level : BitVec 32) (c : Bool),
    u = s.performLoads s.focus →
    (s.mxonStatus s.focus (s.x ra) ≠ 0 →
      Ends (.mxon rd ra) s (Wrote rd (BitVec.ofNat 64 (s.mxonStatus s.focus (s.x ra))) 1 u)) ∧
    (s.mxonStatus s.focus (s.x ra) = 0 →
      exec (.mxon rd ra) s = .next (((u.modLan u.focus fun l => { l with mx := some (Array2.fresh (s.x ra)), mxPrio := 0 }).reservePorts
        u.focus true).retireReg rd 0#64 1)) ∧
    (¬ mxFmtOk fmt.toNat → Ends (.mxwl rd ra rb fmt) s (TrappedHere cILLOP (parcelOf (.mxwl rd ra rb fmt)) s)) ∧
    (¬ (fmt.toNat < 4 ∨ fmt.toNat = 12) →
      Ends (.mxout rd ra rb fmt) s (TrappedHere cILLOP (parcelOf (.mxout rd ra rb fmt)) s)) ∧
    ((s.x ra).toNat % 64 ≠ 0 → Ends (.mxrun rd ra rb) s (TrappedHere cALIGN (s.x ra) s)) ∧
    (6 ≤ k.toNat ∨ c = true ∧ k.toNat ≠ 1 → Ends (.mxprm c rd k) s (TrappedHere cILLOP (parcelOf (.mxprm c rd k)) s)) ∧
    (8 ≤ level.toNat → Ends (.mxprio rd level) s (TrappedHere cILLOP (parcelOf (.mxprio rd level)) s)) ∧
    (s.cur.mx = none →
      Ends (.mxoff rd) s (Wrote rd 1#64 1 u) ∧
      (mxFmtOk fmt.toNat → Ends (.mxwl rd ra rb fmt) s (Wrote rd (mxToken true false 8 0) 1 s)) ∧
      (fmt.toNat < 4 ∨ fmt.toNat = 12 → Ends (.mxout rd ra rb fmt) s (Wrote rd (mxToken true false 8 0) 1 s)) ∧
      ((s.x ra).toNat % 64 = 0 → Ends (.mxrun rd ra rb) s (Wrote rd (mxToken true false 8 0) 1 s)) ∧
      (k.toNat < 6 → (c = true → k.toNat = 1) → Ends (.mxprm c rd k) s (Wrote rd 0#64 1 u)) ∧
      Ends .mxzero s (Became (u.cur.advance 1) u) ∧
      Ends (.mxsnap rd ra) s (Wrote rd (mxToken true false 8 0) 1 s) ∧
      Ends (.mxrest rd ra) s (Wrote rd (mxToken true false 8 0) 1 s)) ∧
    (∀ a, s.cur.mx = some a →
      (k.toNat < 6 → (c = true → k.toNat = 1) →
        Ends (.mxprm c rd k) s (Became (({ u.cur with mx := some (if c then { a with mxovf := 0#64 } else a) }.setReg rd
          (a.status k.toNat)).advance 1) u)) ∧
      (a.idle = true →
        exec (.mxoff rd) s = .next (((u.mxAccrue u.focus).mxDiscard u.focus).retireReg rd 0#64 1) ∧
        (fmt.toNat < 4 ∨ fmt.toNat = 12 →
          Ends (.mxout rd ra rb fmt) s (Became (({ u.cur with
            mx := some { a with cmd := some ⟨.out fmt, rd, s.x ra, s.x rb, none, false, none⟩ } }.block rd).advance 1) u)) ∧
        ((s.x ra).toNat % 64 = 0 →
          Ends (.mxsnap rd ra) s (Became ({ (({ u.cur with mx := some a }.block rd).advance 1) with
            mx := some { a with cmd := some ⟨.snap, rd, s.x ra, 0#64, none, false, none⟩, shv := false } }) u)) ∧
        Ends (.mxrest rd ra) s (Became (({ u.cur with
            mx := some { a with cmd := some ⟨.rest, rd, s.x ra, 0#64, none, false, none⟩ } }.block rd).advance 1) u) ∧
        Ends .mxzero s (Became ({ u.cur with mx := some { a with acc := [], mxks := 0#64, shv := false } }.advance 1) u) ∧
        (∀ d v, (s.x ra).toNat % 64 = 0 → u.readVirt (s.x ra) 64 1 = .ok d v →
          (descBad d = true ∨ 2 ^ 32 ≤ (s.x rb).toNat → Ends (.mxrun rd ra rb) s (Wrote rd (mxToken true false 10 0) 1 v)) ∧
          (descBad d = false → (s.x rb).toNat = 0 → Ends (.mxrun rd ra rb) s (Wrote rd 0#64 1 v)) ∧
          (descBad d = false → (s.x rb).toNat < 2 ^ 32 → (s.x rb).toNat ≠ 0 →
            exec (.mxrun rd ra rb) s = .next (((v.setMx v.focus { (if a.shv then a.swap else a) with
              run := some { MxRun.fresh d (s.x rb).toNat 0 rd with loaded := a.shv, fed := a.shv }, shv := false, slow := false,
              lastM := mxM d }).startWait v.focus).modCur fun l => (l.block rd).advance 1)))) ∧
      (a.idle = false →
        exec (.mxoff rd) s = .next s ∧ exec .mxzero s = .next s ∧ exec (.mxrest rd ra) s = .next s ∧
        ((s.x ra).toNat % 64 = 0 → exec (.mxrun rd ra rb) s = .next s) ∧
        (fmt.toNat < 4 ∨ fmt.toNat = 12 → exec (.mxout rd ra rb fmt) s = .next s)) ∧
      (mxFmtOk fmt.toNat →
        (a.idle = true ∨ a.cmd = none ∧ a.snapq = none ∧ (∃ r, a.run = some r ∧ r.last = true) →
          Ends (.mxwl rd ra rb fmt) s (Became (({ u.cur with
            mx := some { a with cmd := some ⟨.wl fmt, rd, s.x ra, s.x rb, none, false, none⟩ } }.block rd).advance 1) u)) ∧
        (a.idle = false → a.cmd ≠ none ∨ a.snapq ≠ none ∨ (∀ r, a.run = some r → r.last = false) →
          exec (.mxwl rd ra rb fmt) s = .next s)) ∧
      (a.snapq ≠ none ∨ a.susp ≠ none ∨ a.run = none ∧ a.cmd ≠ none → exec (.mxsnap rd ra) s = .next s) ∧
      (a.snapq = none → a.susp = none → a.run ≠ none ∨ a.cmd = none →
        ((s.x ra).toNat % 64 ≠ 0 → Ends (.mxsnap rd ra) s (Wrote rd (mxToken true false 10 0) 1 s)) ∧
        ((s.x ra).toNat % 64 = 0 → ∀ v, v = ((u.setMx u.focus { a with
            snapq := some ⟨.snap, rd, s.x ra, 0#64, none, false, none⟩ }).modCur fun l => (l.block rd).advance 1) →
          (∀ r, a.run = some r → r.atBoundary = true →
            exec (.mxsnap rd ra) s = .next ((v.suspendRun u.focus true).startSnap u.focus)) ∧
          (∀ r, a.run = some r → r.atBoundary = false → exec (.mxsnap rd ra) s = .next v)))) ∧
    Ends (.mxslot rd) s (Wrote rd (BitVec.ofNat 64
      ((match s.cur.mx.bind fun x => x.run with
        | some r => if r.waiting then s.effPrio r else s.cur.mxPrio
        | none => s.cur.mxPrio) * 2 ^ 21
        + (if (s.arb (lanDie s.focus)).smode then 2 ^ 20 else 0) + (s.arb (lanDie s.focus)).slotptr * 2 ^ 14
        + ((s.arb (lanDie s.focus)).slots.filter fun e => decide (slotOwner e.2 = some (s.pasidOf s.focus))).length)) 1 u) ∧
    (level.toNat < 8 →
      Ends (.mxprio rd level) s fun t => ∀ p, p = (if s.cur.sup then level.toNat else min level.toNat (s.arb (lanDie s.focus)).pmax) →
        Became (({ u.cur with mxPrio := p }.setReg rd (BitVec.ofNat 64 p)).advance 1) u t)

/-- R349, R351, R355, R357 to R359, R361, R364, R365, R367, R369: what the matrix units do on their own. A decision that is
not due changes nothing; one that is grants the waiting runs in order while they fit, is no longer due, and in slot mode
moves the slot pointer on. A region without a granted k-step does nothing. The blocks of a granted one enter the array, and
with its last block in the run starts waiting for the next; where a block waits for its translation the run waits, and
where one cannot be read the run ends. Then the k-step ends: it is counted, and the run ends with its token after its last,
stops for a snapshot or a PRE, or goes on. A command whose access fails waits or ends with its error token; an MXWL whose
blocks are read fills the shadow set; an MXOUT and an MXSNAP end once their writes are performed; an MXREST of a good area
restores the array and its run. That a k-step enters and ends in two steps is the model's reading (log entry 27). -/
def Obligations.MatrixEvents : Prop :=
  ∀ (s : Machine.State) (k d : Nat),
    ((s.arb d).due = false → exec (.matrixArbiterDecision d) s = .next s) ∧
    ((s.arb d).due = true →
      exec (.matrixArbiterDecision d) s = .next ((s.mxGrant ((s.mxWaiting d).mergeSort (s.mxBefore (s.arb d).smode
          (slotOwner ((s.arb d).slots.get 0#64 (s.arb d).slotptr)))) ((s.arb d).cap - s.mxHeld d)).modArb d fun b =>
        { b with due := false, slotptr := if b.smode then (b.slotptr + 1) % 64 else b.slotptr })) ∧
    ((s.lan k).mx = none → exec (.kstepEnd k) s = .next s ∧ exec (.matrixCommandComplete k) s = .next s) ∧
    (∀ a, (s.lan k).mx = some a → a.run = none → exec (.kstepEnd k) s = .next s) ∧
    (∀ a, (s.lan k).mx = some a → a.cmd = none → exec (.matrixCommandComplete k) s = .next s) ∧
    (∀ a r, (s.lan k).mx = some a → a.run = some r →
      (r.granted = false ∨ r.entered = false ∧ heldWaits r.held = true → exec (.kstepEnd k) s = .next s) ∧
      (r.granted = true → r.entered = false → heldWaits r.held = false →
        (∀ b rows u v, s.kstepBlocks k a r = .ok (b, rows) u →
          v = u.setMx k { b.enterRows rows with run := some { r with fed := true, entered := true, held := none } } →
          exec (.kstepEnd k) s = .next ((if r.done + 1 = r.n then v else v.startWait k).feedAhead k)) ∧
        (∀ va u, s.kstepBlocks k a r = .wait va xlCut u → exec (.kstepEnd k) s = .next u) ∧
        (∀ va reason u m, s.kstepBlocks k a r = .wait va reason u → reason ≠ xlCut → m = heldNext r.held u.tick va →
          exec (.kstepEnd k) s = .next (((u.feedLog k kXLATE (some m) va (reason + 6 * 16)).setMx k { a with
            run := some { r with held := some m } }).trySnap k)) ∧
        (∀ va reason u v, s.kstepBlocks k a r = .err reason va u → v = u.endRun k r.rd (mxToken true false reason r.done) →
          exec (.kstepEnd k) s = .next (if reason = 4 then (v.feedLog k kPOISON none va 2).askAbort k true else v))) ∧
      (r.granted = true → r.entered = true → ∀ v, v = (s.setMx k { (if r.ready then a.swap else a).countKstep (mxP r.desc) with
          run := some r.next }).arbDue (lanDie k) →
        (r.done + 1 = r.n → exec (.kstepEnd k) s = .next (v.endRun k r.rd (mxToken false false 0 r.n))) ∧
        (r.done + 1 ≠ r.n → a.snapq ≠ none → exec (.kstepEnd k) s = .next ((v.suspendRun k true).startSnap k)) ∧
        (r.done + 1 ≠ r.n → a.snapq = none → a.stop = true → exec (.kstepEnd k) s = .next (v.suspendRun k false)) ∧
        (r.done + 1 ≠ r.n → a.snapq = none → a.stop = false → exec (.kstepEnd k) s = .next v))) ∧
    (∀ a c, (s.lan k).mx = some a → a.cmd = some c →
      (heldWaits c.held = true → exec (.matrixCommandComplete k) s = .next s) ∧
      (heldWaits c.held = false →
        (∀ f feed, c.kind = .wl f → feed = s.mxReadAll k c.held (blockSize f.toNat)
            ((List.range a.c).map fun j => (List.range a.r).map fun i =>
              c.a + BitVec.ofNat 64 i * c.b + BitVec.ofNat 64 (j * blockSize f.toNat)).flatten →
          (∀ bs u cols, feed = .ok bs u → cols = groupsOf a.r a.c (bs.map (blockOf f.toNat)) →
            exec (.matrixCommandComplete k) s = .next ((u.setMx k { a with
              shadow := weightTab a.r a.c (if f.toNat = 11 then unifyColumns cols else cols), shv := true }).endCmd k c
                (mxToken false false 0 (a.r * a.c * blockSize f.toNat)))) ∧
          (∀ va u, feed = .wait va xlCut u → exec (.matrixCommandComplete k) s = .next u) ∧
          (∀ va reason u m, feed = .wait va reason u → reason ≠ xlCut → m = heldNext c.held u.tick va →
            exec (.matrixCommandComplete k) s = .next ((u.feedLog k kXLATE (some m) va (reason + 6 * 16)).modLan k fun l =>
              { l with mx := l.mx.map fun a => { a with cmd := some { c with held := some m } } })) ∧
          (∀ va reason u v, feed = .err reason va u → v = u.endCmd k c (mxToken true false reason 0) →
            exec (.matrixCommandComplete k) s = .next (if reason = 4 then v.feedLog k kPOISON none va 2 else v))) ∧
        (∀ f b cells ps u v, c.kind = .out f → b = a.promoteAll →
          cells = ((List.range b.lastM).map fun m => (List.range b.c).map fun j =>
            (c.a + BitVec.ofNat 64 m * c.b + BitVec.ofNat 64 (j * fmtSize f.toNat),
              storeBytes f.toNat false rne (.w (b.accAt m j).wacc))).flatten →
          (s.setMx k b).writesAt k c.held (cells.map fun x => (x.1, x.2.val)) = .ok ps u → c.fin = false →
          u.performWrites k ps = some v → v.postsDue = false →
          exec (.matrixCommandComplete k) s = .next (((v.setMx k { b with
            flags := cells.foldl (fun acc x => acc ||| x.2.flags) b.flags }).mxAccrue k).endCmd k c
              (mxToken false false 0 (b.lastM * b.c * fmtSize f.toNat)))) ∧
        (∀ f, c.kind = .out f → exec (.matrixCommandComplete k) s = .next (s.finishOut k a c f.toNat)) ∧
        (∀ area ps u v, c.kind = .snap → area = a.area (s.lan k).mxPrio →
          s.writesAt k c.held ((List.range (area.length / 8)).map fun i =>
            (c.a + BitVec.ofNat 64 (8 * i), (area.drop (8 * i)).take 8)) = .ok ps u → c.fin = false →
          u.performWrites k ps = some v → v.postsDue = false →
          exec (.matrixCommandComplete k) s = .next ((v.setMx k { a with susp := none }).endCmd k c
            (mxToken false false 0 area.length))) ∧
        (c.kind = .snap → exec (.matrixCommandComplete k) s = .next (s.finishSnap k a c)) ∧
        (c.kind = .rest → c.a.toNat % 64 ≠ 0 →
          exec (.matrixCommandComplete k) s = .next (s.endCmd k c (mxToken true false 10 0))) ∧
        (c.kind = .rest → c.a.toNat % 64 = 0 → ∀ hs u, s.mxReadAll k c.held 64 [c.a, c.a + 64#64] = .ok hs u →
          (areaHeadBad hs.flatten = true →
            exec (.matrixCommandComplete k) s = .next (u.endCmd k c (mxToken true false 10 0))) ∧
          (areaHeadBad hs.flatten = false → ∀ x y r cols accs v,
            shapeOf (BitVec.ofNat 64 (fieldAt hs.flatten 8 8)) = (x, y, r, cols) →
            u.mxReadAll k c.held 24 ((List.range (32 * cols)).map fun i => c.a + BitVec.ofNat 64 (128 + 24 * i)) = .ok accs v →
            (accs.any accBad = true → exec (.matrixCommandComplete k) s = .next (v.endCmd k c (mxToken true false 10 0))) ∧
            (accs.any accBad = false → r ≠ a.r ∨ cols ≠ a.c →
              exec (.matrixCommandComplete k) s = .next (v.endCmd k c (mxToken true false 9 0))) ∧
            (accs.any accBad = false → r = a.r → cols = a.c → ∀ b w, b = { a.restore hs.flatten accs c.rd with cmd := none } →
              w = v.modLan k (fun l => { l with mx := some b, mxPrio := fieldAt hs.flatten 6 1 }) →
              exec (.matrixCommandComplete k) s = .next (if b.run.isSome then w.startWait k else w.writeToken k c.rd 0#64)))) ∧
        (c.kind = .rest → exec (.matrixCommandComplete k) s = .next (s.finishRest k a c))))

/-- R268 to R282, R292: what an instruction of a port's running program does; `stepProg` moves the program on, past the
instruction's parcels, and ends a wait. SOPEN sets its handle up, closed to release yet; SPUSH, SACPT, SGATH and SSCAT
release elements up to COUNT, the last two with the vector that gives their indices; SCLOSE waits for the released
elements and then closes its handle with its flags; SLOOP goes back while its count lasts, waiting, with ADV, for the
released elements to be issued, its last pass too; WLOAD and WDROP take and drop extents; VOPEN opens its window where no other stands, and
waits for its entries (R279); VRECL reclaims its window's versions; MLAY waits for the port's accesses, then sets the layout;
SWAIT and SSIG act on the synchronisation object at their address, SSIG with AFT once the elements written so far are
performed at SCOPE, a speculative segment's held until it commits. When SSIG with AFT goes on and when a window opens are the
model's readings (log entries 45 and 46). -/
def Obligations.StreamCommands : Prop :=
  ∀ (s : Machine.State) (p : Nat) (q : Port) (g : Prog), p = s.prt → q = s.port p → q.prog = some g →
    (∀ (h : BitVec 2) (input : Bool) (fmt : BitVec 4) (lay : BitVec 2) (rtz ord grp : Bool) (uni : BitVec 3)
        (count : BitVec 24) (stride : BitVec 16) (base : BitVec 48),
      exec (.sopen h input fmt lay rtz ord grp uni count stride base) s = .next ((s.modPort p fun q => { q with
        hs := q.hs.put h.toNat { input := input, fmt := fmt.toNat, lay := lay, rtz := rtz, ord := ord, grp := grp,
                                 uni := uni.toNat, count := count.toNat, stride := stride, line := base.setWidth 64,
                                 cur := base.setWidth 64, pos := 0, limit := 0, idx := [], nextW := 0, written := [],
                                 tr := none, flags := 0#5 } }).stepProg p 2)) ∧
    (∀ (h : BitVec 2) (n : BitVec 24) (x : Handle), q.hs.find h.toNat = some x →
      ∀ limit, limit = max x.limit (if n.toNat = 0 then s.countOf g x else min (s.countOf g x) (x.limit + n.toNat)) →
        exec (.spush h n) s = .next ((s.modPort p fun q => { q with hs := q.hs.put h.toNat { x with limit := limit } }).stepProg p 1) ∧
        exec (.sacpt h n) s = .next ((s.modPort p fun q => { q with hs := q.hs.put h.toNat { x with limit := limit } }).stepProg p 1) ∧
        ∀ (ifmt : BitVec 4) (ibase : BitVec 48) (y : Handle), y = { x with
            limit := limit, idx := if x.limit < limit then
              x.idx ++ [{ first := x.limit, count := limit - x.limit, ibase := ibase.toNat, ifmt := ifmt.toNat }] else x.idx } →
          exec (.sgath h ifmt n ibase) s = .next ((s.modPort p fun q => { q with hs := q.hs.put h.toNat y }).stepProg p 2) ∧
          exec (.sscat h ifmt n ibase) s = .next ((s.modPort p fun q => { q with hs := q.hs.put h.toNat y }).stepProg p 2)) ∧
    (∀ (h : BitVec 2),
      (s.handleDone p h.toNat = false → exec (.sclose h) s = .next s) ∧
      (∀ x, s.handleDone p h.toNat = true → q.hs.find h.toNat = some x →
        exec (.sclose h) s = .next (((s.accrue g.lan x.flags).modPort p fun q =>
          { q with hs := q.hs.del h.toNat, outq := q.outq.filter fun r => decide (r.h ≠ h.toNat) }).stepProg p 1))) ∧
    (∀ (h : BitVec 2) (adv : Bool) (back : BitVec 6) (times : BitVec 16) (stp : BitVec 24) (n : Nat),
      n = (g.loops.find g.pc).getD times.toNat - 1 →
      (n = 0 → (adv = true → ∀ x, q.hs.find h.toNat = some x → x.pos = x.limit) →
        exec (.sloop h adv back times stp) s = .next (s.modProg p fun g =>
          { g with loops := g.loops.del g.pc, pc := g.pc + 1 })) ∧
      (∀ x, adv = true → q.hs.find h.toNat = some x → x.pos ≠ x.limit → exec (.sloop h adv back times stp) s = .next s) ∧
      (0 < n → adv = false → exec (.sloop h adv back times stp) s = .next (s.modProg p fun g =>
        { g with loops := g.loops.put g.pc n, pc := g.pc - back.toNat })) ∧
      (∀ x, 0 < n → adv = true → q.hs.find h.toNat = some x →
        (x.pos = x.limit → exec (.sloop h adv back times stp) s = .next ((s.modPort p fun q =>
          { q with hs := q.hs.put h.toNat { x with line := x.line + stp.signExtend 64, cur := x.line + stp.signExtend 64 } }).modProg
            p fun g => { g with loops := g.loops.put g.pc n, pc := g.pc - back.toNat })))) ∧
    (∀ mask : BitVec 16,
      exec (.wload mask) s = .next ((s.modPort p fun q =>
        { q with
          ext := (List.range 16).foldl (fun t k =>
            if mask.getLsbD k then ((s.extentsOf g.lan).find k).elim (t.del k) (t.put k) else t) q.ext
          hs := dropTr mask q.hs }).stepProg p 1) ∧
      exec (.wdrop mask) s = .next ((s.modPort p fun q =>
        { q with ext := q.ext.filter fun e => !mask.getLsbD e.1, hs := dropTr mask q.hs }).stepProg p 1)) ∧
    (∀ (win : BitVec 2) (ent : BitVec 11) (first nw : BitVec 17),
      ((∀ w, (s.tile (portTile p)).wins.find win.toNat = some w → ¬ (w.ent = 0 ∧ w.port = p ∧ win.toNat ∈ g.wins)) →
        (∃ e ∈ (s.tile (portTile p)).wins, e.1 = win.toNat ∨
          first.toNat < e.2.first + e.2.nw ∧ e.2.first < first.toNat + nw.toNat) →
        exec (.vopen win ent first nw) s = .next ((s.portLog p g kVERREC 0#36 0#64 5).stepProg p 1)) ∧
      (∀ v w u, (s.tile (portTile p)).wins.find win.toNat = some v → v.ent = 0 → v.port = p → win.toNat ∈ g.wins →
        w = ({ first := first.toNat, nw := nw.toNat,
               ent := if ent.toNat ≤ (s.tile (portTile p)).freeEnts then ent.toNat else 0, p := 0, port := p } : Win) →
        u = (s.modTile (portTile p) fun x => { x with wins := x.wins.put win.toNat w }) →
        exec (.vopen win ent first nw) s =
          .next (if ent.toNat ≤ (s.tile (portTile p)).freeEnts then u.stepProg p 1 else u)) ∧
      ((s.tile (portTile p)).wins.find win.toNat = none → (∃ e ∈ (s.tile (portTile p)).wins, first.toNat < e.2.first + e.2.nw ∧ e.2.first < first.toNat + nw.toNat) →
        exec (.vopen win ent first nw) s = .next ((s.portLog p g kVERREC 0#36 0#64 5).stepProg p 1)) ∧
      ((s.tile (portTile p)).wins.find win.toNat = none → (∀ e ∈ (s.tile (portTile p)).wins, ¬ (e.1 = win.toNat ∨
          first.toNat < e.2.first + e.2.nw ∧ e.2.first < first.toNat + nw.toNat)) →
        ∀ w u, w = ({ first := first.toNat, nw := nw.toNat,
                      ent := if ent.toNat ≤ (s.tile (portTile p)).freeEnts then ent.toNat else 0, p := 0, port := p } : Win) →
          u = (s.modTile (portTile p) fun x => { x with wins := x.wins.put win.toNat w }).modProg p
            (fun g => { g with wins := g.wins ++ [win.toNat] }) →
          exec (.vopen win ent first nw) s =
            .next (if ent.toNat ≤ (s.tile (portTile p)).freeEnts then u.stepProg p 1 else u))) ∧
    (∀ (win : BitVec 2) (rel : Bool) (v : BitVec 32),
      ((s.tile (portTile p)).wins.find win.toNat = none →
        exec (.vrecl win rel v) s = .next ((s.portLog p g kVERREC 0#36 0#64 6).stepProg p 1)) ∧
      (∀ w, (s.tile (portTile p)).wins.find win.toNat = some w →
        exec (.vrecl win rel v) s = .next ((s.reclaimTo (portTile p) win.toNat w
          (if rel then min (w.p + v.toNat) (2 ^ 32 - 1) else v.toNat)).stepProg p 1))) ∧
    (∀ (segs : BitVec 8) (xs chk : Bool),
      ((∃ r ∈ q.outq, r.st = .bank ∨ r.st = .xlate ∨ r.st = .new) ∨
          (∃ b ∈ (s.tile (portTile p)).bankq, b.src = portNum p + 1) ∨
          (∃ h ∈ q.hs, h.2.pos ≠ h.2.limit ∨ h.2.input = true ∧ h.2.nextW < h.2.limit) →
        exec (.mlay segs xs chk) s = .next s) ∧
      ((∀ r ∈ q.outq, r.st ≠ .bank ∧ r.st ≠ .xlate ∧ r.st ≠ .new) →
        (∀ b ∈ (s.tile (portTile p)).bankq, b.src ≠ portNum p + 1) →
        (∀ h ∈ q.hs, h.2.pos = h.2.limit ∧ (h.2.input = true → h.2.limit ≤ h.2.nextW)) →
      exec (.mlay segs xs chk) s = .next ((s.modTile (portTile p) fun x =>
        { x with xs := (x.xs &&& ~~~segs) ||| (if xs then segs else 0#8),
                 chk := (x.chk &&& ~~~segs) ||| (if chk then segs else 0#8) }).stepProg p 1))) ∧
    (∀ (addr : BitVec 48) (u : Machine.State),
      (g.waitPh = none → s.portSync p q g addr.toNat false = .stop u → exec (.swait addr) s = .next u) ∧
      (∀ h scope bytes, s.portSync p q g addr.toNat true = .stop u → exec (.ssig h false scope bytes addr) s = .next u)) ∧
    (∀ (addr : BitVec 48) (die a : Nat) (u : Machine.State), g.waitPh = none →
      s.portSync p q g addr.toNat false = .at_ die a u →
      (a % 32 ≠ 0 → exec (.swait addr) s = .next ((u.portSyncLog p g addr.toNat 3).stepProg p 2)) ∧
      (a % 32 = 0 → u.phaseAt die a = none → exec (.swait addr) s = .next ((u.portSyncLog p g addr.toNat 2).stepProg p 2)) ∧
      (∀ ph, a % 32 = 0 → u.phaseAt die a = some ph → exec (.swait addr) s = .next ((u.modSync die fun y =>
          { y with waits := y.waits ++ [{ who := .port p, what := .phase (BitVec.ofNat 32 ph), addr := a }] }).modProg p
        fun g => { g with waitPh := some (syncKey die a, BitVec.ofNat 32 ph) }))) ∧
    (∀ (addr : BitVec 48) (key : Nat) (sig : BitVec 32) (ph : Nat), g.waitPh = some (key, sig) →
      s.phaseAt (key / 2 ^ 32) (key % 2 ^ 32) = some ph →
      (phaseDone ph sig = false → exec (.swait addr) s = .next s) ∧
      (phaseDone ph sig = true → exec (.swait addr) s = .next (((s.modSync (key / 2 ^ 32) fun y =>
        { y with waits := y.waits.filter fun w => decide (w.who ≠ .port p) }).modProg p
          fun g => { g with waitPh := none }).stepProg p 2))) ∧
    (∀ (h : BitVec 2) (aft : Bool) (scope : BitVec 3) (bytes : BitVec 32) (addr : BitVec 48),
      (aft = true → s.sigWaits p h.toNat scope = true → exec (.ssig h aft scope bytes addr) s = .next s) ∧
      (aft = false ∨ s.sigWaits p h.toNat scope = false → ∀ die a u,
        s.portSync p q g addr.toNat true = .at_ die a u →
        (∀ i x, u.resident g.lan = some (i, x) → x.st = .runs →
          exec (.ssig h aft scope bytes addr) s = .next ((u.modSync die fun y => { y with held := y.held ++
            [{ copy := false, none_ := false, seg := segKey (lanDie g.lan) i, addr := a, add := bytes.toNat,
               log := portRecord p kSYNC g.ctx 0#36 (BitVec.ofNat 64 addr.toNat) 0 }] }).stepProg p 2)) ∧
        ((∀ i x, u.resident g.lan = some (i, x) → x.st ≠ .runs) → ∀ v reason, u.engPost die a bytes.toNat = (v, reason) →
          exec (.ssig h aft scope bytes addr) s =
            .next ((reason.elim v fun r => v.portSyncLog p g addr.toNat r).stepProg p 2))))

/-- R229, R255, R259, R265, R269, R270, R272, R273, R290, R293, R487: what a stream port does on its own. A program that has
run past its end closes its handles and windows and goes, and the pending one, once armed, starts with the Beacon's extents.
The next released element is issued with its address while fewer than 64 of the port's wait, and an input element waits for
its token; one whose address is bad fails. A read element is pushed, with its group unified, to every destination bound to its
handle once each has room and its iteration may be emitted. A token at an input port waits for its program's context, for its
turn within 64 elements and for its element; one beyond COUNT, a poisoned one and one of a format the rule refuses are taken
with their record and count as written; any other is written at its element, at once, in the segment's staging or, where its
translation or its bank makes it wait, later. A marker takes the port's snapshot. -/
def Obligations.StreamEvents : Prop :=
  ∀ (s : Machine.State) (p : Nat) (q : Port), q = s.port p →
    (∀ g, q.prog = none → q.pend = some g →
      (g.armed = false → exec (.streamProgramStart p) s = .next s) ∧
      (g.armed = true → exec (.streamProgramStart p) s = .next (s.modPort p fun q =>
        { q with prog := some g, pend := none, hs := [], outq := [], ext := s.extentsOf g.lan }))) ∧
    (q.prog = none → q.pend = none → exec (.streamProgramStart p) s = .next s) ∧
    (∀ g, q.prog = some g →
      (g.armed = false ∨ g.pc < g.parcels.length → exec (.streamProgramStart p) s = .next s) ∧
      (g.armed = true → g.parcels.length ≤ g.pc → ∀ u,
        u = ((q.hs.map (·.1)).filter fun h => s.handleDone p h).foldl (fun s h => s.closeHandle p h g.lan) s →
        ((u.port p).hs ≠ [] → exec (.streamProgramStart p) s = .next u) ∧
        ((u.port p).hs = [] → exec (.streamProgramStart p) s = .next (((g.wins.foldl (fun s k =>
            ((s.tile (portTile p)).wins.find k).elim s fun w => if w.port = p then s.shutWin (portTile p) k else s) u).modPort p
              fun q => { q with prog := none, outq := [] }).startPending p)))) ∧
    (∀ h, q.prog = none ∨ q.hs.find h = none → exec (.streamElementIssue p h) s = .next s) ∧
    (∀ g h x, q.prog = some g → q.hs.find h = some x →
      (∀ r, (q.outq.find? fun r => decide (r.h = h ∧ r.st = .new)) = some r →
        exec (.streamElementIssue p h) s = .next (s.tryElem p q g x r)) ∧
      ((∀ r ∈ q.outq, ¬ (r.h = h ∧ r.st = .new)) → ∀ w, w = s.windowOf (some g.lan) (tileDie (portTile p)) (s.elemTag p g x.pos) x.pos →
        (x.limit ≤ x.pos ∨ g.armed = false ∨ 64 ≤ q.outstanding ∨ x.input = false ∧ (w = .park ∨ q.stopped = true) →
          exec (.streamElementIssue p h) s = .next s) ∧
        (x.pos < x.limit → g.armed = true → q.outstanding < 64 → x.input = true ∨ w ≠ .park ∧ q.stopped = false →
          (∀ rel r, rel = (x.idx.find? fun i => decide (i.first ≤ x.pos ∧ x.pos < i.first + i.count)) →
            r = ({ h := h, n := x.pos, va := x.cur, line := x.line,
                   idx := rel.map fun i => (BitVec.ofNat 64 (i.ibase + (x.pos - i.first) * fmtSize i.ifmt), i.ifmt),
                   gath := rel.isSome, st := .new, data := [], bad := false, miss := Miss.zero, uni := false } : StreamReq) →
            exec (.streamElementIssue p h) s = .next ((s.modPort p fun q => { q with
              hs := q.hs.put h { x with pos := x.pos + 1, cur := if rel.isSome then x.cur else x.cur + x.stride.signExtend 64 }
              outq := q.outq ++ [r] }).tryElem p q g x r)) ∧
          (x.input = true → x.idx = [] → x.cur.toNat < 2 ^ 48 → x.cur.toNat % x.align = 0 →
            exec (.streamElementIssue p h) s = .next ((s.modPort p fun q =>
              { q with
                hs := q.hs.put h { x with pos := x.pos + 1, cur := x.cur + x.stride.signExtend 64 }
                outq := q.outq ++ [{ h := h, n := x.pos, va := x.cur, line := x.line, idx := none, gath := false, st := .new,
                                     data := [], bad := false, miss := Miss.zero, uni := false }] }).setElem p
              { h := h, n := x.pos, va := x.cur, line := x.line, idx := none, gath := false, st := .entry, data := [],
                bad := false, miss := Miss.zero, uni := false })))) ∧
      (∀ (u : Machine.State) (r : StreamReq),
        (r.idx = none → 2 ^ 48 ≤ r.va.toNat → u.tryElem p q g x r = u.badElem p g x r r.va 3) ∧
        (r.idx = none → r.va.toNat < 2 ^ 48 → r.va.toNat % x.align ≠ 0 → u.tryElem p q g x r = u.badElem p g x r r.va 4) ∧
        (r.idx = none → r.va.toNat < 2 ^ 48 → r.va.toNat % x.align = 0 →
          u.tryElem p q g x r = if x.input then u.setElem p { r with st := .entry } else u.readElem p q g x r) ∧
        (∀ ia ifmt, r.idx = some (ia, ifmt) →
          (2 ^ 48 ≤ ia.toNat → u.tryElem p q g x r = u.badElem p g x r ia 3) ∧
          (ia.toNat < 2 ^ 48 → ia.toNat % fmtSize ifmt ≠ 0 → u.tryElem p q g x r = u.badElem p g x r ia 4) ∧
          (ia.toNat < 2 ^ 48 → ia.toNat % fmtSize ifmt = 0 → ∀ res v,
            u.unitPlaces g.lan (tileDie (portTile p)) (portHow q r.miss.may true false) ia.toNat (fmtSize ifmt) = (res, v) →
            (∀ va reason, res = .error (va, reason) →
              u.tryElem p q g x r = v.waitElem p g x r (BitVec.ofNat 64 va) reason) ∧
            (∀ ps bs bad w y, res = .ok ps → v.piecesCut (tileDie (portTile p)) ps = false →
              v.readPieces g.lan 0 ps = (bs, bad, w) → bad = false →
              y = { r with va := r.line + BitVec.ofInt 64 (indexValue ifmt (leNat (w.overlayPieces g.lan ps bs)) * x.stride.toInt),
                           idx := none } →
              u.tryElem p q g x r = (w.setElem p y).placeElem p q g x y))))) ∧
    (∀ idx, q.prog = none ∨ q.outq[idx]? = none → exec (.streamReplyPush p idx) s = .next s) ∧
    (∀ g idx r, q.prog = some g → q.outq[idx]? = some r → q.hs.find r.h = none → exec (.streamReplyPush p idx) s = .next s) ∧
    (∀ g idx r x, q.prog = some g → q.outq[idx]? = some r → q.hs.find r.h = some x →
      (x.input = true → exec (.streamReplyPush p idx) s = .next s) ∧
      (r.st ≠ .bank → s.gatherElem p g x r = (s, r)) ∧
      (x.input = false → ∀ u y, s.gatherElem p g x r = (u, y) →
        (y.st ≠ .done → exec (.streamReplyPush p idx) s = .next u) ∧
        (y.st = .done → x.uni ≠ 0 → y.uni = false → u.unifyGroup p y.h x (u.countOf g x) y.n = none →
          exec (.streamReplyPush p idx) s = .next u) ∧
        (∀ v z op tok ds, y.st = .done → ((x.uni = 0 ∨ y.uni = true) ∧ v = u ∨ (x.uni ≠ 0 ∧ y.uni = false) ∧
            u.unifyGroup p y.h x (u.countOf g x) y.n = some v) →
          z = ((v.port p).outq.find? fun a => decide (a.h = y.h ∧ a.n = y.n)).getD y →
          op = (if z.data.isEmpty then ⟨loadFmt x.fmt x.grp, 0#80⟩ else loadOperand x.fmt x.grp z.data : Operand) →
          tok = ({ tag := v.elemTag p g z.n, fmt := op.fmt, pay := op.pay, last := decide (z.n + 1 = u.countOf g x),
                   poison := z.bad, marker := false } : Token) →
          ds = ((g.binds.filter fun b => decide ((b.extractLsb' 32 2).toNat = z.h)).map fun b =>
            v.resolve (some g.lan) g.ctx (portTile p) (b.extractLsb' 0 31)) →
          (z.bad = true ∧ v.recHeld (some g.lan) = true ∨
              (∃ d ∈ ds, routable d = true ∧ v.linkRoom (portTile p) false d = false) →
            exec (.streamReplyPush p idx) s = .next v) ∧
          (z.bad = false ∨ v.recHeld (some g.lan) = false →
            (∀ d ∈ ds, routable d = true → v.linkRoom (portTile p) false d = true) → ∀ left,
            left = (v.modPort p fun q => { q with outq := q.outq.filter fun a => !decide (a.h = z.h ∧ a.n = z.n) }) →
            (v.windowOf (some g.lan) (tileDie (portTile p)) tok.tag z.n = .park → exec (.streamReplyPush p idx) s = .next v) ∧
            (∀ reason, v.windowOf (some g.lan) (tileDie (portTile p)) tok.tag z.n = .refuse reason →
              exec (.streamReplyPush p idx) s = .next (left.portLog p g kTAGUSE tok.tag (BitVec.ofNat 64 z.n) reason)) ∧
            (v.windowOf (some g.lan) (tileDie (portTile p)) tok.tag z.n = .ok →
              exec (.streamReplyPush p idx) s = .next (ds.foldl (fun a d =>
                if routable d then a.deliver (portTile p) (2 ^ 32 + p) false d tok
                else a.portLog p g kLINK tok.tag 0#64 d.toNat)
                (left.noteEmitted (some g.lan) (tileDie (portTile p)) tok.tag (left.portSnaps.find p).isSome))))))) ∧
    (∀ idx, q.inq[idx]? = none → exec (.sinkElementWrite p idx) s = .next s) ∧
    (∀ idx a (log k : Machine.State → Machine.State) lead, q.inq[idx]? = some a → lead = s.leadOfTile (portTile p) →
      (a.logged = true → s.faultToken p idx a log k = if s.recHeld lead then s else k s) ∧
      (a.logged = false → (log s).heldNo lead ≤ s.heldNo lead → s.faultToken p idx a log k = k (log s)) ∧
      (a.logged = false → s.heldNo lead < (log s).heldNo lead → s.faultToken p idx a log k =
        (log s).modPort p fun q => { q with inq := q.inq.set idx { a with logged := true } })) ∧
    (∀ idx a, q.inq[idx]? = some a →
      (q.inOrder idx a = false ∨ s.cutOff a.fromDie (tileDie (portTile p)) = true →
        exec (.sinkElementWrite p idx) s = .next s) ∧
      (q.inOrder idx a = true → s.cutOff a.fromDie (tileDie (portTile p)) = false →
        (∀ u, a.tok.marker = true → u = (s.modPort p fun q => { q with inq := q.inq.eraseIdx idx }) →
          (u.leadOfTile (portTile p) = none → exec (.sinkElementWrite p idx) s = .next u) ∧
          (∀ lead, u.leadOfTile (portTile p) = some lead →
            ((u.lan lead).prePend = false ∨ a.tok.pay.setWidth 32 ≠ (u.lan lead).snapNo →
              exec (.sinkElementWrite p idx) s = .next u) ∧
            ((u.lan lead).prePend = true → a.tok.pay.setWidth 32 = (u.lan lead).snapNo →
              exec (.sinkElementWrite p idx) s = .next ((u.snapPort p).modPort p fun q =>
                { q with marked := if q.marked.contains a.chan then q.marked else q.marked ++ [a.chan] })))) ∧
        (a.tok.marker = false → q.prog = none ∨ q.inHandle = none → exec (.sinkElementWrite p idx) s = .next s) ∧
        (∀ g h x n, a.tok.marker = false → q.prog = some g → q.inHandle = some (h, x) → n = tagIter a.tok.tag →
          (tagCtx a.tok.tag ≠ g.ctx → exec (.sinkElementWrite p idx) s = .next s) ∧
          (tagCtx a.tok.tag = g.ctx →
            (s.countOf g x ≤ n → exec (.sinkElementWrite p idx) s =
              .next (s.faultToken p idx a (fun u => u.portLog p g kTAGUSE a.tok.tag (BitVec.ofNat 64 n) 6)
                fun u => u.takeIn p idx a)) ∧
            (n < s.countOf g x → x.nextW + 63 < n → exec (.sinkElementWrite p idx) s = .next s) ∧
            (n < s.countOf g x → n ≤ x.nextW + 63 →
              (∀ r ∈ q.outq, ¬ (r.h = h ∧ r.n = n)) → exec (.sinkElementWrite p idx) s = .next s) ∧
            (∀ r, n < s.countOf g x → n ≤ x.nextW + 63 → (q.outq.find? fun r => decide (r.h = h ∧ r.n = n)) = some r →
              (r.st ≠ .entry → r.st ≠ .done → exec (.sinkElementWrite p idx) s = .next s) ∧
              (r.st = .entry ∨ r.st = .done →
                (a.tok.poison = true → exec (.sinkElementWrite p idx) s =
                  .next (s.faultToken p idx a (fun u => u.portLog p g kPOISON a.tok.tag 0#64 0) fun u =>
                    ((u.takeIn p idx a).markWritten p h n).askAbort g.lan true)) ∧
                (a.tok.poison = false → r.bad = true → exec (.sinkElementWrite p idx) s =
                  .next (if s.recHeld (s.leadOfTile (portTile p)) then s else (s.takeIn p idx a).markWritten p h n)) ∧
                (a.tok.poison = false → r.bad = false → acceptsFmt x.fmt x.grp a.tok.fmt = false →
                  exec (.sinkElementWrite p idx) s = .next (s.faultToken p idx a
                    (fun u => u.portLog p g kFMT a.tok.tag 0#64 (a.tok.fmt.toNat + x.fmt * 16)) fun u =>
                      (u.takeIn p idx a).markWritten p h n)) ∧
                (a.tok.poison = false → r.bad = false → acceptsFmt x.fmt x.grp a.tok.fmt = true →
                  (∀ va reason u, s.elemPlaces p q g x r = (.error (va, reason), u) → exec (.sinkElementWrite p idx) s =
                    .next (if r.st = .done ∨ 64 ≤ q.outstanding then u else u.waitElem p g x r (BitVec.ofNat 64 va) reason)) ∧
                  (∀ ps u, s.elemPlaces p q g x r = (.ok ps, u) →
                    (r.st ≠ .done ∧ ((x.ord = true ∨ ∃ e ∈ ps, e.2.2.2 = true) ∧ r.n ≠ x.nextW ∨ q.coincides r.h x r = true) ∨
                        u.piecesCut (tileDie (portTile p)) ps = true → exec (.sinkElementWrite p idx) s = .next u) ∧
                    (r.st = .done ∨ (x.ord = false ∧ (∀ e ∈ ps, e.2.2.2 = false) ∨ r.n = x.nextW) ∧ q.coincides r.h x r = false →
                      u.piecesCut (tileDie (portTile p)) ps = false →
                      (∀ mode, u.layoutBad x.layout ps = some mode → exec (.sinkElementWrite p idx) s =
                        .next (u.faultToken p idx a (fun w => w.portLog p g kLAYOUT a.tok.tag r.va (layoutInfo x.layout mode))
                          fun w => (w.takeIn p idx a).markWritten p h r.n)) ∧
                      (∀ v, u.layoutBad x.layout ps = none →
                        v = storeBytes x.fmt x.grp (if x.rtz then rtz else rne) ⟨a.tok.fmt, a.tok.pay⟩ →
                        (∀ off, u.stagedSet g.lan = none → homeOff (portTile p) ps = some off →
                          exec (.sinkElementWrite p idx) s = .next (((((u.takeIn p idx a).modHandle p h fun x =>
                            { x with flags := x.flags ||| v.flags }).askBank (portTile p) (portNum p + 1) r.client x.layout off
                              x.bytes (some v.val) (some g.lan)).markWritten p h r.n))) ∧
                        (u.stagedSet g.lan = none → homeOff (portTile p) ps = none →
                          exec (.sinkElementWrite p idx) s = .next ((((u.takeIn p idx a).modHandle p h fun x =>
                            { x with flags := x.flags ||| v.flags }).writePieces g.lan x.layout ps v.val).markWritten p h r.n)) ∧
                        (∀ k, u.stagedSet g.lan = some k → u.stagePieces g.lan ps v.val x.layout = none →
                          exec (.sinkElementWrite p idx) s = .next (u.modPort p fun q => { q with
                            entWait := ps.findSome? fun e => u.stageBlock g.lan e.1 (List.replicate e.2.1 0#8) x.layout })) ∧
                        (∀ k w y, u.stagedSet g.lan = some k → u.stagePieces g.lan ps v.val x.layout = some w →
                          y = ((w.takeIn p idx a).modHandle p h fun x => { x with flags := x.flags ||| v.flags }) →
                          exec (.sinkElementWrite p idx) s =
                            .next (if anyHeld ps then y.setElem p { r with st := .held } else y.markWritten p h r.n))))))))))))

/-- R119, R247, R285 to R288: the tile commands, legal in supervisor mode: in user mode they are PRIV. With an operand in its
range and an address that names a memory tile, once earlier loads are performed (`v`), a command goes to that tile with its rd
scoreboarded, and the Lantern goes on; a bad operand is ILLOP, any other address STF, and while the way to the tile's die is cut the
command waits. BRET of a group with a bank retired is answered 1 for the same bank and 2 for another; of any other the tile
retires the bank, and answers 0, once no granted store of the group has its parity to write, and grants no new access to the group
until then. BSCRB's rows are scrubbed one by one, and its count is the answer. BSTAT answers the counter at its offset, and
its clearing form zeroes it; the GROUPS word has none. -/
def Obligations.TileCommands : Prop :=
  (∀ (s v : Machine.State) (rd ra : Reg) (imm : BitVec 32) (first count : Nat) (goodScrub : Prop),
    first = (imm.extractLsb' 16 13).toNat → count = (imm.extractLsb' 0 14).toNat →
    goodScrub = (imm.extractLsb' 29 3 = 0#3 ∧ imm.extractLsb' 14 2 = 0#2 ∧ 1 ≤ count ∧ first + count ≤ 8192) →
    v = s.performLoads s.focus →
    (s.cur.sup = false → ∀ c, ∀ i ∈ [Instr.bret rd ra imm, .bscrb rd ra imm, .bstat c rd ra imm],
      Ends i s (TrappedHere cPRIV (parcelOf i) s)) ∧
    (s.cur.sup = true →
      (12 ≤ imm.toNat → Ends (.bret rd ra imm) s (TrappedHere cILLOP (parcelOf (.bret rd ra imm)) s)) ∧
      (¬ goodScrub → Ends (.bscrb rd ra imm) s (TrappedHere cILLOP (parcelOf (.bscrb rd ra imm)) s)) ∧
      (0x38 < imm.toNat ∨ imm.toNat % 8 ≠ 0 → ∀ c, Ends (.bstat c rd ra imm) s (TrappedHere cILLOP (parcelOf (.bstat c rd ra imm)) s)) ∧
      (imm.toNat = 0x38 → Ends (.bstat true rd ra imm) s (TrappedHere cILLOP (parcelOf (.bstat true rd ra imm)) s)) ∧
      (∀ c i, (i = .bret rd ra imm ∧ imm.toNat < 12 ∨ i = .bscrb rd ra imm ∧ goodScrub ∨
          i = .bstat c rd ra imm ∧ imm.toNat ≤ 0x38 ∧ imm.toNat % 8 = 0 ∧ (c = false ∨ imm.toNat ≠ 0x38)) →
        (tileNamed (s.x ra) = none → Ends i s (TrappedHere cSTF (s.x ra) s)) ∧
        (∀ t, tileNamed (s.x ra) = some t → s.diesCut (lanDie s.focus) (tileDie t) = true → exec i s = .next s)) ∧
      (∀ t, tileNamed (s.x ra) = some t → s.diesCut (lanDie s.focus) (tileDie t) = false →
        ∀ gave : Machine.State → TileWork → Machine.State,
        (∀ u w, gave u w = u.modTile t fun x => { x with jobs := x.jobs ++ [{ lan := s.focus, rd := rd, work := w }] }) →
        (∀ g b, imm.toNat < 12 → g = imm.toNat / 4 → b = imm.toNat % 4 →
          (∀ rb, (v.tile t).retired g = some rb → Ends (.bret rd ra imm) s
            (Became ((v.cur.block rd).advance 1) (gave v (.reply (if rb = b then 1#64 else 2#64))))) ∧
          ((v.tile t).retired g = none →
            Ends (.bret rd ra imm) s (Became ((v.cur.block rd).advance 1) (gave v (.retire g b))))) ∧
        (goodScrub → Ends (.bscrb rd ra imm) s (Became ((v.cur.block rd).advance 1) (gave v (.scrub first count 0)))) ∧
        (imm.toNat ≤ 0x38 → imm.toNat % 8 = 0 →
          Ends (.bstat false rd ra imm) s
            (Became ((v.cur.block rd).advance 1) (gave v (.reply ((v.tile t).cnt.get 0#64 imm.toNat)))) ∧
          (imm.toNat ≠ 0x38 → Ends (.bstat true rd ra imm) s (Became ((v.cur.block rd).advance 1)
            (gave (v.modTile t fun x => { x with cnt := x.cnt.put imm.toNat 0#64 })
              (.reply ((v.tile t).cnt.get 0#64 imm.toNat))))))))) ∧
  (∀ (x : Tile) (i g b : Nat) (j : TileJob), x.jobs[i]? = some j → j.work = .retire g b → (∀ p ∈ x.pipe, p.g ≠ g) →
    (∀ k y, k < i → x.jobs[k]? = some y → ∀ g' b', y.work = .retire g' b' → ∃ p ∈ x.pipe, p.g = g') →
    (x.retired g = none → x.retireStep = { x with
      cnt := x.cnt.put 0x38 (retireBits x.groups g b), jobs := x.jobs.set i { j with work := .reply 0#64 } }) ∧
    (∀ rb, x.retired g = some rb → x.retireStep =
      { x with jobs := x.jobs.set i { j with work := .reply (if rb = b then 1#64 else 2#64) } })) ∧
  (∀ (s : Machine.State) (t : Nat) (q : BankReq),
    (∃ j ∈ (s.tile t).jobs, ∃ b, j.work = .retire q.g b) → s.bankNeeds t q = none) ∧
  (∀ (j : TileJob) (w : Word) (s : Machine.State),
    (j.rd = 0#5 → j.answer w s = s) ∧
    (j.rd ≠ 0#5 → j.answer w s = s.modLan j.lan fun l => (l.setReg j.rd w).unblock j.rd))

/-- R261, R289: MPIN, MUNPN and MEVCT act on the launch buffer that holds x(ra); outside every buffer, rd is all ones.
MPIN counts a pin, 0 on the tiles and 1 off them, and 2, without a pin, of a count that is full; an evicted buffer moves
back first, and while it finds no room the instruction stands, one eviction at each attempt. MUNPN takes a pin back, if
there is one, and answers the new count. MEVCT answers 2 off the tiles and 1 of a pinned buffer; another it moves to
HBM. BUFFER_EVICTION moves the next victim of a die while a placement there wants tile space. `v` is the state once
earlier loads are performed. A speculative segment's pin commands wait for its commit. Where a buffer is placed, and that a move waits for the accesses of its range, are the
model's (log entries 29 and 30). -/
def Obligations.BufferPins : Prop :=
  ∀ (s v : Machine.State), v = s.performLoads s.focus →
    (∀ (rd ra : Reg), s.speculative s.focus = true →
      ∀ i ∈ [Instr.mpin rd ra, .munpn rd ra, .mevct rd ra], exec i s = .next s) ∧
    (∀ (rd ra : Reg), s.speculative s.focus = false →
      (∀ i ∈ [Instr.mpin rd ra, .munpn rd ra, .mevct rd ra], s.bufferAt s.focus (s.x ra) = none →
        Ends i s (Wrote rd 0xFFFFFFFFFFFFFFFF#64 1 s)) ∧
      ∀ id pasid n b, s.bufferAt s.focus (s.x ra) = some (id, pasid, n, b) →
        (b.pins = 65535 → Ends (.mpin rd ra) s (Wrote rd 2#64 1 v)) ∧
        (b.pins ≠ 65535 → b.onTiles = true → Ends (.mpin rd ra) s (Wrote rd 0#64 1 (v.setPins id n b (b.pins + 1)))) ∧
        (b.pins ≠ 65535 → b.onTiles = false → b.wasTiles = false →
          Ends (.mpin rd ra) s (Wrote rd 1#64 1 (v.setPins id n b (b.pins + 1)))) ∧
        (b.pins ≠ 65535 → b.onTiles = false → b.wasTiles = true →
          (∀ pa, v.backPlace id b = some pa → Ends (.mpin rd ra) s
            (Wrote rd 0#64 1 (v.moveBuffer id n { b with pins := b.pins + 1 } pa true))) ∧
          (v.backPlace id b = none → Ends (.mpin rd ra) s fun t => t = v.evictNext b.die)) ∧
        Ends (.munpn rd ra) s (Wrote rd (BitVec.ofNat 64 (b.pins - 1)) 1 (v.setPins id n b (b.pins - 1))) ∧
        (b.onTiles = false → Ends (.mevct rd ra) s (Wrote rd 2#64 1 v)) ∧
        (b.onTiles = true → b.pins ≠ 0 ∨ v.implicitPin pasid b = true → Ends (.mevct rd ra) s (Wrote rd 1#64 1 v)) ∧
        (b.onTiles = true → b.pins = 0 → v.implicitPin pasid b = false → v.moveBusy b = false →
          (∀ u, v.evict id n b = some u → Ends (.mevct rd ra) s (Wrote rd 0#64 1 u)) ∧
          (v.evict id n b = none → exec (.mevct rd ra) s = .next v)) ∧
        (b.onTiles = true → b.pins = 0 → v.implicitPin pasid b = false → v.moveBusy b = true →
          exec (.mevct rd ra) s = .next v)) ∧
    (∀ die, (s.wantsTile die = false → Ends (.bufferEviction die) s fun t => t = s) ∧
      (s.wantsTile die = true → s.victim die = none → Ends (.bufferEviction die) s fun t => t = s) ∧
      (∀ id n b, s.wantsTile die = true → s.victim die = some (id, n, b) →
        (s.moveBusy b = true → Ends (.bufferEviction die) s fun t => t = s) ∧
        (s.moveBusy b = false → Ends (.bufferEviction die) s fun t => t = (s.evict id n b).getD s)))

/-- R386, R396, R402 to R408, R411, R412: the commands that a Lantern gives about its own segment, entry `idx` of its die
with contents `g` of launch `l`; `v` is the state once earlier loads are performed. Each writes rd and goes on, and changes
only what is named: RESLV and COMMIT what a resolution and a release of staged writes change, the segment's deadline and
DEADLN, the launch's pool and BUDGET, or a predictor's entry. RESLV, COMMIT and a writing PRED of a speculative segment stand.
ABORT ends the segment, with or without a request for its re-queue. YIELD starts the segment's drain into a save area, and
the form that asks first answers 0 at once where no other segment would run in its place. SEGID of a segment on a die to which
the way is cut stands. On a Lantern without a segment, what a command answers is the model's choice (log entry 31). -/
def Obligations.SegmentCommands : Prop :=
  (∀ (s v : Machine.State) (rd ra : Reg), v = s.performLoads s.focus → v.resident v.focus = none →
    (∀ i ∈ [Instr.dline rd ra, .budgt rd ra, .segid rd ra], Ends i s (Wrote rd 0xFFFFFFFFFFFFFFFF#64 1 v)) ∧
    (s.speculative s.focus = false → Ends (.commit rd) s (Wrote rd 1#64 1 v))) ∧
  (∀ (s : Machine.State) (rd : Reg), s.resident s.focus = none →
    (∀ i ∈ [Instr.abortNorequeue, .abortRequeue], Ends i s (Became { s.cur with st := .idle } s)) ∧
    (∀ i ∈ [Instr.yield rd, .yieldIfWaiting rd], Ends i s (Wrote rd 0#64 1 s))) ∧
  ∀ (s v : Machine.State) (rd ra rb : Reg) (idx die : Nat) (g : Seg) (l : Launch),
    v = s.performLoads s.focus → v.resident v.focus = some (idx, g) → v.hub.launches.find g.launch = some l →
    die = lanDie v.focus →
    (s.speculative s.focus = true →
      ∀ i ∈ [Instr.reslv rd ra, .commit rd, .pred true rd ra rb], Ends i s fun t => t = s) ∧
    (s.speculative s.focus = false →
      (2 ^ 13 ≤ (s.x ra).toNat → Ends (.reslv rd ra) s (Wrote rd 0xFFFFFFFFFFFFFFFF#64 1 s)) ∧
      ((s.x ra).toNat < 2 ^ 13 → ∀ r : Nat × Nat × Machine.State,
        r = v.resolveSites die l.id g.pasid (v.resolveFuel die) [((s.x ra).toNat % 4096, (s.x ra).getLsbD 12)] →
        Ends (.reslv rd ra) s
          (Wrote rd (BitVec.ofNat 64 (min r.2.1 0xFFFF * 2 ^ 16 + min r.1 0xFFFF)) 1 (r.2.2.releaseAll die))) ∧
      (∀ k, v.stagedSet v.focus = some k → Ends (.commit rd) s (Wrote rd 0#64 1
        ((v.modBeacon die fun b => { b with commits := b.commits ++ [{ set := k, idx := idx, retire := false }] }).releaseAll
          die))) ∧
      (v.stagedSet v.focus = none → Ends (.commit rd) s (Wrote rd 1#64 1 v))) ∧
    (∀ w, w = false ∨ s.speculative s.focus = false →
      (2 ^ 12 ≤ (s.x ra).toNat → Ends (.pred w rd ra rb) s (Wrote rd 0xFFFFFFFFFFFFFFFF#64 1 s)) ∧
      ((s.x ra).toNat < 2 ^ 12 → ∀ p, p = (v.beacon die).predOf g.pasid (s.x ra).toNat →
        Ends (.pred w rd ra rb) s (Wrote rd (BitVec.ofNat 64 p) 1
          (v.setPred die g.pasid (s.x ra).toNat (if w then max 64 (min (s.x rb).toNat 32704) else p))))) ∧
    (∀ n d, s.resident s.focus = some (n, d) →
      (Ends .abortNorequeue s fun t => t = s.abortSeg (lanDie s.focus) n false) ∧
      (Ends .abortRequeue s fun t => t = s.abortSeg (lanDie s.focus) n true) ∧
      (d.preempt = true → (Ends (.yield rd) s fun t => t = s) ∧ Ends (.yieldIfWaiting rd) s fun t => t = s) ∧
      (d.preempt = false →
        (s.beaten (lanDie s.focus) d = false → Ends (.yieldIfWaiting rd) s (Wrote rd 0#64 1 s)) ∧
        ∀ u, v.startPreempt (lanDie s.focus) n s.cur.sup = some u →
          Ends (.yield rd) s (Wrote rd 1#64 1 u) ∧
          (s.beaten (lanDie s.focus) d = true → Ends (.yieldIfWaiting rd) s (Wrote rd 1#64 1 u))) ∧
      (d.preempt = false → v.startPreempt (lanDie s.focus) n s.cur.sup = none →
        Ends (.yield rd) s (Wrote rd 0#64 1 s) ∧
        (s.beaten (lanDie s.focus) d = true → Ends (.yieldIfWaiting rd) s (Wrote rd 0#64 1 s)))) ∧
    Ends (.dline rd ra) s (Wrote rd g.deadline 1
      ((v.modSeg die idx fun g => { g with deadline := s.x ra }).modCur fun l => { l with deadln := s.x ra })) ∧
    (s.x ra = 0#64 → Ends (.budgt rd ra) s (Wrote rd (BitVec.ofNat 64 (min l.pool (2 ^ 64 - 1))) 1 v)) ∧
    (s.x ra ≠ 0#64 → ∀ n, n = min (s.x ra).toNat l.pool →
      Ends (.budgt rd ra) s (Wrote rd (BitVec.ofNat 64 n) 1
        ((v.modLaunch l.id fun l => { l with pool := l.pool - n }).modCur fun l => { l with budget := satAdd l.budget n }))) ∧
    (s.x ra = 0#64 → Ends (.segid rd ra) s (Wrote rd (v.segWord g) 1 v)) ∧
    (s.x ra ≠ 0#64 →
      (∀ a b t, v.segAt (s.x ra) = some (a, b, t) → v.diesCut die a = true → exec (.segid rd ra) s = .next v) ∧
      (∀ a b t, v.segAt (s.x ra) = some (a, b, t) → v.diesCut die a = false →
        Ends (.segid rd ra) s (Wrote rd (if t.launch = l.id then v.segWord t else 0#64) 1 v)) ∧
      (v.segAt (s.x ra) = none → Ends (.segid rd ra) s (Wrote rd 0#64 1 v)))

/-- R216, R389, R390, R398, R399, R401, R404, R410: SPAWN, SPWNC, TAILW and the fabric's CRES. SPAWN and SPWNC read the
descriptor at x(ra), ALIGN where it is not 64-byte aligned; rd is an error value with reason 1 of a malformed one, 2 of a
die outside the launch and 3 of a condition that is malformed or names another die. Otherwise the segment is entered with
its factors in the pending table of its die before rd takes its identifier, once the table has room and it holds at most
four factors; until then the instruction stands, as it does while the way to the die is cut. TAILW hands the tail x(rb) of the ring at x(ra) to the Beacon of the ring's target
die, where a pull of the same ring takes it up: rd is 0, or 1 of a malformed header and 2 of a tail outside the ring. CRES resolves its site with its condition, or
holds the outcome while its segment is speculative. -/
def Obligations.SegmentSpawns : Prop :=
  (∀ (s v : Machine.State) (rd ra rb : Reg), v = s.performLoads s.focus →
    ((s.x ra).toNat % 64 ≠ 0 → ∀ i ∈ [Instr.spawn rd ra, .spwnc rd ra rb], Ends i s (TrappedHere cALIGN (s.x ra) s)) ∧
    ((s.x ra).toNat % 64 = 0 → ∀ (bs ex : List Byte) (u y : Machine.State) (idx : Nat) (g : Seg) (l : Launch),
      v.readVirt (s.x ra) 64 1 = .ok bs u →
      u.readVirt (BitVec.ofNat 64 (descTable bs)) (8 * descExtra bs) 1 = .ok ex y →
      y.resident y.focus = some (idx, g) → y.hub.launches.find g.launch = some l →
      ∀ (d : SegDesc) (die tgt : Nat), d = descOf bs ex → die = lanDie y.focus → tgt = (if d.die = 15 then die else d.die) →
      (segDescBad bs d l.clMax = true → ∀ i ∈ [Instr.spawn rd ra, .spwnc rd ra rb],
        Ends i s (Wrote rd 0x8000000000000001#64 1 y)) ∧
      (segDescBad bs d l.clMax = false → d.die ≠ 15 → l.dies ≤ d.die → ∀ i ∈ [Instr.spawn rd ra, .spwnc rd ra rb],
        Ends i s (Wrote rd 0x8000000000000002#64 1 y)) ∧
      (segDescBad bs d l.clMax = false → d.die = 15 ∨ d.die < l.dies → y.diesCut die tgt = true →
        ∀ i ∈ [Instr.spawn rd ra, .spwnc rd ra rb], exec i s = .next y) ∧
      (segDescBad bs d l.clMax = false → d.die = 15 ∨ d.die < l.dies → y.diesCut die tgt = false →
        (∀ fs, fs = (if g.isSpec then g.factors else []) →
          (4 < fs.length ∨ (y.beacon tgt).quarantined = true ∨ y.freeSeg tgt = none → Ends (.spawn rd ra) s fun t => t = y) ∧
          (fs.length ≤ 4 → (y.beacon tgt).quarantined = false → ∀ i, y.freeSeg tgt = some i →
            ∀ r, r = y.enterSeg tgt i l d (s.x ra) g.isSpec fs (some (segIdent die idx g.serial)) →
            Ends (.spawn rd ra) s (Wrote rd r.1 1 r.2))) ∧
        (condWord (s.x rb) d.like = none ∨ tgt ≠ die → Ends (.spwnc rd ra rb) s (Wrote rd 0x8000000000000003#64 1 y)) ∧
        (∀ c p z fs, condWord (s.x rb) d.like = some c → tgt = die → y.effectiveP die g.pasid c = (p, z) →
          fs = (if g.isSpec then g.factors else []) ++
            (if p = 0x8000 then [] else [{ site := c.2.2, side := c.2.1, cost := costOf p }]) →
          (4 < fs.length ∨ (z.beacon tgt).quarantined = true ∨ z.freeSeg tgt = none → Ends (.spwnc rd ra rb) s fun t => t = y) ∧
          (fs.length ≤ 4 → (z.beacon tgt).quarantined = false → ∀ i, z.freeSeg tgt = some i →
            ∀ r, r = z.enterSeg tgt i l d (s.x ra) (g.isSpec || decide (p ≠ 0x8000)) fs
              (some (segIdent die idx g.serial)) →
            Ends (.spwnc rd ra rb) s (Wrote rd r.1 1 r.2))))) ∧
    (s.speculative s.focus = true → Ends (.tailw rd ra rb) s fun t => t = s) ∧
    (s.speculative s.focus = false →
      ((s.x ra).toNat % 64 ≠ 0 → Ends (.tailw rd ra rb) s (TrappedHere cALIGN (s.x ra) s)) ∧
      ((s.x ra).toNat % 64 = 0 → ∀ h u idx g l, v.readVirt (s.x ra) 64 1 = .ok h u →
        u.resident u.focus = some (idx, g) → u.hub.launches.find g.launch = some l →
        (ringHeader h = none → Ends (.tailw rd ra rb) s (Wrote rd 1#64 1 u)) ∧
        (∀ base log tgt head n, ringHeader h = some (base, log, tgt, head) → n = (s.x rb).toNat →
          (n < head ∨ 2 ^ log < n - head → Ends (.tailw rd ra rb) s (Wrote rd 2#64 1 u)) ∧
          (head ≤ n → n - head ≤ 2 ^ log → u.diesCut (lanDie u.focus) tgt = true → exec (.tailw rd ra rb) s = .next u) ∧
          (head ≤ n → n - head ≤ 2 ^ log → u.diesCut (lanDie u.focus) tgt = false →
            (∃ q ∈ (u.beacon tgt).pulls, q.hdr = s.x ra ∧ q.pasid = g.pasid) →
            Ends (.tailw rd ra rb) s (Wrote rd 0#64 1 (u.modBeacon tgt fun b => { b with
              pulls := b.pulls.map fun q =>
                if decide (q.hdr = s.x ra ∧ q.pasid = g.pasid) then { q with tail := max q.tail n } else q }))) ∧
          (head ≤ n → n - head ≤ 2 ^ log → u.diesCut (lanDie u.focus) tgt = false → (∀ q ∈ (u.beacon tgt).pulls, q.hdr = s.x ra → q.pasid ≠ g.pasid) →
            Ends (.tailw rd ra rb) s (Wrote rd 0#64 1 (u.modBeacon tgt fun b => { b with
              pulls := b.pulls ++ [{ hdr := s.x ra, base := base, log := log, head := head, tail := n, pasid := g.pasid,
                                     launch := l.id, sender := segIdent (lanDie u.focus) idx g.serial, miss := Miss.zero,
                                     wait := false }] }))))))) ∧
  (∀ (f : Slot) (w : Fire) (s : Machine.State), Executes (.cres f) movesNone w s →
    exec (.cres f) s = .next ((consumed w s).cresOutcome (elTile w.el) (f.imm.toNat % 4096) (w.cond f.cin)))

/-- R308 to R315: phasers and barriers, once the request of the instruction is served at state `u`. An object of the wrong
kind, a full or empty field and an arrival too far ahead log a SYNC record, rd is all ones, and the object keeps its value.
PHNEW makes a phaser of an object that is not open. PHREG and PHDRP change its counts, PHSIG arrives, in the phase after the wait
table's or in the open one; each enters the phase it answers into the wait table, and PHDRP takes the object's entry out. PHWT
and PHSW stand at the engine until their phase has completed; a PHSW that has signalled and starts again only waits (log entry
15). BEXP and BADD set a barrier's expectation and add to its count. Each changes
its object, and releases those that wait on a phase it completes. -/
def Obligations.SyncPhasers : Prop :=
  ∀ (s u : Machine.State) (sc : BitVec 3) (rd ra rb : Reg) (mode : BitVec 32) (die a key : Nat) (va : Word),
    va = u.x ra → key = syncKey die a →
    (SyncAt ra 32 true s die a u →
      (u.sHas die a 32 = false → Ends (.phnew sc rd ra rb) s
        (Answered rd 0xFFFFFFFFFFFFFFFF#64 (u.syncLog u.focus va 2))) ∧
      (u.sHas die a 32 = true →
        (u.sKind die a ≠ 0 → Ends (.phnew sc rd ra rb) s (Answered rd 1#64 u)) ∧
        (u.sKind die a = 0 → 2 ^ 32 ≤ (u.x rb).toNat → Ends (.phnew sc rd ra rb) s (Answered rd 2#64 u)) ∧
        (u.sKind die a = 0 → (u.x rb).toNat < 2 ^ 32 → Ends (.phnew sc rd ra rb) s
          (Answered rd 0#64 (u.setPhaser die a
            { ovr := false, phase := 0, members := (u.x rb).toNat, waitOnly := 0, arrived := 0, carry := 0, regs := 0,
              drops := 0 })))) ∧
      (u.phaser? die a = none → ∀ i ∈ [Instr.phreg sc rd ra 0#32, .phreg sc rd ra 1#32, .phdrp sc rd ra 0#32,
          .phdrp sc rd ra 1#32, .phdrp sc rd ra 2#32, .phsig sc rd ra],
        Ends i s (Answered rd 0xFFFFFFFFFFFFFFFF#64 (u.syncLog u.focus va 2))) ∧
      (∀ p, u.phaser? die a = some p →
        (p.waitOnly = 2 ^ 32 - 1 → Ends (.phreg sc rd ra 1#32) s
          (Answered rd 0xFFFFFFFFFFFFFFFF#64 (u.syncLog u.focus va 4))) ∧
        (p.waitOnly ≠ 2 ^ 32 - 1 → Ends (.phreg sc rd ra 1#32) s
          (Answered rd (BitVec.ofNat 64 p.phase) (u.putPhaser die a { p with waitOnly := p.waitOnly + 1 }))) ∧
        (p.members = 0 → Ends (.phreg sc rd ra 0#32) s
          (Answered rd (BitVec.ofNat 64 p.phase) ((u.putPhaser die a { p with members := 1 }).modCur fun l =>
            l.remember key (BitVec.ofNat 32 p.phase - 1#32)))) ∧
        (p.members ≠ 0 → p.regs = 65535 → Ends (.phreg sc rd ra 0#32) s
          (Answered rd 0xFFFFFFFFFFFFFFFF#64 (u.syncLog u.focus va 4))) ∧
        (p.members ≠ 0 → p.regs ≠ 65535 → Ends (.phreg sc rd ra 0#32) s
          (Answered rd (BitVec.ofNat 64 ((p.phase + 1) % 2 ^ 32))
            ((u.putPhaser die a { p with regs := p.regs + 1 }).modCur fun l =>
              l.remember key (BitVec.ofNat 32 p.phase)))) ∧
        (p.waitOnly ≠ 0 → Ends (.phdrp sc rd ra 1#32) s
          (Answered rd (BitVec.ofNat 64 p.phase)
            ((u.putPhaser die a { p with waitOnly := p.waitOnly - 1 }).modCur fun l => l.forget key))) ∧
        (p.waitOnly = 0 → Ends (.phdrp sc rd ra 1#32) s
          (Answered rd 0xFFFFFFFFFFFFFFFF#64 (u.syncLog u.focus va 4))) ∧
        (p.drops = 65535 ∨ p.members + p.regs < p.drops + 1 → ∀ m ∈ [0#32, 2#32], Ends (.phdrp sc rd ra m) s
          (Answered rd 0xFFFFFFFFFFFFFFFF#64 (u.syncLog u.focus va 4))) ∧
        (p.drops ≠ 65535 → p.drops + 1 ≤ p.members + p.regs →
          Ends (.phdrp sc rd ra 0#32) s (Answered rd (BitVec.ofNat 64 ((p.phase + 1) % 2 ^ 32))
            ((u.putPhaser die a { p with drops := p.drops + 1 }).modCur fun l => l.forget key)) ∧
          ∀ q, q = ((u.cur.sigOf key).map fun v => (v + 1#32).toNat).getD p.phase →
            (Phaser.arrive { p with drops := p.drops + 1 } q = none → Ends (.phdrp sc rd ra 2#32) s
              (Answered rd 0xFFFFFFFFFFFFFFFF#64 (u.syncLog u.focus va 1))) ∧
            ∀ d, Phaser.arrive { p with drops := p.drops + 1 } q = some d →
              Ends (.phdrp sc rd ra 2#32) s (Answered rd (BitVec.ofNat 64 ((p.phase + 1) % 2 ^ 32))
                ((u.putPhaser die a d).modCur fun l => l.forget key))) ∧
        (∀ q, q = ((u.cur.sigOf key).map fun v => (v + 1#32).toNat).getD p.phase →
          (p.arrive q = none → Ends (.phsig sc rd ra) s
            (Answered rd 0xFFFFFFFFFFFFFFFF#64 (u.syncLog u.focus va 1))) ∧
          (∀ d, p.arrive q = some d → Ends (.phsig sc rd ra) s (Answered rd (BitVec.ofNat 64 q)
            ((u.putPhaser die a d).modCur fun l => l.remember key (BitVec.ofNat 32 q)))) ∧
          (p.arrive q = none → (∀ w, u.cur.phsw ≠ some (u.cur.pc, w)) → Ends (.phsw sc rd ra) s
            (Answered rd 0xFFFFFFFFFFFFFFFF#64 (u.syncLog u.focus va 1))) ∧
          (∀ d v phase, p.arrive q = some d → (∀ w, u.cur.phsw ≠ some (u.cur.pc, w)) →
            v = ((u.putPhaser die a d).modCur fun l =>
              { l.remember key (BitVec.ofNat 32 q) with phsw := some (l.pc, BitVec.ofNat 32 q) }) →
            v.phaseAt die a = some phase →
            (phaseDone phase (BitVec.ofNat 32 q) = true → Ends (.phsw sc rd ra) s
              (Answered rd ((BitVec.ofNat 32 q).setWidth 64) ((v.withdraw v.focus).modCur fun l => l.forget key))) ∧
            (phaseDone phase (BitVec.ofNat 32 q) = false → v.waitPhase v.focus die a ≠ none →
              Ends (.phsw sc rd ra) s fun t => t = v) ∧
            (phaseDone phase (BitVec.ofNat 32 q) = false → v.waitPhase v.focus die a = none →
              Ends (.phsw sc rd ra) s fun t => t = v.modSync die fun y => { y with
                waits := y.waits ++ [{ who := .lan v.focus rd, what := .phase (BitVec.ofNat 32 q), addr := a }] })))) ∧
      (u.phaser? die a = none → (∀ w, u.cur.phsw ≠ some (u.cur.pc, w)) → Ends (.phsw sc rd ra) s
        (Answered rd 0xFFFFFFFFFFFFFFFF#64 (u.syncLog u.focus va 2))) ∧
      (∀ q, u.cur.phsw = some (u.cur.pc, q) →
        (u.phaseAt die a = none → Ends (.phsw sc rd ra) s
          (Answered rd 0xFFFFFFFFFFFFFFFF#64 ((u.withdraw u.focus).syncLog u.focus va 2))) ∧
        (∀ phase, u.phaseAt die a = some phase →
          (phaseDone phase q = true → Ends (.phsw sc rd ra) s
            (Answered rd (q.setWidth 64) ((u.withdraw u.focus).modCur fun l => l.forget key))) ∧
          (phaseDone phase q = false → u.waitPhase u.focus die a ≠ none → Ends (.phsw sc rd ra) s fun t => t = u) ∧
          (phaseDone phase q = false → u.waitPhase u.focus die a = none →
            Ends (.phsw sc rd ra) s fun t => t = u.modSync die fun y => { y with
              waits := y.waits ++ [{ who := .lan u.focus rd, what := .phase q, addr := a }] }))) ∧
      (∀ o, o = (if u.sHas die a 32 && decide (u.sKind die a = 0) then some ⟨false, 0, 0, 0⟩ else u.barrier? die a) →
        (o = none → Ends (.bexp sc ra rb) s (Answered 0#5 0xFFFFFFFFFFFFFFFF#64 (u.syncLog u.focus va 2))) ∧
        (∀ b v, o = some b → v = u.putBarrier die a { b with expect := (u.x rb).toNat, ovr := false } →
          Ends (.bexp sc ra rb) s (Answered 0#5 0#64 ((if v.2 then v.1.syncLog v.1.focus va 1 else v.1).modCur fun l =>
            l.remember key (BitVec.ofNat 32 b.phase))))) ∧
      (u.barrier? die a = none → Ends (.badd sc rd ra rb) s
        (Answered rd 0xFFFFFFFFFFFFFFFF#64 (u.syncLog u.focus va 2))) ∧
      (∀ b, u.barrier? die a = some b →
        (u.x rb = 0#64 → Ends (.badd sc rd ra rb) s (Answered rd (BitVec.ofNat 64 b.phase)
          (u.modCur fun l => l.remember key (BitVec.ofNat 32 b.phase)))) ∧
        (u.x rb ≠ 0#64 → ∀ v, v = u.putBarrier die a { b with count := min (b.count + (u.x rb).toNat) (2 ^ 64 - 1) } →
          Ends (.badd sc rd ra rb) s (Answered rd (BitVec.ofNat 64 b.phase)
            ((if v.2 then v.1.syncLog v.1.focus va 1 else v.1).modCur fun l =>
              l.remember key (BitVec.ofNat 32 b.phase)))))) ∧
    (mode &&& 0xFFFFFFFE#32 ≠ 0#32 → Ends (.phreg sc rd ra mode) s (TrappedHere cILLOP (parcelOf (.phreg sc rd ra mode)) s)) ∧
    (mode &&& 0xFFFFFFFC#32 ≠ 0#32 ∨ mode = 3#32 →
      Ends (.phdrp sc rd ra mode) s (TrappedHere cILLOP (parcelOf (.phdrp sc rd ra mode)) s)) ∧
    (SyncAt ra 32 false s die a u →
      (u.phaseAt die a = none → Ends (.phwt ra) s
        (Answered 0#5 0xFFFFFFFFFFFFFFFF#64 ((u.withdraw u.focus).syncLog u.focus va 2))) ∧
      (∀ phase sig, u.phaseAt die a = some phase →
        sig = (u.waitPhase u.focus die a).getD ((u.cur.sigOf key).getD (BitVec.ofNat 32 phase)) →
        (phaseDone phase sig = true → Ends (.phwt ra) s
          (Answered 0#5 0#64 ((u.withdraw u.focus).modCur fun l => l.forget key))) ∧
        (phaseDone phase sig = false → u.waitPhase u.focus die a ≠ none → Ends (.phwt ra) s fun t => t = u) ∧
        (phaseDone phase sig = false → u.waitPhase u.focus die a = none →
          Ends (.phwt ra) s fun t => t = u.modSync die fun y =>
            { y with waits := y.waits ++ [{ who := .lan u.focus 0#5, what := .phase sig, addr := a }] })))

/-- R317 to R321: atomics, bin sets and queues, once the request of the instruction is served at state `u`. An atomic
answers the word as it was and stores the result of its operation; ACAS stores x(rb) where the word holds x(rd). FBCLR makes a
bin set with its bins zero; FBIN adds a value to one, and counts it; FBRD answers its FP64 value and raises the flags in FPFLAGS.
QPSH and QPOP serve the requests that stand before them, then push x(rb) or answer the entry at the head; a queue that is full or
empty raises QWAIT, or with B the request waits at the engine. An object of the wrong kind, and a queue whose head is
malformed, logs a SYNC record with reason 2. A Y-class instruction that writes waits while its segment is speculative or the way
to the object's die is cut, takes ALIGN off its alignment, and stops where its address does not translate. -/
def Obligations.SyncObjects : Prop :=
  ∀ (s u : Machine.State) (sc : BitVec 3) (rd ra rb : Reg) (die a : Nat) (va : Word), va = u.x ra →
    (SyncAt ra 8 true s die a u → ∀ (old v : Word), old = BitVec.ofNat 64 (u.sdw die a) → v = u.x rb →
      (∀ i n, (i, n) ∈
          [(Instr.aadd sc rd ra rb, old + v), (.aand sc rd ra rb, old &&& v), (.aor sc rd ra rb, old ||| v),
           (.axor sc rd ra rb, old ^^^ v), (.amin false sc rd ra rb, if v.toInt < old.toInt then v else old),
           (.amin true sc rd ra rb, if v.toNat < old.toNat then v else old),
           (.amax false sc rd ra rb, if old.toInt < v.toInt then v else old),
           (.amax true sc rd ra rb, if old.toNat < v.toNat then v else old), (.axch sc rd ra rb, v)] →
        Ends i s (Answered rd old (u.setSdw die a n.toNat))) ∧
      (old = u.x rd → Ends (.acas sc rd ra rb) s (Answered rd old (u.setSdw die a v.toNat))) ∧
      (old ≠ u.x rd → Ends (.acas sc rd ra rb) s (Answered rd old u))) ∧
    (SyncAt ra 16 true s die a u →
      (∀ w nb e0 m, w = (u.x rb).toNat → m = 4 * 2 ^ 60 + w → nb = w / 2 ^ 48 % 64 + 1 → e0 = (BitVec.ofNat 16 w).toInt →
        w / 2 ^ 54 = 0 → w / 2 ^ 16 % 2 ^ 32 = 0 → -16446 ≤ e0 → e0 ≤ 16383 → u.sKind die a = 0 ∨ u.sKind die a = 4 →
        u.sHas die a (16 + 8 * nb) = true → Ends (.fbclr sc ra rb) s
          (Answered 0#5 0#64 (u.setSdws die a (m :: List.replicate (1 + nb) 0)))) ∧
      (∀ w nb e0, w = (u.x rb).toNat → nb = w / 2 ^ 48 % 64 + 1 → e0 = (BitVec.ofNat 16 w).toInt →
        (w / 2 ^ 54 ≠ 0 ∨ w / 2 ^ 16 % 2 ^ 32 ≠ 0 ∨ e0 < -16446 ∨ 16383 < e0 ∨ u.sKind die a ≠ 0 ∧ u.sKind die a ≠ 4) ∨
          u.sHas die a (16 + 8 * nb) = false →
        Ends (.fbclr sc ra rb) s (Answered 0#5 0xFFFFFFFFFFFFFFFF#64 (u.syncLog u.focus va 2))) ∧
      (u.binSet? die a = none → Ends (.fbin sc ra rb) s
        (Answered 0#5 0xFFFFFFFFFFFFFFFF#64 (u.syncLog u.focus va 2))) ∧
      (∀ n t, u.engBin die a (floatLoad 0 (u.x rb).toNat) = .ok n none false t →
        Ends (.fbin sc ra rb) s (Answered 0#5 (BitVec.ofNat 64 n) t))) ∧
    (SyncAt ra 16 false s die a u →
      (u.engRead die a (u.cur.fpmode.extractLsb' 0 2) = none → Ends (.fbrd rd ra) s
        (Answered rd 0xFFFFFFFFFFFFFFFF#64 (u.syncLog u.focus va 2))) ∧
      (∀ r, u.engRead die a (u.cur.fpmode.extractLsb' 0 2) = some r → Ends (.fbrd rd ra) s
        (Answered rd r.val (u.modCur fun l => { l with fpflags := l.fpflags ||| r.flags.setWidth 64 })))) ∧
    (SyncAt ra 32 true s die a u → ((u.sync die).waits.any fun w => w.ofLan u.focus) = true → ∀ b : Bool,
      Ends (.qpsh b sc ra rb) s (fun t => t = u.serveAll die a) ∧ Ends (.qpop b sc rd ra) s fun t => t = u.serveAll die a) ∧
    (SyncAt ra 32 true s die a u → ((u.sync die).waits.any fun w => w.ofLan u.focus) = false →
      ∀ w : Machine.State, w = u.serveAll die a → ∀ b : Bool,
      (w.queue? die a = none →
        Ends (.qpsh b sc ra rb) s (Answered 0#5 0xFFFFFFFFFFFFFFFF#64 (u.syncLog u.focus va 2)) ∧
        Ends (.qpop b sc rd ra) s (Answered rd 0xFFFFFFFFFFFFFFFF#64 (u.syncLog u.focus va 2))) ∧
      (∀ q, w.queue? die a = some q →
        (q.used ≠ q.cap → ∀ t, t = (w.pushEntry die a q fmtI64 ((u.x rb).setWidth 80)).serveAll die a →
          exec (.qpsh b sc ra rb) s = .next (t.finishLan u.focus 0#5 0#64)) ∧
        (q.used ≠ 0 → w.headBad die a q = true →
          Ends (.qpop b sc rd ra) s (Answered rd 0xFFFFFFFFFFFFFFFF#64 (u.syncLog u.focus va 2))) ∧
        (q.used ≠ 0 → w.headBad die a q = false → ∀ r t, r = w.popEntry die a q → t = r.2.serveAll die a →
          exec (.qpop b sc rd ra) s = .next (t.finishLan u.focus rd r.1)) ∧
        (q.used = q.cap → Ends (.qpsh false sc ra rb) s (TrappedHere cQWAIT va u) ∧
          Ends (.qpsh true sc ra rb) s fun t => t = u.modSync die fun y => { y with
            waits := y.waits ++ [{ who := .lan u.focus 0#5, what := .push fmtI64 ((u.x rb).setWidth 80), addr := a }] }) ∧
        (q.used = 0 → Ends (.qpop false sc rd ra) s (TrappedHere cQWAIT va u) ∧
          Ends (.qpop true sc rd ra) s fun t => t = u.modSync die fun y => { y with
            waits := y.waits ++ [{ who := .lan u.focus rd, what := .pop va, addr := a }] }))) ∧
    (∀ (m1 m2 : BitVec 32) (min_ max_ b1 b2 : Bool) i al w, m1 ∈ [0#32, 1#32] → m2 ∈ [0#32, 1#32, 2#32] → (i, al, w) ∈
        [(Instr.phnew sc rd ra rb, 32, true), (.phreg sc rd ra m1, 32, true), (.phdrp sc rd ra m2, 32, true),
         (.phsig sc rd ra, 32, true), (.phwt ra, 32, false), (.phsw sc rd ra, 32, true), (.bexp sc ra rb, 32, true),
         (.badd sc rd ra rb, 32, true), (.aadd sc rd ra rb, 8, true), (.aand sc rd ra rb, 8, true), (.aor sc rd ra rb, 8, true),
         (.axor sc rd ra rb, 8, true), (.amin min_ sc rd ra rb, 8, true), (.amax max_ sc rd ra rb, 8, true),
         (.axch sc rd ra rb, 8, true), (.acas sc rd ra rb, 8, true), (.fbin sc ra rb, 16, true), (.fbrd rd ra, 16, false),
         (.fbclr sc ra rb, 16, true), (.qpsh b1 sc ra rb, 32, true), (.qpop b2 sc rd ra, 32, true)] →
      (w = true → s.speculative s.focus = true → Ends i s fun t => t = s) ∧
      (w = false ∨ s.speculative s.focus = false →
        ((s.x ra).toNat % al ≠ 0 → Ends i s (TrappedHere cALIGN (s.x ra) s)) ∧
        ((s.x ra).toNat % al = 0 → ∀ t, (s.performLoads s.focus).syncAddr (s.x ra) w = .stop t → Ends i s fun v => v = t) ∧
        ((s.x ra).toNat % al = 0 → ∀ p t, (s.performLoads s.focus).syncAddr (s.x ra) w = .ok p t →
          t.diesCut (lanDie t.focus) p.1 = true → Ends i s fun v => v = t)))

/-- R323 to R329, R331, R333 to R336, R339: the copy instructions. A copy of no bytes answers 0; any other takes the
lowest free channel of its die in arrival order, blocks rd and goes on, and stands while there is none. CPYQ answers the
state of a token register and the channels, or of a package link. COPY_COMPLETE carries a channel out: a copy of 2^40
bytes or more ends with error 5, an RCPY with nonzero top bits of its address with 6 and to a link that is down with 7;
a failed translation waits or ends it, as one of its barrier waits; bad data ends it; once every byte has been read and its writes
are performed, the barrier takes the bytes, the token register the byte count, and the channel is free. A speculative segment's
add is held with its staged writes. An RCPY is cut into packets of 256 bytes while the replay buffer has room. That a copy is
performed at one moment is the model's choice (log entry 20), and when an RCPY of a speculative segment copies its reading (log
entry 54). -/
def Obligations.CopyCommands : Prop :=
  (∀ (s v : Machine.State) (sc : BitVec 3) (rd ra rs rl rbar : Reg), v = s.performLoads s.focus →
    ((s.x ra).toNat % 32 ≠ 0 → Ends (.cpy2 sc rd ra rbar) s (TrappedHere cALIGN (s.x ra) s)) ∧
    (s.speculative s.focus = true → Ends (.rcpy sc rd ra rs rl rbar) s fun t => t = s) ∧
    (∀ i u kind dst src len,
      (i = .cpy sc rd ra rs rl rbar ∧ u = v ∧ kind = CopyKind.flat ∧ dst = s.x ra ∧ src = s.x rs ∧ len = (s.x rl).toNat) ∨
      (i = .rcpy sc rd ra rs rl rbar ∧ s.speculative s.focus = false ∧ u = v ∧ kind = .remote ∧ dst = s.x ra ∧ src = s.x rs ∧
        len = (s.x rl).toNat) ∨
      (i = .cpy2 sc rd ra rbar ∧ (s.x ra).toNat % 32 = 0 ∧ ∃ d, v.readVirt (s.x ra) 32 1 = .ok d u ∧
        kind = .block (fieldAt d 16 4) (fieldAt d 20 4) (BitVec.ofNat 32 (fieldAt d 24 4)) (BitVec.ofNat 32 (fieldAt d 28 4)) ∧
        dst = BitVec.ofNat 64 (fieldAt d 0 8) ∧ src = BitVec.ofNat 64 (fieldAt d 8 8) ∧
        len = fieldAt d 16 4 * fieldAt d 20 4) →
      (len = 0 → Ends i s (Wrote rd 0#64 1 u)) ∧
      (len ≠ 0 → ∀ die q, die = lanDie u.focus →
        q = (if (u.copyWaiters die).contains (u.focus, u.cur.pc) then u.copyWaiters die
          else u.copyWaiters die ++ [(u.focus, u.cur.pc)]) →
        (u.freeChan die = none ∨ q.head? ≠ some (u.focus, u.cur.pc) →
          Ends i s fun t => t = { u with copyq := u.copyq.put die q }) ∧
        (∀ ch c, u.freeChan die = some ch → q.head? = some (u.focus, u.cur.pc) →
          c = { lan := u.focus, seg := u.cur.segid, launch := u.cur.launch.toNat, pasid := u.cur.pasid, sup := u.cur.sup,
                kind := kind, rd := rd, dst := dst, src := src, len := len,
                bar := if rbar = 0#5 then none else some (u.x rbar), scope := sc, wait := false, miss := Miss.zero,
                moved := 0, entWait := none, fin := false } →
          Ends i s fun t => t = ({ u with copyq := u.copyq.put die q.tail, chans := u.chans.put (chanKey die ch) c } :
            Machine.State).modCur fun l => (l.block rd).advance 1))) ∧
    (∀ k : BitVec 32,
      (34 ≤ k.toNat → Ends (.cpyq rd k) s (TrappedHere cILLOP (parcelOf (.cpyq rd k)) s)) ∧
      (∀ mine, k.toNat < 32 → mine = s.chans.filter (fun c => decide (c.2.lan = s.focus)) →
        Ends (.cpyq rd k) s (Wrote rd (BitVec.ofNat 64
          ((if s.copyPends k.toNat then 1 else 0) +
            mine.length * 2 ^ 8 + ((List.range 16).filter (s.chanFree (lanDie s.focus))).length * 2 ^ 16)) 1 v)) ∧
      (∀ l, 32 ≤ k.toNat → k.toNat < 34 → l = s.link (k.toNat - 32) →
        Ends (.cpyq rd k) s (Wrote rd (BitVec.ofNat 64
          (l.width + (if l.retrain then 4 else 0) + l.rbuf.length * 8 + l.lastAck.toNat * 2 ^ 12)) 1 v)))) ∧
  (∀ (s : Machine.State) (die ch : Nat) (o : Option Chan), o = s.chans.find (chanKey die ch) →
    (o = none → Ends (.copyComplete die ch) s fun t => t = s) ∧
    (∀ c, o = some c →
      (c.wait = true → Ends (.copyComplete die ch) s fun t => t = s) ∧
      (c.wait = false → c.fin = true → Ends (.copyComplete die ch) s fun t => t = if s.postsDue then s else s.copyFinish die ch c) ∧
      (c.wait = false → c.fin = false → c.kind = .remote →
        (2 ^ 40 ≤ c.len → Ends (.copyComplete die ch) s fun t => t = s.copyError die ch c 5 0) ∧
        (c.len < 2 ^ 40 → c.dst.toNat / 2 ^ 57 ≠ 0 → Ends (.copyComplete die ch) s fun t => t = s.copyError die ch c 6 0) ∧
        (c.len < 2 ^ 40 → c.dst.toNat / 2 ^ 57 = 0 → (s.link (rcpyLink c.dst)).width = 0 →
          Ends (.copyComplete die ch) s fun t => t = s.copyError die ch c 7 c.moved) ∧
        (c.len < 2 ^ 40 → c.dst.toNat / 2 ^ 57 = 0 → (s.link (rcpyLink c.dst)).width ≠ 0 →
          (∀ va reason, s.barWalk die c = some (va, reason) →
            Ends (.copyComplete die ch) s fun t => t = s.copyFails die ch c ⟨0, 0, va, reason⟩ 8) ∧
          (s.barWalk die c = none → Ends (.copyComplete die ch) s fun t => t = s.rcpySend die ch 256))) ∧
      (c.wait = false → c.fin = false → c.kind ≠ .remote →
        (2 ^ 40 ≤ c.total → Ends (.copyComplete die ch) s fun t => t = s.copyError die ch c 5 0) ∧
        (c.total < 2 ^ 40 → ∀ p, p = s.copyPlan die c →
          (((p.from_ ++ p.to_).any fun x => p.s.homeCut die x.pa x.kind) = true →
            Ends (.copyComplete die ch) s fun t => t = p.s) ∧
          (((p.from_ ++ p.to_).any fun x => p.s.homeCut die x.pa x.kind) = false →
            (∀ f, earlier p.src p.dst = some f → f.code = 0 → Ends (.copyComplete die ch) s fun t =>
              t = p.s.copyFails die ch c f (copyAccess (decide (p.src.map (·.off) ≠ some f.off)))) ∧
            ((∀ f, earlier p.src p.dst = some f → f.code ≠ 0) →
              (∀ va reason, p.s.barWalk die c = some (va, reason) →
                Ends (.copyComplete die ch) s fun t => t = p.s.copyFails die ch c ⟨0, 0, va, reason⟩ 8) ∧
              (p.s.barWalk die c = none → ∀ bad bs u data, p.s.copyReads die ch c p.from_ = (bad, bs, u) →
                data = c.shown u.free p (layOut 0 bs) →
                (∀ f, earlier (earlier p.src p.dst) bad = some f → Ends (.copyComplete die ch) s fun t =>
                  t = ((u.spend.copyWrite die ch c p.to_ (openBytes u.free f.off data)).getD u.spend).copyFails die ch c f
                    (copyAccess (decide (p.src.map (·.off) ≠ some f.off)))) ∧
                (earlier (earlier p.src p.dst) bad = none →
                  (∀ v, u.spend.copyWrite die ch c p.to_ data = some v → Ends (.copyComplete die ch) s fun t =>
                    t = if v.postsDue then v.modChan die ch fun c => { c with fin := true } else v.copyFinish die ch c) ∧
                  (u.spend.copyWrite die ch c p.to_ data = none → Ends (.copyComplete die ch) s fun t =>
                    t = u.spend.modChan die ch fun y => { y with
                      entWait := (p.to_.findSome? fun e => u.spend.stageBlock c.lan e.pa (List.replicate e.n 0#8)) }))))))))) ∧
  (∀ (s : Machine.State) (die ch : Nat) (c : Chan),
    (c.bar = none → s.copyFinish die ch c = s.copyToken die ch c c.total) ∧
    (∀ va at_ u, c.bar = some va → s.copyBar die c va = (at_, u) →
      (∀ idx, s.chanStaged c = some idx → s.copyFinish die ch c =
        (u.modSync ((at_.map (·.1)).getD die) fun y => { y with held := y.held ++
          [{ copy := true, none_ := at_.isNone, seg := segKey die idx, addr := (at_.map (·.2)).getD 0, add := c.total,
             log := chanRecord ch kSYNC va 0 }] }).copyToken die ch c c.total) ∧
      (s.chanStaged c = none → at_ = none → s.copyFinish die ch c =
        (u.raise (s.chanLead c) die (chanRecord ch kSYNC va 0)).copyToken die ch c (2 ^ 62 + c.total)) ∧
      (∀ d a w reason, s.chanStaged c = none → at_ = some (d, a) → u.engCount d a c.total = (w, reason) →
        (reason = none → s.copyFinish die ch c = w.copyToken die ch c c.total) ∧
        (∀ r, reason = some r → s.copyFinish die ch c =
          (w.raise (s.chanLead c) die (chanRecord ch kSYNC va r)).copyToken die ch c (if r = 1 then c.total else 2 ^ 62 + c.total)))) ∧
    (∀ n u, u = ({ s.orphan die ch with chans := s.chans.del (chanKey die ch) } : Machine.State) →
      ((u.lan c.lan).st ≠ .idle → (u.lan c.lan).segid = c.seg → s.copyToken die ch c n =
        u.modLan c.lan fun l => (l.setReg c.rd (BitVec.ofNat 64 n)).unblock c.rd) ∧
      ((u.lan c.lan).st = .idle ∨ (u.lan c.lan).segid ≠ c.seg → s.copyToken die ch c n = u)) ∧
    (∀ m k l, s.chans.find (chanKey die ch) = some c → k = rcpyLink c.dst → l = s.link k →
      (c.wait = true ∨ c.len ≤ c.moved ∨ 256 ≤ l.rbuf.length ∨ s.hubCut die = true → s.rcpySend die ch (m + 1) = s) ∧
      (c.wait = false → c.moved < c.len → l.rbuf.length < 256 → s.hubCut die = false → ∀ off n f ps u,
        off = rcpyOff c.dst + BitVec.ofNat 48 c.moved → n = min (256 - off.toNat % 256) (c.len - c.moved) →
        s.copySide die c false (c.src + BitVec.ofNat 64 c.moved) n c.moved = (f, ps, u) →
        (ps.any fun x => s.homeCut die x.pa x.kind) = false →
        (∀ x, f = some x → s.rcpySend die ch (m + 1) = u.copyFails die ch c x (copyAccess false)) ∧
        (∀ bad bs v, f = none → u.copyReads die ch c ps = (bad, bs, v) →
          (∀ x, bad = some x → s.rcpySend die ch (m + 1) = v.copyFails die ch c x (copyAccess false)) ∧
          (∀ p, bad = none → p = ({
              seq := l.nextSeq, lastp := decide (c.moved + n = c.len), win := rcpyWin c.dst, off := off
              sdie := BitVec.ofNat 4 die, schan := BitVec.ofNat 4 ch, data := (bs.map (·.2)).flatten } : Packet) →
            s.rcpySend die ch (m + 1) = ((v.modLink k fun l => { l with
              nextSeq := l.nextSeq + 1#12, rbuf := l.rbuf ++ [p],
              wire := if l.up then l.wire ++ [p] else l.wire,
              since := if l.rbuf.isEmpty then s.tick else l.since }).modChan die ch fun c =>
                { c with moved := c.moved + n }).rcpySend die ch m)))))

/-- R337, R339, R340, R427: the package links. An acknowledgement frees the packets up to it, a request for replay puts
the rest on the wire again, and so does a timeout. A packet with a bad CRC, a nonzero zero field or out of sequence asks for
replay, one behind is acknowledged again, an acknowledgement that rides on a packet counts first, and the next in sequence is written into its window and acknowledged, or refused where the
window does not take it. A lane failure of a full-width link retrains it on the other half, at once or at the host's go;
one in the remaining half takes the link down; a retrained link comes back and replays. How a refused window is answered
is the model's reading (log entry 37), and the parameters of the CRC are presumed (log entry 36). -/
def Obligations.PackageLinks : Prop :=
  ∀ (s : Machine.State) (k : Nat) (l : Link), l = s.link k →
    (∀ flits ack refused, l.up = false → ∀ i ∈ [Instr.linkPacketReceive k flits, .linkAckReceive k ack refused,
      .linkNakReceive k ack, .linkReplayTimeout k], Ends i s fun t => t = s) ∧
    (l.up = true → ∀ (ack : BitVec 12) (refused : List (BitVec 12)) (n : Nat) (gone : List Packet),
      n = (ack - l.lastAck).toNat → gone = (l.rbuf.take n).filter (fun p => !l.dead.contains p.seq) →
      (n = 0 ∨ l.rbuf.length < n → (Ends (.linkAckReceive k ack refused) s fun t => t = s) ∧
        Ends (.linkNakReceive k ack) s fun t => t = s.modLink k fun l => l.replay s.tick) ∧
      (Ends (.linkNakReceive k ack) s fun t => t = (s.linkAck k ack []).modLink k fun l => l.replay (s.linkAck k ack []).tick) ∧
      (n ≠ 0 → n ≤ l.rbuf.length → Ends (.linkAckReceive k ack refused) s fun t =>
        t = (packetChans gone).foldl (fun s d => s.rcpyDone d.1 d.2)
          ((s.modLink k fun l => { l with
            rbuf := l.rbuf.drop n, lastAck := ack, since := s.tick
            dead := (l.dead.filter fun q => !(l.rbuf.take n).any fun p => p.seq == q) }).failPackets 6
            (gone.filter fun p => refused.contains p.seq)))) ∧
    (l.up = true → ∀ flits,
      (readFlits flits = none → Ends (.linkPacketReceive k flits) s fun t =>
        t = s.modLink k fun l => { l with ackOut := l.ackOut ++ [(l.expect - 1#12, .nak)] }) ∧
      (∀ data ack u, readFlits flits = some ⟨data, ack⟩ →
        u = ack.elim s (fun a => if a.2 then s.linkNak k a.1 else s.linkAck k a.1 []) →
        (data = none → Ends (.linkPacketReceive k flits) s fun t => t = u) ∧
        (∀ p behind, data = some p → behind = ((u.link k).expect - p.seq).toNat →
          (2048 < behind → Ends (.linkPacketReceive k flits) s fun t =>
            t = u.modLink k fun l => { l with ackOut := l.ackOut ++ [(l.expect - 1#12, .nak)] }) ∧
          (1 ≤ behind → behind ≤ 2048 → Ends (.linkPacketReceive k flits) s fun t =>
            t = u.modLink k fun l => { l with ackOut := l.ackOut ++ [(l.expect - 1#12, .ack)] }) ∧
          (behind = 0 → u.inboundAt p = none → Ends (.linkPacketReceive k flits) s fun t =>
            t = u.modLink k fun l => { l with expect := l.expect + 1#12, ackOut := l.ackOut ++ [(p.seq, .refused)] }) ∧
          (∀ pa kind v w owed, behind = 0 → u.inboundAt p = some (pa, kind) →
            v = (u.modLink k fun l => { l with inward := l.inwardAfter p }) → v.writeHome pa 0 p.data kind = (w, owed) →
            Ends (.linkPacketReceive k flits) s fun t =>
              t = ((w.raiseHome none 0 (unitRecord 7#3 0) kind owed).inboundBar p).modLink k fun l =>
                { l with expect := l.expect + 1#12, ackOut := l.ackOut ++ [(p.seq, .ack)] })))) ∧
    (l.up = true → (l.rbuf ≠ [] → 16384 ≤ s.tick - l.since →
        Ends (.linkReplayTimeout k) s fun t => t = s.modLink k fun l => l.replay s.tick) ∧
      (l.rbuf = [] ∨ s.tick - l.since < 16384 → Ends (.linkReplayTimeout k) s fun t => t = s)) ∧
    (∀ lane,
      (l.width = 0 → Ends (.linkLaneFailure k lane) s fun t => t = s) ∧
      (l.width ≠ 0 → (l.retrain || l.pend) = true → laneIn l.next lane = true →
        Ends (.linkLaneFailure k lane) s fun t => t = s.linkDown k) ∧
      (l.width ≠ 0 → (l.retrain || l.pend) = true → laneIn l.next lane = false →
        Ends (.linkLaneFailure k lane) s fun t => t = s) ∧
      (l.width = 1 → (l.retrain || l.pend) = false → Ends (.linkLaneFailure k lane) s fun t =>
        t = s.modLink k fun l => { l with next := if lane < 8 then 3 else 2, retrain := !l.hostrt, pend := l.hostrt }) ∧
      (2 ≤ l.width → (l.retrain || l.pend) = false → laneIn l.width lane = true →
        Ends (.linkLaneFailure k lane) s fun t => t = s.linkDown k) ∧
      (2 ≤ l.width → (l.retrain || l.pend) = false → laneIn l.width lane = false →
        Ends (.linkLaneFailure k lane) s fun t => t = s)) ∧
    (l.retrain = true → Ends (.linkRetrainDone k) s fun t =>
      t = s.modLink k fun l => ({ l with width := l.next, retrain := false } : Link).replay s.tick) ∧
    (l.retrain = false → Ends (.linkRetrainDone k) s fun t => t = s) ∧
    (l.pend = true → Ends (.linkRetrainGo k) s fun t => t = s.modLink k fun l => { l with pend := false, retrain := true }) ∧
    (l.pend = false → Ends (.linkRetrainGo k) s fun t => t = s)

/-- R428 to R441: the P-class instructions, which only supervisor mode runs, and the events of the units they set. An
operand outside its limits makes rd all ones and has no other effect. TLBI removes the translations of a page, a PASID
or all, once the accesses made by them are performed. WMODE writes MODE and answers the old value. SPARE answers and
changes the state word of a row: its interval, the element it replaces (waiting while that holds a context), the
suspicion it holds, its position. QCTL answers dword 0 of an interface and revokes, kills or frees it. DIEQ fences
clusters, waiting until they are, releases them and says how they stand. BINJ flips one or two bits of a stored word, or
makes a spare's next comparison fail. At its interval a spare moves on, or asks the host; a mismatch holds it with SUSP
and logs SUSPECT. A failed edge of a die whose MODE.RETRAIN is 1 asks the host through the hub and holds its traffic until the
host's go. What a remap waits for, and what an edge holds, are the model's readings (log entries 49 and 50). -/
def Obligations.ReliabilityInstructions : Prop :=
  (∀ (s v : Machine.State) (rd ra rb : Reg) (n m : Nat), v = s.performLoads s.focus → n = (s.x ra).toNat → m = (s.x rb).toNat →
    (∀ w, w = s.performAll →
      (∀ i k p, (i = .tlbiPage rd ra rb ∧ n / 2 ^ 20 = 0 ∧ k = TlbiKind.page m (n % 2 ^ 20) ∧ p = some (n % 2 ^ 20)) ∨
          (i = .tlbiPasid rd ra rb ∧ n / 2 ^ 20 = 2 ^ 42 ∧ s.x rb = 0#64 ∧ k = .pasid (n % 2 ^ 20) ∧ p = some (n % 2 ^ 20)) ∨
          (i = .tlbiAll rd ra rb ∧ n = 2 ^ 63 ∧ s.x rb = 0#64 ∧ k = .all ∧ p = none) →
        (w.bankBusy p = true → Ends i s fun t => t = w) ∧
        (w.bankBusy p = false → Ends i s (Wrote rd 0#64 1 (w.tlbi k)))) ∧
      (n / 2 ^ 20 % 2 ^ 42 ≠ 0 → ∀ i ∈ [Instr.tlbiPage rd ra rb, .tlbiPasid rd ra rb, .tlbiAll rd ra rb],
        Ends i s (Wrote rd 0xFFFFFFFFFFFFFFFF#64 1 s))) ∧
    (n < 8 → Ends (.wmode rd ra rb) s (Wrote rd (s.modeOf n) 1 (v.setMode n (s.x rb)))) ∧
    (8 ≤ n → Ends (.wmode rd ra rb) s (Wrote rd 0xFFFFFFFFFFFFFFFF#64 1 s)) ∧
    (rowOf (s.x ra) = none ∨ spareOp (s.x rb) = none →
      ∀ i ∈ [Instr.spareRead rd ra rb, .spareSetInterval rd ra rb, .spareRemap rd ra rb, .spareClear rd ra rb,
        .spareSetPos rd ra rb], Ends i s (Wrote rd 0xFFFFFFFFFFFFFFFF#64 1 s)) ∧
    (∀ die row arg old, rowOf (s.x ra) = some (die, row) → old = v.spare die row →
      (spareOp (s.x rb) = some (0, arg) → Ends (.spareRead rd ra rb) s (Wrote rd old 1 v)) ∧
      (spareOp (s.x rb) = some (1, arg) →
        (0 < arg ∧ arg < 1024 → Ends (.spareSetInterval rd ra rb) s (Wrote rd 0xFFFFFFFFFFFFFFFF#64 1 v)) ∧
        (arg = 0 ∨ 1024 ≤ arg → Ends (.spareSetInterval rd ra rb) s (Wrote rd old 1
          (({ v with spareAt := v.spareAt.put (spareKey die row) v.tick } : Machine.State).setSpare die row
            (setBits old 16 32 arg))))) ∧
      (spareOp (s.x rb) = some (2, arg) →
        (111 < arg → Ends (.spareRemap rd ra rb) s (Wrote rd 0xFFFFFFFFFFFFFFFF#64 1 v)) ∧
        (arg ≤ 111 → spRmap old = true → Ends (.spareRemap rd ra rb) s (Wrote rd 2#64 1 v)) ∧
        (arg ≤ 111 → spRmap old = false → v.hasContext (spareEl die row arg) = true →
          Ends (.spareRemap rd ra rb) s fun t => t = { v with
            spareq := (v.spareq.filter fun w => decide (w.1 ≠ v.focus)) ++ [(v.focus, v.cur.pc, spareEl die row arg)] }) ∧
        (arg ≤ 111 → spRmap old = false → v.hasContext (spareEl die row arg) = false →
          Ends (.spareRemap rd ra rb) s (Wrote rd 0#64 1
            (({ v with spareq := v.spareq.filter fun w => decide (w.1 ≠ v.focus) } : Machine.State).setSpare die row
              (setBits (setBits (setBits old 63 1 1) 56 7 arg) 15 1 1))))) ∧
      (spareOp (s.x rb) = some (3, arg) → Ends (.spareClear rd ra rb) s
        (Wrote rd old 1 (v.setSpare die row (setBits (setBits old 48 8 0) 15 1 0)))) ∧
      (spareOp (s.x rb) = some (4, arg) →
        (111 < arg → Ends (.spareSetPos rd ra rb) s (Wrote rd 0xFFFFFFFFFFFFFFFF#64 1 v)) ∧
        (arg ≤ 111 → (spSusp old || spRmap old) = true → Ends (.spareSetPos rd ra rb) s (Wrote rd 3#64 1 v)) ∧
        (arg ≤ 111 → (spSusp old || spRmap old) = false → Ends (.spareSetPos rd ra rb) s (Wrote rd old 1
          ((v.modHub fun h => { h with askHost := h.askHost.filter fun a => decide (a ≠ (die, row)) }).setSpare die row
            (setBits old 0 7 arg)))))) ∧
    (4096 ≤ n → ∀ i ∈ [Instr.qctlRead rd ra rb, .qctlRevoke rd ra rb, .qctlKill rd ra rb, .qctlRelease rd ra rb],
      Ends i s (Wrote rd 0xFFFFFFFFFFFFFFFF#64 1 s)) ∧
    (n < 4096 →
      (m = 0 → Ends (.qctlRead rd ra rb) s (Wrote rd (v.iface n).d0 1 v)) ∧
      (m = 1 → Ends (.qctlRevoke rd ra rb) s (Wrote rd (v.iface n).d0 1 (v.revoke n false))) ∧
      (m = 2 → ∀ t, Wrote rd (v.iface n).d0 1 v t → t = v.retireReg rd (v.iface n).d0 1 →
        exec (.qctlKill rd ra rb) s = .next (t.revoke n true)) ∧
      (m = 3 → v.ifaceRuns n = true → Ends (.qctlRelease rd ra rb) s (Wrote rd 1#64 1 v)) ∧
      (m = 3 → v.ifaceRuns n = false → Ends (.qctlRelease rd ra rb) s (Wrote rd 0#64 1
        (v.modIface n fun f => { f with d0 := f.d0 &&& 0xFFFFF#64, stopped := false })))) ∧
    (dieqTarget (s.x ra) = none → ∀ i ∈ [Instr.dieqFence rd ra rb, .dieqRelease rd ra rb, .dieqStatus rd ra rb],
      Ends i s (Wrote rd 0xFFFFFFFFFFFFFFFF#64 1 s)) ∧
    (∀ die cs, dieqTarget (s.x ra) = some (die, cs) →
      (m = 0 → lanDie v.focus = die → lanCl v.focus ∈ cs → Ends (.dieqFence rd ra rb) s (Wrote rd 3#64 1 v)) ∧
      (m = 0 → lanDie v.focus ≠ die ∨ lanCl v.focus ∉ cs → ∀ w : Machine.State,
        w = (v.modBeacon die fun b => { b with
          fencing := b.fencing ++ cs.filter fun c => !b.fenced.contains c && !b.fencing.contains c }).fenceStep die →
        ((∀ c ∈ cs, c ∈ (w.beacon die).fenced) → Ends (.dieqFence rd ra rb) s (Wrote rd 0#64 1 w)) ∧
        ((∃ c ∈ cs, c ∉ (w.beacon die).fenced) → Ends (.dieqFence rd ra rb) s fun t => t = w)) ∧
      (m = 1 → ∀ w : Machine.State, w = v.fenceStep die →
        ((∃ c ∈ cs, c ∈ (w.beacon die).fencing) → Ends (.dieqRelease rd ra rb) s fun t => t = w) ∧
        ((∀ c ∈ cs, c ∉ (w.beacon die).fencing) → Ends (.dieqRelease rd ra rb) s (Wrote rd 0#64 1
          ((w.modBeacon die fun b => { b with fenced := b.fenced.filter fun c => !cs.contains c }).decide_ die)))) ∧
      (m = 2 → Ends (.dieqStatus rd ra rb) s (Wrote rd (BitVec.ofNat 64
        ((if cs.all fun c => (v.beacon die).fenced.contains c then 1 else 0) +
          (if cs.any fun c => (v.beacon die).fencing.contains c then 2 else 0))) 1 v))) ∧
    (∀ bit, binjOp (s.x rb) = some (0, bit) → s.binjPlace (s.x ra) = true → bit ≤ 38 →
      Ends (.binjFlipOne rd ra rb) s (Wrote rd 0#64 1 (v.flip n (BitVec.ofNat 39 ((2 ^ (0 + 1) - 1) * 2 ^ bit))))) ∧
    (∀ bit, binjOp (s.x rb) = some (1, bit) → s.binjPlace (s.x ra) = true → bit ≤ 37 →
      Ends (.binjFlipTwo rd ra rb) s (Wrote rd 0#64 1 (v.flip n (BitVec.ofNat 39 ((2 ^ (1 + 1) - 1) * 2 ^ bit))))) ∧
    (∀ bit die row, binjOp (s.x rb) = some (2, bit) → rowOf (s.x ra) = some (die, row) →
      Ends (.binjSpare rd ra rb) s (Wrote rd 0#64 1 { v with
        spareForce := if s.spareForce.contains (spareKey die row) then s.spareForce
          else s.spareForce ++ [spareKey die row] })) ∧
    (binjOp (s.x rb) = none → ∀ i ∈ [Instr.binjFlipOne rd ra rb, .binjFlipTwo rd ra rb, .binjSpare rd ra rb],
      Ends i s (Wrote rd 0xFFFFFFFFFFFFFFFF#64 1 s))) ∧
  (∀ (s : Machine.State) (die row : Nat) (v : Word), v = s.spare die row →
    (s.intervalOver die row = false ∨ spHold v = true → Ends (.spareRotate die row) s fun t => t = s) ∧
    (s.intervalOver die row = true → spHold v = false → ∀ u : Machine.State,
      u = { s with spareAt := s.spareAt.put (spareKey die row) s.tick } →
      (modeRotate (s.modeOf die) = false → (die, row) ∉ s.hub.askHost → Ends (.spareRotate die row) s fun t =>
        t = u.setSpare die row (setBits v 0 7 ((spPos v + 1) % 112))) ∧
      ((die, row) ∈ s.hub.askHost → Ends (.spareRotate die row) s fun t => t = u) ∧
      (modeRotate (s.modeOf die) = true → (die, row) ∉ s.hub.askHost → Ends (.spareRotate die row) s fun t =>
        t = u.modHub fun h => { h with askHost := h.askHost ++ [(die, row)] })) ∧
    (s.shadowed die row = none → Ends (.spareMismatch die row) s fun t => t = s) ∧
    (∀ el k u r, s.shadowed die row = some el →
      u = ({ s with spareForce := s.spareForce.filter fun k => decide (k ≠ spareKey die row) } : Machine.State).setSpare die row
        (setBits (setBits (setBits v 55 1 1) 48 7 (spPos v)) 15 1 1) →
      r = { elRecord el kSUSPECT 0#5 0#36 0#64 (row + spPos v * 2 ^ 9) with
            cfg := false, tick := BitVec.ofNat 32 s.tick, die := BitVec.ofNat 4 die } →
      (u.leadOfTile (elTile el) = some k → Ends (.spareMismatch die row) s fun t =>
        t = ((u.toMc { r with spec := u.speculative k }).raise (some k) die r).askAbort k true) ∧
      (u.leadOfTile (elTile el) = none → Ends (.spareMismatch die row) s fun t =>
        t = (u.toMc r).traceFault (clusterAt die (tileX (elTile el)) (tileY (elTile el))) r))) ∧
  (∀ (s : Machine.State) (a b : Nat) (go : Bool),
    (isEdge a b = false → Ends (.ucieEdgeFailure a b go) s fun t => t = s) ∧
    (isEdge a b = true → go = true → Ends (.ucieEdgeFailure a b go) s fun t =>
      t = ({ s with edges := s.edges.del (16 * a + b) } : Machine.State).modHub fun h =>
        { h with askEdge := h.askEdge.filter fun e => decide (e ≠ 16 * a + b) }) ∧
    (isEdge a b = true → go = false → (modeRetrain (s.modeOf a) || modeRetrain (s.modeOf b)) = true →
      Ends (.ucieEdgeFailure a b go) s fun t =>
        t = ({ s with edges := s.edges.put (16 * a + b) 1 } : Machine.State).modHub fun h =>
          { h with askEdge := if h.askEdge.contains (16 * a + b) then h.askEdge else h.askEdge ++ [16 * a + b] }) ∧
    (isEdge a b = true → go = false → (modeRetrain (s.modeOf a) || modeRetrain (s.modeOf b)) = false →
      Ends (.ucieEdgeFailure a b go) s fun t => t = s))

/-- R40, R141, R253, R379 to R399: what a Beacon does of itself. A launch that is not ended is placed, all or nothing,
and its entry segments are entered. A decision that is due dispatches the waiting segments in their order, or asks the
host for each under MODE.PLACE; PLACE dispatches to the origin that it names, if the segment waits and fits there. A
quantum that expires pre-empts a segment that another would run in place of, and otherwise begins again. A pre-emption
is complete when the region is quiet: its area stands in the pool and the segment waits again. A segment ends when
nothing of it runs; one that is speculative holds what it staged, and any other retires. An abort that is due ends its
segment. Staged entries are reclaimed from the costliest speculative segment where a committed one wants one. A release
performs the writes of the commit at the head of the queue. A pull enters the record at the ring's HEAD and moves HEAD,
or waits on a failed translation. Which segment a reclaim takes is the model's reading (log entry 51). -/
def Obligations.BeaconEvents : Prop :=
  ∀ (s : Machine.State) (die idx lan : Nat),
    (∀ id, s.hub.launches.find id = none → Ends (.launchPlacement id) s fun t => t = s) ∧
    (∀ id l, s.hub.launches.find id = some l →
      (l.status ≠ none → Ends (.launchPlacement id) s fun t => t = s) ∧
      (l.status = none → l.placed = true → Ends (.launchPlacement id) s fun t =>
        t = s.enterEntries id l.next (l.entries.drop l.next)) ∧
      (l.status = none → l.placed = false →
        (s.placeLaunch id = none → Ends (.launchPlacement id) s fun t => t = s) ∧
        (∀ u, s.placeLaunch id = some u → Ends (.launchPlacement id) s fun t =>
          t = u.enterEntries id l.next (l.entries.drop l.next)))) ∧
    (∀ u w z : Machine.State, ∀ ws, u = s.fenceStep die → w = u.modBeacon die (fun b => { b with due := false }) →
      ws = w.waitingSegs die →
      z = ws.foldl (fun v e => if modePlace (v.modeOf die) || v.placeAsked die e.1 then v.askPlace die e.1 e.2 else v) w →
      ((u.beacon die).due = false → Ends (.dispatchDecision die) s fun t => t = u) ∧
      ((u.beacon die).due = true → modePlace (z.modeOf die) = true → Ends (.dispatchDecision die) s fun t => t = z) ∧
      ((u.beacon die).due = true → modePlace (z.modeOf die) = false →
        Ends (.dispatchDecision die) s fun t => t = (ws.foldl (State.decideOne die) (z, false)).1)) ∧
    (∀ w : Machine.State, ∀ i g b,
      (w.placeAsked die i = true → State.decideOne die (w, b) (i, g) = (w, b)) ∧
      (w.placeAsked die i = false → w.rangesCut die g = true → State.decideOne die (w, b) (i, g) = (w.decide_ die, b)) ∧
      (w.placeAsked die i = false → w.rangesCut die g = false →
        (∀ o, w.fit die g none = some o → State.decideOne die (w, b) (i, g) = (w.dispatch die i o, b)) ∧
        (w.fit die g none = none →
          (b = true ∨ g.committed = false ∨ w.givesWay die g = none → State.decideOne die (w, b) (i, g) = (w, b)) ∧
          (∀ k, b = false → g.committed = true → w.givesWay die g = some k →
            (w.startPreempt die k false = none → State.decideOne die (w, b) (i, g) = (w, b)) ∧
            (∀ v, w.startPreempt die k false = some v → State.decideOne die (w, b) (i, g) = (v, true)))))) ∧
    (∀ v n org, n = v.toNat → org = n / 2 ^ 16 % 128 →
      ((s.beacon die).segs.find (n % 4096) = none → Ends (.place die v) s fun t => t = s.refuseWrite (0x30018 + 0x1000 * die) v) ∧
      (∀ g, (s.beacon die).segs.find (n % 4096) = some g →
        (n / 2 ^ 12 % 16 ≠ die ∨ g.waiting = false ∨ (98 ≤ org ∧ org ≤ 126) →
          Ends (.place die v) s fun t => t = s.refuseWrite (0x30018 + 0x1000 * die) v) ∧
        (∀ u : Machine.State, n / 2 ^ 12 % 16 = die → g.waiting = true →
          u = s.modBeacon die (fun b => { b with place := v &&& 0x7FFFFF#64 }) →
          (org = 127 → Ends (.place die v) s fun t => t = u) ∧
          (org < 98 → u.fitsAt die g none org = true → Ends (.place die v) s fun t => t = u.dispatch die (n % 4096) org) ∧
          (org < 98 → u.fitsAt die g none org = false → Ends (.place die v) s fun t =>
            t = u.modHub fun h =>
              { h with
                placeReq := h.placeReq.map fun r =>
                  if r.die = die ∧ r.idx = n % 4096 then { r with sent := false } else r })))) ∧
    ((s.beacon die).segs.find idx = none →
      Ends (.quantumExpiry die idx) s (fun t => t = s) ∧ Ends (.preemptionComplete die idx) s (fun t => t = s) ∧
      Ends (.segmentAbort die idx) s fun t => t = s) ∧
    (∀ g, (s.beacon die).segs.find idx = some g →
      (g.origin = none → Ends (.quantumExpiry die idx) s fun t => t = s) ∧
      (g.origin = none ∨ g.saveAt = none → Ends (.preemptionComplete die idx) s fun t => t = s)) ∧
    (∀ g lead, (s.beacon die).segs.find idx = some g → g.origin = some lead →
      (g.preempt = true ∨ s.endReady lead = true ∨ s.tick - g.since < (s.beacon die).quantum →
        Ends (.quantumExpiry die idx) s fun t => t = s) ∧
      (g.preempt = false → s.endReady lead = false → (s.beacon die).quantum ≤ s.tick - g.since →
        (s.beaten die g = false → Ends (.quantumExpiry die idx) s fun t =>
          t = s.modSeg die idx fun g => { g with since := s.tick }) ∧
        (s.beaten die g = true → s.startPreempt die idx false = none → Ends (.quantumExpiry die idx) s fun t =>
          t = s.modSeg die idx fun g => { g with since := s.tick }) ∧
        (∀ u, s.beaten die g = true → s.startPreempt die idx false = some u →
          Ends (.quantumExpiry die idx) s fun t => t = u)) ∧
      (∀ at_ r, g.saveAt = some at_ →
        r = (g.preempt && decide ((s.lan lead).st = .run ∨ (s.lan lead).st = .ending) && s.ownQuiet lead &&
          (s.lan lead).dpoi.isNone && g.abortDue.isNone && s.preReady lead false) →
        (r = false → Ends (.preemptionComplete die idx) s fun t => t = s) ∧
        (∀ u v w : Machine.State, ∀ a, r = true → u = (s.accrueCtxs lead).mxAccrue lead →
          a = u.buildArea lead false (s.lan lead).pc 0#5 (some (u.lan lead).trapRegs) →
          v = (u.writeHome ((u.beacon die).savebase + 4096 * at_.1) 0 a.2 .hbm).1 →
          w = (((v.keepArea a.1).releaseSaved lead).tracePreempt lead 3 0#32).releaseRegion die idx →
          Ends (.preemptionComplete die idx) s fun t => t = w.modSeg die idx fun g =>
            { g with st := if g.st = .runs then .pends else .pendc }))) ∧
    (s.endReady lan = false → Ends (.segmentEnd lan) s fun t => t = s) ∧
    (s.endReady lan = true →
      (s.resident lan = none → Ends (.segmentEnd lan) s fun t => t = s.modLan lan fun l => { l with st := .idle }) ∧
      (∀ i g u, s.resident lan = some (i, g) →
        u = (((((s.flushConds lan).traceDiscards lan).mxAccrue lan).mxDiscard lan).clearRegion lan).releaseRegion (lanDie lan) i →
        (g.st = .runs → Ends (.segmentEnd lan) s fun t =>
          t = u.modSeg (lanDie lan) i fun g => { g with st := .ends, saveAt := none }) ∧
        (g.st ≠ .runs → Ends (.segmentEnd lan) s fun t => t = u.retire_ (lanDie lan) i))) ∧
    (∀ g, (s.beacon die).segs.find idx = some g →
      (g.abortDue = none → Ends (.segmentAbort die idx) s fun t => t = s) ∧
      (∀ rq, g.abortDue = some rq → Ends (.segmentAbort die idx) s fun t => t = s.abortSeg die idx rq)) ∧
    (∀ tile,
      (s.entryWanted tile = false ∨ s.costliest tile = none → Ends (.stagingReclaim tile) s fun t => t = s) ∧
      (∀ d i g, s.entryWanted tile = true → s.costliest tile = some (d, i, g) →
        Ends (.stagingReclaim tile) s fun t => t = s.abortSeg d i true)) ∧
    ((s.beacon die).commits = [] → Ends (.commitRelease die) s fun t => t = s) ∧
    (∀ j rest (u : Machine.State), (s.beacon die).commits = j :: rest →
      u = s.modBeacon die (fun b => { b with commits := rest }) →
      ((u.beacon die).segs.find j.idx = none → Ends (.commitRelease die) s fun t => t = u) ∧
      (∀ g (v w : Machine.State), (u.beacon die).segs.find j.idx = some g →
        v = (u.commitSet j.set g.origin g.heldSt).modSeg die j.idx (fun g => { g with heldSt := [], stageAt := none }) →
        w = (g.origin.elim v v.heldDone).performHeld die j.idx true g.origin →
        (j.retire = true → Ends (.commitRelease die) s fun t => t = w.freeEntry die j.idx) ∧
        (j.retire = false → Ends (.commitRelease die) s fun t => t = w))) ∧
    ((s.beacon die).pulls.find? (fun p => !p.wait) = none → Ends (.remotePull die) s fun t => t = s) ∧
    (∀ p, (s.beacon die).pulls.find? (fun p => !p.wait) = some p →
      (s.hub.launches.find p.launch = none → Ends (.remotePull die) s fun t => t = s.modPull die p fun _ => none) ∧
      (∀ l, s.hub.launches.find p.launch = some l →
        ((s.beacon die).quarantined = true → Ends (.remotePull die) s fun t => t = s) ∧
        ((s.beacon die).quarantined = false → p.tail ≤ p.head →
          Ends (.remotePull die) s fun t => t = s.modPull die p fun _ => none) ∧
        ((s.beacon die).quarantined = false → p.head < p.tail → ∀ va,
          va = BitVec.ofNat 64 (p.base + 64 * (p.head % 2 ^ p.log)) →
          (modeWalk (s.modeOf die) = true → p.miss.may va.toNat = false → Ends (.remotePull die) s fun t =>
            t = s.pullWaits die p va 5 accRead) ∧
          (modeWalk (s.modeOf die) = false ∨ p.miss.may va.toNat = true →
            (∀ e u, s.readAs die p.pasid va 64 = (.error e, u) → Ends (.remotePull die) s fun t =>
              t = u.pullWaits die p e.1 e.2 accRead) ∧
            (∀ bs bad u, s.readAs die p.pasid va 64 = (.ok (bs, bad), u) →
              (∀ e v, u.readAs die p.pasid (BitVec.ofNat 64 (descTable bs)) (8 * descExtra bs) = (.error e, v) →
                Ends (.remotePull die) s fun t => t = v.pullWaits die p e.1 e.2 accRead) ∧
              (∀ ex bad2 v, u.readAs die p.pasid (BitVec.ofNat 64 (descTable bs)) (8 * descExtra bs) = (.ok (ex, bad2), v) →
                (∀ e w, v.mayWriteAs die p.pasid (p.hdr + 12#64) 12 = (some e, w) → Ends (.remotePull die) s fun t =>
                  t = w.pullWaits die p e.1 e.2 accWrite) ∧
                (∀ (w : Machine.State) (next : Machine.State → Machine.State),
                  v.mayWriteAs die p.pasid (p.hdr + 12#64) 12 = (none, w) →
                  (∀ x : Machine.State, next x = (x.writeAs die p.pasid (p.hdr + 0x10#64) (leBytes 8 (p.head + 1))).modPull die p
                    fun q => if p.tail ≤ p.head + 1 then none else some { q with head := p.head + 1, miss := Miss.zero }) →
                  (bad = true ∨ bad2 = true ∨ segDescBad bs (descOf bs ex) l.clMax = true ∨
                      ((descOf bs ex).die ≠ die ∧ (descOf bs ex).die ≠ 15) →
                    (∀ old b x, w.readAs die p.pasid (p.hdr + 12#64) 4 = (.ok (old, b), x) → Ends (.remotePull die) s fun t =>
                      t = next (x.writeAs die p.pasid (p.hdr + 12#64) (leBytes 4 (leNat old + 1)))) ∧
                    (∀ e x, w.readAs die p.pasid (p.hdr + 12#64) 4 = (.error e, x) → Ends (.remotePull die) s fun t =>
                      t = x.pullWaits die p e.1 e.2 accRead)) ∧
                  (bad = false → bad2 = false → segDescBad bs (descOf bs ex) l.clMax = false →
                    (descOf bs ex).die = die ∨ (descOf bs ex).die = 15 →
                    (w.freeSeg die = none → Ends (.remotePull die) s fun t => t = w) ∧
                    (∀ i, w.freeSeg die = some i → Ends (.remotePull die) s fun t =>
                      t = next (w.enterSeg die i l (descOf bs ex) va false [] (some p.sender)).2)))))))))

/-- R40, R41, R416 to R425: the hub's interfaces. A packet is read through the host-owned stage and HEAD moves past it;
of a revoked interface, malformed, or refused, it completes with its status, a NOP completes with 0, and a launch is
accepted. A launch of which nothing is left, with every write in place, completes. A doorbell moves TAIL, or is counted
where it lies outside the ring; an acknowledge clears PEND and sends what is owed. An entry that is not valid is
assigned with HEAD, TAIL and PEND zero, and unassigned loses V; revoking sets RVK, and killing ends the interface's
launches too. A packet or a completion whose accesses an edge holds waits. What the hub does with uncorrectable data,
when a launch completes, and how interrupts are owed are the model's readings (log entries 38, 39 and 76). -/
def Obligations.HubInterfaces : Prop :=
  ∀ (s : Machine.State) (n : Nat) (f : Iface) (v : Word), f = s.iface n →
    (f.v = false → (Ends (.doorbell n v) s fun t => t = s) ∧ Ends (.interruptAck n) s fun t => t = s) ∧
    (f.v = true →
      (f.ring < (v.extractLsb' 0 16 - f.head).toNat → Ends (.doorbell n v) s fun t => t =
        (s.modIface n fun f => { f with ignored := satInc f.ignored }).statusWord n 0x18 (satInc f.ignored)) ∧
      ((v.extractLsb' 0 16 - f.head).toNat ≤ f.ring →
        Ends (.doorbell n v) s fun t => t = s.modIface n fun f => { f with tail := v.extractLsb' 0 16 }) ∧
      (f.owed = 0 → Ends (.interruptAck n) s fun t => t = s.modIface n fun f => { f with pend := false, owed := f.owed - 1 }) ∧
      (f.owed ≠ 0 → Ends (.interruptAck n) s fun t =>
        t = (s.modIface n fun f => { f with pend := false, owed := f.owed - 1 }).sendIrq n)) ∧
    (∀ u : Machine.State, ∀ d0,
      d0 = ((v ||| 0x8000000000000000#64) &&& 0xC0000000000FFFFF#64) |||
        (if v.getLsbD 61 || f.rvk then 0x2000000000000000#64 else 0#64) →
      (f.v = false ∧ u = s.modIface n fun f =>
        { f with d0 := d0, head := 0#16, tail := 0#16, pend := false, owed := 0, sHead := 0#64 }) ∨
        (f.v = true ∧ v.extractLsb' 0 20 = f.d0.extractLsb' 0 20 ∧ u = s.modIface n fun f => { f with d0 := d0 }) →
      (v.getLsbD 61 = true → v.getLsbD 60 = true → Ends (.ifaceAssign n v) s fun t =>
        t = (u.hub.launches.filter fun l => decide (l.2.iface = n) && l.2.status.isNone).foldl
          (fun s l => s.endLaunch l.1 5) u) ∧
      (v.getLsbD 61 = false ∨ v.getLsbD 60 = false → Ends (.ifaceAssign n v) s fun t => t = u)) ∧
    (f.v = true → v.extractLsb' 0 20 ≠ f.d0.extractLsb' 0 20 → Ends (.ifaceAssign n v) s fun t => t = s) ∧
    (Ends (.ifaceUnassign n) s fun t => t = s.modIface n fun f =>
      { f with d0 := f.d0 &&& 0x40000000000FFFFF#64, stopped := false }) ∧
    (∀ u, u = s.modIface n (fun f => { f with d0 := f.d0 ||| 0x2000000000000000#64 }) →
      (Ends (.ifaceRevoke n) s fun t => t = u) ∧
      Ends (.ifaceKill n) s fun t => t = (u.hub.launches.filter fun l => decide (l.2.iface = n) && l.2.status.isNone).foldl
        (fun s l => s.endLaunch l.1 5) u) ∧
    (∀ id, s.hub.launches.find id = none → Ends (.launchComplete id) s fun t => t = s) ∧
    (∀ id l, s.hub.launches.find id = some l →
      (s.launchGone l = false ∨ s.settled = false ∨ s.asCut 0 l.pasid l.compl 16 = true →
        Ends (.launchComplete id) s fun t => t = s) ∧
      (s.launchGone l = true → s.settled = true → s.asCut 0 l.pasid l.compl 16 = false → Ends (.launchComplete id) s fun t =>
        t = (s.modHub fun h => { h with launches := h.launches.del id }).complete
          { iface := l.iface, pasid := l.pasid, tag := l.tag, compl := l.compl, irq := l.irq } (l.status.getD 0) l.id)) ∧
    (s.hubCut 0 = true ∨ s.nextIface = none → Ends .hubServePacket s fun t => t = s) ∧
    (s.hubCut 0 = false → s.nextIface = some n → ∀ u : Machine.State, u = s.modHub (fun h => { h with served := n }) →
      (u.hostStage (f.ringBase + 64 * (f.head.toNat % f.ring)) false = none →
        Ends .hubServePacket s fun t => t = u.modIface n fun f => { f with stopped := true }) ∧
      (∀ a p g r w z, u.hostStage (f.ringBase + 64 * (f.head.toNat % f.ring)) false = some a → p = u.mem.bytes (hostPa a) 64 →
        w = u.modIface n (fun f => { f with head := f.head + 1#16, sHead := satInc f.sHead }) →
        z = w.statusWord n 0 (w.iface n).sHead → g = z.iface n →
        r = { iface := n, pasid := g.pasid, tag := fieldAt p 4 4, compl := BitVec.ofNat 64 (fieldAt p 0x10 8),
              irq := decide (fieldAt p 1 1 % 2 = 1) } →
        (∀ y : Machine.State, ∀ st,
          (y = z ∧ ((g.rvk = true ∧ st = 0x0B) ∨ (g.rvk = false ∧ packetBad p = true ∧ st = 1) ∨
            (g.rvk = false ∧ packetBad p = false ∧ fieldAt p 0 1 = 2 ∧ st = 0))) ∨
          (g.rvk = false ∧ packetBad p = false ∧ fieldAt p 0 1 ≠ 2 ∧ st ≠ packetHeld ∧
            z.readLaunch r g.maint (BitVec.ofNat 64 (fieldAt p 8 8)) = (.error st, y)) →
          (y.asCut 0 r.pasid r.compl 16 = true → Ends .hubServePacket s fun t => t = s) ∧
          (y.asCut 0 r.pasid r.compl 16 = false → Ends .hubServePacket s fun t => t = y.complete r st 0)) ∧
        (g.rvk = false → packetBad p = false → fieldAt p 0 1 ≠ 2 →
          (∀ y, z.readLaunch r g.maint (BitVec.ofNat 64 (fieldAt p 8 8)) = (.error packetHeld, y) →
            Ends .hubServePacket s fun t => t = s) ∧
          (∀ l y, z.readLaunch r g.maint (BitVec.ofNat 64 (fieldAt p 8 8)) = (.ok l, y) →
            Ends .hubServePacket s fun t => t = y.modHub fun h =>
              { h with launches := h.launches.put l.id l, count := (h.count + 1) % 2 ^ 32 }))))

/-- R31, R33, R337, R414, R434, R442 to R453, R471, R475 to R483: writes of windows and of registers, the trace rings,
the loader and the management cores. A window write of a general register gives it its value, s0 apart, and releases a
token register; of a state register it follows the rules of SRW; an element's debug space takes a write only while its
regions are stopped. A register write acts on the register at its offset, and a write elsewhere does nothing; one of 4 or 8 bytes in a
notify page is a doorbell or an acknowledge, and any other there counts as ignored. A trace packet goes to its ring
and HEAD past it, or is dropped where the ring is full with STOP set; a write of BASE or PAGES makes HEAD 0. Package reset leaves the state after bring-up with host memory, fuses and firmware as they were, and
reapplies the repair log. A mailbox command leaves COMMAND, ADDR and LEN; ATTEST writes its report, UPDATE takes
an image that verifies, and both fail with STATUS 2. At a power limit every CAP goes down, or the clock stops; back
within the limits every CAP is what it was. A load that fails places nothing, and one that succeeds removes the PASID's translations. What a full ring, a reset, the mailbox, a
power limit, a window write and a write inside a register do beyond the rules' words are the model's readings (log
entries 41, 42, 43, 52, 53 and 78). -/
def Obligations.ManagementEvents : Prop :=
  (∀ (s : Machine.State) (k num area off el : Nat) (r : Reg) (v : Word),
    (Ends (.windowGprWrite k r v) s fun t => OnlyLan k s t ∧
      (∀ q, (t.lan k).reg q = if q = r ∧ q ≠ 0#5 then v else (s.lan k).reg q) ∧ (t.lan k).pc = (s.lan k).pc ∧
      (t.lan k).sb = if s.tokenReg k r then ((s.lan k).unblock r).sb else (s.lan k).sb) ∧
    (srWritable num = false ∨ (num = 0xC ∧ fqbaseOk v = false) → Ends (.windowStateWrite k num v) s fun t => t = s) ∧
    (srWritable num = true → num ≠ 0xC ∨ fqbaseOk v = true → Ends (.windowStateWrite k num v) s fun t => t = s.srWrite k num v) ∧
    (s.elStopped el = false ∨ debugOk area off = false → Ends (.elementDebugWrite el area off v) s fun t => t = s) ∧
    (∀ lead a i j, s.arrayAt el = some (lead, a, i, j) → a.busy = true → area = 2 ∨ (area = 3 ∧ 0x40 ≤ off) →
      Ends (.elementDebugWrite el area off v) s fun t => t = s) ∧
    (s.elStopped el = true → debugOk area off = true →
      (area ≠ 2 ∧ (area ≠ 3 ∨ off < 0x40)) ∨ (s.arrayAt el).elim False (fun x => x.2.1.busy = false) ∨ s.arrayAt el = none →
      Ends (.elementDebugWrite el area off v) s fun t => t = s.writeDebug el area off v)) ∧
  (∀ (s : Machine.State) (view : View) (off size : Nat) (v : Word),
    (off % 4096 = 0 → size = 4 ∨ size = 8 → Ends (.registerWrite (.iface size) off v) s fun t => t = s.doorbell (off / 4096) v) ∧
    (off % 4096 = 0x40 → size = 4 ∨ size = 8 → Ends (.registerWrite (.iface size) off v) s fun t => t = s.ackIrq (off / 4096)) ∧
    (¬((off % 4096 = 0 ∨ off % 4096 = 0x40) ∧ (size = 4 ∨ size = 8)) → Ends (.registerWrite (.iface size) off v) s fun t =>
      t = if (s.iface (off / 4096)).v then s.ignoreWrite (off / 4096) else s) ∧
    ((∀ n, view ≠ .iface n) → off % 8 ≠ 0 → Ends (.registerWrite view off v) s fun t => t = s) ∧
    ((∀ n, view ≠ .iface n) → off % 8 = 0 →
      (off = 0x10 → Ends (.registerWrite view off v) s fun t =>
        t = s.modHub fun h => { h with hstroot := v &&& 0x800FFFFFFFFFF000#64 }) ∧
      (off = 0x100 → Ends (.registerWrite view off v) s fun t => t = s.linkctl v) ∧
      (off = 0x200 → Ends (.registerWrite view off v) s fun t => t = s.replayWrite (if view = .physical then 1 else 0) v) ∧
      (0x10000 ≤ off → off < 0x12000 → Ends (.registerWrite view off v) s fun t =>
        t = if view = .physical then s else s.windowEntry ((off - 0x10000) / 32) (off / 8 % 4) v) ∧
      (0x20000 ≤ off → off < 0x28000 → Ends (.registerWrite view off v) s fun t =>
        t = s.arbWrite (off / 0x1000 % 16) (off % 0x1000) v) ∧
      (0x30000 ≤ off → off < 0x38000 → Ends (.registerWrite view off v) s fun t =>
        t = s.beaconWrite (off / 0x1000 % 16) (off % 0x1000) v) ∧
      (0x100000 ≤ off → off < 0x140000 → Ends (.registerWrite view off v) s fun t =>
        t = s.ifaceWrite ((off - 0x100000) / 64) (off / 8 % 8) v) ∧
      (0x180000 ≤ off → off < 0x190000 → Ends (.registerWrite view off v) s fun t =>
        t = s.irteWrite ((off - 0x180000) / 16) (off / 8 % 2) v) ∧
      (off ≠ 0x10 → off ≠ 0x100 → off ≠ 0x200 → ¬(0x10000 ≤ off ∧ off < 0x12000) → ¬(0x20000 ≤ off ∧ off < 0x28000) →
        ¬(0x30000 ≤ off ∧ off < 0x38000) → ¬(0x100000 ≤ off ∧ off < 0x140000) → ¬(0x180000 ≤ off ∧ off < 0x190000) →
        Ends (.registerWrite view off v) s fun t => t = s))) ∧
  (∀ (s : Machine.State) (die cluster : Nat) (v : Word) (b : Beacon), b = s.beacon die →
    (8 ≤ die ∨ 98 ≤ cluster ∨ b.dayPages = 0#64 ∨ (s.lan (lanOf die cluster)).day.fifo = [] →
      Ends (.daymarkPacketWrite die cluster) s fun t => t = s) ∧
    (∀ p rest u, die < 8 → cluster < 98 → b.dayPages ≠ 0#64 → (s.lan (lanOf die cluster)).day.fifo = p :: rest →
      u = s.modLan (lanOf die cluster) (fun l => { l with day := { l.day with fifo := rest } }) →
      (b.dayCtl.getLsbD 12 = true → 4096 * b.dayPages.toNat ≤ b.dayHead.toNat →
        Ends (.daymarkPacketWrite die cluster) s fun t => t = u) ∧
      (b.dayCtl.getLsbD 12 = false ∨ b.dayHead.toNat < 4096 * b.dayPages.toNat →
        u.traceStore (b.dayBase.toNat + b.dayHead.toNat % (4096 * b.dayPages.toNat))
          (leBytes 8 p.1.toNat ++ leBytes 8 p.2.toNat) = none → Ends (.daymarkPacketWrite die cluster) s fun t => t = u) ∧
      (∀ w, b.dayCtl.getLsbD 12 = false ∨ b.dayHead.toNat < 4096 * b.dayPages.toNat →
        u.traceStore (b.dayBase.toNat + b.dayHead.toNat % (4096 * b.dayPages.toNat))
          (leBytes 8 p.1.toNat ++ leBytes 8 p.2.toNat) = some w →
        Ends (.daymarkPacketWrite die cluster) s fun t => t = w.modBeacon die fun b => { b with dayHead := b.dayHead + 16#64 })) ∧
    (Ends (.daymarkRingReset die 0x108 v) s fun t =>
      t = s.modBeacon die fun b => { b with dayBase := v &&& 0x000FFFFFFFFFF000#64, dayHead := 0#64 }) ∧
    (Ends (.daymarkRingReset die 0x110 v) s fun t =>
      t = s.modBeacon die fun b => { b with dayPages := v &&& 0xFFFFFFFF#64, dayHead := 0#64 })) ∧
  (∀ (s : Machine.State) (fails : Nat), Ends (.packageReset fails) s fun t =>
    t = s.repairLog.foldl State.reapply
      { State.reset with
        agenda := s.agenda, free := s.free, mem := s.mem.filter fun c => decide (8 * 2 ^ 48 ≤ c.1)
        mgmt := { Mgmt.reset with svn := s.mgmt.svn, measure := s.mgmt.measure,
                                  bootFail := if fails ≤ 5 then fails else 0 } }) ∧
  (∀ (s a b : Machine.State) (addr : Word) (len n : Nat), n = addr.toNat →
    a = { s with mgmt := { s.mgmt with command := 1, cmdAddr := addr } } →
    b = { s with mgmt := { s.mgmt with command := 2, cmdAddr := addr, cmdLen := len } } →
    (n % 4096 ≠ 0 ∨ 2 ^ 48 ≤ n → (Ends (.attest addr) s fun t => t = a.mailStatus 2) ∧
      Ends (.update addr len) s fun t => t = b.mailStatus 2) ∧
    (n % 4096 = 0 → n < 2 ^ 48 →
      (a.hostBytes n 64 = none → Ends (.attest addr) s fun t => t = a.mailStatus 2) ∧
      (∀ nonce, a.hostBytes n 64 = some nonce →
        (a.hostStore n (a.report nonce) = none → Ends (.attest addr) s fun t => t = a.mailStatus 2) ∧
        (∀ u, a.hostStore n (a.report nonce) = some u → Ends (.attest addr) s fun t => t = u.mailStatus 0)) ∧
      (len < 576 ∨ b.hostBytes n len = none → Ends (.update addr len) s fun t => t = b.mailStatus 2) ∧
      (∀ img, 576 ≤ len → b.hostBytes n len = some img →
        (imageOk img b.mgmt.svn = false → Ends (.update addr len) s fun t => t = b.mailStatus 2) ∧
        (imageOk img b.mgmt.svn = true → Ends (.update addr len) s fun t => t = { b with
          mgmt := { b.mgmt with cmdStatus := 0, svn := leNat ((img.drop 4).take 4), measure := some (sha512 img) } })))) ∧
  (∀ s : Machine.State,
    ((∀ d, d < 8 → (s.arb d).cap ≤ 1024) → Ends .powerLimit s fun t => t = { s with mgmt := { s.mgmt with clockOn := false } }) ∧
    ((∃ d, d < 8 ∧ 1024 < (s.arb d).cap) → Ends .powerLimit s fun t => t.mgmt.clockOn = s.mgmt.clockOn ∧
      { t with arbs := s.arbs, mgmt := s.mgmt } = s ∧ ∀ d, d < 8 →
        (t.arb d).cap = (if (s.arb d).cap ≤ 1024 then (s.arb d).cap else max 1024 ((s.arb d).cap - (s.arb d).cap / 8))) ∧
    (Ends .backWithinLimits s fun t => t.mgmt = { s.mgmt with capSaved := [] } ∧ { t with arbs := s.arbs, mgmt := s.mgmt } = s ∧
      ∀ d, (t.arb d).cap = ((s.mgmt.capSaved.filter fun e => decide (e.1 = d)).getLast?.elim (s.arb d).cap (·.2)))) ∧
  (∀ (s : Machine.State) (pasid : Nat) (f : List Byte),
    (∀ e, s.loadFail pasid f = some e → Ends (.loadBinary pasid f) s fun t =>
      t = { s with mgmt := { s.mgmt with loadStatus := loadWord e.status e.detail 0 } }) ∧
    (∀ xs, s.loadFail pasid f = none → xs = sectionsOf f →
      (∀ i, s.placeKind pasid f 0 512 (xs.filter Section.everyDie) = .error i → Ends (.loadBinary pasid f) s fun t =>
        t = { s with mgmt := { s.mgmt with loadStatus := loadWord 7 i 0 } }) ∧
      (∀ t, s.placeKind pasid f 0 512 (xs.filter Section.everyDie) = .ok t →
        (∀ i, t.placeKind pasid f (dataDie f xs) 0 (xs.filter fun x => x.placed && !x.everyDie) = .error i →
          Ends (.loadBinary pasid f) s fun t => t = { s with mgmt := { s.mgmt with loadStatus := loadWord 7 i 0 } }) ∧
        (∀ u, t.placeKind pasid f (dataDie f xs) 0 (xs.filter fun x => x.placed && !x.everyDie) = .ok u →
          Ends (.loadBinary pasid f) s fun w => w = (u.tlbi (.pasid pasid)).loadReport
            (loadWord 0 0 ((xs.filter fun x => decide (x.code = 1)).map fun x => x.dmovs f).sum)))))

/-- R55, R62 to R66, R266: words that the spec writes out or whose fields its tables give, and the instructions they
are: Lantern code of one and of two parcels, an element slot, a stream program of one and of two parcels; a reserved major
and a reserved field refused. -/
def Obligations.DecodedWords : Prop :=
  decodeTableWord 64 0x040210A000000000 = some (.add 4#5 4#5 5#5) ∧
  decodeTableWord 64 0x142014DFFFFFFFC0 = some (.blt 5#5 6#5 0xFFFFFFFE#32) ∧
  decodeTableWord 64 0x0C31901FFFFFFFE6 = some (.slt true 3#5 4#5 (.imm 0xFFFFFFFF#32)) ∧
  decodeTableWord 128 0x00000000000110000843800000000001 = some (.li 7#5 0x11000#64) ∧
  decodeTableWord 64 0x4020108000000000
    = some (.fmul { selA := 0#7, selB := 0x42#7, selC := 0#7, rs := 0#3, o := false, sat := false, uns := false,
                    gate := 0#2, cin := 0#2, cout := 0#4, imm := 0#16 }) ∧
  decodeTableWord 64 0x9024000000006000 = some (.spush 1#2 3#24) ∧
  decodeTableWord 128 0x00000000000123409070000000000001 = some (.swait 0x12340#48) ∧
  decodeLantern 0x2000000000000000#64 0#64 = .error .resmaj ∧
  decodeLantern 0x040210A000000020#64 0#64 = .error .illop

/-- R55, R62 to R66, R266, R333: decode and encode agree. Every instruction with legal fields has parcels, and the
reader that its parcels belong to, Lantern fetch, element slot or stream program, reads that instruction back from them with
every operand; the operations of one P-class word, which its registers tell apart (R435 to R440), read back as the first. -/
def Obligations.EncodeThenDecode : Prop :=
  ∀ i : Instr, wellFormed i = true → ∃ p x : Word, encode i = some (p, x) ∧
    if (lanternRaw i).isSome then decodeLantern p x = .ok (canonical i)
    else if (slotCode i).isSome then decodeSlot p = some i
    else decodeStream p x = some i

/-- R59, R60, R114, R119, R153, R264: a step runs what the parcels at the program counter decode to. For a Lantern: in
the state a cycle later, once the line has been fetched, where no trap is pending and no named register waits, the step
is `exec` of that instruction. For an element: of the decoded slot that issued. For a port: of its running program's
next instruction. For an event: of the event. A posted write arrives as its own turn. Which agent steps is the agenda's to
say, by the model's choice (log entry 44), and the turn of a Lantern that stands in the firmware's SVC service is that
service's (log entry 71). -/
def Obligations.StepRunsDecoded : Prop :=
  ∀ (s w : Machine.State) (rest : List Turn), s.down = none → w = { s with agenda := rest }.tickBy 1 →
    (∀ (k : Nat) (u v : Machine.State) (ws : List Word) (i : Instr), s.agenda = .lantern k :: rest →
      u = { w with focus := k } → (u.lan k).st = .run → heldWaits (u.lan k).xheld = false →
      (u.lan k).inRetire = false → u.fetchLine k ((u.lan k).pc &&& ~~~127#64) = (.ok ws, v) → LinePermits (u.lan k) ws →
      decodeLantern (parcelAt (u.lan k) ws) (parcelAfter (u.lan k) ws) = .ok i →
      (twoParcels i = true → (u.lan k).pc.toNat % 128 / 8 < 15 ∧
        (ws.getD 0 0#64).getLsbD ((u.lan k).pc.toNat % 128 / 8) = false) →
      (needsSup i = true → (u.lan k).sup = true) →
      (v.lan k).budgetDue = false → (v.lan k).queueDue = false → (v.lan k).dpoi = none →
      (u.lan k).stalls (refine (u.lan k) i) = false → v.frozen k = false →
      step s = exec (refine (u.lan k) i) v) ∧
    (∀ (el : Nat) (f : OpSet) (img : SlotImg) (i : Instr), s.agenda = .element el :: rest →
      (s.el el).firing = some f → (s.el el).core.slots.find f.slot.toNat = some img → decodeSlot img.instr = some i →
      step s = exec i { w with elem := el }) ∧
    (∀ (p : Nat) (g : Prog) (i : Instr), s.agenda = .port p :: rest → (s.port p).prog = some g → g.armed = true →
      g.pc < g.parcels.length → decodeStream (g.parcels.getD g.pc 0#64) (g.parcels.getD (g.pc + 1) 0#64) = some i →
      step s = exec i { w with prt := p }) ∧
    (∀ k : Nat, s.agenda = .lantern k :: rest → (w.lan k).st = .run → heldWaits (w.lan k).xheld = false →
      (w.lan k).inRetire = true → step s = .next (({ w with focus := k } : Machine.State).firmTurn k)) ∧
    (∀ i : Instr, s.agenda = .event i :: rest → step s = exec i w) ∧
    (∀ p, s.agenda = .post p :: rest → step s = .next (w.takePost p))

/-- R59 item 10, R60, R74, R134: a parcel that holds a privileged instruction, fetched in user mode, raises PRIV before
anything of it is done: EPC and EVAL are its address and its parcel, and control goes to TVEC in supervisor mode. -/
def Obligations.PrivilegedInUserMode : Prop :=
  ∀ (s u v : Machine.State) (rest : List Turn) (k : Nat) (ws : List Word) (i : Instr),
    s.down = none → s.agenda = .lantern k :: rest →
    u = { { s with agenda := rest }.tickBy 1 with focus := k } → (u.lan k).st = .run → heldWaits (u.lan k).xheld = false →
    (u.lan k).inRetire = false → u.fetchLine k ((u.lan k).pc &&& ~~~127#64) = (.ok ws, v) → LinePermits (u.lan k) ws →
    decodeLantern (parcelAt (u.lan k) ws) (parcelAfter (u.lan k) ws) = .ok i → needsSup i = true →
    (u.lan k).sup = false → (v.lan k).sup = false →
    ∃ t, step s = .next t ∧ Trapped k cPRIV (u.lan k).pc (parcelAt (u.lan k) ws) 0#64 v t

/-- What the spec says reset leaves: the tick counter at zero (R9), MODE 0 on every die and every Lantern idle with
FQBASE SIZE 7 and BASE 0x780 and HEAD and TAIL 0 (R124, R477), the Beacon page (R384, R471; PLACE at 0 by the model's choice,
log entry 3), the predictor (R393), the
matrix arbiter (R368), the spare's interval (R429), the layout segments and the check bits (R282), every interface at V
= 0 (R477); and that the machine takes steps. The address in TVEC is the model's constant (log entry 4). -/
def Obligations.ResetValues : Prop :=
  State.reset.tick = 0 ∧ State.reset.down = none ∧
  (∀ d, State.reset.modeOf d = 0#64) ∧
  (∀ k, (State.reset.lan k).st = .idle ∧ (State.reset.lan k).fqsize = 7#4 ∧ (State.reset.lan k).fqbase = 0x780#12 ∧
    (State.reset.lan k).head = 0#16 ∧ (State.reset.lan k).tail = 0#16 ∧
    (State.reset.lan k).tvec = Config.firmwareEntry) ∧
  (∀ d, (State.reset.beacon d).quantum = 2 ^ 20 ∧ (State.reset.beacon d).savepg = 0 ∧
    (State.reset.beacon d).place = 0#64 ∧
    (State.reset.beacon d).syncpg = 0 ∧ (State.reset.beacon d).dayCtl = 0#64 ∧ (State.reset.beacon d).dayBase = 0#64 ∧
    (State.reset.beacon d).dayPages = 0#64 ∧ (State.reset.beacon d).dayHead = 0#64 ∧
    (State.reset.beacon d).cmask0 = 0#64 ∧ (State.reset.beacon d).cmask1 = 0#64) ∧
  (∀ d pasid site, (State.reset.beacon d).predOf pasid site = 16384 ∧ (State.reset.beacon d).pred.find site = none) ∧
  (∀ d, (State.reset.arb d).smode = false ∧ (State.reset.arb d).pmax = 7 ∧ (State.reset.arb d).cap = 50176 ∧
    ∀ n, (State.reset.arb d).slots.find n = none) ∧
  (∀ d row, (State.reset.spare d row).extractLsb' 16 32 = BitVec.ofNat 32 (2 ^ 20)) ∧
  (∀ n, (State.reset.tile n).xs = 0#8 ∧ (State.reset.tile n).chk = 0#8) ∧
  (∀ n, (State.reset.iface n).v = false)

end
end

