-- ==== Sys2Proof/Laws/Tab.lean ====
section
/-! SUPPORT. Reading after writing in tables and in memory, and the canonical form of memory. -/

namespace Sys2Proof.Machine

/-! ### Tables -/

@[simp] theorem Tab.find_nil {α : Type} (k : Nat) : Tab.find ([] : Tab α) k = none := rfl

theorem Tab.find_put {α : Type} (t : Tab α) (j k : Nat) (v : α) :
    (t.put j v).find k = if k = j then some v else t.find k := by
  induction t with
  | nil => simp [Tab.put, Tab.find]
  | cons a r ih =>
    obtain ⟨m, w⟩ := a
    unfold Tab.put
    split
    · simp [Tab.find]
    · split
      · next h1 h2 => subst h2; by_cases hk : k = j <;> simp [Tab.find, hk]
      · next h1 h2 =>
        simp only [Tab.find, ih]
        by_cases hk : k = m
        · subst hk; simp [Ne.symm h2]
        · simp [hk]

@[simp] theorem Tab.find_put_self {α : Type} (t : Tab α) (k : Nat) (v : α) : (t.put k v).find k = some v := by
  simp [Tab.find_put]

theorem Tab.find_put_ne {α : Type} (t : Tab α) {j k : Nat} (v : α) (h : k ≠ j) : (t.put j v).find k = t.find k := by
  simp [Tab.find_put, h]

theorem Tab.get_put {α : Type} (d : α) (t : Tab α) (j k : Nat) (v : α) :
    (t.put j v).get d k = if k = j then v else t.get d k := by
  unfold Tab.get
  rw [Tab.find_put]
  split <;> rfl

@[simp] theorem Tab.get_put_self {α : Type} (d : α) (t : Tab α) (k : Nat) (v : α) : (t.put k v).get d k = v := by
  simp [Tab.get_put]

theorem Tab.get_put_ne {α : Type} (d : α) (t : Tab α) {j k : Nat} (v : α) (h : k ≠ j) :
    (t.put j v).get d k = t.get d k := by simp [Tab.get_put, h]

theorem Tab.find_del {α : Type} (t : Tab α) (j k : Nat) : (t.del j).find k = if k = j then none else t.find k := by
  induction t with
  | nil => simp [Tab.del, Tab.find]
  | cons a r ih =>
    obtain ⟨m, w⟩ := a
    unfold Tab.del
    by_cases h : j = m
    · subst h
      rw [if_pos rfl, ih]
      by_cases hk : k = j <;> simp [Tab.find, hk]
    · by_cases hk : k = m
      · subst hk; simp [Tab.find, h, Ne.symm h]
      · simp [Tab.find, h, ih, hk]

/-- A table with rising numbers whose first number lies above `k` may have `k` put in front. -/
theorem Tab.rising_cons {α : Type} {a : Nat × α} {t : Tab α} :
    Tab.rising (a :: t) = true ↔ (∀ b ∈ t.head?, a.1 < b.1) ∧ Tab.rising t = true := by
  cases t with
  | nil => simp [Tab.rising]
  | cons b r => obtain ⟨k, v⟩ := a; obtain ⟨k', v'⟩ := b; simp [Tab.rising]

theorem Tab.rising_put {α : Type} (t : Tab α) (k : Nat) (v : α) (h : Tab.rising t = true) :
    Tab.rising (t.put k v) = true := by
  induction t with
  | nil => simp [Tab.put, Tab.rising]
  | cons a r ih =>
    obtain ⟨m, w⟩ := a
    rw [Tab.rising_cons] at h
    unfold Tab.put
    split
    · next hlt => rw [Tab.rising_cons]; exact ⟨by simpa using hlt, by rw [Tab.rising_cons]; exact h⟩
    · split
      · next h1 h2 => subst h2; rw [Tab.rising_cons]; exact h
      · next h1 h2 =>
        rw [Tab.rising_cons]
        refine ⟨?_, ih h.2⟩
        intro b hb
        cases r with
        | nil => simp [Tab.put] at hb; subst hb; simp; omega
        | cons c r' =>
          obtain ⟨n, x⟩ := c
          have hm := h.1 (n, x) (by simp)
          simp only [Tab.put] at hb
          split at hb
          · simp at hb; subst hb; simp; omega
          · split at hb <;> (simp at hb; subst hb; simp at hm ⊢; omega)

theorem Tab.mem_del {α : Type} (t : Tab α) (k : Nat) (b : Nat × α) (h : b ∈ t.del k) : b ∈ t := by
  induction t with
  | nil => simp [Tab.del] at h
  | cons a r ih =>
    obtain ⟨m, w⟩ := a
    unfold Tab.del at h
    split at h
    · exact List.mem_cons_of_mem _ (ih h)
    · rcases List.mem_cons.mp h with rfl | h'
      · exact List.mem_cons_self ..
      · exact List.mem_cons_of_mem _ (ih h')

theorem Tab.mem_put {α : Type} (t : Tab α) (k : Nat) (v : α) (b : Nat × α) (h : b ∈ t.put k v) : b = (k, v) ∨ b ∈ t := by
  induction t with
  | nil => simpa [Tab.put] using h
  | cons a r ih =>
    obtain ⟨m, w⟩ := a
    unfold Tab.put at h
    split at h
    · rcases List.mem_cons.mp h with rfl | h'
      · exact .inl rfl
      · exact .inr h'
    · split at h
      · rcases List.mem_cons.mp h with rfl | h'
        · exact .inl rfl
        · exact .inr (List.mem_cons_of_mem _ h')
      · rcases List.mem_cons.mp h with rfl | h'
        · exact .inr (List.mem_cons_self ..)
        · rcases ih h' with h | h
          · exact .inl h
          · exact .inr (List.mem_cons_of_mem _ h)

theorem Tab.rising_all {α : Type} {a : Nat × α} {t : Tab α} (h : Tab.rising (a :: t) = true) : ∀ b ∈ t, a.1 < b.1 := by
  induction t generalizing a with
  | nil => simp
  | cons c r ih =>
    rw [Tab.rising_cons] at h
    have hc : a.1 < c.1 := h.1 c (by simp)
    intro b hb
    rcases List.mem_cons.mp hb with rfl | hb
    · exact hc
    · exact Nat.lt_trans hc (ih h.2 b hb)

theorem Tab.rising_del {α : Type} (t : Tab α) (k : Nat) (h : Tab.rising t = true) : Tab.rising (t.del k) = true := by
  induction t with
  | nil => simp [Tab.del, Tab.rising]
  | cons a r ih =>
    obtain ⟨m, w⟩ := a
    have hr := (Tab.rising_cons.mp h).2
    unfold Tab.del
    split
    · exact ih hr
    · rw [Tab.rising_cons]
      refine ⟨fun b hb => ?_, ih hr⟩
      exact Tab.rising_all h b (Tab.mem_del r k b (List.mem_of_mem_head? hb))

/-! ### Memory -/

/-- Reading after writing one byte. -/
theorem Memory.read_write (m : Memory) (a b : Nat) (v : Byte) :
    (m.write a v).read b = if b = a then v else m.read b := by
  unfold Memory.write Memory.read Tab.get
  split
  · next h => rw [Tab.find_del]; by_cases hb : b = a <;> simp [hb, h]
  · rw [Tab.find_put]; by_cases hb : b = a <;> simp [hb]

@[simp] theorem Memory.read_write_self (m : Memory) (a : Nat) (v : Byte) : (m.write a v).read a = v := by
  simp [Memory.read_write]

theorem Memory.read_write_ne (m : Memory) {a b : Nat} (v : Byte) (h : b ≠ a) : (m.write a v).read b = m.read b := by
  simp [Memory.read_write, h]

/-- A write of one byte keeps the canonical form. -/
theorem Memory.wf_write (m : Memory) (a : Nat) (v : Byte) (h : m.wf = true) : (m.write a v).wf = true := by
  unfold Memory.wf at h ⊢
  rw [Bool.and_eq_true, List.all_eq_true] at h ⊢
  unfold Memory.write
  split
  · exact ⟨Tab.rising_del _ _ h.1, fun b hb => h.2 b (Tab.mem_del _ _ _ hb)⟩
  · next hv =>
    refine ⟨Tab.rising_put _ _ _ h.1, fun b hb => ?_⟩
    rcases Tab.mem_put _ _ _ _ hb with rfl | hb
    · simpa using hv
    · exact h.2 b hb

/-- Writing bytes keeps the canonical form. -/
theorem Memory.wf_store (m : Memory) (a : Nat) (bs : List Byte) (h : m.wf = true) : (m.store a bs).wf = true := by
  induction bs generalizing m a with
  | nil => exact h
  | cons b r ih => exact ih _ _ (Memory.wf_write _ _ _ h)

/-- Reading outside stored bytes. -/
theorem Memory.read_store_out (m : Memory) (a b : Nat) (bs : List Byte) (h : b < a ∨ a + bs.length ≤ b) :
    (m.store a bs).read b = m.read b := by
  induction bs generalizing m a with
  | nil => rfl
  | cons v r ih =>
    simp only [Memory.store, List.length_cons] at h ⊢
    rw [ih _ _ (by omega), Memory.read_write_ne _ _ (by omega)]

/-- Reading a stored byte. -/
theorem Memory.read_store_in (m : Memory) (a i : Nat) (bs : List Byte) (h : i < bs.length) :
    (m.store a bs).read (a + i) = bs[i] := by
  induction bs generalizing m a i with
  | nil => simp at h
  | cons v r ih =>
    simp only [Memory.store]
    cases i with
    | zero => rw [Memory.read_store_out _ _ _ _ (by omega)]; simp
    | succ j =>
      have := ih (m.write a v) (a + 1) j (by simpa using h)
      simpa [Nat.add_assoc, Nat.add_comm 1 j] using this

/-- Reading back what was stored. -/
theorem Memory.bytes_store (m : Memory) (a : Nat) (bs : List Byte) : (m.store a bs).bytes a bs.length = bs := by
  induction bs generalizing m a with
  | nil => rfl
  | cons v r ih =>
    simp only [Memory.store, List.length_cons, Memory.bytes]
    rw [Memory.read_store_out _ _ _ _ (by omega), Memory.read_write_self, ih]

/-- Forgetting bytes keeps the canonical form. -/
theorem Memory.wf_forget (m : Memory) (a n : Nat) (h : m.wf = true) : (m.forget a n).wf = true := by
  unfold Memory.wf at h ⊢
  rw [Bool.and_eq_true, List.all_eq_true] at h ⊢
  refine ⟨?_, fun b hb => h.2 b (List.mem_filter.mp hb).1⟩
  have key : ∀ t : Memory, Tab.rising t = true → Tab.rising (t.forget a n) = true := by
    intro t ht
    induction t with
    | nil => rfl
    | cons c r ih =>
      have hr := (Tab.rising_cons.mp ht).2
      unfold Memory.forget at ih ⊢
      rw [List.filter_cons]
      split
      · rw [Tab.rising_cons]
        exact ⟨fun b hb => Tab.rising_all ht b (List.mem_filter.mp (List.mem_of_mem_head? hb)).1, ih hr⟩
      · exact ih hr
  exact key m h.1

end Sys2Proof.Machine
end

