-- ==== Sys2Proof/Laws/State.lean ====
section
/-! SUPPORT. What each named update of the state leaves as it was, field by field, and what it writes. -/

namespace Sys2Proof.Machine

/-! ### setLan -/

@[simp] theorem State.setLan_tick (s : State) (k : Nat) (l : Lantern) : (s.setLan k l).tick = s.tick := rfl
@[simp] theorem State.setLan_agenda (s : State) (k : Nat) (l : Lantern) : (s.setLan k l).agenda = s.agenda := rfl
@[simp] theorem State.setLan_focus (s : State) (k : Nat) (l : Lantern) : (s.setLan k l).focus = s.focus := rfl
@[simp] theorem State.setLan_elem (s : State) (k : Nat) (l : Lantern) : (s.setLan k l).elem = s.elem := rfl
@[simp] theorem State.setLan_prt (s : State) (k : Nat) (l : Lantern) : (s.setLan k l).prt = s.prt := rfl
@[simp] theorem State.setLan_free (s : State) (k : Nat) (l : Lantern) : (s.setLan k l).free = s.free := rfl
@[simp] theorem State.setLan_mem (s : State) (k : Nat) (l : Lantern) : (s.setLan k l).mem = s.mem := rfl
@[simp] theorem State.setLan_ecc (s : State) (k : Nat) (l : Lantern) : (s.setLan k l).ecc = s.ecc := rfl
@[simp] theorem State.setLan_hbmBad (s : State) (k : Nat) (l : Lantern) : (s.setLan k l).hbmBad = s.hbmBad := rfl
@[simp] theorem State.setLan_mode (s : State) (k : Nat) (l : Lantern) : (s.setLan k l).mode = s.mode := rfl
@[simp] theorem State.setLan_roots (s : State) (k : Nat) (l : Lantern) : (s.setLan k l).roots = s.roots := rfl
@[simp] theorem State.setLan_nextPage (s : State) (k : Nat) (l : Lantern) : (s.setLan k l).nextPage = s.nextPage := rfl
@[simp] theorem State.setLan_tlbs (s : State) (k : Nat) (l : Lantern) : (s.setLan k l).tlbs = s.tlbs := rfl
@[simp] theorem State.setLan_elems (s : State) (k : Nat) (l : Lantern) : (s.setLan k l).elems = s.elems := rfl
@[simp] theorem State.setLan_tiles (s : State) (k : Nat) (l : Lantern) : (s.setLan k l).tiles = s.tiles := rfl
@[simp] theorem State.setLan_ports (s : State) (k : Nat) (l : Lantern) : (s.setLan k l).ports = s.ports := rfl
@[simp] theorem State.setLan_syncs (s : State) (k : Nat) (l : Lantern) : (s.setLan k l).syncs = s.syncs := rfl
@[simp] theorem State.setLan_chans (s : State) (k : Nat) (l : Lantern) : (s.setLan k l).chans = s.chans := rfl
@[simp] theorem State.setLan_copyq (s : State) (k : Nat) (l : Lantern) : (s.setLan k l).copyq = s.copyq := rfl
@[simp] theorem State.setLan_beacons (s : State) (k : Nat) (l : Lantern) : (s.setLan k l).beacons = s.beacons := rfl
@[simp] theorem State.setLan_arbs (s : State) (k : Nat) (l : Lantern) : (s.setLan k l).arbs = s.arbs := rfl
@[simp] theorem State.setLan_spares (s : State) (k : Nat) (l : Lantern) : (s.setLan k l).spares = s.spares := rfl
@[simp] theorem State.setLan_spareForce (s : State) (k : Nat) (l : Lantern) : (s.setLan k l).spareForce = s.spareForce := rfl
@[simp] theorem State.setLan_spareAt (s : State) (k : Nat) (l : Lantern) : (s.setLan k l).spareAt = s.spareAt := rfl
@[simp] theorem State.setLan_spareq (s : State) (k : Nat) (l : Lantern) : (s.setLan k l).spareq = s.spareq := rfl
@[simp] theorem State.setLan_edges (s : State) (k : Nat) (l : Lantern) : (s.setLan k l).edges = s.edges := rfl
@[simp] theorem State.setLan_saves (s : State) (k : Nat) (l : Lantern) : (s.setLan k l).saves = s.saves := rfl
@[simp] theorem State.setLan_portSnaps (s : State) (k : Nat) (l : Lantern) : (s.setLan k l).portSnaps = s.portSnaps := rfl
@[simp] theorem State.setLan_hub (s : State) (k : Nat) (l : Lantern) : (s.setLan k l).hub = s.hub := rfl
@[simp] theorem State.setLan_mgmt (s : State) (k : Nat) (l : Lantern) : (s.setLan k l).mgmt = s.mgmt := rfl

/-! ### modLan -/

@[simp] theorem State.modLan_tick (s : State) (k : Nat) (f : Lantern → Lantern) : (s.modLan k f).tick = s.tick := rfl
@[simp] theorem State.modLan_agenda (s : State) (k : Nat) (f : Lantern → Lantern) : (s.modLan k f).agenda = s.agenda := rfl
@[simp] theorem State.modLan_focus (s : State) (k : Nat) (f : Lantern → Lantern) : (s.modLan k f).focus = s.focus := rfl
@[simp] theorem State.modLan_elem (s : State) (k : Nat) (f : Lantern → Lantern) : (s.modLan k f).elem = s.elem := rfl
@[simp] theorem State.modLan_prt (s : State) (k : Nat) (f : Lantern → Lantern) : (s.modLan k f).prt = s.prt := rfl
@[simp] theorem State.modLan_free (s : State) (k : Nat) (f : Lantern → Lantern) : (s.modLan k f).free = s.free := rfl
@[simp] theorem State.modLan_mem (s : State) (k : Nat) (f : Lantern → Lantern) : (s.modLan k f).mem = s.mem := rfl
@[simp] theorem State.modLan_ecc (s : State) (k : Nat) (f : Lantern → Lantern) : (s.modLan k f).ecc = s.ecc := rfl
@[simp] theorem State.modLan_hbmBad (s : State) (k : Nat) (f : Lantern → Lantern) : (s.modLan k f).hbmBad = s.hbmBad := rfl
@[simp] theorem State.modLan_mode (s : State) (k : Nat) (f : Lantern → Lantern) : (s.modLan k f).mode = s.mode := rfl
@[simp] theorem State.modLan_roots (s : State) (k : Nat) (f : Lantern → Lantern) : (s.modLan k f).roots = s.roots := rfl
@[simp] theorem State.modLan_nextPage (s : State) (k : Nat) (f : Lantern → Lantern) : (s.modLan k f).nextPage = s.nextPage := rfl
@[simp] theorem State.modLan_tlbs (s : State) (k : Nat) (f : Lantern → Lantern) : (s.modLan k f).tlbs = s.tlbs := rfl
@[simp] theorem State.modLan_elems (s : State) (k : Nat) (f : Lantern → Lantern) : (s.modLan k f).elems = s.elems := rfl
@[simp] theorem State.modLan_tiles (s : State) (k : Nat) (f : Lantern → Lantern) : (s.modLan k f).tiles = s.tiles := rfl
@[simp] theorem State.modLan_ports (s : State) (k : Nat) (f : Lantern → Lantern) : (s.modLan k f).ports = s.ports := rfl
@[simp] theorem State.modLan_syncs (s : State) (k : Nat) (f : Lantern → Lantern) : (s.modLan k f).syncs = s.syncs := rfl
@[simp] theorem State.modLan_chans (s : State) (k : Nat) (f : Lantern → Lantern) : (s.modLan k f).chans = s.chans := rfl
@[simp] theorem State.modLan_copyq (s : State) (k : Nat) (f : Lantern → Lantern) : (s.modLan k f).copyq = s.copyq := rfl
@[simp] theorem State.modLan_beacons (s : State) (k : Nat) (f : Lantern → Lantern) : (s.modLan k f).beacons = s.beacons := rfl
@[simp] theorem State.modLan_arbs (s : State) (k : Nat) (f : Lantern → Lantern) : (s.modLan k f).arbs = s.arbs := rfl
@[simp] theorem State.modLan_spares (s : State) (k : Nat) (f : Lantern → Lantern) : (s.modLan k f).spares = s.spares := rfl
@[simp] theorem State.modLan_spareForce (s : State) (k : Nat) (f : Lantern → Lantern) : (s.modLan k f).spareForce = s.spareForce := rfl
@[simp] theorem State.modLan_spareAt (s : State) (k : Nat) (f : Lantern → Lantern) : (s.modLan k f).spareAt = s.spareAt := rfl
@[simp] theorem State.modLan_spareq (s : State) (k : Nat) (f : Lantern → Lantern) : (s.modLan k f).spareq = s.spareq := rfl
@[simp] theorem State.modLan_edges (s : State) (k : Nat) (f : Lantern → Lantern) : (s.modLan k f).edges = s.edges := rfl
@[simp] theorem State.modLan_saves (s : State) (k : Nat) (f : Lantern → Lantern) : (s.modLan k f).saves = s.saves := rfl
@[simp] theorem State.modLan_portSnaps (s : State) (k : Nat) (f : Lantern → Lantern) : (s.modLan k f).portSnaps = s.portSnaps := rfl
@[simp] theorem State.modLan_hub (s : State) (k : Nat) (f : Lantern → Lantern) : (s.modLan k f).hub = s.hub := rfl
@[simp] theorem State.modLan_mgmt (s : State) (k : Nat) (f : Lantern → Lantern) : (s.modLan k f).mgmt = s.mgmt := rfl

/-! ### modCur -/

@[simp] theorem State.modCur_tick (s : State) (f : Lantern → Lantern) : (s.modCur f).tick = s.tick := rfl
@[simp] theorem State.modCur_agenda (s : State) (f : Lantern → Lantern) : (s.modCur f).agenda = s.agenda := rfl
@[simp] theorem State.modCur_focus (s : State) (f : Lantern → Lantern) : (s.modCur f).focus = s.focus := rfl
@[simp] theorem State.modCur_elem (s : State) (f : Lantern → Lantern) : (s.modCur f).elem = s.elem := rfl
@[simp] theorem State.modCur_prt (s : State) (f : Lantern → Lantern) : (s.modCur f).prt = s.prt := rfl
@[simp] theorem State.modCur_free (s : State) (f : Lantern → Lantern) : (s.modCur f).free = s.free := rfl
@[simp] theorem State.modCur_mem (s : State) (f : Lantern → Lantern) : (s.modCur f).mem = s.mem := rfl
@[simp] theorem State.modCur_ecc (s : State) (f : Lantern → Lantern) : (s.modCur f).ecc = s.ecc := rfl
@[simp] theorem State.modCur_hbmBad (s : State) (f : Lantern → Lantern) : (s.modCur f).hbmBad = s.hbmBad := rfl
@[simp] theorem State.modCur_mode (s : State) (f : Lantern → Lantern) : (s.modCur f).mode = s.mode := rfl
@[simp] theorem State.modCur_roots (s : State) (f : Lantern → Lantern) : (s.modCur f).roots = s.roots := rfl
@[simp] theorem State.modCur_nextPage (s : State) (f : Lantern → Lantern) : (s.modCur f).nextPage = s.nextPage := rfl
@[simp] theorem State.modCur_tlbs (s : State) (f : Lantern → Lantern) : (s.modCur f).tlbs = s.tlbs := rfl
@[simp] theorem State.modCur_elems (s : State) (f : Lantern → Lantern) : (s.modCur f).elems = s.elems := rfl
@[simp] theorem State.modCur_tiles (s : State) (f : Lantern → Lantern) : (s.modCur f).tiles = s.tiles := rfl
@[simp] theorem State.modCur_ports (s : State) (f : Lantern → Lantern) : (s.modCur f).ports = s.ports := rfl
@[simp] theorem State.modCur_syncs (s : State) (f : Lantern → Lantern) : (s.modCur f).syncs = s.syncs := rfl
@[simp] theorem State.modCur_chans (s : State) (f : Lantern → Lantern) : (s.modCur f).chans = s.chans := rfl
@[simp] theorem State.modCur_copyq (s : State) (f : Lantern → Lantern) : (s.modCur f).copyq = s.copyq := rfl
@[simp] theorem State.modCur_beacons (s : State) (f : Lantern → Lantern) : (s.modCur f).beacons = s.beacons := rfl
@[simp] theorem State.modCur_arbs (s : State) (f : Lantern → Lantern) : (s.modCur f).arbs = s.arbs := rfl
@[simp] theorem State.modCur_spares (s : State) (f : Lantern → Lantern) : (s.modCur f).spares = s.spares := rfl
@[simp] theorem State.modCur_spareForce (s : State) (f : Lantern → Lantern) : (s.modCur f).spareForce = s.spareForce := rfl
@[simp] theorem State.modCur_spareAt (s : State) (f : Lantern → Lantern) : (s.modCur f).spareAt = s.spareAt := rfl
@[simp] theorem State.modCur_spareq (s : State) (f : Lantern → Lantern) : (s.modCur f).spareq = s.spareq := rfl
@[simp] theorem State.modCur_edges (s : State) (f : Lantern → Lantern) : (s.modCur f).edges = s.edges := rfl
@[simp] theorem State.modCur_saves (s : State) (f : Lantern → Lantern) : (s.modCur f).saves = s.saves := rfl
@[simp] theorem State.modCur_portSnaps (s : State) (f : Lantern → Lantern) : (s.modCur f).portSnaps = s.portSnaps := rfl
@[simp] theorem State.modCur_hub (s : State) (f : Lantern → Lantern) : (s.modCur f).hub = s.hub := rfl
@[simp] theorem State.modCur_mgmt (s : State) (f : Lantern → Lantern) : (s.modCur f).mgmt = s.mgmt := rfl

/-! ### setEl -/

@[simp] theorem State.setEl_tick (s : State) (k : Nat) (e : Element) : (s.setEl k e).tick = s.tick := rfl
@[simp] theorem State.setEl_agenda (s : State) (k : Nat) (e : Element) : (s.setEl k e).agenda = s.agenda := rfl
@[simp] theorem State.setEl_focus (s : State) (k : Nat) (e : Element) : (s.setEl k e).focus = s.focus := rfl
@[simp] theorem State.setEl_elem (s : State) (k : Nat) (e : Element) : (s.setEl k e).elem = s.elem := rfl
@[simp] theorem State.setEl_prt (s : State) (k : Nat) (e : Element) : (s.setEl k e).prt = s.prt := rfl
@[simp] theorem State.setEl_free (s : State) (k : Nat) (e : Element) : (s.setEl k e).free = s.free := rfl
@[simp] theorem State.setEl_mem (s : State) (k : Nat) (e : Element) : (s.setEl k e).mem = s.mem := rfl
@[simp] theorem State.setEl_ecc (s : State) (k : Nat) (e : Element) : (s.setEl k e).ecc = s.ecc := rfl
@[simp] theorem State.setEl_hbmBad (s : State) (k : Nat) (e : Element) : (s.setEl k e).hbmBad = s.hbmBad := rfl
@[simp] theorem State.setEl_mode (s : State) (k : Nat) (e : Element) : (s.setEl k e).mode = s.mode := rfl
@[simp] theorem State.setEl_roots (s : State) (k : Nat) (e : Element) : (s.setEl k e).roots = s.roots := rfl
@[simp] theorem State.setEl_nextPage (s : State) (k : Nat) (e : Element) : (s.setEl k e).nextPage = s.nextPage := rfl
@[simp] theorem State.setEl_tlbs (s : State) (k : Nat) (e : Element) : (s.setEl k e).tlbs = s.tlbs := rfl
@[simp] theorem State.setEl_lans (s : State) (k : Nat) (e : Element) : (s.setEl k e).lans = s.lans := rfl
@[simp] theorem State.setEl_tiles (s : State) (k : Nat) (e : Element) : (s.setEl k e).tiles = s.tiles := rfl
@[simp] theorem State.setEl_ports (s : State) (k : Nat) (e : Element) : (s.setEl k e).ports = s.ports := rfl
@[simp] theorem State.setEl_syncs (s : State) (k : Nat) (e : Element) : (s.setEl k e).syncs = s.syncs := rfl
@[simp] theorem State.setEl_chans (s : State) (k : Nat) (e : Element) : (s.setEl k e).chans = s.chans := rfl
@[simp] theorem State.setEl_copyq (s : State) (k : Nat) (e : Element) : (s.setEl k e).copyq = s.copyq := rfl
@[simp] theorem State.setEl_beacons (s : State) (k : Nat) (e : Element) : (s.setEl k e).beacons = s.beacons := rfl
@[simp] theorem State.setEl_arbs (s : State) (k : Nat) (e : Element) : (s.setEl k e).arbs = s.arbs := rfl
@[simp] theorem State.setEl_spares (s : State) (k : Nat) (e : Element) : (s.setEl k e).spares = s.spares := rfl
@[simp] theorem State.setEl_spareForce (s : State) (k : Nat) (e : Element) : (s.setEl k e).spareForce = s.spareForce := rfl
@[simp] theorem State.setEl_spareAt (s : State) (k : Nat) (e : Element) : (s.setEl k e).spareAt = s.spareAt := rfl
@[simp] theorem State.setEl_spareq (s : State) (k : Nat) (e : Element) : (s.setEl k e).spareq = s.spareq := rfl
@[simp] theorem State.setEl_edges (s : State) (k : Nat) (e : Element) : (s.setEl k e).edges = s.edges := rfl
@[simp] theorem State.setEl_saves (s : State) (k : Nat) (e : Element) : (s.setEl k e).saves = s.saves := rfl
@[simp] theorem State.setEl_portSnaps (s : State) (k : Nat) (e : Element) : (s.setEl k e).portSnaps = s.portSnaps := rfl
@[simp] theorem State.setEl_hub (s : State) (k : Nat) (e : Element) : (s.setEl k e).hub = s.hub := rfl
@[simp] theorem State.setEl_mgmt (s : State) (k : Nat) (e : Element) : (s.setEl k e).mgmt = s.mgmt := rfl

/-! ### modEl -/

@[simp] theorem State.modEl_tick (s : State) (k : Nat) (f : Element → Element) : (s.modEl k f).tick = s.tick := rfl
@[simp] theorem State.modEl_agenda (s : State) (k : Nat) (f : Element → Element) : (s.modEl k f).agenda = s.agenda := rfl
@[simp] theorem State.modEl_focus (s : State) (k : Nat) (f : Element → Element) : (s.modEl k f).focus = s.focus := rfl
@[simp] theorem State.modEl_elem (s : State) (k : Nat) (f : Element → Element) : (s.modEl k f).elem = s.elem := rfl
@[simp] theorem State.modEl_prt (s : State) (k : Nat) (f : Element → Element) : (s.modEl k f).prt = s.prt := rfl
@[simp] theorem State.modEl_free (s : State) (k : Nat) (f : Element → Element) : (s.modEl k f).free = s.free := rfl
@[simp] theorem State.modEl_mem (s : State) (k : Nat) (f : Element → Element) : (s.modEl k f).mem = s.mem := rfl
@[simp] theorem State.modEl_ecc (s : State) (k : Nat) (f : Element → Element) : (s.modEl k f).ecc = s.ecc := rfl
@[simp] theorem State.modEl_hbmBad (s : State) (k : Nat) (f : Element → Element) : (s.modEl k f).hbmBad = s.hbmBad := rfl
@[simp] theorem State.modEl_mode (s : State) (k : Nat) (f : Element → Element) : (s.modEl k f).mode = s.mode := rfl
@[simp] theorem State.modEl_roots (s : State) (k : Nat) (f : Element → Element) : (s.modEl k f).roots = s.roots := rfl
@[simp] theorem State.modEl_nextPage (s : State) (k : Nat) (f : Element → Element) : (s.modEl k f).nextPage = s.nextPage := rfl
@[simp] theorem State.modEl_tlbs (s : State) (k : Nat) (f : Element → Element) : (s.modEl k f).tlbs = s.tlbs := rfl
@[simp] theorem State.modEl_lans (s : State) (k : Nat) (f : Element → Element) : (s.modEl k f).lans = s.lans := rfl
@[simp] theorem State.modEl_tiles (s : State) (k : Nat) (f : Element → Element) : (s.modEl k f).tiles = s.tiles := rfl
@[simp] theorem State.modEl_ports (s : State) (k : Nat) (f : Element → Element) : (s.modEl k f).ports = s.ports := rfl
@[simp] theorem State.modEl_syncs (s : State) (k : Nat) (f : Element → Element) : (s.modEl k f).syncs = s.syncs := rfl
@[simp] theorem State.modEl_chans (s : State) (k : Nat) (f : Element → Element) : (s.modEl k f).chans = s.chans := rfl
@[simp] theorem State.modEl_copyq (s : State) (k : Nat) (f : Element → Element) : (s.modEl k f).copyq = s.copyq := rfl
@[simp] theorem State.modEl_beacons (s : State) (k : Nat) (f : Element → Element) : (s.modEl k f).beacons = s.beacons := rfl
@[simp] theorem State.modEl_arbs (s : State) (k : Nat) (f : Element → Element) : (s.modEl k f).arbs = s.arbs := rfl
@[simp] theorem State.modEl_spares (s : State) (k : Nat) (f : Element → Element) : (s.modEl k f).spares = s.spares := rfl
@[simp] theorem State.modEl_spareForce (s : State) (k : Nat) (f : Element → Element) : (s.modEl k f).spareForce = s.spareForce := rfl
@[simp] theorem State.modEl_spareAt (s : State) (k : Nat) (f : Element → Element) : (s.modEl k f).spareAt = s.spareAt := rfl
@[simp] theorem State.modEl_spareq (s : State) (k : Nat) (f : Element → Element) : (s.modEl k f).spareq = s.spareq := rfl
@[simp] theorem State.modEl_edges (s : State) (k : Nat) (f : Element → Element) : (s.modEl k f).edges = s.edges := rfl
@[simp] theorem State.modEl_saves (s : State) (k : Nat) (f : Element → Element) : (s.modEl k f).saves = s.saves := rfl
@[simp] theorem State.modEl_portSnaps (s : State) (k : Nat) (f : Element → Element) : (s.modEl k f).portSnaps = s.portSnaps := rfl
@[simp] theorem State.modEl_hub (s : State) (k : Nat) (f : Element → Element) : (s.modEl k f).hub = s.hub := rfl
@[simp] theorem State.modEl_mgmt (s : State) (k : Nat) (f : Element → Element) : (s.modEl k f).mgmt = s.mgmt := rfl

/-! ### modCore -/

@[simp] theorem State.modCore_tick (s : State) (k : Nat) (f : ElemCore → ElemCore) : (s.modCore k f).tick = s.tick := rfl
@[simp] theorem State.modCore_agenda (s : State) (k : Nat) (f : ElemCore → ElemCore) : (s.modCore k f).agenda = s.agenda := rfl
@[simp] theorem State.modCore_focus (s : State) (k : Nat) (f : ElemCore → ElemCore) : (s.modCore k f).focus = s.focus := rfl
@[simp] theorem State.modCore_elem (s : State) (k : Nat) (f : ElemCore → ElemCore) : (s.modCore k f).elem = s.elem := rfl
@[simp] theorem State.modCore_prt (s : State) (k : Nat) (f : ElemCore → ElemCore) : (s.modCore k f).prt = s.prt := rfl
@[simp] theorem State.modCore_free (s : State) (k : Nat) (f : ElemCore → ElemCore) : (s.modCore k f).free = s.free := rfl
@[simp] theorem State.modCore_mem (s : State) (k : Nat) (f : ElemCore → ElemCore) : (s.modCore k f).mem = s.mem := rfl
@[simp] theorem State.modCore_ecc (s : State) (k : Nat) (f : ElemCore → ElemCore) : (s.modCore k f).ecc = s.ecc := rfl
@[simp] theorem State.modCore_hbmBad (s : State) (k : Nat) (f : ElemCore → ElemCore) : (s.modCore k f).hbmBad = s.hbmBad := rfl
@[simp] theorem State.modCore_mode (s : State) (k : Nat) (f : ElemCore → ElemCore) : (s.modCore k f).mode = s.mode := rfl
@[simp] theorem State.modCore_roots (s : State) (k : Nat) (f : ElemCore → ElemCore) : (s.modCore k f).roots = s.roots := rfl
@[simp] theorem State.modCore_nextPage (s : State) (k : Nat) (f : ElemCore → ElemCore) : (s.modCore k f).nextPage = s.nextPage := rfl
@[simp] theorem State.modCore_tlbs (s : State) (k : Nat) (f : ElemCore → ElemCore) : (s.modCore k f).tlbs = s.tlbs := rfl
@[simp] theorem State.modCore_lans (s : State) (k : Nat) (f : ElemCore → ElemCore) : (s.modCore k f).lans = s.lans := rfl
@[simp] theorem State.modCore_tiles (s : State) (k : Nat) (f : ElemCore → ElemCore) : (s.modCore k f).tiles = s.tiles := rfl
@[simp] theorem State.modCore_ports (s : State) (k : Nat) (f : ElemCore → ElemCore) : (s.modCore k f).ports = s.ports := rfl
@[simp] theorem State.modCore_syncs (s : State) (k : Nat) (f : ElemCore → ElemCore) : (s.modCore k f).syncs = s.syncs := rfl
@[simp] theorem State.modCore_chans (s : State) (k : Nat) (f : ElemCore → ElemCore) : (s.modCore k f).chans = s.chans := rfl
@[simp] theorem State.modCore_copyq (s : State) (k : Nat) (f : ElemCore → ElemCore) : (s.modCore k f).copyq = s.copyq := rfl
@[simp] theorem State.modCore_beacons (s : State) (k : Nat) (f : ElemCore → ElemCore) : (s.modCore k f).beacons = s.beacons := rfl
@[simp] theorem State.modCore_arbs (s : State) (k : Nat) (f : ElemCore → ElemCore) : (s.modCore k f).arbs = s.arbs := rfl
@[simp] theorem State.modCore_spares (s : State) (k : Nat) (f : ElemCore → ElemCore) : (s.modCore k f).spares = s.spares := rfl
@[simp] theorem State.modCore_spareForce (s : State) (k : Nat) (f : ElemCore → ElemCore) : (s.modCore k f).spareForce = s.spareForce := rfl
@[simp] theorem State.modCore_spareAt (s : State) (k : Nat) (f : ElemCore → ElemCore) : (s.modCore k f).spareAt = s.spareAt := rfl
@[simp] theorem State.modCore_spareq (s : State) (k : Nat) (f : ElemCore → ElemCore) : (s.modCore k f).spareq = s.spareq := rfl
@[simp] theorem State.modCore_edges (s : State) (k : Nat) (f : ElemCore → ElemCore) : (s.modCore k f).edges = s.edges := rfl
@[simp] theorem State.modCore_saves (s : State) (k : Nat) (f : ElemCore → ElemCore) : (s.modCore k f).saves = s.saves := rfl
@[simp] theorem State.modCore_portSnaps (s : State) (k : Nat) (f : ElemCore → ElemCore) : (s.modCore k f).portSnaps = s.portSnaps := rfl
@[simp] theorem State.modCore_hub (s : State) (k : Nat) (f : ElemCore → ElemCore) : (s.modCore k f).hub = s.hub := rfl
@[simp] theorem State.modCore_mgmt (s : State) (k : Nat) (f : ElemCore → ElemCore) : (s.modCore k f).mgmt = s.mgmt := rfl

/-! ### modTile -/

@[simp] theorem State.modTile_tick (s : State) (k : Nat) (f : Tile → Tile) : (s.modTile k f).tick = s.tick := rfl
@[simp] theorem State.modTile_agenda (s : State) (k : Nat) (f : Tile → Tile) : (s.modTile k f).agenda = s.agenda := rfl
@[simp] theorem State.modTile_focus (s : State) (k : Nat) (f : Tile → Tile) : (s.modTile k f).focus = s.focus := rfl
@[simp] theorem State.modTile_elem (s : State) (k : Nat) (f : Tile → Tile) : (s.modTile k f).elem = s.elem := rfl
@[simp] theorem State.modTile_prt (s : State) (k : Nat) (f : Tile → Tile) : (s.modTile k f).prt = s.prt := rfl
@[simp] theorem State.modTile_free (s : State) (k : Nat) (f : Tile → Tile) : (s.modTile k f).free = s.free := rfl
@[simp] theorem State.modTile_mem (s : State) (k : Nat) (f : Tile → Tile) : (s.modTile k f).mem = s.mem := rfl
@[simp] theorem State.modTile_ecc (s : State) (k : Nat) (f : Tile → Tile) : (s.modTile k f).ecc = s.ecc := rfl
@[simp] theorem State.modTile_hbmBad (s : State) (k : Nat) (f : Tile → Tile) : (s.modTile k f).hbmBad = s.hbmBad := rfl
@[simp] theorem State.modTile_mode (s : State) (k : Nat) (f : Tile → Tile) : (s.modTile k f).mode = s.mode := rfl
@[simp] theorem State.modTile_roots (s : State) (k : Nat) (f : Tile → Tile) : (s.modTile k f).roots = s.roots := rfl
@[simp] theorem State.modTile_nextPage (s : State) (k : Nat) (f : Tile → Tile) : (s.modTile k f).nextPage = s.nextPage := rfl
@[simp] theorem State.modTile_tlbs (s : State) (k : Nat) (f : Tile → Tile) : (s.modTile k f).tlbs = s.tlbs := rfl
@[simp] theorem State.modTile_lans (s : State) (k : Nat) (f : Tile → Tile) : (s.modTile k f).lans = s.lans := rfl
@[simp] theorem State.modTile_elems (s : State) (k : Nat) (f : Tile → Tile) : (s.modTile k f).elems = s.elems := rfl
@[simp] theorem State.modTile_ports (s : State) (k : Nat) (f : Tile → Tile) : (s.modTile k f).ports = s.ports := rfl
@[simp] theorem State.modTile_syncs (s : State) (k : Nat) (f : Tile → Tile) : (s.modTile k f).syncs = s.syncs := rfl
@[simp] theorem State.modTile_chans (s : State) (k : Nat) (f : Tile → Tile) : (s.modTile k f).chans = s.chans := rfl
@[simp] theorem State.modTile_copyq (s : State) (k : Nat) (f : Tile → Tile) : (s.modTile k f).copyq = s.copyq := rfl
@[simp] theorem State.modTile_beacons (s : State) (k : Nat) (f : Tile → Tile) : (s.modTile k f).beacons = s.beacons := rfl
@[simp] theorem State.modTile_arbs (s : State) (k : Nat) (f : Tile → Tile) : (s.modTile k f).arbs = s.arbs := rfl
@[simp] theorem State.modTile_spares (s : State) (k : Nat) (f : Tile → Tile) : (s.modTile k f).spares = s.spares := rfl
@[simp] theorem State.modTile_spareForce (s : State) (k : Nat) (f : Tile → Tile) : (s.modTile k f).spareForce = s.spareForce := rfl
@[simp] theorem State.modTile_spareAt (s : State) (k : Nat) (f : Tile → Tile) : (s.modTile k f).spareAt = s.spareAt := rfl
@[simp] theorem State.modTile_spareq (s : State) (k : Nat) (f : Tile → Tile) : (s.modTile k f).spareq = s.spareq := rfl
@[simp] theorem State.modTile_edges (s : State) (k : Nat) (f : Tile → Tile) : (s.modTile k f).edges = s.edges := rfl
@[simp] theorem State.modTile_saves (s : State) (k : Nat) (f : Tile → Tile) : (s.modTile k f).saves = s.saves := rfl
@[simp] theorem State.modTile_portSnaps (s : State) (k : Nat) (f : Tile → Tile) : (s.modTile k f).portSnaps = s.portSnaps := rfl
@[simp] theorem State.modTile_hub (s : State) (k : Nat) (f : Tile → Tile) : (s.modTile k f).hub = s.hub := rfl
@[simp] theorem State.modTile_mgmt (s : State) (k : Nat) (f : Tile → Tile) : (s.modTile k f).mgmt = s.mgmt := rfl

/-! ### modPort -/

@[simp] theorem State.modPort_tick (s : State) (k : Nat) (f : Port → Port) : (s.modPort k f).tick = s.tick := rfl
@[simp] theorem State.modPort_agenda (s : State) (k : Nat) (f : Port → Port) : (s.modPort k f).agenda = s.agenda := rfl
@[simp] theorem State.modPort_focus (s : State) (k : Nat) (f : Port → Port) : (s.modPort k f).focus = s.focus := rfl
@[simp] theorem State.modPort_elem (s : State) (k : Nat) (f : Port → Port) : (s.modPort k f).elem = s.elem := rfl
@[simp] theorem State.modPort_prt (s : State) (k : Nat) (f : Port → Port) : (s.modPort k f).prt = s.prt := rfl
@[simp] theorem State.modPort_free (s : State) (k : Nat) (f : Port → Port) : (s.modPort k f).free = s.free := rfl
@[simp] theorem State.modPort_mem (s : State) (k : Nat) (f : Port → Port) : (s.modPort k f).mem = s.mem := rfl
@[simp] theorem State.modPort_ecc (s : State) (k : Nat) (f : Port → Port) : (s.modPort k f).ecc = s.ecc := rfl
@[simp] theorem State.modPort_hbmBad (s : State) (k : Nat) (f : Port → Port) : (s.modPort k f).hbmBad = s.hbmBad := rfl
@[simp] theorem State.modPort_mode (s : State) (k : Nat) (f : Port → Port) : (s.modPort k f).mode = s.mode := rfl
@[simp] theorem State.modPort_roots (s : State) (k : Nat) (f : Port → Port) : (s.modPort k f).roots = s.roots := rfl
@[simp] theorem State.modPort_nextPage (s : State) (k : Nat) (f : Port → Port) : (s.modPort k f).nextPage = s.nextPage := rfl
@[simp] theorem State.modPort_tlbs (s : State) (k : Nat) (f : Port → Port) : (s.modPort k f).tlbs = s.tlbs := rfl
@[simp] theorem State.modPort_lans (s : State) (k : Nat) (f : Port → Port) : (s.modPort k f).lans = s.lans := rfl
@[simp] theorem State.modPort_elems (s : State) (k : Nat) (f : Port → Port) : (s.modPort k f).elems = s.elems := rfl
@[simp] theorem State.modPort_tiles (s : State) (k : Nat) (f : Port → Port) : (s.modPort k f).tiles = s.tiles := rfl
@[simp] theorem State.modPort_syncs (s : State) (k : Nat) (f : Port → Port) : (s.modPort k f).syncs = s.syncs := rfl
@[simp] theorem State.modPort_chans (s : State) (k : Nat) (f : Port → Port) : (s.modPort k f).chans = s.chans := rfl
@[simp] theorem State.modPort_copyq (s : State) (k : Nat) (f : Port → Port) : (s.modPort k f).copyq = s.copyq := rfl
@[simp] theorem State.modPort_beacons (s : State) (k : Nat) (f : Port → Port) : (s.modPort k f).beacons = s.beacons := rfl
@[simp] theorem State.modPort_arbs (s : State) (k : Nat) (f : Port → Port) : (s.modPort k f).arbs = s.arbs := rfl
@[simp] theorem State.modPort_spares (s : State) (k : Nat) (f : Port → Port) : (s.modPort k f).spares = s.spares := rfl
@[simp] theorem State.modPort_spareForce (s : State) (k : Nat) (f : Port → Port) : (s.modPort k f).spareForce = s.spareForce := rfl
@[simp] theorem State.modPort_spareAt (s : State) (k : Nat) (f : Port → Port) : (s.modPort k f).spareAt = s.spareAt := rfl
@[simp] theorem State.modPort_spareq (s : State) (k : Nat) (f : Port → Port) : (s.modPort k f).spareq = s.spareq := rfl
@[simp] theorem State.modPort_edges (s : State) (k : Nat) (f : Port → Port) : (s.modPort k f).edges = s.edges := rfl
@[simp] theorem State.modPort_saves (s : State) (k : Nat) (f : Port → Port) : (s.modPort k f).saves = s.saves := rfl
@[simp] theorem State.modPort_portSnaps (s : State) (k : Nat) (f : Port → Port) : (s.modPort k f).portSnaps = s.portSnaps := rfl
@[simp] theorem State.modPort_hub (s : State) (k : Nat) (f : Port → Port) : (s.modPort k f).hub = s.hub := rfl
@[simp] theorem State.modPort_mgmt (s : State) (k : Nat) (f : Port → Port) : (s.modPort k f).mgmt = s.mgmt := rfl

/-! ### modSync -/

@[simp] theorem State.modSync_tick (s : State) (k : Nat) (f : Sync → Sync) : (s.modSync k f).tick = s.tick := rfl
@[simp] theorem State.modSync_agenda (s : State) (k : Nat) (f : Sync → Sync) : (s.modSync k f).agenda = s.agenda := rfl
@[simp] theorem State.modSync_focus (s : State) (k : Nat) (f : Sync → Sync) : (s.modSync k f).focus = s.focus := rfl
@[simp] theorem State.modSync_elem (s : State) (k : Nat) (f : Sync → Sync) : (s.modSync k f).elem = s.elem := rfl
@[simp] theorem State.modSync_prt (s : State) (k : Nat) (f : Sync → Sync) : (s.modSync k f).prt = s.prt := rfl
@[simp] theorem State.modSync_free (s : State) (k : Nat) (f : Sync → Sync) : (s.modSync k f).free = s.free := rfl
@[simp] theorem State.modSync_mem (s : State) (k : Nat) (f : Sync → Sync) : (s.modSync k f).mem = s.mem := rfl
@[simp] theorem State.modSync_ecc (s : State) (k : Nat) (f : Sync → Sync) : (s.modSync k f).ecc = s.ecc := rfl
@[simp] theorem State.modSync_hbmBad (s : State) (k : Nat) (f : Sync → Sync) : (s.modSync k f).hbmBad = s.hbmBad := rfl
@[simp] theorem State.modSync_mode (s : State) (k : Nat) (f : Sync → Sync) : (s.modSync k f).mode = s.mode := rfl
@[simp] theorem State.modSync_roots (s : State) (k : Nat) (f : Sync → Sync) : (s.modSync k f).roots = s.roots := rfl
@[simp] theorem State.modSync_nextPage (s : State) (k : Nat) (f : Sync → Sync) : (s.modSync k f).nextPage = s.nextPage := rfl
@[simp] theorem State.modSync_tlbs (s : State) (k : Nat) (f : Sync → Sync) : (s.modSync k f).tlbs = s.tlbs := rfl
@[simp] theorem State.modSync_lans (s : State) (k : Nat) (f : Sync → Sync) : (s.modSync k f).lans = s.lans := rfl
@[simp] theorem State.modSync_elems (s : State) (k : Nat) (f : Sync → Sync) : (s.modSync k f).elems = s.elems := rfl
@[simp] theorem State.modSync_tiles (s : State) (k : Nat) (f : Sync → Sync) : (s.modSync k f).tiles = s.tiles := rfl
@[simp] theorem State.modSync_ports (s : State) (k : Nat) (f : Sync → Sync) : (s.modSync k f).ports = s.ports := rfl
@[simp] theorem State.modSync_chans (s : State) (k : Nat) (f : Sync → Sync) : (s.modSync k f).chans = s.chans := rfl
@[simp] theorem State.modSync_copyq (s : State) (k : Nat) (f : Sync → Sync) : (s.modSync k f).copyq = s.copyq := rfl
@[simp] theorem State.modSync_beacons (s : State) (k : Nat) (f : Sync → Sync) : (s.modSync k f).beacons = s.beacons := rfl
@[simp] theorem State.modSync_arbs (s : State) (k : Nat) (f : Sync → Sync) : (s.modSync k f).arbs = s.arbs := rfl
@[simp] theorem State.modSync_spares (s : State) (k : Nat) (f : Sync → Sync) : (s.modSync k f).spares = s.spares := rfl
@[simp] theorem State.modSync_spareForce (s : State) (k : Nat) (f : Sync → Sync) : (s.modSync k f).spareForce = s.spareForce := rfl
@[simp] theorem State.modSync_spareAt (s : State) (k : Nat) (f : Sync → Sync) : (s.modSync k f).spareAt = s.spareAt := rfl
@[simp] theorem State.modSync_spareq (s : State) (k : Nat) (f : Sync → Sync) : (s.modSync k f).spareq = s.spareq := rfl
@[simp] theorem State.modSync_edges (s : State) (k : Nat) (f : Sync → Sync) : (s.modSync k f).edges = s.edges := rfl
@[simp] theorem State.modSync_saves (s : State) (k : Nat) (f : Sync → Sync) : (s.modSync k f).saves = s.saves := rfl
@[simp] theorem State.modSync_portSnaps (s : State) (k : Nat) (f : Sync → Sync) : (s.modSync k f).portSnaps = s.portSnaps := rfl
@[simp] theorem State.modSync_hub (s : State) (k : Nat) (f : Sync → Sync) : (s.modSync k f).hub = s.hub := rfl
@[simp] theorem State.modSync_mgmt (s : State) (k : Nat) (f : Sync → Sync) : (s.modSync k f).mgmt = s.mgmt := rfl

/-! ### modBeacon -/

@[simp] theorem State.modBeacon_tick (s : State) (k : Nat) (f : Beacon → Beacon) : (s.modBeacon k f).tick = s.tick := rfl
@[simp] theorem State.modBeacon_agenda (s : State) (k : Nat) (f : Beacon → Beacon) : (s.modBeacon k f).agenda = s.agenda := rfl
@[simp] theorem State.modBeacon_focus (s : State) (k : Nat) (f : Beacon → Beacon) : (s.modBeacon k f).focus = s.focus := rfl
@[simp] theorem State.modBeacon_elem (s : State) (k : Nat) (f : Beacon → Beacon) : (s.modBeacon k f).elem = s.elem := rfl
@[simp] theorem State.modBeacon_prt (s : State) (k : Nat) (f : Beacon → Beacon) : (s.modBeacon k f).prt = s.prt := rfl
@[simp] theorem State.modBeacon_free (s : State) (k : Nat) (f : Beacon → Beacon) : (s.modBeacon k f).free = s.free := rfl
@[simp] theorem State.modBeacon_mem (s : State) (k : Nat) (f : Beacon → Beacon) : (s.modBeacon k f).mem = s.mem := rfl
@[simp] theorem State.modBeacon_ecc (s : State) (k : Nat) (f : Beacon → Beacon) : (s.modBeacon k f).ecc = s.ecc := rfl
@[simp] theorem State.modBeacon_hbmBad (s : State) (k : Nat) (f : Beacon → Beacon) : (s.modBeacon k f).hbmBad = s.hbmBad := rfl
@[simp] theorem State.modBeacon_mode (s : State) (k : Nat) (f : Beacon → Beacon) : (s.modBeacon k f).mode = s.mode := rfl
@[simp] theorem State.modBeacon_roots (s : State) (k : Nat) (f : Beacon → Beacon) : (s.modBeacon k f).roots = s.roots := rfl
@[simp] theorem State.modBeacon_nextPage (s : State) (k : Nat) (f : Beacon → Beacon) : (s.modBeacon k f).nextPage = s.nextPage := rfl
@[simp] theorem State.modBeacon_tlbs (s : State) (k : Nat) (f : Beacon → Beacon) : (s.modBeacon k f).tlbs = s.tlbs := rfl
@[simp] theorem State.modBeacon_lans (s : State) (k : Nat) (f : Beacon → Beacon) : (s.modBeacon k f).lans = s.lans := rfl
@[simp] theorem State.modBeacon_elems (s : State) (k : Nat) (f : Beacon → Beacon) : (s.modBeacon k f).elems = s.elems := rfl
@[simp] theorem State.modBeacon_tiles (s : State) (k : Nat) (f : Beacon → Beacon) : (s.modBeacon k f).tiles = s.tiles := rfl
@[simp] theorem State.modBeacon_ports (s : State) (k : Nat) (f : Beacon → Beacon) : (s.modBeacon k f).ports = s.ports := rfl
@[simp] theorem State.modBeacon_syncs (s : State) (k : Nat) (f : Beacon → Beacon) : (s.modBeacon k f).syncs = s.syncs := rfl
@[simp] theorem State.modBeacon_chans (s : State) (k : Nat) (f : Beacon → Beacon) : (s.modBeacon k f).chans = s.chans := rfl
@[simp] theorem State.modBeacon_copyq (s : State) (k : Nat) (f : Beacon → Beacon) : (s.modBeacon k f).copyq = s.copyq := rfl
@[simp] theorem State.modBeacon_arbs (s : State) (k : Nat) (f : Beacon → Beacon) : (s.modBeacon k f).arbs = s.arbs := rfl
@[simp] theorem State.modBeacon_spares (s : State) (k : Nat) (f : Beacon → Beacon) : (s.modBeacon k f).spares = s.spares := rfl
@[simp] theorem State.modBeacon_spareForce (s : State) (k : Nat) (f : Beacon → Beacon) : (s.modBeacon k f).spareForce = s.spareForce := rfl
@[simp] theorem State.modBeacon_spareAt (s : State) (k : Nat) (f : Beacon → Beacon) : (s.modBeacon k f).spareAt = s.spareAt := rfl
@[simp] theorem State.modBeacon_spareq (s : State) (k : Nat) (f : Beacon → Beacon) : (s.modBeacon k f).spareq = s.spareq := rfl
@[simp] theorem State.modBeacon_edges (s : State) (k : Nat) (f : Beacon → Beacon) : (s.modBeacon k f).edges = s.edges := rfl
@[simp] theorem State.modBeacon_saves (s : State) (k : Nat) (f : Beacon → Beacon) : (s.modBeacon k f).saves = s.saves := rfl
@[simp] theorem State.modBeacon_portSnaps (s : State) (k : Nat) (f : Beacon → Beacon) : (s.modBeacon k f).portSnaps = s.portSnaps := rfl
@[simp] theorem State.modBeacon_hub (s : State) (k : Nat) (f : Beacon → Beacon) : (s.modBeacon k f).hub = s.hub := rfl
@[simp] theorem State.modBeacon_mgmt (s : State) (k : Nat) (f : Beacon → Beacon) : (s.modBeacon k f).mgmt = s.mgmt := rfl

/-! ### modArb -/

@[simp] theorem State.modArb_tick (s : State) (k : Nat) (f : Arbiter → Arbiter) : (s.modArb k f).tick = s.tick := rfl
@[simp] theorem State.modArb_agenda (s : State) (k : Nat) (f : Arbiter → Arbiter) : (s.modArb k f).agenda = s.agenda := rfl
@[simp] theorem State.modArb_focus (s : State) (k : Nat) (f : Arbiter → Arbiter) : (s.modArb k f).focus = s.focus := rfl
@[simp] theorem State.modArb_elem (s : State) (k : Nat) (f : Arbiter → Arbiter) : (s.modArb k f).elem = s.elem := rfl
@[simp] theorem State.modArb_prt (s : State) (k : Nat) (f : Arbiter → Arbiter) : (s.modArb k f).prt = s.prt := rfl
@[simp] theorem State.modArb_free (s : State) (k : Nat) (f : Arbiter → Arbiter) : (s.modArb k f).free = s.free := rfl
@[simp] theorem State.modArb_mem (s : State) (k : Nat) (f : Arbiter → Arbiter) : (s.modArb k f).mem = s.mem := rfl
@[simp] theorem State.modArb_ecc (s : State) (k : Nat) (f : Arbiter → Arbiter) : (s.modArb k f).ecc = s.ecc := rfl
@[simp] theorem State.modArb_hbmBad (s : State) (k : Nat) (f : Arbiter → Arbiter) : (s.modArb k f).hbmBad = s.hbmBad := rfl
@[simp] theorem State.modArb_mode (s : State) (k : Nat) (f : Arbiter → Arbiter) : (s.modArb k f).mode = s.mode := rfl
@[simp] theorem State.modArb_roots (s : State) (k : Nat) (f : Arbiter → Arbiter) : (s.modArb k f).roots = s.roots := rfl
@[simp] theorem State.modArb_nextPage (s : State) (k : Nat) (f : Arbiter → Arbiter) : (s.modArb k f).nextPage = s.nextPage := rfl
@[simp] theorem State.modArb_tlbs (s : State) (k : Nat) (f : Arbiter → Arbiter) : (s.modArb k f).tlbs = s.tlbs := rfl
@[simp] theorem State.modArb_lans (s : State) (k : Nat) (f : Arbiter → Arbiter) : (s.modArb k f).lans = s.lans := rfl
@[simp] theorem State.modArb_elems (s : State) (k : Nat) (f : Arbiter → Arbiter) : (s.modArb k f).elems = s.elems := rfl
@[simp] theorem State.modArb_tiles (s : State) (k : Nat) (f : Arbiter → Arbiter) : (s.modArb k f).tiles = s.tiles := rfl
@[simp] theorem State.modArb_ports (s : State) (k : Nat) (f : Arbiter → Arbiter) : (s.modArb k f).ports = s.ports := rfl
@[simp] theorem State.modArb_syncs (s : State) (k : Nat) (f : Arbiter → Arbiter) : (s.modArb k f).syncs = s.syncs := rfl
@[simp] theorem State.modArb_chans (s : State) (k : Nat) (f : Arbiter → Arbiter) : (s.modArb k f).chans = s.chans := rfl
@[simp] theorem State.modArb_copyq (s : State) (k : Nat) (f : Arbiter → Arbiter) : (s.modArb k f).copyq = s.copyq := rfl
@[simp] theorem State.modArb_beacons (s : State) (k : Nat) (f : Arbiter → Arbiter) : (s.modArb k f).beacons = s.beacons := rfl
@[simp] theorem State.modArb_spares (s : State) (k : Nat) (f : Arbiter → Arbiter) : (s.modArb k f).spares = s.spares := rfl
@[simp] theorem State.modArb_spareForce (s : State) (k : Nat) (f : Arbiter → Arbiter) : (s.modArb k f).spareForce = s.spareForce := rfl
@[simp] theorem State.modArb_spareAt (s : State) (k : Nat) (f : Arbiter → Arbiter) : (s.modArb k f).spareAt = s.spareAt := rfl
@[simp] theorem State.modArb_spareq (s : State) (k : Nat) (f : Arbiter → Arbiter) : (s.modArb k f).spareq = s.spareq := rfl
@[simp] theorem State.modArb_edges (s : State) (k : Nat) (f : Arbiter → Arbiter) : (s.modArb k f).edges = s.edges := rfl
@[simp] theorem State.modArb_saves (s : State) (k : Nat) (f : Arbiter → Arbiter) : (s.modArb k f).saves = s.saves := rfl
@[simp] theorem State.modArb_portSnaps (s : State) (k : Nat) (f : Arbiter → Arbiter) : (s.modArb k f).portSnaps = s.portSnaps := rfl
@[simp] theorem State.modArb_hub (s : State) (k : Nat) (f : Arbiter → Arbiter) : (s.modArb k f).hub = s.hub := rfl
@[simp] theorem State.modArb_mgmt (s : State) (k : Nat) (f : Arbiter → Arbiter) : (s.modArb k f).mgmt = s.mgmt := rfl

/-! ### modHub -/

@[simp] theorem State.modHub_tick (s : State) (f : Hub → Hub) : (s.modHub f).tick = s.tick := rfl
@[simp] theorem State.modHub_agenda (s : State) (f : Hub → Hub) : (s.modHub f).agenda = s.agenda := rfl
@[simp] theorem State.modHub_focus (s : State) (f : Hub → Hub) : (s.modHub f).focus = s.focus := rfl
@[simp] theorem State.modHub_elem (s : State) (f : Hub → Hub) : (s.modHub f).elem = s.elem := rfl
@[simp] theorem State.modHub_prt (s : State) (f : Hub → Hub) : (s.modHub f).prt = s.prt := rfl
@[simp] theorem State.modHub_free (s : State) (f : Hub → Hub) : (s.modHub f).free = s.free := rfl
@[simp] theorem State.modHub_mem (s : State) (f : Hub → Hub) : (s.modHub f).mem = s.mem := rfl
@[simp] theorem State.modHub_ecc (s : State) (f : Hub → Hub) : (s.modHub f).ecc = s.ecc := rfl
@[simp] theorem State.modHub_hbmBad (s : State) (f : Hub → Hub) : (s.modHub f).hbmBad = s.hbmBad := rfl
@[simp] theorem State.modHub_mode (s : State) (f : Hub → Hub) : (s.modHub f).mode = s.mode := rfl
@[simp] theorem State.modHub_roots (s : State) (f : Hub → Hub) : (s.modHub f).roots = s.roots := rfl
@[simp] theorem State.modHub_nextPage (s : State) (f : Hub → Hub) : (s.modHub f).nextPage = s.nextPage := rfl
@[simp] theorem State.modHub_tlbs (s : State) (f : Hub → Hub) : (s.modHub f).tlbs = s.tlbs := rfl
@[simp] theorem State.modHub_lans (s : State) (f : Hub → Hub) : (s.modHub f).lans = s.lans := rfl
@[simp] theorem State.modHub_elems (s : State) (f : Hub → Hub) : (s.modHub f).elems = s.elems := rfl
@[simp] theorem State.modHub_tiles (s : State) (f : Hub → Hub) : (s.modHub f).tiles = s.tiles := rfl
@[simp] theorem State.modHub_ports (s : State) (f : Hub → Hub) : (s.modHub f).ports = s.ports := rfl
@[simp] theorem State.modHub_syncs (s : State) (f : Hub → Hub) : (s.modHub f).syncs = s.syncs := rfl
@[simp] theorem State.modHub_chans (s : State) (f : Hub → Hub) : (s.modHub f).chans = s.chans := rfl
@[simp] theorem State.modHub_copyq (s : State) (f : Hub → Hub) : (s.modHub f).copyq = s.copyq := rfl
@[simp] theorem State.modHub_beacons (s : State) (f : Hub → Hub) : (s.modHub f).beacons = s.beacons := rfl
@[simp] theorem State.modHub_arbs (s : State) (f : Hub → Hub) : (s.modHub f).arbs = s.arbs := rfl
@[simp] theorem State.modHub_spares (s : State) (f : Hub → Hub) : (s.modHub f).spares = s.spares := rfl
@[simp] theorem State.modHub_spareForce (s : State) (f : Hub → Hub) : (s.modHub f).spareForce = s.spareForce := rfl
@[simp] theorem State.modHub_spareAt (s : State) (f : Hub → Hub) : (s.modHub f).spareAt = s.spareAt := rfl
@[simp] theorem State.modHub_spareq (s : State) (f : Hub → Hub) : (s.modHub f).spareq = s.spareq := rfl
@[simp] theorem State.modHub_edges (s : State) (f : Hub → Hub) : (s.modHub f).edges = s.edges := rfl
@[simp] theorem State.modHub_saves (s : State) (f : Hub → Hub) : (s.modHub f).saves = s.saves := rfl
@[simp] theorem State.modHub_portSnaps (s : State) (f : Hub → Hub) : (s.modHub f).portSnaps = s.portSnaps := rfl
@[simp] theorem State.modHub_mgmt (s : State) (f : Hub → Hub) : (s.modHub f).mgmt = s.mgmt := rfl

/-! ### setMode -/

@[simp] theorem State.setMode_tick (s : State) (k : Nat) (v : Word) : (s.setMode k v).tick = s.tick := rfl
@[simp] theorem State.setMode_agenda (s : State) (k : Nat) (v : Word) : (s.setMode k v).agenda = s.agenda := rfl
@[simp] theorem State.setMode_focus (s : State) (k : Nat) (v : Word) : (s.setMode k v).focus = s.focus := rfl
@[simp] theorem State.setMode_elem (s : State) (k : Nat) (v : Word) : (s.setMode k v).elem = s.elem := rfl
@[simp] theorem State.setMode_prt (s : State) (k : Nat) (v : Word) : (s.setMode k v).prt = s.prt := rfl
@[simp] theorem State.setMode_free (s : State) (k : Nat) (v : Word) : (s.setMode k v).free = s.free := rfl
@[simp] theorem State.setMode_mem (s : State) (k : Nat) (v : Word) : (s.setMode k v).mem = s.mem := rfl
@[simp] theorem State.setMode_ecc (s : State) (k : Nat) (v : Word) : (s.setMode k v).ecc = s.ecc := rfl
@[simp] theorem State.setMode_hbmBad (s : State) (k : Nat) (v : Word) : (s.setMode k v).hbmBad = s.hbmBad := rfl
@[simp] theorem State.setMode_roots (s : State) (k : Nat) (v : Word) : (s.setMode k v).roots = s.roots := rfl
@[simp] theorem State.setMode_nextPage (s : State) (k : Nat) (v : Word) : (s.setMode k v).nextPage = s.nextPage := rfl
@[simp] theorem State.setMode_tlbs (s : State) (k : Nat) (v : Word) : (s.setMode k v).tlbs = s.tlbs := rfl
@[simp] theorem State.setMode_lans (s : State) (k : Nat) (v : Word) : (s.setMode k v).lans = s.lans := rfl
@[simp] theorem State.setMode_elems (s : State) (k : Nat) (v : Word) : (s.setMode k v).elems = s.elems := rfl
@[simp] theorem State.setMode_tiles (s : State) (k : Nat) (v : Word) : (s.setMode k v).tiles = s.tiles := rfl
@[simp] theorem State.setMode_ports (s : State) (k : Nat) (v : Word) : (s.setMode k v).ports = s.ports := rfl
@[simp] theorem State.setMode_syncs (s : State) (k : Nat) (v : Word) : (s.setMode k v).syncs = s.syncs := rfl
@[simp] theorem State.setMode_chans (s : State) (k : Nat) (v : Word) : (s.setMode k v).chans = s.chans := rfl
@[simp] theorem State.setMode_copyq (s : State) (k : Nat) (v : Word) : (s.setMode k v).copyq = s.copyq := rfl
@[simp] theorem State.setMode_beacons (s : State) (k : Nat) (v : Word) : (s.setMode k v).beacons = s.beacons := rfl
@[simp] theorem State.setMode_arbs (s : State) (k : Nat) (v : Word) : (s.setMode k v).arbs = s.arbs := rfl
@[simp] theorem State.setMode_spares (s : State) (k : Nat) (v : Word) : (s.setMode k v).spares = s.spares := rfl
@[simp] theorem State.setMode_spareForce (s : State) (k : Nat) (v : Word) : (s.setMode k v).spareForce = s.spareForce := rfl
@[simp] theorem State.setMode_spareAt (s : State) (k : Nat) (v : Word) : (s.setMode k v).spareAt = s.spareAt := rfl
@[simp] theorem State.setMode_spareq (s : State) (k : Nat) (v : Word) : (s.setMode k v).spareq = s.spareq := rfl
@[simp] theorem State.setMode_edges (s : State) (k : Nat) (v : Word) : (s.setMode k v).edges = s.edges := rfl
@[simp] theorem State.setMode_saves (s : State) (k : Nat) (v : Word) : (s.setMode k v).saves = s.saves := rfl
@[simp] theorem State.setMode_portSnaps (s : State) (k : Nat) (v : Word) : (s.setMode k v).portSnaps = s.portSnaps := rfl
@[simp] theorem State.setMode_hub (s : State) (k : Nat) (v : Word) : (s.setMode k v).hub = s.hub := rfl
@[simp] theorem State.setMode_mgmt (s : State) (k : Nat) (v : Word) : (s.setMode k v).mgmt = s.mgmt := rfl

/-! ### post -/

@[simp] theorem State.post_tick (s : State) (p : Post) : (s.post p).tick = s.tick := rfl
@[simp] theorem State.post_focus (s : State) (p : Post) : (s.post p).focus = s.focus := rfl
@[simp] theorem State.post_elem (s : State) (p : Post) : (s.post p).elem = s.elem := rfl
@[simp] theorem State.post_prt (s : State) (p : Post) : (s.post p).prt = s.prt := rfl
@[simp] theorem State.post_free (s : State) (p : Post) : (s.post p).free = s.free := rfl
@[simp] theorem State.post_mem (s : State) (p : Post) : (s.post p).mem = s.mem := rfl
@[simp] theorem State.post_ecc (s : State) (p : Post) : (s.post p).ecc = s.ecc := rfl
@[simp] theorem State.post_hbmBad (s : State) (p : Post) : (s.post p).hbmBad = s.hbmBad := rfl
@[simp] theorem State.post_mode (s : State) (p : Post) : (s.post p).mode = s.mode := rfl
@[simp] theorem State.post_roots (s : State) (p : Post) : (s.post p).roots = s.roots := rfl
@[simp] theorem State.post_nextPage (s : State) (p : Post) : (s.post p).nextPage = s.nextPage := rfl
@[simp] theorem State.post_tlbs (s : State) (p : Post) : (s.post p).tlbs = s.tlbs := rfl
@[simp] theorem State.post_lans (s : State) (p : Post) : (s.post p).lans = s.lans := rfl
@[simp] theorem State.post_elems (s : State) (p : Post) : (s.post p).elems = s.elems := rfl
@[simp] theorem State.post_tiles (s : State) (p : Post) : (s.post p).tiles = s.tiles := rfl
@[simp] theorem State.post_ports (s : State) (p : Post) : (s.post p).ports = s.ports := rfl
@[simp] theorem State.post_syncs (s : State) (p : Post) : (s.post p).syncs = s.syncs := rfl
@[simp] theorem State.post_chans (s : State) (p : Post) : (s.post p).chans = s.chans := rfl
@[simp] theorem State.post_copyq (s : State) (p : Post) : (s.post p).copyq = s.copyq := rfl
@[simp] theorem State.post_beacons (s : State) (p : Post) : (s.post p).beacons = s.beacons := rfl
@[simp] theorem State.post_arbs (s : State) (p : Post) : (s.post p).arbs = s.arbs := rfl
@[simp] theorem State.post_spares (s : State) (p : Post) : (s.post p).spares = s.spares := rfl
@[simp] theorem State.post_spareForce (s : State) (p : Post) : (s.post p).spareForce = s.spareForce := rfl
@[simp] theorem State.post_spareAt (s : State) (p : Post) : (s.post p).spareAt = s.spareAt := rfl
@[simp] theorem State.post_spareq (s : State) (p : Post) : (s.post p).spareq = s.spareq := rfl
@[simp] theorem State.post_edges (s : State) (p : Post) : (s.post p).edges = s.edges := rfl
@[simp] theorem State.post_saves (s : State) (p : Post) : (s.post p).saves = s.saves := rfl
@[simp] theorem State.post_portSnaps (s : State) (p : Post) : (s.post p).portSnaps = s.portSnaps := rfl
@[simp] theorem State.post_hub (s : State) (p : Post) : (s.post p).hub = s.hub := rfl
@[simp] theorem State.post_mgmt (s : State) (p : Post) : (s.post p).mgmt = s.mgmt := rfl

/-! ### spend -/

@[simp] theorem State.spend_tick (s : State) : (s.spend).tick = s.tick := rfl
@[simp] theorem State.spend_agenda (s : State) : (s.spend).agenda = s.agenda := rfl
@[simp] theorem State.spend_focus (s : State) : (s.spend).focus = s.focus := rfl
@[simp] theorem State.spend_elem (s : State) : (s.spend).elem = s.elem := rfl
@[simp] theorem State.spend_prt (s : State) : (s.spend).prt = s.prt := rfl
@[simp] theorem State.spend_mem (s : State) : (s.spend).mem = s.mem := rfl
@[simp] theorem State.spend_ecc (s : State) : (s.spend).ecc = s.ecc := rfl
@[simp] theorem State.spend_hbmBad (s : State) : (s.spend).hbmBad = s.hbmBad := rfl
@[simp] theorem State.spend_mode (s : State) : (s.spend).mode = s.mode := rfl
@[simp] theorem State.spend_roots (s : State) : (s.spend).roots = s.roots := rfl
@[simp] theorem State.spend_nextPage (s : State) : (s.spend).nextPage = s.nextPage := rfl
@[simp] theorem State.spend_tlbs (s : State) : (s.spend).tlbs = s.tlbs := rfl
@[simp] theorem State.spend_lans (s : State) : (s.spend).lans = s.lans := rfl
@[simp] theorem State.spend_elems (s : State) : (s.spend).elems = s.elems := rfl
@[simp] theorem State.spend_tiles (s : State) : (s.spend).tiles = s.tiles := rfl
@[simp] theorem State.spend_ports (s : State) : (s.spend).ports = s.ports := rfl
@[simp] theorem State.spend_syncs (s : State) : (s.spend).syncs = s.syncs := rfl
@[simp] theorem State.spend_chans (s : State) : (s.spend).chans = s.chans := rfl
@[simp] theorem State.spend_copyq (s : State) : (s.spend).copyq = s.copyq := rfl
@[simp] theorem State.spend_beacons (s : State) : (s.spend).beacons = s.beacons := rfl
@[simp] theorem State.spend_arbs (s : State) : (s.spend).arbs = s.arbs := rfl
@[simp] theorem State.spend_spares (s : State) : (s.spend).spares = s.spares := rfl
@[simp] theorem State.spend_spareForce (s : State) : (s.spend).spareForce = s.spareForce := rfl
@[simp] theorem State.spend_spareAt (s : State) : (s.spend).spareAt = s.spareAt := rfl
@[simp] theorem State.spend_spareq (s : State) : (s.spend).spareq = s.spareq := rfl
@[simp] theorem State.spend_edges (s : State) : (s.spend).edges = s.edges := rfl
@[simp] theorem State.spend_saves (s : State) : (s.spend).saves = s.saves := rfl
@[simp] theorem State.spend_portSnaps (s : State) : (s.spend).portSnaps = s.portSnaps := rfl
@[simp] theorem State.spend_hub (s : State) : (s.spend).hub = s.hub := rfl
@[simp] theorem State.spend_mgmt (s : State) : (s.spend).mgmt = s.mgmt := rfl

/-! ### retire -/

@[simp] theorem State.retire_tick (s : State) (n : Nat) : (s.retire n).tick = s.tick := rfl
@[simp] theorem State.retire_agenda (s : State) (n : Nat) : (s.retire n).agenda = s.agenda := rfl
@[simp] theorem State.retire_focus (s : State) (n : Nat) : (s.retire n).focus = s.focus := rfl
@[simp] theorem State.retire_elem (s : State) (n : Nat) : (s.retire n).elem = s.elem := rfl
@[simp] theorem State.retire_prt (s : State) (n : Nat) : (s.retire n).prt = s.prt := rfl
@[simp] theorem State.retire_free (s : State) (n : Nat) : (s.retire n).free = s.free := rfl
@[simp] theorem State.retire_mem (s : State) (n : Nat) : (s.retire n).mem = s.mem := rfl
@[simp] theorem State.retire_ecc (s : State) (n : Nat) : (s.retire n).ecc = s.ecc := rfl
@[simp] theorem State.retire_hbmBad (s : State) (n : Nat) : (s.retire n).hbmBad = s.hbmBad := rfl
@[simp] theorem State.retire_mode (s : State) (n : Nat) : (s.retire n).mode = s.mode := rfl
@[simp] theorem State.retire_roots (s : State) (n : Nat) : (s.retire n).roots = s.roots := rfl
@[simp] theorem State.retire_nextPage (s : State) (n : Nat) : (s.retire n).nextPage = s.nextPage := rfl
@[simp] theorem State.retire_tlbs (s : State) (n : Nat) : (s.retire n).tlbs = s.tlbs := rfl
@[simp] theorem State.retire_elems (s : State) (n : Nat) : (s.retire n).elems = s.elems := rfl
@[simp] theorem State.retire_tiles (s : State) (n : Nat) : (s.retire n).tiles = s.tiles := rfl
@[simp] theorem State.retire_ports (s : State) (n : Nat) : (s.retire n).ports = s.ports := rfl
@[simp] theorem State.retire_syncs (s : State) (n : Nat) : (s.retire n).syncs = s.syncs := rfl
@[simp] theorem State.retire_chans (s : State) (n : Nat) : (s.retire n).chans = s.chans := rfl
@[simp] theorem State.retire_copyq (s : State) (n : Nat) : (s.retire n).copyq = s.copyq := rfl
@[simp] theorem State.retire_beacons (s : State) (n : Nat) : (s.retire n).beacons = s.beacons := rfl
@[simp] theorem State.retire_arbs (s : State) (n : Nat) : (s.retire n).arbs = s.arbs := rfl
@[simp] theorem State.retire_spares (s : State) (n : Nat) : (s.retire n).spares = s.spares := rfl
@[simp] theorem State.retire_spareForce (s : State) (n : Nat) : (s.retire n).spareForce = s.spareForce := rfl
@[simp] theorem State.retire_spareAt (s : State) (n : Nat) : (s.retire n).spareAt = s.spareAt := rfl
@[simp] theorem State.retire_spareq (s : State) (n : Nat) : (s.retire n).spareq = s.spareq := rfl
@[simp] theorem State.retire_edges (s : State) (n : Nat) : (s.retire n).edges = s.edges := rfl
@[simp] theorem State.retire_saves (s : State) (n : Nat) : (s.retire n).saves = s.saves := rfl
@[simp] theorem State.retire_portSnaps (s : State) (n : Nat) : (s.retire n).portSnaps = s.portSnaps := rfl
@[simp] theorem State.retire_hub (s : State) (n : Nat) : (s.retire n).hub = s.hub := rfl
@[simp] theorem State.retire_mgmt (s : State) (n : Nat) : (s.retire n).mgmt = s.mgmt := rfl

/-! ### retireReg -/

@[simp] theorem State.retireReg_tick (s : State) (r : Reg) (v : Word) (n : Nat) : (s.retireReg r v n).tick = s.tick := rfl
@[simp] theorem State.retireReg_agenda (s : State) (r : Reg) (v : Word) (n : Nat) : (s.retireReg r v n).agenda = s.agenda := rfl
@[simp] theorem State.retireReg_focus (s : State) (r : Reg) (v : Word) (n : Nat) : (s.retireReg r v n).focus = s.focus := rfl
@[simp] theorem State.retireReg_elem (s : State) (r : Reg) (v : Word) (n : Nat) : (s.retireReg r v n).elem = s.elem := rfl
@[simp] theorem State.retireReg_prt (s : State) (r : Reg) (v : Word) (n : Nat) : (s.retireReg r v n).prt = s.prt := rfl
@[simp] theorem State.retireReg_free (s : State) (r : Reg) (v : Word) (n : Nat) : (s.retireReg r v n).free = s.free := rfl
@[simp] theorem State.retireReg_mem (s : State) (r : Reg) (v : Word) (n : Nat) : (s.retireReg r v n).mem = s.mem := rfl
@[simp] theorem State.retireReg_ecc (s : State) (r : Reg) (v : Word) (n : Nat) : (s.retireReg r v n).ecc = s.ecc := rfl
@[simp] theorem State.retireReg_hbmBad (s : State) (r : Reg) (v : Word) (n : Nat) : (s.retireReg r v n).hbmBad = s.hbmBad := rfl
@[simp] theorem State.retireReg_mode (s : State) (r : Reg) (v : Word) (n : Nat) : (s.retireReg r v n).mode = s.mode := rfl
@[simp] theorem State.retireReg_roots (s : State) (r : Reg) (v : Word) (n : Nat) : (s.retireReg r v n).roots = s.roots := rfl
@[simp] theorem State.retireReg_nextPage (s : State) (r : Reg) (v : Word) (n : Nat) : (s.retireReg r v n).nextPage = s.nextPage := rfl
@[simp] theorem State.retireReg_tlbs (s : State) (r : Reg) (v : Word) (n : Nat) : (s.retireReg r v n).tlbs = s.tlbs := rfl
@[simp] theorem State.retireReg_elems (s : State) (r : Reg) (v : Word) (n : Nat) : (s.retireReg r v n).elems = s.elems := rfl
@[simp] theorem State.retireReg_tiles (s : State) (r : Reg) (v : Word) (n : Nat) : (s.retireReg r v n).tiles = s.tiles := rfl
@[simp] theorem State.retireReg_ports (s : State) (r : Reg) (v : Word) (n : Nat) : (s.retireReg r v n).ports = s.ports := rfl
@[simp] theorem State.retireReg_syncs (s : State) (r : Reg) (v : Word) (n : Nat) : (s.retireReg r v n).syncs = s.syncs := rfl
@[simp] theorem State.retireReg_chans (s : State) (r : Reg) (v : Word) (n : Nat) : (s.retireReg r v n).chans = s.chans := rfl
@[simp] theorem State.retireReg_copyq (s : State) (r : Reg) (v : Word) (n : Nat) : (s.retireReg r v n).copyq = s.copyq := rfl
@[simp] theorem State.retireReg_beacons (s : State) (r : Reg) (v : Word) (n : Nat) : (s.retireReg r v n).beacons = s.beacons := rfl
@[simp] theorem State.retireReg_arbs (s : State) (r : Reg) (v : Word) (n : Nat) : (s.retireReg r v n).arbs = s.arbs := rfl
@[simp] theorem State.retireReg_spares (s : State) (r : Reg) (v : Word) (n : Nat) : (s.retireReg r v n).spares = s.spares := rfl
@[simp] theorem State.retireReg_spareForce (s : State) (r : Reg) (v : Word) (n : Nat) : (s.retireReg r v n).spareForce = s.spareForce := rfl
@[simp] theorem State.retireReg_spareAt (s : State) (r : Reg) (v : Word) (n : Nat) : (s.retireReg r v n).spareAt = s.spareAt := rfl
@[simp] theorem State.retireReg_spareq (s : State) (r : Reg) (v : Word) (n : Nat) : (s.retireReg r v n).spareq = s.spareq := rfl
@[simp] theorem State.retireReg_edges (s : State) (r : Reg) (v : Word) (n : Nat) : (s.retireReg r v n).edges = s.edges := rfl
@[simp] theorem State.retireReg_saves (s : State) (r : Reg) (v : Word) (n : Nat) : (s.retireReg r v n).saves = s.saves := rfl
@[simp] theorem State.retireReg_portSnaps (s : State) (r : Reg) (v : Word) (n : Nat) : (s.retireReg r v n).portSnaps = s.portSnaps := rfl
@[simp] theorem State.retireReg_hub (s : State) (r : Reg) (v : Word) (n : Nat) : (s.retireReg r v n).hub = s.hub := rfl
@[simp] theorem State.retireReg_mgmt (s : State) (r : Reg) (v : Word) (n : Nat) : (s.retireReg r v n).mgmt = s.mgmt := rfl

/-! ### jumpTo -/

@[simp] theorem State.jumpTo_tick (s : State) (c : Came) (a : Word) : (s.jumpTo c a).tick = s.tick := rfl
@[simp] theorem State.jumpTo_agenda (s : State) (c : Came) (a : Word) : (s.jumpTo c a).agenda = s.agenda := rfl
@[simp] theorem State.jumpTo_focus (s : State) (c : Came) (a : Word) : (s.jumpTo c a).focus = s.focus := rfl
@[simp] theorem State.jumpTo_elem (s : State) (c : Came) (a : Word) : (s.jumpTo c a).elem = s.elem := rfl
@[simp] theorem State.jumpTo_prt (s : State) (c : Came) (a : Word) : (s.jumpTo c a).prt = s.prt := rfl
@[simp] theorem State.jumpTo_free (s : State) (c : Came) (a : Word) : (s.jumpTo c a).free = s.free := rfl
@[simp] theorem State.jumpTo_mem (s : State) (c : Came) (a : Word) : (s.jumpTo c a).mem = s.mem := rfl
@[simp] theorem State.jumpTo_ecc (s : State) (c : Came) (a : Word) : (s.jumpTo c a).ecc = s.ecc := rfl
@[simp] theorem State.jumpTo_hbmBad (s : State) (c : Came) (a : Word) : (s.jumpTo c a).hbmBad = s.hbmBad := rfl
@[simp] theorem State.jumpTo_mode (s : State) (c : Came) (a : Word) : (s.jumpTo c a).mode = s.mode := rfl
@[simp] theorem State.jumpTo_roots (s : State) (c : Came) (a : Word) : (s.jumpTo c a).roots = s.roots := rfl
@[simp] theorem State.jumpTo_nextPage (s : State) (c : Came) (a : Word) : (s.jumpTo c a).nextPage = s.nextPage := rfl
@[simp] theorem State.jumpTo_tlbs (s : State) (c : Came) (a : Word) : (s.jumpTo c a).tlbs = s.tlbs := rfl
@[simp] theorem State.jumpTo_elems (s : State) (c : Came) (a : Word) : (s.jumpTo c a).elems = s.elems := rfl
@[simp] theorem State.jumpTo_tiles (s : State) (c : Came) (a : Word) : (s.jumpTo c a).tiles = s.tiles := rfl
@[simp] theorem State.jumpTo_ports (s : State) (c : Came) (a : Word) : (s.jumpTo c a).ports = s.ports := rfl
@[simp] theorem State.jumpTo_syncs (s : State) (c : Came) (a : Word) : (s.jumpTo c a).syncs = s.syncs := rfl
@[simp] theorem State.jumpTo_chans (s : State) (c : Came) (a : Word) : (s.jumpTo c a).chans = s.chans := rfl
@[simp] theorem State.jumpTo_copyq (s : State) (c : Came) (a : Word) : (s.jumpTo c a).copyq = s.copyq := rfl
@[simp] theorem State.jumpTo_beacons (s : State) (c : Came) (a : Word) : (s.jumpTo c a).beacons = s.beacons := rfl
@[simp] theorem State.jumpTo_arbs (s : State) (c : Came) (a : Word) : (s.jumpTo c a).arbs = s.arbs := rfl
@[simp] theorem State.jumpTo_spares (s : State) (c : Came) (a : Word) : (s.jumpTo c a).spares = s.spares := rfl
@[simp] theorem State.jumpTo_spareForce (s : State) (c : Came) (a : Word) : (s.jumpTo c a).spareForce = s.spareForce := rfl
@[simp] theorem State.jumpTo_spareAt (s : State) (c : Came) (a : Word) : (s.jumpTo c a).spareAt = s.spareAt := rfl
@[simp] theorem State.jumpTo_spareq (s : State) (c : Came) (a : Word) : (s.jumpTo c a).spareq = s.spareq := rfl
@[simp] theorem State.jumpTo_edges (s : State) (c : Came) (a : Word) : (s.jumpTo c a).edges = s.edges := rfl
@[simp] theorem State.jumpTo_saves (s : State) (c : Came) (a : Word) : (s.jumpTo c a).saves = s.saves := rfl
@[simp] theorem State.jumpTo_portSnaps (s : State) (c : Came) (a : Word) : (s.jumpTo c a).portSnaps = s.portSnaps := rfl
@[simp] theorem State.jumpTo_hub (s : State) (c : Came) (a : Word) : (s.jumpTo c a).hub = s.hub := rfl
@[simp] theorem State.jumpTo_mgmt (s : State) (c : Came) (a : Word) : (s.jumpTo c a).mgmt = s.mgmt := rfl

/-! ### What an update writes -/

theorem State.lan_setLan (s : State) (k j : Nat) (l : Lantern) :
    (s.setLan k l).lan j = if j = k then l else s.lan j := by
  unfold State.setLan State.lan
  exact Tab.get_put ..

@[simp] theorem State.lan_setLan_self (s : State) (k : Nat) (l : Lantern) : (s.setLan k l).lan k = l := by
  simp [State.lan_setLan]

theorem State.lan_modLan (s : State) (k j : Nat) (f : Lantern → Lantern) :
    (s.modLan k f).lan j = if j = k then f (s.lan k) else s.lan j := State.lan_setLan ..

@[simp] theorem State.lan_modLan_self (s : State) (k : Nat) (f : Lantern → Lantern) :
    (s.modLan k f).lan k = f (s.lan k) := by simp [State.lan_modLan]

theorem State.lan_modLan_ne (s : State) {k j : Nat} (f : Lantern → Lantern) (h : j ≠ k) :
    (s.modLan k f).lan j = s.lan j := by simp [State.lan_modLan, h]

@[simp] theorem State.cur_modCur (s : State) (f : Lantern → Lantern) : (s.modCur f).cur = f s.cur :=
  State.lan_modLan_self ..

@[simp] theorem State.cur_modLan_focus (s : State) (f : Lantern → Lantern) : (s.modLan s.focus f).cur = f s.cur :=
  State.lan_modLan_self ..

theorem State.lan_modCur_ne (s : State) {j : Nat} (f : Lantern → Lantern) (h : j ≠ s.focus) :
    (s.modCur f).lan j = s.lan j := State.lan_modLan_ne _ _ h

@[simp] theorem State.el_setEl_self (s : State) (k : Nat) (e : Element) : (s.setEl k e).el k = e := by
  unfold State.setEl State.el
  exact Tab.get_put_self ..

theorem State.el_setEl_ne (s : State) {k j : Nat} (e : Element) (h : j ≠ k) : (s.setEl k e).el j = s.el j := by
  unfold State.setEl State.el
  exact Tab.get_put_ne _ _ _ h

@[simp] theorem State.el_modEl_self (s : State) (k : Nat) (f : Element → Element) : (s.modEl k f).el k = f (s.el k) :=
  State.el_setEl_self ..

theorem State.el_modEl_ne (s : State) {k j : Nat} (f : Element → Element) (h : j ≠ k) : (s.modEl k f).el j = s.el j :=
  State.el_setEl_ne _ _ h

@[simp] theorem State.tile_modTile_self (s : State) (k : Nat) (f : Tile → Tile) : (s.modTile k f).tile k = f (s.tile k) := by
  unfold State.modTile State.tile
  exact Tab.get_put_self ..

theorem State.tile_modTile_ne (s : State) {k j : Nat} (f : Tile → Tile) (h : j ≠ k) :
    (s.modTile k f).tile j = s.tile j := by
  unfold State.modTile State.tile
  exact Tab.get_put_ne _ _ _ h

@[simp] theorem State.port_modPort_self (s : State) (k : Nat) (f : Port → Port) : (s.modPort k f).port k = f (s.port k) := by
  unfold State.modPort State.port
  exact Tab.get_put_self ..

theorem State.port_modPort_ne (s : State) {k j : Nat} (f : Port → Port) (h : j ≠ k) :
    (s.modPort k f).port j = s.port j := by
  unfold State.modPort State.port
  exact Tab.get_put_ne _ _ _ h

@[simp] theorem State.beacon_modBeacon_self (s : State) (k : Nat) (f : Beacon → Beacon) :
    (s.modBeacon k f).beacon k = f (s.beacon k) := by
  unfold State.modBeacon State.beacon
  exact Tab.get_put_self ..

@[simp] theorem State.arb_modArb_self (s : State) (k : Nat) (f : Arbiter → Arbiter) :
    (s.modArb k f).arb k = f (s.arb k) := by
  unfold State.modArb State.arb
  exact Tab.get_put_self ..

@[simp] theorem State.modeOf_setMode_self (s : State) (k : Nat) (v : Word) :
    (s.setMode k v).modeOf k = v &&& 0x3F#64 := by
  unfold State.setMode State.modeOf
  exact Tab.get_put_self ..

end Sys2Proof.Machine
end

