-- ==== Sys2Proof/Laws/Lantern.lean ====
section
/-! SUPPORT. What the shared operations of the Lanterns' instructions do: reading and writing registers, retiring,
transferring control, taking a trap. -/

namespace Sys2Proof

theorem OnlyLan.refl (k : Nat) (s : Machine.State) : OnlyLan k s s := ⟨rfl, fun _ _ => rfl⟩

theorem OnlyLan.trans {k : Nat} {s t u : Machine.State} (h : OnlyLan k s t) (g : OnlyLan k t u) : OnlyLan k s u := by
  refine ⟨?_, fun j hj => (g.2 j hj).trans (h.2 j hj)⟩
  have h1 := h.1
  have g1 := g.1
  rw [← h1, ← g1]

theorem OnlyLan.focus {k : Nat} {s t : Machine.State} (h : OnlyLan k s t) : t.focus = s.focus := by rw [← h.1]
theorem OnlyLan.mem {k : Nat} {s t : Machine.State} (h : OnlyLan k s t) : t.mem = s.mem := by rw [← h.1]
theorem OnlyLan.beacons {k : Nat} {s t : Machine.State} (h : OnlyLan k s t) : t.beacons = s.beacons := by rw [← h.1]

end Sys2Proof

namespace Sys2Proof.Machine

@[simp] theorem Lantern.reg_zero (l : Lantern) : l.reg 0#5 = 0#64 := by simp [Lantern.reg]

theorem Lantern.reg_setReg (l : Lantern) (rd r : Reg) (v : Word) :
    (l.setReg rd v).reg r = if r = rd ∧ r ≠ 0#5 then v else l.reg r := by
  unfold Lantern.setReg Lantern.reg
  by_cases h0 : r = 0#5
  · simp [h0]
  · by_cases hd : rd = 0#5
    · have : r ≠ rd := fun h => h0 (h.trans hd)
      simp [h0, hd]
    · simp only [h0, hd, if_false, ne_eq, not_false_eq_true, and_true]
      rw [Tab.get_put]
      by_cases hr : r = rd
      · subst hr; simp
      · have : r.toNat ≠ rd.toNat := fun h => hr (BitVec.eq_of_toNat_eq h)
        simp [hr, this]

@[simp] theorem Lantern.reg_advance (l : Lantern) (n : Nat) (r : Reg) : (l.advance n).reg r = l.reg r := rfl
@[simp] theorem Lantern.pc_advance (l : Lantern) (n : Nat) : (l.advance n).pc = afterParcels l.pc n := rfl
@[simp] theorem Lantern.pc_setReg (l : Lantern) (r : Reg) (v : Word) : (l.setReg r v).pc = l.pc := by
  unfold Lantern.setReg; split <;> rfl

theorem Lantern.sameButRegs_setReg (l : Lantern) (r : Reg) (v : Word) : SameButRegs l (l.setReg r v) := by
  unfold SameButRegs Lantern.setReg; split <;> rfl

theorem Lantern.sameButRegs_retire (l : Lantern) (r : Reg) (v : Word) (n : Nat) :
    SameButRegs l ((l.setReg r v).advance n) := by
  unfold SameButRegs Lantern.advance Lantern.setReg; split <;> rfl

/-- A change of Lantern `k` changes nothing else. -/
theorem State.onlyLan_modLan (s : State) (k : Nat) (f : Lantern → Lantern) : OnlyLan k s (s.modLan k f) :=
  ⟨rfl, fun _ h => State.lan_modLan_ne _ _ h⟩

/-- Writing a register and retiring. -/
theorem State.wrote_retireReg (s : State) (rd : Reg) (v : Word) (n : Nat) : Wrote rd v n s (s.retireReg rd v n) := by
  refine ⟨State.onlyLan_modLan .., fun r => ?_, ?_, ?_⟩
  · show ((s.retireReg rd v n).cur).reg r = _
    unfold State.retireReg
    rw [State.cur_modCur, Lantern.reg_advance, Lantern.reg_setReg]; rfl
  · unfold State.retireReg
    simp
  · unfold State.retireReg
    rw [State.cur_modCur]
    exact Lantern.sameButRegs_retire ..

theorem Tab.put_put {α : Type} (t : Tab α) (k : Nat) (a b : α) : (t.put k a).put k b = t.put k b := by
  induction t with
  | nil => simp [Tab.put]
  | cons c r ih =>
    obtain ⟨m, w⟩ := c
    by_cases h1 : k < m
    · simp [Tab.put, h1]
    · by_cases h2 : k = m
      · subst h2; simp [Tab.put]
      · simp [Tab.put, h1, h2, ih]

/-- Two changes of one Lantern, one after the other. -/
theorem State.modLan_modLan (s : State) (k : Nat) (f g : Lantern → Lantern) :
    (s.modLan k f).modLan k g = s.modLan k fun l => g (f l) := by
  have hl : ∀ a : Lantern, ({ s with lans := s.lans.put k a } : State).lan k = a := fun a => Tab.get_put_self ..
  unfold State.modLan State.setLan
  simp only [hl, Tab.put_put]

/-- A change of a Lantern is told by the Lantern it leaves. -/
theorem State.modLan_congr (s : State) (k : Nat) (f g : Lantern → Lantern) (h : f (s.lan k) = g (s.lan k)) :
    s.modLan k f = s.modLan k g := by
  unfold State.modLan
  rw [h]

/-- A packet of a cluster changes its trace only. -/
theorem State.packet_day (s : State) (k typ : Nat) (body : Word) :
    ∃ d, s.packet k typ body = s.modLan k fun l => { l with day := d } := by
  unfold State.packet
  by_cases h : 32 ≤ (s.lan k).day.fifo.length
  · exact ⟨{ (s.lan k).day with lost := true }, State.modLan_congr _ _ _ _ (by simp only [h, if_true])⟩
  · refine ⟨{ (s.lan k).day with
      fifo := (s.lan k).day.fifo ++
        [(BitVec.ofNat 64 (typ * 2 ^ 60 + lanCl k * 2 ^ 53 + lanDie k * 2 ^ 49
          + (if (s.lan k).day.lost then 2 ^ 48 else 0) + s.tick % 2 ^ 48), body)],
      lost := false }, State.modLan_congr _ _ _ _ ?_⟩
    rw [if_neg h]

theorem State.flushConds_day (s : State) (k : Nat) :
    s.flushConds k = s ∨ ∃ d, s.flushConds k = s.modLan k fun l => { l with day := d } := by
  unfold State.flushConds
  by_cases h : (s.lan k).day.conds.isEmpty = true
  · simp only [h, if_true]
    exact .inl trivial
  · simp only [h]
    obtain ⟨d, hd⟩ := State.packet_day s k 2
      (BitVec.ofNat 64 ((s.lan k).day.conds.length * 2 ^ 58 +
        (s.lan k).day.conds.foldr (fun b acc => (if b then 1 else 0) + 2 * acc) 0))
    refine .inr ⟨{ d with conds := [] }, ?_⟩
    rw [if_neg (by simp), hd, State.modLan_modLan]

/-- An INDIRECT packet changes the cluster's trace only. -/
theorem State.traceIndirect_day (s : State) (k reason ecause : Nat) (a : Word) :
    s.traceIndirect k reason ecause a = s ∨
      ∃ d, s.traceIndirect k reason ecause a = s.modLan k fun l => { l with day := d } := by
  unfold State.traceIndirect
  split
  · right
    generalize BitVec.ofNat 64 (ecause * 2 ^ 56 + reason * 2 ^ 48 + a.toNat % 2 ^ 48) = body
    rcases State.flushConds_day s k with h | ⟨d, h⟩
    · rw [h]; exact State.packet_day ..
    · obtain ⟨e, he⟩ := State.packet_day (s.flushConds k) k 3 body
      exact ⟨e, by rw [he, h, State.modLan_modLan]⟩
  · exact .inl rfl

/-- The outcome of a branch changes the cluster's trace only. -/
theorem State.traceCond_day (s : State) (k : Nat) (c : Bool) :
    s.traceCond k c = s ∨ ∃ d, s.traceCond k c = s.modLan k fun l => { l with day := d } := by
  unfold State.traceCond
  by_cases h : s.traced k 0 = true
  · right
    rw [if_pos h]
    generalize hu : (s.modLan k fun l => { l with day := { l.day with conds := l.day.conds ++ [c] } }) = u
    have hv : u = s.modLan k fun l =>
        { l with day := { (s.lan k).day with conds := (s.lan k).day.conds ++ [c] } } := by
      rw [← hu]; exact State.modLan_congr _ _ _ _ rfl
    by_cases h2 : 58 ≤ (u.lan k).day.conds.length
    · simp only [h2, if_true]
      rcases State.flushConds_day u k with h | ⟨d, h⟩
      · exact ⟨_, h.trans hv⟩
      · exact ⟨d, by rw [h, hv, State.modLan_modLan]⟩
    · simp only [h2, if_false]
      exact ⟨_, hv⟩
  · exact .inl (by rw [if_neg h])

/-- A CONFIG packet changes the cluster's trace only. -/
theorem State.traceConfig_day (s : State) (k event ctx : Nat) (img : Word) :
    s.traceConfig k event ctx img = s ∨ ∃ d, s.traceConfig k event ctx img = s.modLan k fun l => { l with day := d } := by
  unfold State.traceConfig
  split
  · exact .inr (State.packet_day ..)
  · exact .inl rfl

/-- The CONFIG packets of the configurations that an end discards change the cluster's trace only (R473). -/
theorem State.traceDiscards_day (s : State) (k : Nat) :
    s.traceDiscards k = s ∨ ∃ d, s.traceDiscards k = s.modLan k fun l => { l with day := d } := by
  unfold State.traceDiscards
  generalize (s.lan k).cfgs.filter (fun x => !x.armed) = xs
  induction xs generalizing s with
  | nil => exact .inl rfl
  | cons x xs ih =>
    rw [List.foldl_cons]
    rcases State.traceConfig_day s k 3 x.ctx x.addr with h | ⟨d, h⟩
    · rw [h]; exact ih s
    · rw [h]
      rcases ih (s.modLan k fun l => { l with day := d }) with h | ⟨e, h⟩
      · exact .inr ⟨d, h⟩
      · exact .inr ⟨e, by rw [h, State.modLan_modLan]⟩

/-- An end wait that is over is no boundary: the segment's end wins over the traps of R119 (R388). -/
theorem State.boundaryAt_ended (s : State) (k : Nat) (h : s.endReady k = true) : s.boundaryAt k = none := by
  have he : (s.lan k).st = .ending := by
    unfold State.endReady at h
    simp only [Bool.and_eq_true, decide_eq_true_eq] at h
    exact h.1.1.1.1.1.1
  unfold State.boundaryAt
  simp only [he, h, if_true]

/-- STATUS after a trap (R117). -/
theorem trapStatus_bits (v : Word) :
    (trapStatus v).getLsbD 0 = true ∧ (trapStatus v).getLsbD 2 = false ∧ (trapStatus v).getLsbD 1 = v.getLsbD 0 ∧
      (trapStatus v).getLsbD 3 = v.getLsbD 2 := by
  unfold trapStatus
  cases h0 : v.getLsbD 0 <;> cases h2 : v.getLsbD 2 <;> simp <;> decide

/-- Taking a trap (R117). -/
theorem State.trapped_trapAt (s : State) (k cause : Nat) (epc val micro next : Word) :
    Trapped k cause epc val micro s (s.trapAt k cause epc val micro next) := by
  have key : ∀ u : State, { u with lans := s.lans, syncs := s.syncs } = s → u.lans = s.lans →
      ∀ d : Option Day, Trapped k cause epc val micro s
        (match d with
         | none => u.modLan k fun l => l.takeTrap cause epc val micro next
         | some d => (u.modLan k fun l => l.takeTrap cause epc val micro next).modLan k fun l => { l with day := d }) := by
    intro u hu hl d
    have hlan : ∀ j, u.lan j = s.lan j := fun j => by unfold State.lan; rw [hl]
    have hb := trapStatus_bits (s.lan k).status
    cases d with
    | none =>
      refine ⟨hu, fun j hj => by rw [State.lan_modLan_ne _ _ hj, hlan], fun r => ?_, ?_⟩
      · rw [State.lan_modLan_self, hlan]; rfl
      · simp only [State.lan_modLan_self, hlan]
        exact ⟨rfl, rfl, rfl, rfl, hb.1, hb.2.1, hb.2.2.1, hb.2.2.2, rfl, rfl, rfl⟩
    | some d =>
      refine ⟨hu, fun j hj => by rw [State.lan_modLan_ne _ _ hj, State.lan_modLan_ne _ _ hj, hlan], fun r => ?_, ?_⟩
      · simp only [State.lan_modLan_self, hlan]; rfl
      · simp only [State.lan_modLan_self, hlan]
        exact ⟨rfl, rfl, rfl, rfl, hb.1, hb.2.1, hb.2.2.1, hb.2.2.2, rfl, rfl, rfl⟩
  have hw : { s.withdraw k with lans := s.lans, syncs := s.syncs } = s ∧ (s.withdraw k).lans = s.lans := by
    unfold State.withdraw; split <;> exact ⟨rfl, rfl⟩
  unfold State.trapAt
  rcases State.traceIndirect_day ((s.withdraw k).modLan k fun l => l.takeTrap cause epc val micro next) k 2 cause
    (s.lan k).tvec with h | ⟨d, h⟩
  · rw [h]; exact key _ hw.1 hw.2 none
  · rw [h]; exact key _ hw.1 hw.2 (some d)

/-- A trap of the instruction at the program counter. -/
theorem State.trapped_trap (s : State) (cause : Nat) (val : Word) (n : Nat) :
    TrappedHere cause val s (s.trap cause val n) := State.trapped_trapAt ..

theorem State.trapped_illop (s : State) (i : Instr) : TrappedHere cILLOP (parcelOf i) s (s.illop i) :=
  State.trapped_trap ..

end Sys2Proof.Machine
end

