-- ==== Sys2Proof/Laws/Frames.lean ====
section
/-! SUPPORT. What the accesses that units share can change: a memory tile's words, a record that is raised, a load that is
performed. -/

namespace Sys2Proof.Machine

/-- From `s` to `t` only memory, the check bits and the memory tiles have changed. -/
def TilesOnly (s t : State) : Prop := { t with mem := s.mem, ecc := s.ecc, tiles := s.tiles } = s

theorem TilesOnly.refl (s : State) : TilesOnly s s := rfl

theorem TilesOnly.trans {s t u : State} (h : TilesOnly s t) (g : TilesOnly t u) : TilesOnly s u := by
  unfold TilesOnly at *
  rw [← h, ← g]

theorem TilesOnly.lans {s t : State} (h : TilesOnly s t) : t.lans = s.lans := by unfold TilesOnly at h; rw [← h]
theorem TilesOnly.focus {s t : State} (h : TilesOnly s t) : t.focus = s.focus := by unfold TilesOnly at h; rw [← h]

/-- A fold of steps that change only the tiles. -/
theorem TilesOnly.fold {α : Type} (l : List α) (f : State → α → State) (hf : ∀ s a, TilesOnly s (f s a)) (s : State) :
    TilesOnly s (l.foldl f s) := by
  induction l generalizing s with
  | nil => exact TilesOnly.refl s
  | cons a r ih => exact (hf s a).trans (ih _)

/-- A fold whose accumulator carries a state. -/
theorem TilesOnly.foldBy {α β : Type} (st : β → State) (l : List α) (f : β → α → β)
    (hf : ∀ b a, TilesOnly (st b) (st (f b a))) (b : β) : TilesOnly (st b) (st (l.foldl f b)) := by
  induction l generalizing b with
  | nil => exact TilesOnly.refl _
  | cons a r ih => exact (hf b a).trans (ih _)

theorem State.tilesOnly_modTile (s : State) (k : Nat) (f : Tile → Tile) : TilesOnly s (s.modTile k f) := rfl
theorem State.tilesOnly_count (s : State) (t off n : Nat) : TilesOnly s (s.count t off n) := rfl
theorem State.tilesOnly_putWord (s : State) (pa : Nat) (v : BitVec 32) : TilesOnly s (s.putWord pa v) := rfl
theorem State.tilesOnly_putBad (s : State) (pa : Nat) (v : BitVec 32) : TilesOnly s (s.putBad pa v) := rfl
theorem State.tilesOnly_touch (s : State) (t off : Nat) : TilesOnly s (s.touch t off) := rfl

theorem State.tilesOnly_noteFix (s : State) (t pa c : Nat) : TilesOnly s (s.noteFix t pa c) := by
  unfold State.noteFix; split <;> rfl

theorem State.tilesOnly_fixWord (s : State) (t pa : Nat) : TilesOnly s (s.fixWord t pa) := by
  unfold State.fixWord
  split
  · exact State.tilesOnly_noteFix ..
  · exact TilesOnly.refl s

theorem State.tilesOnly_fixWords (s : State) (t : Nat) (pas : List Nat) : TilesOnly s (s.fixWords t pas) :=
  TilesOnly.fold _ _ (fun _ _ => State.tilesOnly_fixWord ..) s

theorem TilesOnly.put {s t : State} (h : TilesOnly s t) (pa : Nat) (v : BitVec 32) : TilesOnly s (t.putWord pa v) :=
  h.trans (State.tilesOnly_putWord ..)
theorem TilesOnly.bad {s t : State} (h : TilesOnly s t) (pa : Nat) (v : BitVec 32) : TilesOnly s (t.putBad pa v) :=
  h.trans (State.tilesOnly_putBad ..)
theorem TilesOnly.count {s t : State} (h : TilesOnly s t) (k off n : Nat) : TilesOnly s (t.count k off n) :=
  h.trans (State.tilesOnly_count ..)
theorem TilesOnly.fix {s t : State} (h : TilesOnly s t) (k pa : Nat) : TilesOnly s (t.fixWord k pa) :=
  h.trans (State.tilesOnly_fixWord ..)
theorem TilesOnly.fixes {s t : State} (h : TilesOnly s t) (k : Nat) (pas : List Nat) : TilesOnly s (t.fixWords k pas) :=
  h.trans (State.tilesOnly_fixWords ..)

/-- Reading a word of a tile. -/
theorem State.tilesOnly_readWord (s : State) (t : Nat) (l : WordLoc) : TilesOnly s (s.readWord t l).s := by
  have h0 := TilesOnly.refl s
  unfold State.readWord
  dsimp only
  split
  · split
    · have hc := State.tilesOnly_count s t 0x20 1
      generalize s.count t 0x20 1 = u at hc ⊢
      split
      · exact hc.fixes ..
      · exact (hc.fixes ..).count ..
    · split
      · exact h0
      · exact h0.fix ..
      · exact h0.count ..
  · split
    · exact h0
    · exact h0.fix ..
    · split
      · exact (h0.fixes ..).trans (State.tilesOnly_noteFix ..)
      · exact h0

theorem State.tilesOnly_remakeParity (s : State) (t g row : Nat) : TilesOnly s (s.remakeParity t g row) := by
  unfold State.remakeParity
  split
  · exact ((TilesOnly.refl s).fixes ..).put ..
  · exact TilesOnly.refl s

theorem State.tilesOnly_updateParity (s : State) (t : Nat) (l : WordLoc) (old new : BitVec 32) :
    TilesOnly s (s.updateParity t l old new) := by
  unfold State.updateParity
  dsimp only
  split
  · exact ((TilesOnly.refl s).fix ..).put ..
  · exact State.tilesOnly_remakeParity ..

/-- Reading a parity word of a tile. -/
theorem State.tilesOnly_readParity (s : State) (t g row : Nat) : TilesOnly s (s.readParity t g row).s := by
  have h0 := TilesOnly.refl s
  have hm := State.tilesOnly_remakeParity s t g row
  unfold State.readParity
  dsimp only
  split
  · exact h0
  · exact h0.fix ..
  · split
    · exact h0.count ..
    · split <;> exact hm

theorem TilesOnly.parity {s t : State} (h : TilesOnly s t) (k : Nat) (l : WordLoc) (old new : BitVec 32) :
    TilesOnly s (t.updateParity k l old new) := h.trans (State.tilesOnly_updateParity ..)
theorem TilesOnly.ite {s t u : State} {c : Bool} (h : TilesOnly s t) (g : TilesOnly s u) :
    TilesOnly s (if c then t else u) := by cases c <;> assumption

/-- Writing a word of a tile. -/
theorem State.tilesOnly_writeWord (s : State) (t : Nat) (l : WordLoc) (mask : BitVec 4) (data : BitVec 32) :
    TilesOnly s (s.writeWord t l mask data).1 := by
  have h0 := TilesOnly.refl s
  have hr := State.tilesOnly_readWord s t l
  unfold State.writeWord
  dsimp only
  cases (s.tile t).retired l.g with
  | some rb =>
    dsimp only
    split
    · have hc := (h0.count t 0x28 1).fixes t ((otherBanks l.b).map fun b => dataPa t { l with b := b })
      generalize (s.count t 0x28 1).fixWords t ((otherBanks l.b).map fun b => dataPa t { l with b := b }) = u at hc ⊢
      split
      · exact (hc.bad _ _).count _ _ _
      · split
        · exact hc.put _ _
        · split
          · exact (hc.fix _ _).put _ _
          · exact (hc.bad _ _).count _ _ _
    · split
      · exact (h0.put _ _).parity _ _ _ _
      · exact ((h0.fix ..).put _ _).parity _ _ _ _
      · exact ((TilesOnly.ite (h0.put _ _) (h0.bad _ _)).bad _ _).count _ _ _
  | none =>
    dsimp only
    generalize s.readWord t l = r at hr ⊢
    split
    · exact (TilesOnly.ite (hr.put _ _) (hr.bad _ _)).bad _ _
    · exact (hr.put _ _).parity _ _ _ _

/-- What a record that is raised leaves as it was at a Lantern: everything but its ring's tail and marks, its held
records and its trace. -/
def SameButQueue (l l' : Lantern) : Prop :=
  { l' with tail := l.tail, heldRecs := l.heldRecs, day := l.day, fqCfg := l.fqCfg } = l

theorem SameButQueue.refl (l : Lantern) : SameButQueue l l := rfl
theorem SameButQueue.trans {a b c : Lantern} (h : SameButQueue a b) (g : SameButQueue b c) : SameButQueue a c := by
  unfold SameButQueue at *
  rw [← h, ← g]

/-- From `s` to `t` records may have been raised and memory tiles read or written: memory, check bits, tiles, the hub's
lists, and of each Lantern its queue and its trace. -/
def QuietBut (s t : State) : Prop :=
  { t with mem := s.mem, ecc := s.ecc, tiles := s.tiles, hub := s.hub, lans := s.lans } = s ∧
    ∀ k, SameButQueue (s.lan k) (t.lan k)

theorem QuietBut.refl (s : State) : QuietBut s s := ⟨rfl, fun _ => rfl⟩
theorem QuietBut.trans {s t u : State} (h : QuietBut s t) (g : QuietBut t u) : QuietBut s u := by
  refine ⟨?_, fun k => (h.2 k).trans (g.2 k)⟩
  have h1 := h.1
  have g1 := g.1
  rw [← h1, ← g1]
theorem QuietBut.focus {s t : State} (h : QuietBut s t) : t.focus = s.focus := by
  have h1 := h.1
  rw [← h1]
theorem TilesOnly.quiet {s t : State} (h : TilesOnly s t) : QuietBut s t := by
  refine ⟨?_, fun k => ?_⟩
  · unfold TilesOnly at h; rw [← h]
  · unfold State.lan; rw [h.lans]; rfl

/-- A change of a Lantern's queue. -/
theorem State.quiet_modLan (s : State) (k : Nat) (f : Lantern → Lantern) (h : SameButQueue (s.lan k) (f (s.lan k))) :
    QuietBut s (s.modLan k f) := by
  refine ⟨rfl, fun j => ?_⟩
  by_cases hj : j = k
  · subst hj; rw [State.lan_modLan_self]; exact h
  · rw [State.lan_modLan_ne _ _ hj]; exact SameButQueue.refl _

theorem State.quiet_packet (s : State) (k typ : Nat) (body : Word) : QuietBut s (s.packet k typ body) := by
  obtain ⟨d, hd⟩ := State.packet_day s k typ body
  rw [hd]
  exact State.quiet_modLan _ _ _ rfl

theorem State.quiet_traceFault (s : State) (k : Nat) (r : Record) : QuietBut s (s.traceFault k r) := by
  unfold State.traceFault
  split
  · exact State.quiet_packet ..
  · exact QuietBut.refl s

theorem State.quiet_writeRecord (s : State) (k : Nat) (r : Record) : QuietBut s (s.writeRecord k r) := by
  unfold State.writeRecord
  dsimp only
  have hm (m : Memory) : QuietBut s { s with mem := m } := ⟨rfl, fun _ => rfl⟩
  split
  · split
    · refine (hm _).trans (State.quiet_modLan _ _ _ ?_)
      exact rfl
    · exact hm _
  · refine QuietBut.trans ((hm _).trans (State.quiet_modLan _ _ _ ?_)) (State.quiet_traceFault ..)
    exact rfl

theorem State.quiet_toQueue (s : State) (k : Nat) (r : Record) : QuietBut s (s.toQueue k r) := by
  unfold State.toQueue
  dsimp only
  split
  · exact State.quiet_modLan _ _ _ rfl
  · exact State.quiet_writeRecord ..

theorem State.quiet_toMc (s : State) (r : Record) : QuietBut s (s.toMc r) := ⟨rfl, fun _ => rfl⟩
theorem State.quiet_modHub (s : State) (f : Hub → Hub) : QuietBut s (s.modHub f) := ⟨rfl, fun _ => rfl⟩

/-- Raising a record. -/
theorem State.quiet_raise (s : State) (lead : Option Nat) (die : Nat) (r : Record) : QuietBut s (s.raise lead die r) := by
  unfold State.raise
  dsimp only
  split
  · exact QuietBut.trans (State.quiet_toMc s _) (State.quiet_traceFault ..)
  · split
    · exact QuietBut.trans (State.quiet_modHub s _) (State.quiet_toQueue ..)
    · exact State.quiet_toQueue ..

theorem QuietBut.fold {α : Type} (l : List α) (f : State → α → State) (hf : ∀ s a, QuietBut s (f s a)) (s : State) :
    QuietBut s (l.foldl f s) := by
  induction l generalizing s with
  | nil => exact QuietBut.refl s
  | cons a r ih => exact (hf s a).trans (ih _)

theorem State.quiet_raiseOwed (s : State) (lead : Option Nat) (die : Nat) (mk : Byte → Word → Nat → Record)
    (ow : List Owed) : QuietBut s (s.raiseOwed lead die mk ow) :=
  QuietBut.fold _ _ (fun _ _ => State.quiet_raise ..) s

/-! ### The banks of a tile -/

/-- What a granted read finds. -/
theorem State.tilesOnly_grantedRead (s : State) (t : Nat) (q : BankReq) (r : Bool) : TilesOnly s (s.grantedRead t q r).s := by
  unfold State.grantedRead State.rebuildWord
  split
  · exact State.tilesOnly_readParity ..
  · split
    · split
      · exact State.tilesOnly_fixWords ..
      · exact State.tilesOnly_readWord ..
    · exact State.tilesOnly_readWord ..

/-- A granted access raises records and changes its tile, and nothing else. -/
theorem State.quiet_performBank (s : State) (t : Nat) (q : BankReq) (r : Bool) : QuietBut s (s.performBank t q r) := by
  have owe (u : State) (ow : List Owed) (h : TilesOnly s u) :
      QuietBut s (if q.src = 5 then u else u.raiseOwed q.lead (tileDie t) (tileRecord t) ow) := by
    split
    · exact h.quiet
    · exact h.quiet.trans (State.quiet_raiseOwed ..)
  unfold State.performBank
  dsimp only
  split
  · exact (owe _ _ (State.tilesOnly_writeWord ..)).trans (State.tilesOnly_modTile ..).quiet
  · exact (owe _ _ (State.tilesOnly_grantedRead ..)).trans (State.tilesOnly_modTile ..).quiet

theorem State.quiet_dropReq (s : State) (t : Nat) (q : BankReq) : QuietBut s (s.dropReq t q) :=
  (State.tilesOnly_modTile ..).quiet

theorem Grant.quiet_direct (g : Grant) (t : Nat) (q : BankReq) : QuietBut g.s (g.direct t q).s := by
  unfold Grant.direct
  split
  · exact QuietBut.refl _
  · split
    · exact QuietBut.refl _
    · exact (State.quiet_dropReq ..).trans (State.quiet_performBank ..)

theorem Grant.quiet_rebuild (g : Grant) (t : Nat) (q : BankReq) : QuietBut g.s (g.rebuild t q).s := by
  unfold Grant.rebuild
  split
  · exact QuietBut.refl _
  · split
    · exact ((State.quiet_dropReq ..).trans (State.quiet_performBank ..)).trans (State.tilesOnly_count ..).quiet
    · exact (State.tilesOnly_count ..).quiet

theorem Grant.quiet_fold (f : Grant → BankReq → Grant) (hf : ∀ g q, QuietBut g.s (f g q).s) (qs : List BankReq) (g : Grant) :
    QuietBut g.s (qs.foldl f g).s := by
  induction qs generalizing g with
  | nil => exact QuietBut.refl _
  | cons q r ih => exact (hf g q).trans (ih _)

/-- A cycle of a tile's banks. -/
theorem State.quiet_bankCycle (s : State) (t : Nat) : QuietBut s (s.bankCycle t) := by
  unfold State.bankCycle
  dsimp only
  refine QuietBut.trans ?_ (State.tilesOnly_modTile ..).quiet
  refine QuietBut.trans ?_ (Grant.quiet_fold _ (fun g q => g.quiet_rebuild t q) _ _)
  exact Grant.quiet_fold _ (fun g q => g.quiet_direct t q) _
    { used := (s.tile t).writing, rec_ := [], reads := [], s := s }

theorem State.quiet_bankRun (t src client n : Nat) (s : State) : QuietBut s (State.bankRun t src client n s) := by
  induction n generalizing s with
  | zero => exact QuietBut.refl s
  | succ n ih =>
    unfold State.bankRun
    split
    · exact QuietBut.refl s
    · exact (State.quiet_bankCycle s t).trans (ih _)

/-- Words put in line and granted. -/
theorem State.quiet_bankDo (s : State) (t src client : Nat) (qs : List BankReq) : QuietBut s (s.bankDo t src client qs) := by
  unfold State.bankDo State.enqueue
  exact (State.tilesOnly_modTile ..).quiet.trans (State.quiet_bankRun ..)

theorem State.quiet_flushWb (s : State) (t : Nat) : QuietBut s (s.flushWb t) := by
  unfold State.flushWb
  dsimp only
  split
  · exact QuietBut.refl s
  · exact (State.tilesOnly_modTile ..).quiet.trans (State.quiet_bankDo ..)

theorem State.quiet_windowDo (s : State) (t off n : Nat) (qs : List BankReq) (b : Bool) :
    QuietBut s (s.windowDo t off n qs b).s := by
  unfold State.windowDo State.dropRes
  exact (State.quiet_bankDo ..).trans (State.tilesOnly_modTile ..).quiet

/-- Reading bytes of a tile. -/
theorem State.quiet_readTile (s : State) (t lay off n : Nat) : QuietBut s (s.readTile t lay off n).s := by
  unfold State.readTile
  exact ((State.quiet_flushWb ..).trans (State.tilesOnly_touch ..).quiet).trans (State.quiet_windowDo ..)

/-- Writing bytes of a tile. -/
theorem State.quiet_writeTile (s : State) (t lay off : Nat) (bs : List Byte) : QuietBut s (s.writeTile t lay off bs).1 := by
  unfold State.writeTile
  exact ((State.quiet_flushWb s t).trans (State.tilesOnly_touch _ t off).quiet).trans
    (State.quiet_windowDo _ t off bs.length _ false)

theorem State.quiet_readHome (s : State) (pa n lay : Nat) (k : PaKind) : QuietBut s (s.readHome pa n lay k).s := by
  cases k <;> try exact QuietBut.refl s
  · exact State.quiet_readTile ..
  · exact State.quiet_windowDo ..
  · unfold State.readHome
    dsimp only
    split <;> exact QuietBut.refl s

theorem State.quiet_raiseHome (s : State) (lead : Option Nat) (die : Nat) (mk : Byte → Word → Nat → Record) (k : PaKind)
    (ow : List Owed) : QuietBut s (s.raiseHome lead die mk k ow) := by
  unfold State.raiseHome
  split <;> exact State.quiet_raiseOwed ..

/-- A Lantern's read at a home. -/
theorem State.quiet_lanLoad (s : State) (k pa n : Nat) : QuietBut s (s.lanLoad k pa n).2.2 := by
  unfold State.lanLoad
  split
  · exact QuietBut.refl s
  · exact (State.quiet_readHome ..).trans (State.quiet_raiseHome ..)

/-- What performing a load leaves as it was at a Lantern: everything but its queue, its trace and the values that its loads
have taken. -/
def SameButLoads (l l' : Lantern) : Prop :=
  { l' with tail := l.tail, heldRecs := l.heldRecs, day := l.day, fqCfg := l.fqCfg, loads := l.loads } = l ∧
    l'.loads.length = l.loads.length

theorem SameButLoads.trans {a b c : Lantern} (h : SameButLoads a b) (g : SameButLoads b c) : SameButLoads a c := by
  refine ⟨?_, g.2.trans h.2⟩
  have h1 := h.1
  have g1 := g.1
  rw [← h1, ← g1]

theorem SameButQueue.loads {l l' : Lantern} (h : SameButQueue l l') : l'.loads = l.loads := by
  unfold SameButQueue at h; rw [← h]

theorem SameButQueue.weaken {l l' : Lantern} (h : SameButQueue l l') : SameButLoads l l' := by
  refine ⟨?_, by rw [h.loads]⟩
  unfold SameButQueue at h
  rw [← h]

/-- From `s` to `t` loads of Lantern `k` have been performed. -/
def LoadsOnly (k : Nat) (s t : State) : Prop :=
  { t with mem := s.mem, ecc := s.ecc, tiles := s.tiles, hub := s.hub, lans := s.lans } = s ∧
    (∀ j, j ≠ k → SameButQueue (s.lan j) (t.lan j)) ∧ SameButLoads (s.lan k) (t.lan k)

theorem LoadsOnly.refl (k : Nat) (s : State) : LoadsOnly k s s := ⟨rfl, fun _ _ => rfl, rfl, rfl⟩
theorem LoadsOnly.trans {k : Nat} {s t u : State} (h : LoadsOnly k s t) (g : LoadsOnly k t u) : LoadsOnly k s u := by
  refine ⟨?_, fun j hj => (h.2.1 j hj).trans (g.2.1 j hj), h.2.2.trans g.2.2⟩
  have h1 := h.1
  have g1 := g.1
  rw [← h1, ← g1]
theorem LoadsOnly.focus {k : Nat} {s t : State} (h : LoadsOnly k s t) : t.focus = s.focus := by
  have h1 := h.1
  rw [← h1]
theorem QuietBut.loadsOnly {s t : State} (h : QuietBut s t) (k : Nat) : LoadsOnly k s t :=
  ⟨h.1, fun j _ => h.2 j, (h.2 k).weaken⟩

/-- A load takes its value. -/
theorem State.loadsOnly_takeLoad (s : State) (k i : Nat) : LoadsOnly k s (s.takeLoad k i) := by
  unfold State.takeLoad
  split
  · exact LoadsOnly.refl k s
  · dsimp only
    split
    · exact LoadsOnly.refl k s
    · refine LoadsOnly.trans ((State.quiet_lanLoad ..).loadsOnly k) ⟨rfl, fun j hj => ?_, ?_⟩
      · rw [State.lan_modLan_ne _ _ hj]; exact SameButQueue.refl _
      · rw [State.lan_modLan_self]; exact ⟨rfl, List.length_set ..⟩

/-- Every outstanding load is performed. -/
theorem State.loadsOnly_performLoads (s : State) (k : Nat) : LoadsOnly k s (s.performLoads k) := by
  unfold State.performLoads
  generalize List.range _ = l
  induction l generalizing s with
  | nil => exact LoadsOnly.refl k s
  | cons a r ih => exact (State.loadsOnly_takeLoad s k a).trans (ih _)

end Sys2Proof.Machine
end

