-- ==== Sys2Proof/Laws/Access.lean ====
section
/-! SUPPORT. What a Lantern's accesses do: translation, loads, stores, and control transfers with their trace. -/

namespace Sys2Proof.Machine

/-- A walk of the page tables changes the count of free values only. -/
theorem State.walk_free (s : State) (d p va : Nat) : SameButFree s (s.walk d p va).2 := by
  unfold State.walk
  split
  · rfl
  · dsimp only
    split
    · rfl
    · split
      · rfl
      · split <;> rfl

/-- So does the translation of a Lantern's access. -/
theorem State.lanXlate_free (s : State) (k : Nat) (va : Word) (n : Nat) (acc : LanAcc) :
    SameButFree s (s.lanXlate k va n acc).2 := by
  have hw := State.walk_free s (lanDie k) (s.lan k).pasid va.toNat
  have h0 : SameButFree s s := rfl
  unfold State.lanXlate
  dsimp only
  by_cases c1 : 2 ^ 48 ≤ va.toNat
  · rw [if_pos c1]; exact h0
  · rw [if_neg c1]
    generalize (modeWalk (s.modeOf (lanDie k)) && !heldMay (s.lan k).xheld va.toNat && !s.fetchHits k va acc) = c
    generalize (s.walkCut (lanDie k) (s.lan k).pasid va.toNat && !s.fetchHits k va acc) = d
    cases c with
    | true => exact h0
    | false =>
      rw [if_neg (by simp)]
      cases d with
      | true => exact h0
      | false =>
      rw [if_neg (by simp)]
      generalize s.walk (lanDie k) (s.lan k).pasid va.toNat = r at hw
      obtain ⟨o, u⟩ := r
      cases o with
      | none => exact hw
      | some leaf =>
        simp only
        split
        · exact hw
        · (repeat' split) <;> exact hw

theorem SameButFree.fields {s u : State} (h : SameButFree s u) : u.lans = s.lans ∧ u.focus = s.focus := by
  unfold SameButFree at h; rw [← h]; exact ⟨rfl, rfl⟩

theorem SameButFree.cur {s u : State} (h : SameButFree s u) : u.cur = s.cur := by
  unfold State.cur State.lan; rw [(SameButFree.fields h).1, (SameButFree.fields h).2]

theorem Lantern.busy_block (l : Lantern) (rd r : Reg) : (l.block rd).busy r = (l.busy r || decide (r = rd ∧ r ≠ 0#5)) := by
  unfold Lantern.block
  split
  · next h => subst h; simp [Lantern.busy]
  · next h =>
    simp only [Lantern.busy, List.contains_cons]
    by_cases hr : r = rd
    · subst hr; simp [h]
    · simp [hr]

/-- LD and LDZ where the access is translated and permitted. -/
theorem State.load_next (s u : State) (sg : Bool) (sz : Size) (rd ra : Reg) (imm : BitVec 32) (pa : Nat) (kind : PaKind) (tso : Bool)
    (h8 : s.cur.loads.length < 8) (h48 : (effAddr (s.x ra) imm).toNat < 2 ^ 48)
    (hal : (effAddr (s.x ra) imm).toNat % sizeBytes sz = 0)
    (hx : s.lanXlate s.focus (effAddr (s.x ra) imm) (sizeBytes sz) .load = (.at_ pa kind tso, u)) :
    s.load sg sz rd ra imm = u.modCur fun l =>
      ({ l with loads := l.loads ++ [(⟨rd, sg, effAddr (s.x ra) imm, pa, sizeBytes sz, s.cur.pc, tso, none⟩ : PendLoad)] }.block rd).advance 1 := by
  unfold State.load
  dsimp only
  rw [if_neg (by omega), if_neg (by omega), if_neg (by simpa using hal), hx]

theorem State.performLoads_nil (s : State) (k : Nat) (h : (s.lan k).loads = []) : s.performLoads k = s := by
  unfold State.performLoads; rw [h]; rfl

theorem State.takeLoad_some (s : State) (k i : Nat) (h : ∀ p ∈ (s.lan k).loads, p.data.isSome = true) : s.takeLoad k i = s := by
  unfold State.takeLoad
  cases hp : (s.lan k).loads[i]? with
  | none => rfl
  | some p => simp [h p (List.mem_of_getElem? hp)]

theorem State.performLoads_some (s : State) (k : Nat) (h : ∀ p ∈ (s.lan k).loads, p.data.isSome = true) : s.performLoads k = s := by
  unfold State.performLoads
  generalize List.range _ = l
  induction l with
  | nil => rfl
  | cons a r ih => rw [List.foldl_cons, State.takeLoad_some s k a h, ih]

theorem State.missAccess_trap (s : State) (reason access cause : Nat) (va : Word) (n : Nat) (h5 : reason < 5)
    (hx : modeXfault (s.modeOf (lanDie s.focus)) = false) : s.missAccess reason access cause va n = s.trap cause va n := by
  have : decide (5 ≤ reason) = false := by simpa using h5
  simp [State.missAccess, State.holds, this, hx]

theorem State.missAccess_free {s u : State} (hu : SameButFree s u) (reason access cause : Nat) (va : Word) (n : Nat) (h5 : reason < 5)
    (hx : modeXfault (s.modeOf (lanDie s.focus)) = false) : u.missAccess reason access cause va n = u.trap cause va n := by
  apply State.missAccess_trap _ _ _ _ _ _ h5
  unfold SameButFree at hu
  have : u.modeOf (lanDie u.focus) = s.modeOf (lanDie s.focus) := by rw [← hu]; rfl
  rw [this]; exact hx

theorem State.overlay_none (s : State) (k pa : Nat) (bs : List Byte) (h : s.stagedSet k = none) : s.overlay k pa bs = bs := by
  unfold State.overlay
  unfold State.stagedSet at h
  revert h
  cases s.resident k with
  | none => intro; rfl
  | some e =>
    obtain ⟨i, g⟩ := e
    intro h
    cases hs : g.staged <;> cases hg : g.set <;> simp_all

theorem State.allStaged_none (s : State) (k pa n : Nat) (h : s.stagedSet k = none) : s.allStaged k pa n = false := by
  unfold State.allStaged
  unfold State.stagedSet at h
  revert h
  cases s.resident k with
  | none => intro; rfl
  | some e =>
    obtain ⟨i, g⟩ := e
    intro h
    cases hs : g.staged <;> cases hg : g.set <;> simp_all

/-- What a read finds in HBM or in a local memory, outside a staged segment. -/
theorem State.lanLoad_direct (s : State) (k pa n : Nat) (kind : PaKind) (hc : s.classify pa n = some kind)
    (hk : kind = .hbm ∧ s.hbmPoison pa n = false ∨ ∃ j off, kind = .lanMem j off) (hs : s.stagedSet k = none) :
    s.lanLoad k pa n = (s.mem.bytes pa n, false, s) := by
  unfold State.lanLoad
  rw [hc]
  rcases hk with ⟨rfl, hp⟩ | ⟨j, off, rfl⟩
  · simp only [State.readHome, State.raiseHome, State.raiseOwed, List.foldl_nil, State.overlay_none _ _ _ _ hs, hp, Bool.false_and]
  · simp only [State.readHome, State.raiseHome, State.raiseOwed, List.foldl_nil, State.overlay_none _ _ _ _ hs, Bool.false_and]

theorem Lantern.busy_unblock (l : Lantern) (rd r : Reg) : (l.unblock rd).busy r = (l.busy r && decide (r ≠ rd)) := by
  simp only [Lantern.unblock, Lantern.busy]
  rw [Bool.eq_iff_iff]
  simp [List.contains_iff_mem, List.mem_filter]

theorem State.performLoad_some (s : State) (k : Nat) (p : PendLoad) (rest : List PendLoad) (h : (s.lan k).loads = p :: rest) (hd : p.data.isSome = true) :
    s.performLoad k 0 = s := by
  unfold State.performLoad
  rw [h]
  simp only [List.getElem?_cons_zero, List.range_zero, List.foldl_nil]
  unfold State.takeLoad
  rw [h]
  simp [hd]

theorem State.loadReturn_of (s s' : State) (k : Nat) (p : PendLoad) (rest : List PendLoad) (v : Word) (bad : Bool)
    (hs : s.performLoad k 0 = s')
    (hl : (s'.lan k).loads = p :: rest) (hd : p.data = some (v, bad)) (hh : s'.loadHeld k p.pa p.size = false) (hp : (s'.lan k).dpoi = none ∨ bad = false) :
    s.loadReturn k 0 = s'.setLan k (if bad then { (({ s'.lan k with loads := rest } : Lantern).unblock p.rd) with dpoi := some (p.va, p.at_) }
      else (({ s'.lan k with loads := rest } : Lantern).unblock p.rd).setReg p.rd v) := by
  unfold State.loadReturn
  rw [hs]
  have : (bad && (s'.lan k).dpoi.isSome) = false := by rcases hp with h | h <;> simp [h]
  simp only [hl, List.getElem?_cons_zero, hd, this, hh, Bool.or_false, Bool.false_eq_true, if_false, List.eraseIdx_zero, List.tail_cons]

theorem Lantern.busy_setReg (l : Lantern) (x r : Reg) (v : Word) : (l.setReg x v).busy r = l.busy r := by
  unfold Lantern.setReg; split <;> rfl

theorem Lantern.loads_setReg (l : Lantern) (x : Reg) (v : Word) : (l.setReg x v).loads = l.loads := by
  unfold Lantern.setReg; split <;> rfl

theorem Lantern.dpoi_setReg (l : Lantern) (x : Reg) (v : Word) : (l.setReg x v).dpoi = l.dpoi := by
  unfold Lantern.setReg; split <;> rfl

theorem State.onlyLan_setLan (s : State) (k : Nat) (l : Lantern) : OnlyLan k s (s.setLan k l) :=
  ⟨rfl, fun j h => Tab.get_put_ne _ _ _ h⟩

theorem length_leBytes (n v : Nat) : (leBytes n v).length = n := by
  induction n generalizing v with
  | zero => rfl
  | succ n ih => simp [leBytes, ih]

theorem getElem_leBytes (n : Nat) : ∀ (v i : Nat) (h : i < (leBytes n v).length), (leBytes n v)[i] = BitVec.ofNat 8 (v / 2 ^ (8 * i)) := by
  induction n with
  | zero => intro v i h; simp [leBytes] at h
  | succ n ih =>
    intro v i h
    cases i with
    | zero => simp [leBytes]
    | succ i =>
      simp only [leBytes, List.getElem_cons_succ]
      rw [ih, Nat.div_div_eq_div_mul]
      congr 2
      rw [show 8 * (i + 1) = 8 + 8 * i by omega, Nat.pow_add]

theorem getElem_leBytes_word (n i : Nat) (w : Word) (h : i < (leBytes n w.toNat).length) : (leBytes n w.toNat)[i] = w.extractLsb' (8 * i) 8 := by
  rw [getElem_leBytes]; apply BitVec.eq_of_toNat_eq; simp [Nat.shiftRight_eq_div_pow]

/-- ST where the access is translated, permitted and taken by its home. -/
theorem State.store_next (s u v t : State) (sz : Size) (rd ra : Reg) (imm : BitVec 32) (pa : Nat) (kind : PaKind) (tso : Bool)
    (h48 : (effAddr (s.x ra) imm).toNat < 2 ^ 48) (hal : (effAddr (s.x ra) imm).toNat % sizeBytes sz = 0)
    (hx : s.lanXlate s.focus (effAddr (s.x ra) imm) (sizeBytes sz) .store = (.at_ pa kind tso, v))
    (hc : v.homeCut (lanDie s.focus) pa kind = false) (hp : v.performLoads s.focus = u)
    (hst : u.lanStore s.focus pa kind (leBytes (sizeBytes sz) (s.x rd).toNat) = some t) (hf : u.focus = s.focus) :
    s.store sz rd ra imm = t.retire 1 := by
  unfold State.store
  dsimp only
  rw [if_neg (by omega), if_neg (by simpa using hal), hx]
  simp only [hc, Bool.false_eq_true, if_false, hp, hf, hst]

/-- A store that is not staged goes home. -/
theorem State.lanStore_home (k : Nat) (u : State) (kind : PaKind) (pa : Nat) (bs : List Byte)
   (h : u.stagedSet k = none ∨ ownPlace k kind = true) :
    u.lanStore k pa kind bs =
      some ((u.writeHome pa 0 bs kind).1.raiseHome (some k) (lanDie k) (lanRecord k) kind (u.writeHome pa 0 bs kind).2) := by
  unfold State.lanStore
  have : ((u.stagedSet k).isSome && !ownPlace k kind) = false := by
    rcases h with h | h <;> simp [h]
  rw [this, if_neg (by simp)]

theorem State.retire_store (u : State) (m : Memory) (hb : List Nat) (t : State) (ht : t = { u with mem := m, hbmBad := hb }) :
    { (t.retire 1) with lans := u.lans, mem := u.mem, hbmBad := u.hbmBad } = u ∧ (∀ j, j ≠ u.focus → (t.retire 1).lan j = u.lan j) ∧
    (∀ r, (t.retire 1).x r = u.x r) ∧ (t.retire 1).cur.pc = afterParcels u.cur.pc 1 ∧ SameButRegs u.cur (t.retire 1).cur := by
  subst ht
  refine ⟨rfl, fun j hj => ?_, fun r => ?_, ?_, ?_⟩
  · unfold State.retire State.modCur; rw [State.lan_modLan_ne _ _ hj]; rfl
  · show ((State.retire _ 1).cur).reg r = _
    unfold State.retire; rw [State.cur_modCur]; rfl
  · unfold State.retire; rw [State.cur_modCur]; rfl
  · unfold State.retire; rw [State.cur_modCur]; rfl

/-- From `s` to `t` memory has been read at virtual addresses: free values have been used, records raised and memory
tiles read. -/
def Seen (s t : State) : Prop :=
  { t with mem := s.mem, ecc := s.ecc, tiles := s.tiles, hub := s.hub, lans := s.lans, free := s.free } = s ∧
    ∀ k, SameButQueue (s.lan k) (t.lan k)

theorem Seen.refl (s : State) : Seen s s := ⟨rfl, fun _ => rfl⟩
theorem Seen.trans {s t u : State} (h : Seen s t) (g : Seen t u) : Seen s u := by
  refine ⟨?_, fun k => (h.2 k).trans (g.2 k)⟩
  have h1 := h.1
  have g1 := g.1
  rw [← h1, ← g1]
theorem Seen.focus {s t : State} (h : Seen s t) : t.focus = s.focus := by
  have h1 := h.1
  rw [← h1]
theorem QuietBut.seen {s t : State} (h : QuietBut s t) : Seen s t := by
  refine ⟨?_, h.2⟩
  have h1 := h.1
  rw [← h1]
theorem SameButFree.seen {s t : State} (h : SameButFree s t) : Seen s t := by
  refine ⟨?_, fun k => ?_⟩
  · unfold SameButFree at h; rw [← h]
  · unfold State.lan; rw [(SameButFree.fields h).1]; rfl

/-- A read at a virtual address. -/
theorem State.seen_readVirt {s u : State} {va : Word} {n len : Nat} {bs : List Byte}
    (h : s.readVirt va n len = .ok bs u) : Seen s u := by
  unfold State.readVirt at h
  generalize dwordParts va n = l at h
  suffices H : ∀ (l : List (Word × Nat)) (acc : Vis (List Byte)) (hacc : ∀ b v, acc = .ok b v → Seen s v),
      ∀ b v, l.foldl (fun acc p => match acc with
        | .stop s => .stop s
        | .ok bs s =>
          let r := s.lanXlate s.focus p.1 p.2 .load
          match r.1 with
          | .miss reason => .stop (r.2.missAccess reason accRead cLDF p.1 len)
          | .perm => .stop (r.2.trap cPERM p.1 len)
          | .at_ pa kind _ =>
            if r.2.homeCut (lanDie s.focus) pa kind then .stop r.2 else
            let d := r.2.lanLoad s.focus pa p.2
            if d.2.1 then .stop (d.2.2.trap cLDF p.1 len) else .ok (bs ++ d.1) d.2.2) acc = .ok b v → Seen s v from
    H l (.ok [] s) (fun b v hb => by cases hb; exact Seen.refl s) bs u h
  intro l
  induction l with
  | nil => exact fun acc hacc b v hb => hacc b v hb
  | cons p r ih =>
    refine fun acc hacc b v hb => ih _ (fun b v hb => ?_) b v hb
    cases acc with
    | stop t => cases hb
    | ok bs w =>
      have hw := hacc bs w rfl
      have hf := SameButFree.seen (State.lanXlate_free w w.focus p.1 p.2 .load)
      dsimp only at hb
      split at hb
      · cases hb
      · cases hb
      · split at hb
        · cases hb
        · split at hb
          · cases hb
          · cases hb
            exact (hw.trans hf).trans (State.quiet_lanLoad ..).seen

/-- Only the trace of the Lantern in focus has changed. -/
def DayOnly (s u : State) : Prop := u = s ∨ ∃ d, u = s.modLan s.focus fun l => { l with day := d }

theorem DayOnly.only {s u : State} (h : DayOnly s u) : OnlyLan s.focus s u := by
  rcases h with rfl | ⟨d, rfl⟩
  · exact OnlyLan.refl _ _
  · exact State.onlyLan_modLan ..

theorem DayOnly.cur {s u : State} (h : DayOnly s u) : ∃ d, u.cur = { s.cur with day := d } := by
  rcases h with rfl | ⟨d, rfl⟩
  · exact ⟨u.cur.day, rfl⟩
  · exact ⟨d, State.lan_modLan_self ..⟩

theorem DayOnly.focus {s u : State} (h : DayOnly s u) : u.focus = s.focus := h.only.focus

theorem DayOnly.wentTo {s u t : State} {a : Word} (h : DayOnly s u) (w : WentTo a u t) : WentTo a s t := by
  obtain ⟨d, hd⟩ := h.cur
  have hf := h.focus
  obtain ⟨w1, w2, w3, w4⟩ := w
  rw [hf] at w1 w2
  refine ⟨h.only.trans w1, fun r => (w2 r).trans ?_, w3, ?_⟩
  · have : u.lan s.focus = { s.cur with day := d } := by rw [← hd, ← hf]; rfl
    rw [this]; rfl
  · have : t.cur = t.lan s.focus := by rw [← w1.focus.trans hf]; rfl
    rw [hd] at w4
    have w5 := congrArg (fun l : Lantern => { l with day := s.cur.day }) w4
    exact w5

theorem DayOnly.trapped {s u t : State} {c : Nat} {e v m : Word} (h : DayOnly s u) (w : Trapped s.focus c e v m u t) :
    Trapped s.focus c e v m s t := by
  rcases h with rfl | ⟨d, rfl⟩
  · exact w
  · obtain ⟨w1, w2, w3, w4, w5, w6, w7, w8, w9, w10, w11, w12, w13, w14⟩ := w
    simp only [State.lan_modLan_self] at *
    refine ⟨?_, fun j hj => (w2 j hj).trans (State.lan_modLan_ne _ _ hj), fun r => ?_, w4, w5, w6, w7, w8, w9, w10, w11, w12, w13, ?_⟩
    · have := congrArg (fun x : State => { x with lans := s.lans }) w1
      exact this
    · have := w3 r; rw [State.lan_modLan_self] at this; exact this
    · exact congrArg (fun l : Lantern => { l with day := (s.lan s.focus).day }) w14

theorem State.dayOnly_traceCond (s : State) (c : Bool) : DayOnly s (s.traceCond s.focus c) := State.traceCond_day ..

theorem State.dayOnly_traceIndirect (s : State) (r e : Nat) (a : Word) : DayOnly s (s.traceIndirect s.focus r e a) := State.traceIndirect_day ..

theorem State.wentTo_jumpTo (s : State) (c : Came) (a : Word) : WentTo a s (s.jumpTo c a) := by
  unfold State.jumpTo
  refine ⟨State.onlyLan_modLan .., fun r => ?_, ?_, ?_⟩
  · unfold State.modCur; rw [State.lan_modLan_self]; rfl
  · rw [State.cur_modCur]
  · rw [State.cur_modCur]

theorem State.wentTo_retire (s : State) : WentTo (nextParcel s.cur.pc) s (s.retire 1) := by
  unfold State.retire
  refine ⟨State.onlyLan_modLan .., fun r => ?_, ?_, ?_⟩
  · unfold State.modCur; rw [State.lan_modLan_self]; rfl
  · rw [State.cur_modCur]; rfl
  · rw [State.cur_modCur]; rfl

theorem DayOnly.pc {s u : State} (h : DayOnly s u) : u.cur.pc = s.cur.pc := by
  obtain ⟨d, hd⟩ := h.cur; rw [hd]

theorem ends_became (i : Instr) (s : State) (f : Lantern → Lantern) (h : exec i s = .next ((s.modLan s.focus f).retire 1)) :
    Ends i s (Became ((f s.cur).advance 1) s) := by
  refine ⟨_, h, OnlyLan.trans (State.onlyLan_modLan ..) (State.onlyLan_modLan ..), ?_⟩
  unfold State.retire; rw [State.cur_modCur]
  show Lantern.advance ((State.modLan s s.focus f).lan s.focus) 1 = _
  rw [State.lan_modLan_self]; rfl

theorem ends_wrote (i : Instr) (s : State) (rd : Reg) (v w : Word) (n : Nat)
    (h : exec i s = .next (s.retireReg rd w n)) (hv : w = v) : Ends i s (Wrote rd v n s) :=
  ⟨_, h, hv ▸ State.wrote_retireReg ..⟩

theorem ends_trapped (i : Instr) (s u : State) (cause : Nat) (val : Word) {n : Nat} (h : exec i s = .next (u.trap cause val n)) :
    Ends i s (TrappedHere cause val u) := ⟨_, h, State.trapped_trap ..⟩

end Sys2Proof.Machine
end

