-- ==== Sys2Proof/Laws/Decode.lean ====
section
/-! SUPPORT. What a field of a packed parcel reads: the field that was packed, for Lantern parcels, element slots and the
fields that FLAGS and IMM are made of; and that a slot's parcel reads back as its instruction. -/

namespace Sys2Proof

open Sys2Proof.Machine

theorem extract_hi {w v : Nat} (a : BitVec w) (b : BitVec v) (n : Nat) (k : Nat) (h : v ≤ k) :
    (a ++ b).extractLsb' k n = a.extractLsb' (k - v) n := by
  apply BitVec.eq_of_getLsbD_eq; intro i hi
  simp only [BitVec.getLsbD_extractLsb', BitVec.getLsbD_append]
  rw [if_neg (by omega), show k + i - v = k - v + i from by omega]
theorem extract_lo {w v : Nat} (a : BitVec w) (b : BitVec v) (k n : Nat) (h : k + n ≤ v) :
    (a ++ b).extractLsb' k n = b.extractLsb' k n := by
  apply BitVec.eq_of_getLsbD_eq; intro i hi
  simp only [BitVec.getLsbD_extractLsb', BitVec.getLsbD_append]
  rw [if_pos (by omega)]
theorem extract_all {w : Nat} (a : BitVec w) : a.extractLsb' 0 w = a := by
  apply BitVec.eq_of_getLsbD_eq; intro i hi
  simp [hi]
theorem bit_hi {w v : Nat} (a : BitVec w) (b : BitVec v) (k : Nat) (h : v ≤ k) : (a ++ b).getLsbD k = a.getLsbD (k - v) := by
  rw [BitVec.getLsbD_append, if_neg (by omega)]
theorem bit_lo {w v : Nat} (a : BitVec w) (b : BitVec v) (k : Nat) (h : k < v) : (a ++ b).getLsbD k = b.getLsbD k := by
  rw [BitVec.getLsbD_append, if_pos h]
theorem bit1_bit (b : Bool) : (bit1 b).getLsbD 0 = b := by cases b <;> rfl
theorem unpack_pack (r : Raw) : unpackRaw (packRaw r) = r := by
  obtain ⟨maj, min, rd, ra, rb, imm, fl, ext⟩ := r
  unfold unpackRaw packRaw
  dsimp only
  simp only [Raw.mk.injEq]
  exact ⟨(show BitVec.extractLsb' (n := (6+(6+(5+(5+(5+(32+(4+1)))))))) 58 6 (maj ++ (min ++ (rd ++ (ra ++ (rb ++ (imm ++ (fl ++ bit1 ext))))))) = maj from by rw [extract_hi _ _ _ _ (by decide)]; exact extract_all _),
    (show BitVec.extractLsb' (n := (6+(6+(5+(5+(5+(32+(4+1)))))))) 52 6 (maj ++ (min ++ (rd ++ (ra ++ (rb ++ (imm ++ (fl ++ bit1 ext))))))) = min from by rw [extract_lo _ _ _ _ (by decide)]; rw [extract_hi _ _ _ _ (by decide)]; exact extract_all _),
    (show BitVec.extractLsb' (n := (6+(6+(5+(5+(5+(32+(4+1)))))))) 47 5 (maj ++ (min ++ (rd ++ (ra ++ (rb ++ (imm ++ (fl ++ bit1 ext))))))) = rd from by rw [extract_lo _ _ _ _ (by decide)]; rw [extract_lo _ _ _ _ (by decide)]; rw [extract_hi _ _ _ _ (by decide)]; exact extract_all _),
    (show BitVec.extractLsb' (n := (6+(6+(5+(5+(5+(32+(4+1)))))))) 42 5 (maj ++ (min ++ (rd ++ (ra ++ (rb ++ (imm ++ (fl ++ bit1 ext))))))) = ra from by rw [extract_lo _ _ _ _ (by decide)]; rw [extract_lo _ _ _ _ (by decide)]; rw [extract_lo _ _ _ _ (by decide)]; rw [extract_hi _ _ _ _ (by decide)]; exact extract_all _),
    (show BitVec.extractLsb' (n := (6+(6+(5+(5+(5+(32+(4+1)))))))) 37 5 (maj ++ (min ++ (rd ++ (ra ++ (rb ++ (imm ++ (fl ++ bit1 ext))))))) = rb from by rw [extract_lo _ _ _ _ (by decide)]; rw [extract_lo _ _ _ _ (by decide)]; rw [extract_lo _ _ _ _ (by decide)]; rw [extract_lo _ _ _ _ (by decide)]; rw [extract_hi _ _ _ _ (by decide)]; exact extract_all _),
    (show BitVec.extractLsb' (n := (6+(6+(5+(5+(5+(32+(4+1)))))))) 5 32 (maj ++ (min ++ (rd ++ (ra ++ (rb ++ (imm ++ (fl ++ bit1 ext))))))) = imm from by rw [extract_lo _ _ _ _ (by decide)]; rw [extract_lo _ _ _ _ (by decide)]; rw [extract_lo _ _ _ _ (by decide)]; rw [extract_lo _ _ _ _ (by decide)]; rw [extract_lo _ _ _ _ (by decide)]; rw [extract_hi _ _ _ _ (by decide)]; exact extract_all _),
    (show BitVec.extractLsb' (n := (6+(6+(5+(5+(5+(32+(4+1)))))))) 1 4 (maj ++ (min ++ (rd ++ (ra ++ (rb ++ (imm ++ (fl ++ bit1 ext))))))) = fl from by rw [extract_lo _ _ _ _ (by decide)]; rw [extract_lo _ _ _ _ (by decide)]; rw [extract_lo _ _ _ _ (by decide)]; rw [extract_lo _ _ _ _ (by decide)]; rw [extract_lo _ _ _ _ (by decide)]; rw [extract_lo _ _ _ _ (by decide)]; rw [extract_hi _ _ _ _ (by decide)]; exact extract_all _),
    (show BitVec.getLsbD (w := (6+(6+(5+(5+(5+(32+(4+1)))))))) (maj ++ (min ++ (rd ++ (ra ++ (rb ++ (imm ++ (fl ++ bit1 ext))))))) 0 = ext from by rw [bit_lo _ _ _ (by decide)]; rw [bit_lo _ _ _ (by decide)]; rw [bit_lo _ _ _ (by decide)]; rw [bit_lo _ _ _ (by decide)]; rw [bit_lo _ _ _ (by decide)]; rw [bit_lo _ _ _ (by decide)]; rw [bit_lo _ _ _ (by decide)]; exact bit1_bit _)⟩
theorem unpack_slot (maj min : BitVec 6) (f : Slot) : unpackSlot (packSlot maj min f) = ⟨maj, min, f, false⟩ := by
  obtain ⟨selA, selB, selC, rs, o, sat, uns, gate, cin, cout, imm⟩ := f
  unfold unpackSlot packSlot
  dsimp only
  simp only [RawSlot.mk.injEq, Slot.mk.injEq]
  exact ⟨(show BitVec.extractLsb' (n := (6+(6+(7+(7+(7+(3+(1+(1+(1+(1+(2+(2+(4+16)))))))))))))) 58 6 (maj ++ (min ++ (selA ++ (selB ++ (selC ++ (rs ++ (0#1 ++ (bit1 o ++ (bit1 sat ++ (bit1 uns ++ (gate ++ (cin ++ (cout ++ imm))))))))))))) = maj from by rw [extract_hi _ _ _ _ (by decide)]; exact extract_all _), (show BitVec.extractLsb' (n := (6+(6+(7+(7+(7+(3+(1+(1+(1+(1+(2+(2+(4+16)))))))))))))) 52 6 (maj ++ (min ++ (selA ++ (selB ++ (selC ++ (rs ++ (0#1 ++ (bit1 o ++ (bit1 sat ++ (bit1 uns ++ (gate ++ (cin ++ (cout ++ imm))))))))))))) = min from by rw [extract_lo _ _ _ _ (by decide)]; rw [extract_hi _ _ _ _ (by decide)]; exact extract_all _), ⟨(show BitVec.extractLsb' (n := (6+(6+(7+(7+(7+(3+(1+(1+(1+(1+(2+(2+(4+16)))))))))))))) 45 7 (maj ++ (min ++ (selA ++ (selB ++ (selC ++ (rs ++ (0#1 ++ (bit1 o ++ (bit1 sat ++ (bit1 uns ++ (gate ++ (cin ++ (cout ++ imm))))))))))))) = selA from by rw [extract_lo _ _ _ _ (by decide)]; rw [extract_lo _ _ _ _ (by decide)]; rw [extract_hi _ _ _ _ (by decide)]; exact extract_all _),
    (show BitVec.extractLsb' (n := (6+(6+(7+(7+(7+(3+(1+(1+(1+(1+(2+(2+(4+16)))))))))))))) 38 7 (maj ++ (min ++ (selA ++ (selB ++ (selC ++ (rs ++ (0#1 ++ (bit1 o ++ (bit1 sat ++ (bit1 uns ++ (gate ++ (cin ++ (cout ++ imm))))))))))))) = selB from by rw [extract_lo _ _ _ _ (by decide)]; rw [extract_lo _ _ _ _ (by decide)]; rw [extract_lo _ _ _ _ (by decide)]; rw [extract_hi _ _ _ _ (by decide)]; exact extract_all _),
    (show BitVec.extractLsb' (n := (6+(6+(7+(7+(7+(3+(1+(1+(1+(1+(2+(2+(4+16)))))))))))))) 31 7 (maj ++ (min ++ (selA ++ (selB ++ (selC ++ (rs ++ (0#1 ++ (bit1 o ++ (bit1 sat ++ (bit1 uns ++ (gate ++ (cin ++ (cout ++ imm))))))))))))) = selC from by rw [extract_lo _ _ _ _ (by decide)]; rw [extract_lo _ _ _ _ (by decide)]; rw [extract_lo _ _ _ _ (by decide)]; rw [extract_lo _ _ _ _ (by decide)]; rw [extract_hi _ _ _ _ (by decide)]; exact extract_all _),
    (show BitVec.extractLsb' (n := (6+(6+(7+(7+(7+(3+(1+(1+(1+(1+(2+(2+(4+16)))))))))))))) 28 3 (maj ++ (min ++ (selA ++ (selB ++ (selC ++ (rs ++ (0#1 ++ (bit1 o ++ (bit1 sat ++ (bit1 uns ++ (gate ++ (cin ++ (cout ++ imm))))))))))))) = rs from by rw [extract_lo _ _ _ _ (by decide)]; rw [extract_lo _ _ _ _ (by decide)]; rw [extract_lo _ _ _ _ (by decide)]; rw [extract_lo _ _ _ _ (by decide)]; rw [extract_lo _ _ _ _ (by decide)]; rw [extract_hi _ _ _ _ (by decide)]; exact extract_all _),
    (show BitVec.getLsbD (w := (6+(6+(7+(7+(7+(3+(1+(1+(1+(1+(2+(2+(4+16)))))))))))))) (maj ++ (min ++ (selA ++ (selB ++ (selC ++ (rs ++ (0#1 ++ (bit1 o ++ (bit1 sat ++ (bit1 uns ++ (gate ++ (cin ++ (cout ++ imm))))))))))))) 26 = o from by rw [bit_lo _ _ _ (by decide)]; rw [bit_lo _ _ _ (by decide)]; rw [bit_lo _ _ _ (by decide)]; rw [bit_lo _ _ _ (by decide)]; rw [bit_lo _ _ _ (by decide)]; rw [bit_lo _ _ _ (by decide)]; rw [bit_lo _ _ _ (by decide)]; rw [bit_hi _ _ _ (by decide)]; exact bit1_bit _),
    (show BitVec.getLsbD (w := (6+(6+(7+(7+(7+(3+(1+(1+(1+(1+(2+(2+(4+16)))))))))))))) (maj ++ (min ++ (selA ++ (selB ++ (selC ++ (rs ++ (0#1 ++ (bit1 o ++ (bit1 sat ++ (bit1 uns ++ (gate ++ (cin ++ (cout ++ imm))))))))))))) 25 = sat from by rw [bit_lo _ _ _ (by decide)]; rw [bit_lo _ _ _ (by decide)]; rw [bit_lo _ _ _ (by decide)]; rw [bit_lo _ _ _ (by decide)]; rw [bit_lo _ _ _ (by decide)]; rw [bit_lo _ _ _ (by decide)]; rw [bit_lo _ _ _ (by decide)]; rw [bit_lo _ _ _ (by decide)]; rw [bit_hi _ _ _ (by decide)]; exact bit1_bit _),
    (show BitVec.getLsbD (w := (6+(6+(7+(7+(7+(3+(1+(1+(1+(1+(2+(2+(4+16)))))))))))))) (maj ++ (min ++ (selA ++ (selB ++ (selC ++ (rs ++ (0#1 ++ (bit1 o ++ (bit1 sat ++ (bit1 uns ++ (gate ++ (cin ++ (cout ++ imm))))))))))))) 24 = uns from by rw [bit_lo _ _ _ (by decide)]; rw [bit_lo _ _ _ (by decide)]; rw [bit_lo _ _ _ (by decide)]; rw [bit_lo _ _ _ (by decide)]; rw [bit_lo _ _ _ (by decide)]; rw [bit_lo _ _ _ (by decide)]; rw [bit_lo _ _ _ (by decide)]; rw [bit_lo _ _ _ (by decide)]; rw [bit_lo _ _ _ (by decide)]; rw [bit_hi _ _ _ (by decide)]; exact bit1_bit _),
    (show BitVec.extractLsb' (n := (6+(6+(7+(7+(7+(3+(1+(1+(1+(1+(2+(2+(4+16)))))))))))))) 22 2 (maj ++ (min ++ (selA ++ (selB ++ (selC ++ (rs ++ (0#1 ++ (bit1 o ++ (bit1 sat ++ (bit1 uns ++ (gate ++ (cin ++ (cout ++ imm))))))))))))) = gate from by rw [extract_lo _ _ _ _ (by decide)]; rw [extract_lo _ _ _ _ (by decide)]; rw [extract_lo _ _ _ _ (by decide)]; rw [extract_lo _ _ _ _ (by decide)]; rw [extract_lo _ _ _ _ (by decide)]; rw [extract_lo _ _ _ _ (by decide)]; rw [extract_lo _ _ _ _ (by decide)]; rw [extract_lo _ _ _ _ (by decide)]; rw [extract_lo _ _ _ _ (by decide)]; rw [extract_lo _ _ _ _ (by decide)]; rw [extract_hi _ _ _ _ (by decide)]; exact extract_all _),
    (show BitVec.extractLsb' (n := (6+(6+(7+(7+(7+(3+(1+(1+(1+(1+(2+(2+(4+16)))))))))))))) 20 2 (maj ++ (min ++ (selA ++ (selB ++ (selC ++ (rs ++ (0#1 ++ (bit1 o ++ (bit1 sat ++ (bit1 uns ++ (gate ++ (cin ++ (cout ++ imm))))))))))))) = cin from by rw [extract_lo _ _ _ _ (by decide)]; rw [extract_lo _ _ _ _ (by decide)]; rw [extract_lo _ _ _ _ (by decide)]; rw [extract_lo _ _ _ _ (by decide)]; rw [extract_lo _ _ _ _ (by decide)]; rw [extract_lo _ _ _ _ (by decide)]; rw [extract_lo _ _ _ _ (by decide)]; rw [extract_lo _ _ _ _ (by decide)]; rw [extract_lo _ _ _ _ (by decide)]; rw [extract_lo _ _ _ _ (by decide)]; rw [extract_lo _ _ _ _ (by decide)]; rw [extract_hi _ _ _ _ (by decide)]; exact extract_all _),
    (show BitVec.extractLsb' (n := (6+(6+(7+(7+(7+(3+(1+(1+(1+(1+(2+(2+(4+16)))))))))))))) 16 4 (maj ++ (min ++ (selA ++ (selB ++ (selC ++ (rs ++ (0#1 ++ (bit1 o ++ (bit1 sat ++ (bit1 uns ++ (gate ++ (cin ++ (cout ++ imm))))))))))))) = cout from by rw [extract_lo _ _ _ _ (by decide)]; rw [extract_lo _ _ _ _ (by decide)]; rw [extract_lo _ _ _ _ (by decide)]; rw [extract_lo _ _ _ _ (by decide)]; rw [extract_lo _ _ _ _ (by decide)]; rw [extract_lo _ _ _ _ (by decide)]; rw [extract_lo _ _ _ _ (by decide)]; rw [extract_lo _ _ _ _ (by decide)]; rw [extract_lo _ _ _ _ (by decide)]; rw [extract_lo _ _ _ _ (by decide)]; rw [extract_lo _ _ _ _ (by decide)]; rw [extract_lo _ _ _ _ (by decide)]; rw [extract_hi _ _ _ _ (by decide)]; exact extract_all _),
    (show BitVec.extractLsb' (n := (6+(6+(7+(7+(7+(3+(1+(1+(1+(1+(2+(2+(4+16)))))))))))))) 0 16 (maj ++ (min ++ (selA ++ (selB ++ (selC ++ (rs ++ (0#1 ++ (bit1 o ++ (bit1 sat ++ (bit1 uns ++ (gate ++ (cin ++ (cout ++ imm))))))))))))) = imm from by rw [extract_lo _ _ _ _ (by decide)]; rw [extract_lo _ _ _ _ (by decide)]; rw [extract_lo _ _ _ _ (by decide)]; rw [extract_lo _ _ _ _ (by decide)]; rw [extract_lo _ _ _ _ (by decide)]; rw [extract_lo _ _ _ _ (by decide)]; rw [extract_lo _ _ _ _ (by decide)]; rw [extract_lo _ _ _ _ (by decide)]; rw [extract_lo _ _ _ _ (by decide)]; rw [extract_lo _ _ _ _ (by decide)]; rw [extract_lo _ _ _ _ (by decide)]; rw [extract_lo _ _ _ _ (by decide)]; rw [extract_lo _ _ _ _ (by decide)]; exact extract_all _)⟩, (show BitVec.getLsbD (w := (6+(6+(7+(7+(7+(3+(1+(1+(1+(1+(2+(2+(4+16)))))))))))))) (maj ++ (min ++ (selA ++ (selB ++ (selC ++ (rs ++ (0#1 ++ (bit1 o ++ (bit1 sat ++ (bit1 uns ++ (gate ++ (cin ++ (cout ++ imm))))))))))))) 27 = false from by rw [bit_lo _ _ _ (by decide)]; rw [bit_lo _ _ _ (by decide)]; rw [bit_lo _ _ _ (by decide)]; rw [bit_lo _ _ _ (by decide)]; rw [bit_lo _ _ _ (by decide)]; rw [bit_lo _ _ _ (by decide)]; rw [bit_hi _ _ _ (by decide)]; rfl)⟩

theorem slot_code (i : Instr) (maj min : BitVec 6) (f : Slot) (h : slotCode i = some (maj, min, f)) :
    slotInstr maj.toNat min.toNat f = some i := by
  cases i <;> simp only [slotCode, reduceCtorEq, Option.some.injEq, Prod.mk.injEq] at h <;> obtain ⟨rfl, rfl, rfl⟩ := h <;> rfl
theorem slot_ok (i : Instr) (h : (slotCode i).isSome) (hw : wellFormed i = true) : slotOk i = true := by
  cases i <;> first | exact hw | (exfalso; exact Bool.noConfusion h)
theorem slot_read (i : Instr) (maj min : BitVec 6) (f : Slot) (h : slotCode i = some (maj, min, f)) (hw : wellFormed i = true) :
    decodeSlot (packSlot maj min f) = some i := by
  unfold decodeSlot
  rw [unpack_slot]
  dsimp only
  rw [slot_code i maj min f h]
  dsimp only
  rw [slot_ok i (by rw [h]; rfl) hw]
  rfl

theorem flSc_lo (sc : BitVec 3) : (flSc sc).extractLsb' 0 3 = sc := by
  unfold flSc; rw [extract_lo _ _ _ _ (by decide)]; exact extract_all _
theorem flScB_lo (b : Bool) (sc : BitVec 3) : (flScB b sc).extractLsb' 0 3 = sc := by
  unfold flScB; rw [extract_lo _ _ _ _ (by decide)]; exact extract_all _
theorem flScB_hi (b : Bool) (sc : BitVec 3) : (flScB b sc).getLsbD 3 = b := by
  unfold flScB; rw [bit_hi _ _ _ (by decide)]; exact bit1_bit _
theorem flSc_hi (sc : BitVec 3) : (flSc sc).getLsbD 3 = false := by
  unfold flSc; rw [bit_hi _ _ _ (by decide)]; rfl
theorem clImm_rs (rs rl rb : Reg) : (clImm rs rl rb).extractLsb' 10 5 = rs := by
  unfold clImm; rw [extract_lo _ _ _ _ (by decide), extract_hi _ _ _ _ (by decide)]; exact extract_all _
theorem clImm_rl (rs rl rb : Reg) : (clImm rs rl rb).extractLsb' 5 5 = rl := by
  unfold clImm; rw [extract_lo _ _ _ _ (by decide), extract_lo _ _ _ _ (by decide), extract_hi _ _ _ _ (by decide)]; exact extract_all _
theorem clImm_rb (rs rl rb : Reg) : (clImm rs rl rb).extractLsb' 0 5 = rb := by
  unfold clImm; rw [extract_lo _ _ _ _ (by decide), extract_lo _ _ _ _ (by decide), extract_lo _ _ _ _ (by decide)]; exact extract_all _
theorem clImm_z (rs rl rb : Reg) : (clImm rs rl rb).extractLsb' 15 17 = 0#17 := by
  unfold clImm; rw [extract_hi _ _ _ _ (by decide)]; exact extract_all _
theorem onlyIf_true {c : Bool} {i j : Instr} (h : c = true) (hj : i = j) : onlyIf c i = .ok j := by rw [h, hj]; rfl

theorem flU_f1 (u : Bool) : (flU u).getLsbD 0 = u := by cases u <;> decide
theorem flOp_f1 (u : Bool) (op : RegImm) : (flOp u op).getLsbD 0 = u := by cases u <;> cases op <;> unfold flOp <;> dsimp only <;> decide
theorem flOp_reg (u : Bool) (r : Reg) : (flOp u (.reg r)).getLsbD 1 = false := by cases u <;> unfold flOp <;> dsimp only <;> decide
theorem flOp_imm (u : Bool) (v : BitVec 32) : (flOp u (.imm v)).getLsbD 1 = true := by cases u <;> unfold flOp <;> dsimp only <;> decide
theorem flOp_z (u : Bool) (op : RegImm) : (flOp u op).extractLsb' 2 2 = 0#2 := by cases u <;> cases op <;> unfold flOp <;> dsimp only <;> decide
theorem flU_g (u : Bool) : (flU u)[0] = u := flU_f1 u
theorem flOp_g (u : Bool) (op : RegImm) : (flOp u op)[0] = u := flOp_f1 u op
theorem flOp_gr (u : Bool) (r : Reg) : (flOp u (.reg r))[1] = false := flOp_reg u r
theorem flOp_gi (u : Bool) (v : BitVec 32) : (flOp u (.imm v))[1] = true := flOp_imm u v
theorem flScB_g (b : Bool) (sc : BitVec 3) : (flScB b sc)[3] = b := flScB_hi b sc
theorem flSc_g (sc : BitVec 3) : (flSc sc)[3] = false := flSc_hi sc
theorem flSize_sz (sz : Size) : sizeOf2 ((flSize sz).extractLsb' 0 2) = sz := by cases sz <;> decide

end Sys2Proof
end

