-- ==== Sys2Proof/Laws/Fabric.lean ====
section
/-! SUPPORT. What an element's emissions change, and where a destination off the grid goes. -/

namespace Sys2Proof.Machine

/-- A Lantern but for its fault queue, its cluster's overflow store and its tag-space table. -/
def SameButTokens (l l' : Lantern) : Prop :=
  { l' with tail := l.tail, heldRecs := l.heldRecs, day := l.day, fqCfg := l.fqCfg, ovfl := l.ovfl, spaces := l.spaces,
            cut := l.cut } = l

theorem SameButTokens.trans {a b c : Lantern} (h : SameButTokens a b) (g : SameButTokens b c) : SameButTokens a c := by
  unfold SameButTokens at *
  rw [← h, ← g]

theorem SameButTokens.inRing {a b : Lantern} (h : SameButTokens a b) (off : Nat) : b.inRing off = a.inRing off := by
  unfold SameButTokens at h
  rw [← h]
  rfl

theorem SameButQueue.tokens {a b : Lantern} (h : SameButQueue a b) : SameButTokens a b := by
  unfold SameButQueue at h
  unfold SameButTokens
  rw [← h]

/-! ### Destinations (R26) -/

theorem dstX_mkDest (die x y el slot port : Nat) : dstX (mkDest die x y el slot port) = x % 64 := by
  have h : (mkDest die x y el slot port).extractLsb' 18 6 = BitVec.ofNat 6 x := by
    unfold mkDest
    ext i hi
    simp only [BitVec.getElem_extractLsb', BitVec.getLsbD_append]
    rw [if_neg (by omega), if_neg (by omega), if_neg (by omega), if_neg (by omega), if_pos (by omega)]
    simp only [show 18 + i - 2 - 5 - 4 - 7 = i by omega]
    rw [BitVec.getLsbD_eq_getElem hi]
  rw [dstX, h, BitVec.toNat_ofNat]

theorem dstY_mkDest (die x y el slot port : Nat) : dstY (mkDest die x y el slot port) = y % 128 := by
  have h : (mkDest die x y el slot port).extractLsb' 11 7 = BitVec.ofNat 7 y := by
    unfold mkDest
    ext i hi
    simp only [BitVec.getElem_extractLsb', BitVec.getLsbD_append]
    rw [if_neg (by omega), if_neg (by omega), if_neg (by omega), if_pos (by omega)]
    simp only [show 11 + i - 2 - 5 - 4 = i by omega]
    rw [BitVec.getLsbD_eq_getElem hi]
  rw [dstY, h, BitVec.toNat_ofNat]

/-- A field holds a coordinate on the grid as it is, and keeps any other off it. -/
theorem gridField_cases {lim size : Nat} (h : lim < size) (v : Int) :
    (0 ≤ v ∧ v < lim ∧ gridField lim size v = v.toNat) ∨ (¬ (0 ≤ v ∧ v < lim) ∧ lim ≤ gridField lim size v ∧ gridField lim size v < size) := by
  unfold gridField
  split
  · rename_i c; exact .inl ⟨c.1, c.2, rfl⟩
  · rename_i c
    refine .inr ⟨c, ?_⟩
    split
    · rename_i e
      have := Int.emod_lt_of_pos v (show (0 : Int) < size by omega)
      exact ⟨e, by omega⟩
    · have := Nat.mod_lt (Config.offGrid v) (by omega : 0 < size - lim); omega

/-- A relative destination off the grid cannot be routed. -/
theorem resolve_off (s : State) (lead : Option Nat) (ctx tile : Nat) (d : BitVec 31) (hf : dFar d = false)
    (h : ¬ (0 ≤ tileX tile + dDx d ∧ tileX tile + dDx d < 56 ∧ 0 ≤ tileY tile + dDy d ∧ tileY tile + dDy d < 112)) :
    routable (s.resolve lead ctx tile d) = false := by
  simp only [State.resolve, hf, Bool.false_eq_true, if_false, routable, dstX_mkDest, dstY_mkDest, decide_eq_false_iff_not]
  rcases gridField_cases (lim := 56) (size := 64) (by omega) (tileX tile + dDx d) with a | a <;>
    rcases gridField_cases (lim := 112) (size := 128) (by omega) (tileY tile + dDy d) with b | b <;> omega

end Sys2Proof.Machine

namespace Sys2Proof

open Sys2Proof.Machine

theorem Emitted.refl (el : Nat) (s : Machine.State) : Emitted el s s :=
  ⟨rfl, fun _ _ => rfl, fun _ => rfl, rfl, fun _ => rfl, fun _ _ => rfl, rfl⟩

theorem Emitted.queue {el : Nat} {s t : Machine.State} (h : Emitted el s t) (b : Nat) : InFaultQueue t b ↔ InFaultQueue s b := by
  unfold InFaultQueue
  simp only [fun k off => SameButTokens.inRing (h.2.2.1 k) off]

theorem Emitted.trans {el : Nat} {s t u : Machine.State} (h : Emitted el s t) (g : Emitted el t u) : Emitted el s u := by
  have hq := h.queue
  obtain ⟨h1, h2, h3, h4, h5, h6, h7⟩ := h
  obtain ⟨g1, g2, g3, g4, g5, g6, g7⟩ := g
  refine ⟨?_, ?_, fun k => SameButTokens.trans (h3 k) (g3 k), ?_, fun p => ?_, fun j hj => ?_, ?_⟩
  · rw [← h1, ← g1]
  · intro b hb
    rw [g2 b (by rwa [hq]), h2 b hb]
  · rw [← h4, ← g4]
  · rw [← h5 p, ← g5 p]
  · rw [← h6 j hj, ← g6 j hj]
  · rw [← h7, ← g7]

theorem Emitted.fold {α : Type} {el : Nat} (l : List α) (f : Machine.State → α → Machine.State) (hf : ∀ s a, Emitted el s (f s a)) (s : Machine.State) :
    Emitted el s (l.foldl f s) := by
  induction l generalizing s with
  | nil => exact Emitted.refl el s
  | cons a r ih => exact (hf s a).trans (ih _)

end Sys2Proof

namespace Sys2Proof.Machine

theorem State.emitted_modLan (s : State) (el k : Nat) (f : Lantern → Lantern) (h : SameButTokens (s.lan k) (f (s.lan k))) :
    Emitted el s (s.modLan k f) := by
  refine ⟨rfl, fun _ _ => rfl, fun j => ?_, rfl, fun _ => rfl, fun _ _ => rfl, rfl⟩
  by_cases hj : j = k
  · subst hj
    rw [show (s.modLan j f).lan j = f (s.lan j) from Tab.get_put_self ..]
    exact h
  · rw [show (s.modLan k f).lan j = s.lan j from Tab.get_put_ne _ _ _ hj]

theorem State.emitted_modPort (s : State) (el k : Nat) (f : Port → Port)
    (h : { f (s.port k) with inq := (s.port k).inq } = s.port k) : Emitted el s (s.modPort k f) := by
  refine ⟨rfl, fun _ _ => rfl, fun j => rfl, rfl, fun p => ?_, fun _ _ => rfl, rfl⟩
  by_cases hj : p = k
  · subst hj
    rw [show (s.modPort p f).port p = f (s.port p) from Tab.get_put_self ..]
    exact h
  · rw [show (s.modPort k f).port p = s.port p from Tab.get_put_ne _ _ _ hj]

/-- A change of an element's inputs. -/
theorem State.emitted_links (s : State) (el k : Nat) (f : Element → Element)
    (h : { f (s.el k) with links := (s.el k).links, road := (s.el k).road, ctl := (s.el k).ctl } = s.el k) : Emitted el s (s.modEl k f) := by
  refine ⟨rfl, fun _ _ => rfl, fun j => rfl, rfl, fun p => rfl, fun j hj => ?_, ?_⟩
  · by_cases hk : j = k
    · subst hk; rw [State.el_modEl_self]; exact h
    · rw [State.el_modEl_ne _ _ hk]
  · by_cases hk : el = k
    · subst hk
      rw [State.el_modEl_self]
      generalize f (s.el el) = x at h
      rw [← h]
    · rw [State.el_modEl_ne _ _ hk]

/-- A change of the emitting element's own stores. -/
theorem State.emitted_own (s : State) (el : Nat) (f : Element → Element)
    (h : { f (s.el el) with
           core := { (f (s.el el)).core with store := (s.el el).core.store, seq := (s.el el).core.seq,
                                             ctxs := (s.el el).core.ctxs, waits := (s.el el).core.waits,
                                             heldOut := (s.el el).core.heldOut },
           firing := (s.el el).firing } = s.el el) : Emitted el s (s.modEl el f) := by
  refine ⟨rfl, fun _ _ => rfl, fun j => rfl, rfl, fun p => rfl, fun j hj => ?_, ?_⟩
  · rw [State.el_modEl_ne _ _ hj]
  · rw [State.el_modEl_self]
    generalize f (s.el el) = x at h
    rw [← h]

theorem State.emitted_hub (s : State) (el : Nat) (f : Hub → Hub)
    (h : { f s.hub with mc := s.hub.mc, hostLog := s.hub.hostLog } = s.hub) : Emitted el s (s.modHub f) :=
  ⟨rfl, fun _ _ => rfl, fun j => rfl, h, fun p => rfl, fun j hj => rfl, rfl⟩

theorem State.emitted_packet (s : State) (el k typ : Nat) (body : Word) : Emitted el s (s.packet k typ body) := by
  obtain ⟨d, hd⟩ := State.packet_day s k typ body
  rw [hd]
  exact State.emitted_modLan _ _ _ _ rfl

theorem State.emitted_traceFault (s : State) (el k : Nat) (r : Record) : Emitted el s (s.traceFault k r) := by
  unfold State.traceFault
  split
  · exact State.emitted_packet ..
  · exact Emitted.refl ..

/-- A write to one record place of a fault queue. -/
theorem State.emitted_ring (s : State) (el k n o : Nat) (bs : List Byte) (h : o + bs.length ≤ 32) :
    Emitted el s { s with mem := s.mem.store (lanPa k 1 ((s.lan k).ringBase + 32 * (n % (s.lan k).ringSize)) + o) bs } := by
  refine ⟨rfl, fun b hb => ?_, fun j => rfl, rfl, fun p => rfl, fun j hj => rfl, rfl⟩
  apply Memory.read_store_out
  by_cases h1 : b < lanPa k 1 ((s.lan k).ringBase + 32 * (n % (s.lan k).ringSize)) + o
  · exact .inl h1
  · refine .inr (Nat.le_of_not_lt fun h2 => hb ⟨k, (s.lan k).ringBase + 32 * (n % (s.lan k).ringSize) +
      (b - lanPa k 1 ((s.lan k).ringBase + 32 * (n % (s.lan k).ringSize))), ?_, ?_⟩)
    · unfold lanPa at *; omega
    · have hm : n % (s.lan k).ringSize < (s.lan k).ringSize := Nat.mod_lt _ (Nat.two_pow_pos _)
      unfold Lantern.inRing
      simp only [decide_eq_true_eq]
      omega

theorem length_toBytes (r : Record) : r.toBytes.length = 32 := by
  simp [Record.toBytes, length_leBytes]

theorem State.emitted_writeRecord (s : State) (el k : Nat) (r : Record) : Emitted el s (s.writeRecord k r) := by
  unfold State.writeRecord
  dsimp only
  split
  · have h := State.emitted_ring s el k ((s.lan k).tail.toNat + (s.lan k).ringSize - 1) 6 (leBytes 2
      (min ((BitVec.ofNat 64 (leNat (s.mem.bytes (lanPa k 1 ((s.lan k).ringBase
        + 32 * (((s.lan k).tail.toNat + (s.lan k).ringSize - 1) % (s.lan k).ringSize))) 8))).toNat / 2 ^ 48 + 1) 0xFFFF))
      (by simp [length_leBytes])
    split
    · exact h.trans (State.emitted_modLan _ _ k _ rfl)
    · exact h
  · have h := State.emitted_ring s el k (s.lan k).tail.toNat 0 r.toBytes (by have := length_toBytes r; omega)
    refine (h.trans (State.emitted_modLan _ _ k _ ?_)).trans (State.emitted_traceFault ..)
    rfl

theorem State.emitted_toQueue (s : State) (el k : Nat) (r : Record) : Emitted el s (s.toQueue k r) := by
  unfold State.toQueue
  dsimp only
  split
  · exact State.emitted_modLan _ _ _ _ rfl
  · exact State.emitted_writeRecord ..

/-- Raising a record. -/
theorem State.emitted_raise (s : State) (el : Nat) (lead : Option Nat) (die : Nat) (r : Record) :
    Emitted el s (s.raise lead die r) := by
  unfold State.raise
  dsimp only
  split
  · exact (State.emitted_hub _ _ _ rfl).trans (State.emitted_traceFault ..)
  · split
    · exact (State.emitted_hub _ _ _ rfl).trans (State.emitted_toQueue ..)
    · exact State.emitted_toQueue ..

theorem State.emitted_elLog (s : State) (el el' : Nat) (kind : Byte) (slot : BitVec 5) (tag : Tag) (addr : Word) (info : Nat) :
    Emitted el' s (s.elLog el kind slot tag addr info) := State.emitted_raise ..

theorem State.emitted_modSpace (s : State) (el lead key : Nat) (past : Bool) (f : SpaceEntry → SpaceEntry) :
    Emitted el s (s.modSpace lead key past f) := State.emitted_modLan _ _ _ _ rfl

theorem State.emitted_noteEmitted (s : State) (el : Nat) (lead : Option Nat) (die : Nat) (t : Tag) (past : Bool) :
    Emitted el s (s.noteEmitted lead die t past) := by
  unfold State.noteEmitted
  split
  · exact Emitted.refl ..
  · exact State.emitted_modSpace ..

theorem State.emitted_putLink (s : State) (el k link : Nat) (a : Arrival) : Emitted el s (s.putLink k link a) := by
  unfold State.putLink
  refine State.emitted_links _ _ _ _ ?_
  split
  · dsimp only
    split <;> rfl
  · split <;> rfl

theorem State.emitted_deliver (s : State) (el tile src : Nat) (cond : Bool) (d : Dest) (tok : Token) (old : Bool) :
    Emitted el s (s.deliver tile src cond d tok old) := by
  unfold State.deliver
  dsimp only
  split
  · exact State.emitted_modPort _ _ _ _ rfl
  · exact State.emitted_putLink ..

theorem State.emitted_storeOrSpill (s t : State) (el : Nat) (m : MatchEntry) (h : s.storeOrSpill el m = some t) :
    Emitted el s t := by
  unfold State.storeOrSpill at h
  dsimp only at h
  split at h
  · cases h
    refine State.emitted_own _ _ _ ?_
    unfold ElemCore.insert
    simp only []
    generalize (lowest 64 fun i => ((s.el el).core.store.find i).isNone) = o
    cases o <;> rfl
  · split at h
    · cases h
      refine Emitted.trans (State.emitted_own _ _ _ ?_) (State.emitted_modLan _ _ _ _ rfl)
      dsimp only
      split <;> rfl
    · cases h

theorem State.emitted_park (s : State) (el : Nat) (m : Emission) : Emitted el s (s.park el m) := by
  unfold State.park
  dsimp only
  split
  · next h => exact State.emitted_storeOrSpill _ _ _ _ h
  · exact (State.emitted_own _ _ _ rfl).trans (State.emitted_elLog ..)

theorem State.emitted_stallRec (s : State) (el : Nat) (tag : Tag) : Emitted el s (s.stallRec el tag) := by
  unfold State.stallRec
  split
  · exact State.emitted_own _ _ _ rfl
  · exact Emitted.refl ..

theorem State.emitted_sendOut (s : State) (el src : Nat) (cond : Bool) (d : Dest) (tok : Token) (old : Bool) :
    Emitted el s (s.sendOut el src cond d tok old) := by
  unfold State.sendOut
  split
  · exact State.emitted_own _ _ _ rfl
  · exact State.emitted_deliver ..

theorem State.emitted_emitFate (s : State) (el src : Nat) (slot : BitVec 5) (cond : Bool) (tok : Token) (addr : Option Word)
    (f : Fate) : Emitted el s (s.emitFate el src slot cond tok addr false f) := by
  cases f with
  | link d => exact State.emitted_elLog ..
  | taguse r i => exact State.emitted_elLog ..
  | park d t => exact (State.emitted_noteEmitted ..).trans (State.emitted_park ..)
  | go d t => exact (State.emitted_noteEmitted ..).trans (State.emitted_sendOut ..)

theorem State.emitted_emitOne (s : State) (el : Nat) (slot : BitVec 5) (cond : Bool) (tok : Token) (iter : Nat)
    (d : BitVec 31) (addr : Option Word) : Emitted el s (s.emitOne el slot cond tok iter d addr) :=
  State.emitted_emitFate ..

theorem State.emitted_emitAll (s : State) (el : Nat) (slot : BitVec 5) (tok : Token) (iter : Nat) (ds : List (BitVec 31))
    (addr : Option Word) : Emitted el s (s.emitAll el slot tok iter ds addr) := by
  unfold State.emitAll
  refine Emitted.fold _ _ ?_ _
  intro s d
  exact State.emitted_emitOne ..

theorem State.emitted_send (s : State) (w : Fire) (t : Token) (ds : List (BitVec 31)) : Emitted w.el s (s.send w t ds) :=
  State.emitted_emitAll ..

theorem State.emitted_emitCond (s : State) (el : Nat) (slot : BitVec 5) (tag : Tag) (cout : BitVec 4) (c : Bool) :
    Emitted el s (s.emitCond el slot tag cout c) := by
  unfold State.emitCond
  split
  · exact Emitted.refl ..
  · split
    · exact Emitted.refl ..
    · exact State.emitted_emitOne ..

theorem State.emitted_raiseFlags (s : State) (el ctx : Nat) (fl : Flags) : Emitted el s (s.raiseFlags el ctx fl) := by
  unfold State.raiseFlags
  split
  · exact Emitted.refl ..
  · exact State.emitted_own _ _ _ rfl

theorem State.emitted_noteLast (s : State) (w : Fire) : Emitted w.el s (s.noteLast w) := by
  unfold State.noteLast
  split
  · exact State.emitted_own _ _ _ rfl
  · exact Emitted.refl ..

theorem emitted_consumed (w : Fire) (s : State) : Emitted w.el s (consumed w s) :=
  (State.emitted_own _ _ _ rfl).trans (State.emitted_noteLast ..)

theorem State.emitted_formatError (s : State) (w : Fire) (fmt : BitVec 3) (pos lane : Nat) (res : BitVec 3)
    (ds : List (BitVec 31)) : Emitted w.el s (s.formatError w fmt pos lane res ds) :=
  ((State.emitted_elLog ..).trans (State.emitted_stallRec ..)).trans (State.emitted_send ..)

theorem emitted_finished (w : Fire) (s : State) (r : Computed) : Emitted w.el s (finished w s r) := by
  cases r with
  | ok fmt pay fl c =>
    have h := ((emitted_consumed w s).trans (State.emitted_raiseFlags _ w.el w.ctx fl)).trans
      (State.emitted_send _ w (w.result fmt pay) w.dests)
    cases c with
    | none => exact h
    | some c => exact h.trans (State.emitted_emitCond ..)
  | bad fmt pos lane res => exact (emitted_consumed w s).trans (State.emitted_formatError ..)

end Sys2Proof.Machine

namespace Sys2Proof

open Sys2Proof.Machine

/-- Consuming the operand set leaves the hold registers. -/
theorem holds_consumed (w : Fire) (s : Machine.State) (k : Nat) : ((consumed w s).el k).core.holds = (s.el k).core.holds := by
  have h := emitted_consumed w s
  obtain ⟨-, -, -, -, -, h6, h7⟩ := h
  by_cases hk : k = w.el
  · subst hk; rw [← h7]
  · rw [← h6 k hk]

/-- So its operands read the same after it. -/
theorem operand_consumed (w : Fire) (s : Machine.State) (form : ConstForm) (sel : BitVec 7) :
    (consumed w s).operand w form sel = s.operand w form sel := by
  unfold State.operand
  rw [holds_consumed]

theorem rmOf_consumed (w : Fire) (s : Machine.State) : (consumed w s).rmOf w = s.rmOf w := by
  unfold State.rmOf consumed State.noteLast
  congr 1
  split
  · simp only [State.modCore, State.el_modEl_self, ElemCore.ctx, ElemCore.modCtx]
    rw [show ∀ (t : Tab CtxState) c x, Tab.get CtxState.empty (t.put c x) c = x from fun t c x => Tab.get_put_self ..]
  · simp only [State.el_modEl_self]

/-- A firing that executes. -/
theorem fire_next (i : Instr) (mv : Moves) (k : Fire → Machine.State → Machine.State) (w : Fire) (s : Machine.State)
    (h : Executes i mv w s) : s.fire i mv k = .next (k w (consumed w s)) := by
  obtain ⟨⟨h1, h2, h3, h4, h5⟩, hg, hp⟩ := h
  obtain ⟨el, f, row, set, route, last⟩ := w
  dsimp only at h1 h2 h3 h4 h5
  subst h3
  unfold State.fire
  rw [h1, h2]
  dsimp only
  cases hr : (s.el s.elem).core.slots.find set.slot.toNat with
  | none =>
    rw [hr] at h4
    cases h4
    dsimp only
    rw [← h5]
    change Fire.gateOn ⟨s.elem, f, row, set, 0#64, last⟩ = true at hg
    change Fire.poisoned ⟨s.elem, f, row, set, 0#64, last⟩ mv = false at hp
    rw [hg, hp]
    rfl
  | some x =>
    rw [hr] at h4
    cases h4
    dsimp only
    rw [← h5]
    change Fire.gateOn ⟨s.elem, f, row, set, x.route, last⟩ = true at hg
    change Fire.poisoned ⟨s.elem, f, row, set, x.route, last⟩ mv = false at hp
    rw [hg, hp]
    rfl

/-- A compute firing that executes. -/
theorem compute_next (i : Instr) (g : Fire → Machine.State → Computed) (w : Fire) (s : Machine.State) (r : Computed)
    (hr : Executes i movesNone w s → g w (consumed w s) = r) (h : Executes i movesNone w s) :
    s.compute i g = .next (finished w s r) := by
  unfold State.compute
  rw [fire_next i _ _ w s h, hr h]
  cases r with
  | ok fmt pay fl c => cases c <;> rfl
  | bad fmt pos lane res => rfl

theorem fieldsOf {i : Instr} {w : Fire} {s : Machine.State} {row : Row} {f : Slot} (h : Executes i movesNone w s) (hi : slotRow i = some (row, f)) :
    w.f = f := by
  have := h.1.2.1
  rw [hi] at this
  cases this
  rfl

theorem moved_consumed (w : Fire) (s : Machine.State) (sel : BitVec 7) : (consumed w s).moved w sel = s.moved w sel := by
  unfold State.moved
  rw [operand_consumed]

theorem movedWhole_consumed (w : Fire) (s : Machine.State) (sel : BitVec 7) : (consumed w s).movedWhole w sel = s.movedWhole w sel := by
  unfold State.movedWhole
  rw [moved_consumed]

theorem slotOf {i : Instr} {mv : Moves} {w : Fire} {s : Machine.State} {row : Row} {f : Slot} (h : Executes i mv w s) (hi : slotRow i = some (row, f)) :
    w.f = f := by
  have := h.1.2.1
  rw [hi] at this
  cases this
  rfl

theorem fires (i : Instr) (h : (slotRow i).isSome) : ∃ k, ∀ s, exec i s = s.fire i (movesOn i) k := by
  cases i
  all_goals first
    | (exfalso; revert h; simp only [slotRow, Option.isSome_none]; exact Bool.false_ne_true)
    | (delta exec; dsimp only; simp only [execFadd, execFsub, execFmul, execFma, execFms, execFnma, execFmin, execFmax, execFabs, execFneg, execFdiv, execFsqrt, execFrcp, execFrsq, execFlg2, execFex2, execFrnd, execFcmp, execIadd, execIsub, execImul, execImulh, execIdiv, execIrem, execImin, execImax, execIneg, execIcmp, execEAnd, execEOr, execEXor, execAndn, execENot, execEShl, execEShr, execESar, execRol, execPopc, execClz, execCtz, execBext, execBins, execCvtfi, execCvtif, execCvtfl, execCvtlf, execLget, execLput, execLspl, execLdot, execLsum, execBdot, execPackedBadd, execPass, execSel, execConst, execSink, execCond, execCand, execCor, execCnot, execSteer, execMerge, execGate, execTalloc, execTcall, execTfree, execTret, execTnext, execTiter, execENop, execELd, execESt, execLdv, execStv, execLdx, execStx, execSlotPhsig, execSlotAadd, execSlotAand, execSlotAor, execSlotAxor, execSlotAmin, execSlotAmax, execSlotAxch, execSlotAcas, execSlotFbin, execSlotQpsh, execCres, State.float1, State.float2, State.float3, State.int1, State.int2, State.logic1, State.logic2, State.compute, State.memFire]; exact ⟨_, fun s => rfl⟩)

theorem fire_else (i : Instr) (mv : Moves) (k : Fire → Machine.State → Machine.State) (w : Fire) (s : Machine.State)
    (h : Issued i w s) : s.fire i mv k = .next (if !w.gateOn then (if w.f.o then (consumed w s).send w (w.result fmtI64 0#80) w.complDests else consumed w s)
       else if w.poisoned mv then (consumed w s).consumePoison w
       else k w (consumed w s)) := by
  obtain ⟨h1, h2, h3, h4, h5⟩ := h
  obtain ⟨el, f, row, set, route, last⟩ := w
  dsimp only at h1 h2 h3 h4 h5
  subst h3
  unfold State.fire
  rw [h1, h2]
  dsimp only
  cases hr : (s.el s.elem).core.slots.find set.slot.toNat <;> (rw [hr] at h4; cases h4; dsimp only; rw [← h5]; rfl)

theorem next_congr {i : Instr} {s u t : Machine.State} (he : exec i s = .next u) (h : u = t) : exec i s = .next t := by rw [he, h]
theorem ends_congr {i : Instr} {s u t : Machine.State} {P : Machine.State → Prop} (he : exec i s = .next u) (h : u = t) (hp : P t) : Ends i s P := ⟨u, he, by rw [h]; exact hp⟩
theorem became_modLan (s : Machine.State) (f : Lantern → Lantern) (l : Lantern) (h : f s.cur = l) : Became l s (s.modLan s.focus f) := by
  refine ⟨State.onlyLan_modLan .., ?_⟩
  show (State.modLan s s.focus f).lan s.focus = _
  rw [State.lan_modLan_self]; exact h
theorem ends_modLan {i : Instr} {s u : Machine.State} {f : Lantern → Lantern} {l : Lantern} (he : exec i s = .next u) (h : u = s.modLan s.focus f) (hl : f s.cur = l) : Ends i s (Became l s) :=
  ends_congr he h (became_modLan s f l hl)

theorem modCur_modLan (s : Machine.State) (f g : Lantern → Lantern) : (s.modLan s.focus f).modCur g = s.modLan s.focus fun l => g (f l) :=
  State.modLan_modLan ..

theorem wrote_of {i : Instr} {s u t : Machine.State} {rd : Reg} {w : Word} {n : Nat} (he : exec i s = .next t)
    (h : t = u.retireReg rd w n) : Ends i s (Wrote rd w n u) := ⟨_, he, h ▸ State.wrote_retireReg ..⟩
theorem is_of {i : Instr} {s u t : Machine.State} (he : exec i s = .next t) (h : t = u) : Ends i s fun t => t = u := ⟨_, he, h⟩

theorem illop_of {i : Instr} {s t : Machine.State} (he : exec i s = .next t)
    (h : t = s.illop i) : Ends i s (TrappedHere cILLOP (parcelOf i) s) := ⟨_, he, h ▸ State.trapped_illop ..⟩

theorem trap_of {i : Instr} {s u t : Machine.State} {c : Nat} {v : Word} (he : exec i s = .next t)
    (h : t = u.trap c v) : Ends i s (TrappedHere c v u) := ⟨_, he, h ▸ State.trapped_trap (n := 1) ..⟩

theorem focus_performLoads (s : Machine.State) : (s.performLoads s.focus).focus = s.focus :=
  (State.loadsOnly_performLoads s s.focus).focus

theorem answered_finishLan (s : Machine.State) (rd : Reg) (v : Word) : Answered rd v s (s.finishLan s.focus rd v) := by
  have hc : (s.finishLan s.focus rd v).cur = { (s.cur.setReg rd v).advance 1 with phsw := none } := State.lan_modLan_self ..
  refine ⟨State.onlyLan_modLan .., fun r => ?_, ?_, ?_⟩
  · have := Lantern.reg_setReg s.cur rd r v
    rw [← Lantern.reg_advance (s.cur.setReg rd v) 1] at this
    refine Eq.trans ?_ this
    show (Machine.State.cur _).reg r = _
    rw [hc]; rfl
  · rw [hc]; show ((Lantern.setReg _ _ _).advance 1).pc = _; rw [Lantern.pc_advance, Lantern.pc_setReg]
  · rw [hc]; unfold SameButRegs Lantern.advance Lantern.setReg; split <;> rfl

theorem answered_of {i : Instr} {s u t : Machine.State} {rd : Reg} {k : Nat} {v : Word} (he : exec i s = .next t) (hk : k = u.focus)
    (h : t = u.finishLan k rd v) : Ends i s (Answered rd v u) := ⟨_, he, h ▸ hk ▸ answered_finishLan ..⟩

theorem focus_syncLog (s : Machine.State) (k : Nat) (va : Word) (n : Nat) : (s.syncLog k va n).focus = s.focus :=
  (State.quiet_raise ..).focus

theorem focus_withdraw (s : Machine.State) (k : Nat) : (s.withdraw k).focus = s.focus := by
  unfold State.withdraw; split <;> rfl

theorem sync_go {s u : Machine.State} {ra : Reg} {al : Nat} {w : Bool} {die a : Nat} (h : SyncAt ra al w s die a u)
    (k : Nat → Nat → Machine.State → Machine.State) : s.sync_ ra al w k = k die a u := by
  obtain ⟨h1, h2, h3, h4⟩ := h
  unfold State.sync_; dsimp only
  rw [if_neg (by cases w <;> simp_all), if_neg (by omega), h3]; dsimp only
  rw [h4]; rfl

theorem reply_err (u : Machine.State) (rd : Reg) (va : Word) (die a n : Nat) :
    u.syncReply rd va die a (.err n) = (u.syncLog u.focus va n).finishLan u.focus rd 0xFFFFFFFFFFFFFFFF#64 := rfl

theorem err_of {i : Instr} {s u : Machine.State} {rd : Reg} {va : Word} {die a n : Nat} {t : Machine.State}
    (he : exec i s = .next t) (h : t = u.syncReply rd va die a (.err n)) :
    Ends i s (Answered rd 0xFFFFFFFFFFFFFFFF#64 (u.syncLog u.focus va n)) :=
  answered_of he (focus_syncLog ..).symm h

theorem ok_of {i : Instr} {s u v : Machine.State} {rd : Reg} {va : Word} {die a n : Nat} {t : Machine.State}
    (he : exec i s = .next t) (h : t = u.syncReply rd va die a (.ok n none false v)) :
    Ends i s (Answered rd (BitVec.ofNat 64 n) v) :=
  answered_of he rfl h

theorem sig_of {i : Instr} {s u v : Machine.State} {rd : Reg} {va : Word} {die a n : Nat} {q : BitVec 32} {t : Machine.State}
    (he : exec i s = .next t) (h : t = u.syncReply rd va die a (.ok n (some q) false v)) :
    Ends i s (Answered rd (BitVec.ofNat 64 n) (v.modCur fun l => l.remember (syncKey die a) q)) :=
  answered_of he rfl h

end Sys2Proof
end

