-- ==== Sys2Proof/Tests/Build.lean ====
section
/-! SUPPORT. The small states that the tests run on. -/

namespace Sys2Proof.Tests

open Sys2Proof Sys2Proof.Machine

/-- A running Lantern in supervisor mode with these registers, at the first parcel of the line at 0x10000. -/
def lead (regs : Tab Word) : Lantern :=
  { Lantern.reset with st := .run, regs := regs, pc := 0x10008#64, status := 1#64 }
/-- The package with Lantern 0 as `l` and nothing else. -/
def one (l : Lantern) : State := { State.reset with lans := [(0, l)] }
/-- The package with Lantern 0 running in supervisor mode. -/
def sup (regs : Tab Word) : State := one (lead regs)
/-- The package with Lantern 0 running in user mode. -/
def user (regs : Tab Word) : State := one { lead regs with status := 0#64 }
/-- Lantern 0 in supervisor mode, with the lowest GiB mapped onto itself, at an instruction of these parcels. -/
def placed (p x : Word) (regs : Tab Word) : State :=
  (State.reset.placeLantern p x).modLan 0 fun l => { l with regs := regs }
/-- As `placed`, at NOP. -/
def mapped (regs : Tab Word) : State := placed 0x1860000000000000#64 0#64 regs

/-- As `mapped`, with the GiB at 0x40000000 mapped onto physical address `base`. -/
def paged (base : Nat) (regs : Tab Word) : State :=
  (mapped regs).putDword 0x2008 (BitVec.ofNat 64 (base + 0x9D))
/-- Dwords from a physical address on. -/
def place (s : State) (pa : Nat) : List Word → State
  | [] => s
  | w :: ws => place (s.putDword pa w) (pa + 8) ws
/-- The image of a configuration for context 0, with nothing in it; and one of a single hold register. -/
def image : List Word := [0x0000000001000004#64, 0x40#64, 0#64, 0#64, 0#64, 0#64, 0#64, 0#64]
def holdImage : List Word :=
  [0x0001000101000004#64, 80#64, 0x100#64, 0#64, 0#64, 0#64, 0x40#64, 0#64, 0#64, 0#64]
/-- An entry of the configuration table for the address in s17. -/
def entry (armed done : Bool) : CfgEntry :=
  { addr := 0x20000#64, ctx := 0, armed := armed, done := done, flags := 1#5,
    img := { ctx := 0, quota := 1, width := 0, height := 0, iters := 0, slots := [], streams := [], far := [],
             spaces := [], holds := [], ctrls := [] } }
/-- A Lantern of a region of one cluster, at 0x20000, with these table entries. -/
def region (im : List Word) (xs : List CfgEntry) : State :=
  (place (mapped [(17, 0x20000#64), (18, 0x20040#64)]) 0x20000 im).modLan 0 fun l => { l with cfgs := xs, region := 0x10100#64 }
/-- What the image at 0x20000 reads as, if it can be read. -/
def loaded (s : State) (P : RawImage → State → Bool) : Bool :=
  match (s.performLoads s.focus).readImage 0x20000#64 with
  | .ok raw u => P raw u
  | .stop _ => false
/-- Whether a fetch faults with this cause. -/
def fetchFaults (f : Fetched) (cause : Nat) : Bool :=
  match f with
  | .fault c _ _ _ => decide (c = cause)
  | _ => false

/-! ### Elements -/

/-- A token of the format and payload, in context 0, space 0, iteration 0. -/
def tok (fmt : BitVec 3) (pay : Pay) : Token :=
  { tag := 0#36, fmt := fmt, pay := pay, last := false, poison := false, marker := false }
/-- An I64 token. -/
def int (v : Nat) : Token := tok fmtI64 (BitVec.ofNat 80 v)
/-- Slot fields that take operands A, B and C from ports 0, 1 and 2. -/
def fields : Slot :=
  { selA := 0#7, selB := 1#7, selC := 2#7, rs := 0#3, o := false, sat := false, uns := false, gate := 0#2, cin := 0#2,
    cout := 0#4, imm := 0#16 }
/-- Element 0, in the region of Lantern 0, with this operand set issued of slot 0. -/
def fired (data : List Token) (conds : List Bool) : State :=
  let set : OpSet := { slot := 0#5, tag := 0#36, data := data.mapIdx fun i t => (BitVec.ofNat 2 i, t),
                       conds := conds.mapIdx fun i c => (BitVec.ofNat 2 i, c) }
  { region [] [] with elems := [(0, { Element.empty with
      firing := some set, core := { ElemCore.empty with slots := [(0, { ctx := 0, instr := 0#64, route := 0#64 })] } })] }
/-- The firing of an instruction that element 0 has issued. -/
def fire (i : Instr) (s : State) : Fire :=
  let set := ((s.el s.elem).firing).getD { slot := 0#5, tag := 0#36, data := [], conds := [] }
  let r := (slotRow i).getD (rowF2, fields)
  { el := s.elem, f := r.2, row := r.1, set := set,
    route := ((s.el s.elem).core.slots.find set.slot.toNat).elim 0#64 SlotImg.route,
    last := set.data.any fun d => d.2.last }
/-- Whether `Issued` holds of an instruction and its firing. -/
def issues (i : Instr) (s : State) : Bool :=
  decide ((s.el s.elem).firing = some (fire i s).set ∧ slotRow i = some ((fire i s).row, (fire i s).f))
/-- Whether `Executes` does. -/
def runs (i : Instr) (mv : Moves) (s : State) : Bool :=
  issues i s && (fire i s).gateOn && !(fire i s).poisoned mv

theorem issues_iff {i : Instr} {s : State} (h : issues i s = true) : Issued i (fire i s) s :=
  have h := of_decide_eq_true h
  ⟨h.1, h.2, rfl, rfl, rfl⟩
theorem runs_iff {i : Instr} {mv : Moves} {s : State} (h : runs i mv s = true) : Executes i mv (fire i s) s := by
  simp only [runs, Bool.and_eq_true, Bool.not_eq_true'] at h
  exact ⟨issues_iff h.1.1, h.1.2, h.2⟩

/-! ### Segments -/

/-- A segment descriptor of one cluster. -/
def desc1 : SegDesc :=
  { wm1 := 0, hm1 := 0, cluster := 0, die := 0, entry := 0x10008#64, like := 0, stack := 0#64, deadline := 0#64, budget := 0,
    ranges := [] }
/-- A committed segment that runs on the region of Lantern 0. -/
def seg1 : Seg :=
  { st := .runc, serial := 1, desc := desc1, descVa := 0#64, launch := 0, pasid := 0, cost := 0, factors := [], parent := none,
    deadline := 0#64, budget := 0, requeues := 0, exts := [], origin := some 0, staged := false, set := none, stageAt := none,
    saveAt := none, heldSt := [], since := 0, preempt := false, yieldSup := false, heldRes := [], abortDue := none }
/-- Its launch, with a slice of the synchronisation space on die 0. -/
def launch1 : Launch :=
  { id := 0, iface := 0, pasid := 0, tag := 0, compl := 0#64, irq := false, contained := false, rm := 0#2, maint := false,
    dies := 1, hasDie := false, regMax := none, clMax := none, deadline := 0#64, pool := 0, bufs := [], entries := [], next := 0,
    placed := true, status := none, slices := [(0, 0x100000)] }
/-- `s` with a segment in entry 0 of die 0's pending table, and its launch. -/
def withSeg (g : Seg) (l : Launch) (s : State) : State :=
  (s.modBeacon 0 fun b => { b with segs := [(0, g)] }).modHub fun h => { h with launches := [(0, l)] }

end Sys2Proof.Tests
end

