-- ==== Sys2Proof/Tests/Slice0.lean ====
section
/-! SUPPORT. Tests of the layers below the machine: a term that each check of `wellFormed` refuses, and, for every
encoded instruction, a word whose fields are written out from the specification's tables and the instruction it is. -/

-- Each theorem is checked before the next: many waiting at once want a thread each.
set_option Elab.async false

namespace Sys2Proof.Tests

open Sys2Proof Sys2Proof.Machine

/-! ### Terms that are not well formed -/

/-- An element instruction's fields, all zero. -/
def zf : Slot :=
  { selA := 0#7, selB := 0#7, selC := 0#7, rs := 0#3, o := false, sat := false, uns := false, gate := 0#2, cin := 0#2,
    cout := 0#4, imm := 0#16 }

/-- R128: a shift by an immediate of 64. -/
theorem test_wf_shift :
    ([.shl 1#5 2#5 (.imm 64#32), .shr 1#5 2#5 (.imm 64#32), .sar 1#5 2#5 (.imm 64#32)].all fun i => !wellFormed i) = true ∧
      wellFormed (.shl 1#5 2#5 (.imm 63#32)) = true := by decide
/-- R111, R130: FENCE below the cluster, a number that names no state register, and read-only ones. -/
theorem test_wf_system :
    ([.fence 1#3, .srr 1#5 0x12#32, .srw 0x12#32 1#5, .srw 6#32 1#5, .srw 0x11#32 1#5].all fun i => !wellFormed i) = true ∧
      wellFormed (.fence 2#3) = true ∧ wellFormed (.srr 1#5 0x11#32) = true ∧ wellFormed (.srw 0x10#32 1#5) = true := by
  decide
/-- R355, R360, R361, R370: formats, register numbers and levels of the matrix commands. -/
theorem test_wf_matrix :
    ([.mxwl 1#5 2#5 3#5 12#4, .mxout 1#5 2#5 3#5 11#4, .mxprm false 1#5 6#32, .mxprm true 1#5 2#32, .mxprio 1#5 8#32].all
      fun i => !wellFormed i) = true ∧ wellFormed (.mxprm true 1#5 1#32) = true := by decide
/-- R266: fields of the stream instructions. -/
theorem test_wf_stream :
    ([.sopen 0#2 true 13#4 0#2 false false false 0#3 1#24 8#16 0#48, .sopen 0#2 true 0#4 3#2 false false false 0#3 1#24 8#16 0#48,
      .sopen 0#2 false 0#4 0#2 true false false 0#3 1#24 8#16 0#48, .sopen 0#2 false 0#4 0#2 false true false 0#3 1#24 8#16 0#48,
      .sopen 0#2 true 6#4 0#2 false false true 0#3 1#24 8#16 0#48, .sopen 0#2 true 11#4 0#2 false false false 1#3 1#24 8#16 0#48,
      .sopen 0#2 true 0#4 0#2 false false false 0#3 0#24 8#16 0#48, .sgath 0#2 7#4 1#24 0#48, .sscat 0#2 10#4 1#24 0#48,
      .sloop 0#2 false 0#6 1#16 0#24, .sloop 0#2 false 1#6 0#16 0#24, .ssig 0#2 false 2#3 1#32 0#48,
      .ssig 0#2 true 1#3 1#32 0#48, .wload 0#16, .wdrop 0#16, .vopen 0#2 0#11 0#17 1#17, .vopen 0#2 1025#11 0#17 1#17,
      .vopen 0#2 1#11 98303#17 2#17, .vopen 0#2 1#11 0#17 0#17, .mlay 0#8 true true].all fun i => !wellFormed i) = true ∧
      wellFormed (.vopen 0#2 1024#11 98303#17 1#17) = true := by decide
/-- R285 to R288: fields of the tile commands. -/
theorem test_wf_tile :
    ([.bret 1#5 2#5 12#32, .bscrb 1#5 2#5 0#32, .bscrb 1#5 2#5 0x1FFF0002#32, .bscrb 1#5 2#5 0x4001#32, .bstat false 1#5 2#5 4#32,
      .bstat false 1#5 2#5 0x40#32, .bstat true 1#5 2#5 0x38#32].all fun i => !wellFormed i) = true ∧
      wellFormed (.bscrb 1#5 2#5 0x1FFF0001#32) = true ∧ wellFormed (.bstat false 1#5 2#5 0x38#32) = true := by decide
/-- R303, R306, R336, R408: scope code 1, modes of PHREG and PHDRP, RCPY's scope, CPYQ's number, PRED's rb. -/
theorem test_wf_sync :
    ([.phnew 1#3 1#5 2#5 3#5, .phreg 1#3 1#5 2#5 0#32, .phreg 0#3 1#5 2#5 2#32, .phdrp 0#3 1#5 2#5 3#32, .phdrp 1#3 1#5 2#5 0#32,
      .phsig 1#3 1#5 2#5, .phsw 1#3 1#5 2#5, .bexp 1#3 1#5 2#5, .badd 1#3 1#5 2#5 3#5, .aadd 1#3 1#5 2#5 3#5,
      .aand 1#3 1#5 2#5 3#5, .aor 1#3 1#5 2#5 3#5, .axor 1#3 1#5 2#5 3#5, .amin true 1#3 1#5 2#5 3#5, .amax true 1#3 1#5 2#5 3#5,
      .axch 1#3 1#5 2#5 3#5, .acas 1#3 1#5 2#5 3#5, .fbin 1#3 1#5 2#5, .fbclr 1#3 1#5 2#5, .qpsh true 1#3 1#5 2#5,
      .qpop true 1#3 1#5 2#5, .cpy 1#3 1#5 2#5 3#5 4#5 5#5, .cpy2 1#3 1#5 2#5 3#5, .rcpy 2#3 1#5 2#5 3#5 4#5 5#5,
      .cpyq 1#5 34#32, .pred false 1#5 2#5 3#5].all fun i => !wellFormed i) = true ∧
      wellFormed (.rcpy 7#3 1#5 2#5 3#5 4#5 5#5) = true := by decide
/-- R68, R151, R172, R196, R200, R204: one field of an element instruction at a time outside its row. -/
theorem test_wf_slot :
    ([.fadd { zf with selC := 1#7 }, .fadd { zf with selA := 8#7 }, .iadd { zf with selA := 0x58#7 }, .fadd { zf with rs := 5#3 },
      .iadd { zf with rs := 1#3 }, .fadd { zf with o := true }, .iadd { zf with uns := true }, .fadd { zf with sat := true },
      .idiv { zf with sat := true, uns := true }, .fcmp { zf with imm := 8#16 }, .icmp { zf with imm := 6#16 },
      .bext { zf with imm := 4096#16 }, .cvtlf { zf with imm := 12#16 }, .lget { zf with imm := 12#16 },
      .cvtfl { zf with imm := 16#16 }, .talloc { zf with imm := 1#16 }, .eLd { zf with imm := 0xD000#16 },
      .eLd { zf with imm := 0x800#16 }, .ldv { zf with imm := 0#16 }, .cres { zf with imm := 4096#16 },
      .fadd { zf with gate := 3#2 }, .fadd { zf with cin := 1#2 }, .cond { zf with gate := 1#2, cout := 1#4 },
      .cand { zf with cin := 1#2, cout := 1#4 }, .sel { zf with gate := 1#2 }, .fadd { zf with cout := 1#4 }, .cond zf,
      .eLd { zf with rs := 2#3 }, .eLd { zf with o := true }, .fadd { zf with selA := 0x40#7, selB := 0x40#7 },
      .pass { zf with selA := 4#7 }].all fun i => !wellFormed i) = true ∧ wellFormed (.fadd zf) = true := by decide +kernel
/-- An event is no instruction. -/
theorem test_wf_event : (wellFormed (.bankGrant 0) || wellFormed (.packageReset 0) || wellFormed .hubServePacket) = false := by
  decide

/-! ### Words -/

/-- Whether every word reads as its instruction in a Lantern. -/
def reads (f : Word → Word → Except Reject Instr) (l : List (Word × Word × Instr)) : Bool :=
  l.all fun p => match f p.1 p.2.1 with
    | .ok i => decide (i = p.2.2) && wellFormed i
    | .error _ => false
/-- Whether every word reads as its instruction in a slot. -/
def readsSlot (l : List (Word × Instr)) : Bool := l.all fun p => decide (decodeSlot p.1 = some p.2)
/-- Whether every word reads as its instruction in a stream program. -/
def readsStream (l : List (Word × Word × Instr)) : Bool := l.all fun p => decide (decodeStream p.1 p.2.1 = some p.2.2)

/-- R55, R62 to R64, R73, R333: words of the arithmetic instructions, field by field. -/
theorem test_decode_arithmetic : reads decodeLantern
  [(0x0401C7C000000000#64, 0x0#64, .add 3#5 17#5 30#5),
   (0x0411C7C000000000#64, 0x0#64, .sub 3#5 17#5 30#5),
   (0x0421C7C000000000#64, 0x0#64, .mul 3#5 17#5 30#5),
   (0x0461C7C000000000#64, 0x0#64, .and 3#5 17#5 30#5),
   (0x0471C7C000000000#64, 0x0#64, .or 3#5 17#5 30#5),
   (0x0481C7C000000000#64, 0x0#64, .xor 3#5 17#5 30#5),
   (0x0431C7C000000000#64, 0x0#64, .mulh false 3#5 17#5 30#5),
   (0x0431C7C000000002#64, 0x0#64, .mulh true 3#5 17#5 30#5),
   (0x0441C7C000000000#64, 0x0#64, .div false 3#5 17#5 30#5),
   (0x0441C7C000000002#64, 0x0#64, .div true 3#5 17#5 30#5),
   (0x0451C7C000000000#64, 0x0#64, .rem false 3#5 17#5 30#5),
   (0x0451C7C000000002#64, 0x0#64, .rem true 3#5 17#5 30#5)] = true := by
  decide +kernel

/-- R55, R62 to R64, R73, R333: words of the immediate instructions, field by field. -/
theorem test_decode_immediate : reads decodeLantern
  [(0x0801C41000000020#64, 0x0#64, .addi 3#5 17#5 0x80000001#32),
   (0x0811C41000000020#64, 0x0#64, .andi 3#5 17#5 0x80000001#32),
   (0x0821C41000000020#64, 0x0#64, .ori 3#5 17#5 0x80000001#32),
   (0x0831C41000000020#64, 0x0#64, .xori 3#5 17#5 0x80000001#32),
   (0x084F800000000001#64, 0xFEDCBA9876543210#64, .li 31#5 0xFEDCBA9876543210#64),
   (0x0851C40000000000#64, 0x0#64, .mov 3#5 17#5)] = true := by
  decide +kernel

/-- R55, R62 to R64, R73, R333: words of the shift instructions, field by field. -/
theorem test_decode_shift : reads decodeLantern
  [(0x0C01C7C000000000#64, 0x0#64, .shl 3#5 17#5 (.reg 30#5)),
   (0x0C01C400000007E4#64, 0x0#64, .shl 3#5 17#5 (.imm 63#32)),
   (0x0C11C7C000000000#64, 0x0#64, .shr 3#5 17#5 (.reg 30#5)),
   (0x0C11C400000007E4#64, 0x0#64, .shr 3#5 17#5 (.imm 63#32)),
   (0x0C21C7C000000000#64, 0x0#64, .sar 3#5 17#5 (.reg 30#5)),
   (0x0C21C400000007E4#64, 0x0#64, .sar 3#5 17#5 (.imm 63#32)),
   (0x0C31C7C000000000#64, 0x0#64, .slt false 3#5 17#5 (.reg 30#5)),
   (0x0C31C400000000A6#64, 0x0#64, .slt true 3#5 17#5 (.imm 5#32))] = true := by
  decide +kernel

/-- R55, R62 to R64, R73, R333: words of the memory instructions, field by field. -/
theorem test_decode_memory : reads decodeLantern
  [(0x1001C41FFFFFFF00#64, 0x0#64, .ld .b8 3#5 17#5 0xFFFFFFF8#32),
   (0x1011C41FFFFFFF02#64, 0x0#64, .ldz .b16 3#5 17#5 0xFFFFFFF8#32),
   (0x1021C41FFFFFFF04#64, 0x0#64, .st .b32 3#5 17#5 0xFFFFFFF8#32),
   (0x1001C41FFFFFFF06#64, 0x0#64, .ld .b64 3#5 17#5 0xFFFFFFF8#32),
   (0x103000000000000E#64, 0x0#64, .fence 7#3)] = true := by
  decide +kernel

/-- R55, R62 to R64, R73, R333: words of the branch instructions, field by field. -/
theorem test_decode_branch : reads decodeLantern
  [(0x140047DFFFFFFFC0#64, 0x0#64, .beq 17#5 30#5 0xFFFFFFFE#32),
   (0x141047DFFFFFFFC0#64, 0x0#64, .bne 17#5 30#5 0xFFFFFFFE#32),
   (0x142047DFFFFFFFC0#64, 0x0#64, .blt 17#5 30#5 0xFFFFFFFE#32),
   (0x143047DFFFFFFFC0#64, 0x0#64, .bge 17#5 30#5 0xFFFFFFFE#32),
   (0x144047DFFFFFFFC0#64, 0x0#64, .bltu 17#5 30#5 0xFFFFFFFE#32),
   (0x145047DFFFFFFFC0#64, 0x0#64, .bgeu 17#5 30#5 0xFFFFFFFE#32),
   (0x1460000000000120#64, 0x0#64, .jmp 9#32),
   (0x1470000000000120#64, 0x0#64, .jal 9#32),
   (0x1480440000000000#64, 0x0#64, .jr 17#5),
   (0x1490440000000181#64, 0x8000000380010000#64, .jtab 17#5 12#32 0x80000003#32 0x8001#16)] = true := by
  decide +kernel

/-- R55, R62 to R64, R73, R333: words of the system instructions, field by field. -/
theorem test_decode_system : reads decodeLantern
  [(0x18000000000009A0#64, 0x0#64, .trap 77#32),
   (0x18100000000009A0#64, 0x0#64, .svc 77#32),
   (0x1820000000000000#64, 0x0#64, .eret),
   (0x1850000000000000#64, 0x0#64, .halt),
   (0x1860000000000000#64, 0x0#64, .nop),
   (0x1831800000000220#64, 0x0#64, .srr 3#5 17#32),
   (0x1840440000000200#64, 0x0#64, .srw 16#32 17#5)] = true := by
  decide +kernel

/-- R55, R62 to R64, R73, R333: words of the configuration instructions, field by field. -/
theorem test_decode_configuration : reads decodeLantern
  [(0x1C00440000000000#64, 0x0#64, .cfgld 17#5),
   (0x1C10440000000000#64, 0x0#64, .cfggo 17#5),
   (0x1C20440000000000#64, 0x0#64, .cfgwt 17#5),
   (0x1C50440000000000#64, 0x0#64, .rsm 17#5),
   (0x1C31C40000000000#64, 0x0#64, .cfgst 3#5 17#5),
   (0x1C41C40000000000#64, 0x0#64, .preDrain 3#5 17#5),
   (0x1C41C40000000020#64, 0x0#64, .preMarker 3#5 17#5),
   (0xF001C7C000000000#64, 0x0#64, .dmov 3#5 17#5 30#5)] = true := by
  decide +kernel

/-- R55, R62 to R64, R73, R333: words of the matrix instructions, field by field. -/
theorem test_decode_matrix : reads decodeLantern
  [(0x8001C40000000000#64, 0x0#64, .mxon 3#5 17#5),
   (0x8071C40000000000#64, 0x0#64, .mxsnap 3#5 17#5),
   (0x8081C40000000000#64, 0x0#64, .mxrest 3#5 17#5),
   (0x8011800000000000#64, 0x0#64, .mxoff 3#5),
   (0x8060000000000000#64, 0x0#64, .mxzero),
   (0x8031C7C000000000#64, 0x0#64, .mxrun 3#5 17#5 30#5),
   (0x8021C7C000000016#64, 0x0#64, .mxwl 3#5 17#5 30#5 11#4),
   (0x8051C7C000000018#64, 0x0#64, .mxout 3#5 17#5 30#5 12#4),
   (0x8041800000000022#64, 0x0#64, .mxprm true 3#5 1#32),
   (0x8401800000000000#64, 0x0#64, .mxslot 3#5),
   (0x84118000000000E0#64, 0x0#64, .mxprio 3#5 7#32)] = true := by
  decide +kernel

/-- R55, R62 to R64, R73, R333: words of the tile instructions, field by field. -/
theorem test_decode_tile : reads decodeLantern
  [(0x9801C40000000160#64, 0x0#64, .bret 3#5 17#5 11#32),
   (0x9811C403FFE00020#64, 0x0#64, .bscrb 3#5 17#5 0x1FFF0001#32),
   (0x9821C40000000602#64, 0x0#64, .bstat true 3#5 17#5 0x30#32),
   (0x9C01C40000000000#64, 0x0#64, .mpin 3#5 17#5),
   (0x9C11C40000000000#64, 0x0#64, .munpn 3#5 17#5),
   (0x9C21C40000000000#64, 0x0#64, .mevct 3#5 17#5)] = true := by
  decide +kernel

/-- R55, R62 to R64, R73, R333: words of the segment instructions, field by field. -/
theorem test_decode_segment : reads decodeLantern
  [(0xB001C40000000000#64, 0x0#64, .spawn 3#5 17#5),
   (0xB021C40000000000#64, 0x0#64, .reslv 3#5 17#5),
   (0xB061C40000000000#64, 0x0#64, .dline 3#5 17#5),
   (0xB071C40000000000#64, 0x0#64, .budgt 3#5 17#5),
   (0xB081C40000000000#64, 0x0#64, .segid 3#5 17#5),
   (0xB011C7C000000000#64, 0x0#64, .spwnc 3#5 17#5 30#5),
   (0xB031800000000000#64, 0x0#64, .commit 3#5),
   (0xB040000000000000#64, 0x0#64, .abortNorequeue),
   (0xB040000000000020#64, 0x0#64, .abortRequeue),
   (0xB051800000000000#64, 0x0#64, .yield 3#5),
   (0xB051800000000020#64, 0x0#64, .yieldIfWaiting 3#5),
   (0xB091C7C000000002#64, 0x0#64, .pred true 3#5 17#5 30#5),
   (0xB401C7C000000000#64, 0x0#64, .tailw 3#5 17#5 30#5)] = true := by
  decide +kernel

/-- R55, R62 to R64, R73, R333: words of the synchronisation instructions, field by field. -/
theorem test_decode_synchronisation : reads decodeLantern
  [(0xC001C7C000000004#64, 0x0#64, .phnew 2#3 3#5 17#5 30#5),
   (0xC011C4000000002E#64, 0x0#64, .phreg 7#3 3#5 17#5 1#32),
   (0xC021C4000000002E#64, 0x0#64, .phdrp 7#3 3#5 17#5 1#32),
   (0xC031C40000000006#64, 0x0#64, .phsig 3#3 3#5 17#5),
   (0xC051C40000000006#64, 0x0#64, .phsw 3#3 3#5 17#5),
   (0xC040440000000000#64, 0x0#64, .phwt 17#5),
   (0xC40047C00000000A#64, 0x0#64, .bexp 5#3 17#5 30#5),
   (0xC411C7C00000000C#64, 0x0#64, .badd 6#3 3#5 17#5 30#5),
   (0xC801C7C000000008#64, 0x0#64, .aadd 4#3 3#5 17#5 30#5),
   (0xC811C7C000000008#64, 0x0#64, .aand 4#3 3#5 17#5 30#5),
   (0xC821C7C000000008#64, 0x0#64, .aor 4#3 3#5 17#5 30#5),
   (0xC831C7C000000008#64, 0x0#64, .axor 4#3 3#5 17#5 30#5),
   (0xC861C7C000000008#64, 0x0#64, .axch 4#3 3#5 17#5 30#5),
   (0xC871C7C000000008#64, 0x0#64, .acas 4#3 3#5 17#5 30#5),
   (0xC841C7C000000018#64, 0x0#64, .amin true 4#3 3#5 17#5 30#5),
   (0xC851C7C000000018#64, 0x0#64, .amax true 4#3 3#5 17#5 30#5),
   (0xCC0047C00000000E#64, 0x0#64, .fbin 7#3 17#5 30#5),
   (0xCC2047C00000000E#64, 0x0#64, .fbclr 7#3 17#5 30#5),
   (0xCC11C40000000000#64, 0x0#64, .fbrd 3#5 17#5),
   (0xCC3047C00000001E#64, 0x0#64, .qpsh true 7#3 17#5 30#5),
   (0xCC41C40000000014#64, 0x0#64, .qpop true 2#3 3#5 17#5)] = true := by
  decide +kernel

/-- R55, R62 to R64, R73, R333: words of the copy instructions, field by field. -/
theorem test_decode_copy : reads decodeLantern
  [(0xD001C400000F2F0E#64, 0x0#64, .cpy 7#3 3#5 17#5 30#5 11#5 24#5),
   (0xD011C40000000304#64, 0x0#64, .cpy2 2#3 3#5 17#5 24#5),
   (0xD401C400000F2F0E#64, 0x0#64, .rcpy 7#3 3#5 17#5 30#5 11#5 24#5),
   (0xD411800000000420#64, 0x0#64, .cpyq 3#5 33#32)] = true := by
  decide +kernel

/-- R55, R62 to R64, R73, R333: words of the reliability instructions, field by field. -/
theorem test_decode_reliability : reads decodeLantern
  [(0xF401C7C000000000#64, 0x0#64, .tlbiPage 3#5 17#5 30#5),
   (0xF411C7C000000000#64, 0x0#64, .wmode 3#5 17#5 30#5),
   (0xF421C7C000000000#64, 0x0#64, .spareRead 3#5 17#5 30#5),
   (0xF801C7C000000000#64, 0x0#64, .qctlRead 3#5 17#5 30#5),
   (0xF811C7C000000000#64, 0x0#64, .dieqFence 3#5 17#5 30#5),
   (0xF821C7C000000000#64, 0x0#64, .binjFlipOne 3#5 17#5 30#5)] = true := by
  decide +kernel

/-- R65, R73, R213: parcels of float slots, field by field. -/
theorem test_decode_slot_float : readsSlot
  [(0x4000360020700000#64, .fadd ⟨1#7, 88#7, 0#7, 2#3, false, false, false, 1#2, 3#2, 0#4, 0#16⟩),
   (0x4010360020700000#64, .fsub ⟨1#7, 88#7, 0#7, 2#3, false, false, false, 1#2, 3#2, 0#4, 0#16⟩),
   (0x4020360020700000#64, .fmul ⟨1#7, 88#7, 0#7, 2#3, false, false, false, 1#2, 3#2, 0#4, 0#16⟩),
   (0x40A0360020700000#64, .fdiv ⟨1#7, 88#7, 0#7, 2#3, false, false, false, 1#2, 3#2, 0#4, 0#16⟩),
   (0x4060360020700000#64, .fmin ⟨1#7, 88#7, 0#7, 2#3, false, false, false, 1#2, 3#2, 0#4, 0#16⟩),
   (0x4070360020700000#64, .fmax ⟨1#7, 88#7, 0#7, 2#3, false, false, false, 1#2, 3#2, 0#4, 0#16⟩),
   (0x4030004140000000#64, .fma ⟨0#7, 1#7, 2#7, 4#3, false, false, false, 0#2, 0#2, 0#4, 0#16⟩),
   (0x4040004140000000#64, .fms ⟨0#7, 1#7, 2#7, 4#3, false, false, false, 0#2, 0#2, 0#4, 0#16⟩),
   (0x4050004140000000#64, .fnma ⟨0#7, 1#7, 2#7, 4#3, false, false, false, 0#2, 0#2, 0#4, 0#16⟩),
   (0x4080400010000000#64, .fabs ⟨2#7, 0#7, 0#7, 1#3, false, false, false, 0#2, 0#2, 0#4, 0#16⟩),
   (0x4090400010000000#64, .fneg ⟨2#7, 0#7, 0#7, 1#3, false, false, false, 0#2, 0#2, 0#4, 0#16⟩),
   (0x40B0400010000000#64, .fsqrt ⟨2#7, 0#7, 0#7, 1#3, false, false, false, 0#2, 0#2, 0#4, 0#16⟩),
   (0x40C0400010000000#64, .frcp ⟨2#7, 0#7, 0#7, 1#3, false, false, false, 0#2, 0#2, 0#4, 0#16⟩),
   (0x40D0400010000000#64, .frsq ⟨2#7, 0#7, 0#7, 1#3, false, false, false, 0#2, 0#2, 0#4, 0#16⟩),
   (0x40E0400010000000#64, .flg2 ⟨2#7, 0#7, 0#7, 1#3, false, false, false, 0#2, 0#2, 0#4, 0#16⟩),
   (0x40F0400010000000#64, .fex2 ⟨2#7, 0#7, 0#7, 1#3, false, false, false, 0#2, 0#2, 0#4, 0#16⟩),
   (0x4100400010000000#64, .frnd ⟨2#7, 0#7, 0#7, 1#3, false, false, false, 0#2, 0#2, 0#4, 0#16⟩),
   (0x41100040000F0007#64, .fcmp ⟨0#7, 1#7, 0#7, 0#3, false, false, false, 0#2, 0#2, 15#4, 7#16⟩)] = true := by
  decide +kernel

/-- R65, R73, R213: parcels of integer slots, field by field. -/
theorem test_decode_slot_integer : readsSlot
  [(0x4400004003000000#64, .iadd ⟨0#7, 1#7, 0#7, 0#3, false, true, true, 0#2, 0#2, 0#4, 0#16⟩),
   (0x4410004003000000#64, .isub ⟨0#7, 1#7, 0#7, 0#3, false, true, true, 0#2, 0#2, 0#4, 0#16⟩),
   (0x4420004003000000#64, .imul ⟨0#7, 1#7, 0#7, 0#3, false, true, true, 0#2, 0#2, 0#4, 0#16⟩),
   (0x443001C001000000#64, .imulh ⟨0#7, 7#7, 0#7, 0#3, false, false, true, 0#2, 0#2, 0#4, 0#16⟩),
   (0x445001C001000000#64, .irem ⟨0#7, 7#7, 0#7, 0#3, false, false, true, 0#2, 0#2, 0#4, 0#16⟩),
   (0x446001C001000000#64, .imin ⟨0#7, 7#7, 0#7, 0#3, false, false, true, 0#2, 0#2, 0#4, 0#16⟩),
   (0x447001C001000000#64, .imax ⟨0#7, 7#7, 0#7, 0#3, false, false, true, 0#2, 0#2, 0#4, 0#16⟩),
   (0x4440004002000000#64, .idiv ⟨0#7, 1#7, 0#7, 0#3, false, true, false, 0#2, 0#2, 0#4, 0#16⟩),
   (0x4480000002000000#64, .ineg ⟨0#7, 0#7, 0#7, 0#3, false, true, false, 0#2, 0#2, 0#4, 0#16⟩),
   (0x4490004001010005#64, .icmp ⟨0#7, 1#7, 0#7, 0#3, false, false, true, 0#2, 0#2, 1#4, 5#16⟩)] = true := by
  decide +kernel

/-- R65, R73, R213: parcels of logic slots, field by field. -/
theorem test_decode_slot_logic : readsSlot
  [(0x480050C000000000#64, .eAnd ⟨2#7, 67#7, 0#7, 0#3, false, false, false, 0#2, 0#2, 0#4, 0#16⟩),
   (0x481050C000000000#64, .eOr ⟨2#7, 67#7, 0#7, 0#3, false, false, false, 0#2, 0#2, 0#4, 0#16⟩),
   (0x482050C000000000#64, .eXor ⟨2#7, 67#7, 0#7, 0#3, false, false, false, 0#2, 0#2, 0#4, 0#16⟩),
   (0x483050C000000000#64, .andn ⟨2#7, 67#7, 0#7, 0#3, false, false, false, 0#2, 0#2, 0#4, 0#16⟩),
   (0x485050C000000000#64, .eShl ⟨2#7, 67#7, 0#7, 0#3, false, false, false, 0#2, 0#2, 0#4, 0#16⟩),
   (0x486050C000000000#64, .eShr ⟨2#7, 67#7, 0#7, 0#3, false, false, false, 0#2, 0#2, 0#4, 0#16⟩),
   (0x487050C000000000#64, .eSar ⟨2#7, 67#7, 0#7, 0#3, false, false, false, 0#2, 0#2, 0#4, 0#16⟩),
   (0x488050C000000000#64, .rol ⟨2#7, 67#7, 0#7, 0#3, false, false, false, 0#2, 0#2, 0#4, 0#16⟩),
   (0x4840200000000000#64, .eNot ⟨1#7, 0#7, 0#7, 0#3, false, false, false, 0#2, 0#2, 0#4, 0#16⟩),
   (0x4890200000000000#64, .popc ⟨1#7, 0#7, 0#7, 0#3, false, false, false, 0#2, 0#2, 0#4, 0#16⟩),
   (0x48A0200000000000#64, .clz ⟨1#7, 0#7, 0#7, 0#3, false, false, false, 0#2, 0#2, 0#4, 0#16⟩),
   (0x48B0200000000000#64, .ctz ⟨1#7, 0#7, 0#7, 0#3, false, false, false, 0#2, 0#2, 0#4, 0#16⟩),
   (0x48C02000010007E0#64, .bext ⟨1#7, 0#7, 0#7, 0#3, false, false, true, 0#2, 0#2, 0#4, 2016#16⟩),
   (0x48D02080000007E0#64, .bins ⟨1#7, 2#7, 0#7, 0#3, false, false, false, 0#2, 0#2, 0#4, 2016#16⟩)] = true := by
  decide +kernel

/-- R65, R73, R213: parcels of lane slots, field by field. -/
theorem test_decode_slot_lane : readsSlot
  [(0x4C00000031000000#64, .cvtfi ⟨0#7, 0#7, 0#7, 3#3, false, false, true, 0#2, 0#2, 0#4, 0#16⟩),
   (0x4C10000031000000#64, .cvtif ⟨0#7, 0#7, 0#7, 3#3, false, false, true, 0#2, 0#2, 0#4, 0#16⟩),
   (0x4C2000002000000B#64, .cvtfl ⟨0#7, 0#7, 0#7, 2#3, false, false, false, 0#2, 0#2, 0#4, 11#16⟩),
   (0x4C3000000000000B#64, .cvtlf ⟨0#7, 0#7, 0#7, 0#3, false, false, false, 0#2, 0#2, 0#4, 11#16⟩),
   (0x4C4000000100000F#64, .lget ⟨0#7, 0#7, 0#7, 0#3, false, false, true, 0#2, 0#2, 0#4, 15#16⟩),
   (0x4C50004000000009#64, .lput ⟨0#7, 1#7, 0#7, 0#3, false, false, false, 0#2, 0#2, 0#4, 9#16⟩),
   (0x4C60000000000007#64, .lspl ⟨0#7, 0#7, 0#7, 0#3, false, false, false, 0#2, 0#2, 0#4, 7#16⟩),
   (0x5000004010000000#64, .ldot ⟨0#7, 1#7, 0#7, 1#3, false, false, false, 0#2, 0#2, 0#4, 0#16⟩),
   (0x5010000010000000#64, .lsum ⟨0#7, 0#7, 0#7, 1#3, false, false, false, 0#2, 0#2, 0#4, 0#16⟩),
   (0x5020004003000000#64, .bdot ⟨0#7, 1#7, 0#7, 0#3, false, true, true, 0#2, 0#2, 0#4, 0#16⟩),
   (0x5030004003000000#64, .packedBadd ⟨0#7, 1#7, 0#7, 0#3, false, true, true, 0#2, 0#2, 0#4, 0#16⟩)] = true := by
  decide +kernel

/-- R65, R73, R213: parcels of route slots, field by field. -/
theorem test_decode_slot_route : readsSlot
  [(0x5400400000000000#64, .pass ⟨2#7, 0#7, 0#7, 0#3, false, false, false, 0#2, 0#2, 0#4, 0#16⟩),
   (0x5410004000200000#64, .sel ⟨0#7, 1#7, 0#7, 0#3, false, false, false, 0#2, 2#2, 0#4, 0#16⟩),
   (0x542000000100FFFF#64, .const ⟨0#7, 0#7, 0#7, 0#3, false, false, true, 0#2, 0#2, 0#4, 65535#16⟩),
   (0x5430200000000000#64, .sink ⟨1#7, 0#7, 0#7, 0#3, false, false, false, 0#2, 0#2, 0#4, 0#16⟩),
   (0x5800000000030000#64, .cond ⟨0#7, 0#7, 0#7, 0#3, false, false, false, 0#2, 0#2, 3#4, 0#16⟩),
   (0x5810000000030000#64, .cand ⟨0#7, 0#7, 0#7, 0#3, false, false, false, 0#2, 0#2, 3#4, 0#16⟩),
   (0x5820000000030000#64, .cor ⟨0#7, 0#7, 0#7, 0#3, false, false, false, 0#2, 0#2, 3#4, 0#16⟩),
   (0x5830000000330000#64, .cnot ⟨0#7, 0#7, 0#7, 0#3, false, false, false, 0#2, 3#2, 3#4, 0#16⟩),
   (0x5840200000100000#64, .steer ⟨1#7, 0#7, 0#7, 0#3, false, false, false, 0#2, 1#2, 0#4, 0#16⟩),
   (0x5850208000100000#64, .merge ⟨1#7, 2#7, 0#7, 0#3, false, false, false, 0#2, 1#2, 0#4, 0#16⟩),
   (0x5860200000120000#64, .gate ⟨1#7, 0#7, 0#7, 0#3, false, false, false, 0#2, 1#2, 2#4, 0#16⟩)] = true := by
  decide +kernel

/-- R65, R73, R213: parcels of tag slots, field by field. -/
theorem test_decode_slot_tag : readsSlot
  [(0x5C00000000000700#64, .talloc ⟨0#7, 0#7, 0#7, 0#3, false, false, false, 0#2, 0#2, 0#4, 1792#16⟩),
   (0x5C10000000000000#64, .tfree ⟨0#7, 0#7, 0#7, 0#3, false, false, false, 0#2, 0#2, 0#4, 0#16⟩),
   (0x5C20000000000000#64, .tnext ⟨0#7, 0#7, 0#7, 0#3, false, false, false, 0#2, 0#2, 0#4, 0#16⟩),
   (0x5C30004000000000#64, .titer ⟨0#7, 1#7, 0#7, 0#3, false, false, false, 0#2, 0#2, 0#4, 0#16⟩),
   (0x5C4000000000FF00#64, .tcall ⟨0#7, 0#7, 0#7, 0#3, false, false, false, 0#2, 0#2, 0#4, 65280#16⟩),
   (0x5C50000000000000#64, .tret ⟨0#7, 0#7, 0#7, 0#3, false, false, false, 0#2, 0#2, 0#4, 0#16⟩)] = true := by
  decide +kernel

/-- R65, R73, R213: parcels of request slots, field by field. -/
theorem test_decode_slot_request : readsSlot
  [(0x600000002400C005#64, .eLd ⟨0#7, 0#7, 0#7, 2#3, true, false, false, 0#2, 0#2, 0#4, 49157#16⟩),
   (0x6010004000001800#64, .eSt ⟨0#7, 1#7, 0#7, 0#3, false, false, false, 0#2, 0#2, 0#4, 6144#16⟩),
   (0x6020004000008000#64, .ldv ⟨0#7, 1#7, 0#7, 0#3, false, false, false, 0#2, 0#2, 0#4, 32768#16⟩),
   (0x6030004100005800#64, .stv ⟨0#7, 1#7, 2#7, 0#3, false, false, false, 0#2, 0#2, 0#4, 22528#16⟩),
   (0x6040004000000400#64, .ldx ⟨0#7, 1#7, 0#7, 0#3, false, false, false, 0#2, 0#2, 0#4, 1024#16⟩),
   (0x6050004100000400#64, .stx ⟨0#7, 1#7, 2#7, 0#3, false, false, false, 0#2, 0#2, 0#4, 1024#16⟩),
   (0x6400000000000000#64, .eNop ⟨0#7, 0#7, 0#7, 0#3, false, false, false, 0#2, 0#2, 0#4, 0#16⟩),
   (0x6410000000200FFF#64, .cres ⟨0#7, 0#7, 0#7, 0#3, false, false, false, 0#2, 2#2, 0#4, 4095#16⟩)] = true := by
  decide +kernel

/-- R65, R73, R213: parcels of atomic slots, field by field. -/
theorem test_decode_slot_atomic : readsSlot
  [(0xC800004074000000#64, .slotAadd ⟨0#7, 1#7, 0#7, 7#3, true, false, false, 0#2, 0#2, 0#4, 0#16⟩),
   (0xC810004074000000#64, .slotAand ⟨0#7, 1#7, 0#7, 7#3, true, false, false, 0#2, 0#2, 0#4, 0#16⟩),
   (0xC820004074000000#64, .slotAor ⟨0#7, 1#7, 0#7, 7#3, true, false, false, 0#2, 0#2, 0#4, 0#16⟩),
   (0xC830004074000000#64, .slotAxor ⟨0#7, 1#7, 0#7, 7#3, true, false, false, 0#2, 0#2, 0#4, 0#16⟩),
   (0xC860004074000000#64, .slotAxch ⟨0#7, 1#7, 0#7, 7#3, true, false, false, 0#2, 0#2, 0#4, 0#16⟩),
   (0xC840004001000000#64, .slotAmin ⟨0#7, 1#7, 0#7, 0#3, false, false, true, 0#2, 0#2, 0#4, 0#16⟩),
   (0xC850004001000000#64, .slotAmax ⟨0#7, 1#7, 0#7, 0#3, false, false, true, 0#2, 0#2, 0#4, 0#16⟩),
   (0xC870004100000000#64, .slotAcas ⟨0#7, 1#7, 2#7, 0#3, false, false, false, 0#2, 0#2, 0#4, 0#16⟩),
   (0xC030000024000000#64, .slotPhsig ⟨0#7, 0#7, 0#7, 2#3, true, false, false, 0#2, 0#2, 0#4, 0#16⟩),
   (0xCC00004000000000#64, .slotFbin ⟨0#7, 1#7, 0#7, 0#3, false, false, false, 0#2, 0#2, 0#4, 0#16⟩),
   (0xCC30004000000000#64, .slotQpsh ⟨0#7, 1#7, 0#7, 0#3, false, false, false, 0#2, 0#2, 0#4, 0#16⟩)] = true := by
  decide +kernel

/-- R266: parcels of stream programs, field by field. -/
theorem test_decode_stream : readsStream
  [(0x900EF71FFFFFE001#64, 0xFFF8123456789ABC#64, .sopen 3#2 true 7#4 2#2 true true true 0#3 0xFFFFFF#24 0xFFF8#16 0x123456789ABC#48),
   (0x9018000000000000#64, 0x0#64, .sclose 2#2),
   (0x9024001000002000#64, 0x0#64, .spush 1#2 0x800001#24),
   (0x9034001000002000#64, 0x0#64, .sacpt 1#2 0x800001#24),
   (0x904520000000A001#64, 0xFEDCBA987654#64, .sgath 1#2 9#4 5#24 0xFEDCBA987654#48),
   (0x905520000000A001#64, 0xFEDCBA987654#64, .sscat 1#2 9#4 5#24 0xFEDCBA987654#48),
   (0x9067FC000FFFFF80#64, 0x0#64, .sloop 1#2 true 63#6 0x8001#16 0xFFFFF0#24),
   (0x9070000000000001#64, 0x800000000020#64, .swait 0x800000000020#48),
   (0x9087C01000000021#64, 0x20#64, .ssig 1#2 true 7#3 0x80000001#32 0x20#48),
   (0x9408001000000000#64, 0x0#64, .wload 0x8001#16),
   (0x9418001000000000#64, 0x0#64, .wdrop 0x8001#16),
   (0x942E0000006FFFE0#64, 0x0#64, .vopen 3#2 1024#11 1#17 98303#17),
   (0x943A001000000020#64, 0x0#64, .vrecl 2#2 true 0x80000001#32),
   (0x94481C0000000000#64, 0x0#64, .mlay 0x81#8 true true)] = true := by
  decide +kernel

/-- R59 items 6 to 9: a reserved major, an illegal one, an element's, an undefined minor, a zero field and a wrong ext
bit are refused. -/
theorem test_decode_refusals :
    (decodeLantern 0xE800000000000000#64 0#64).toOption = none ∧ decodeLantern 0x2000000000000000#64 0#64 = .error .resmaj ∧
      decodeLantern 0#64 0#64 = .error .illop ∧ decodeLantern 0x4000000000000000#64 0#64 = .error .illop ∧
      decodeLantern 0x0490000000000000#64 0#64 = .error .illop ∧ decodeLantern 0x0400000000000020#64 0#64 = .error .illop ∧
      decodeLantern 0x0400000000000001#64 0#64 = .error .illop ∧ decodeLantern 0x0840000000000000#64 0#64 = .error .illop :=
  ⟨rfl, rfl, rfl, rfl, rfl, rfl, rfl, rfl⟩
/-- R435 to R440: one word, and the operation that its register names. -/
theorem test_refine :
    refine { Lantern.reset with regs := [(2, 0x4000000000000000#64)] } (.tlbiPage 1#5 2#5 3#5) = .tlbiPasid 1#5 2#5 3#5 ∧
      refine { Lantern.reset with regs := [(2, 0x8000000000000000#64)] } (.tlbiPage 1#5 2#5 3#5) = .tlbiAll 1#5 2#5 3#5 ∧
      refine { Lantern.reset with regs := [(3, 3#64)] } (.qctlRead 1#5 2#5 3#5) = .qctlRelease 1#5 2#5 3#5 ∧
      refine { Lantern.reset with regs := [(3, 2#64)] } (.dieqFence 1#5 2#5 3#5) = .dieqStatus 1#5 2#5 3#5 ∧
      refine { Lantern.reset with regs := [(3, 2#64)] } (.binjFlipOne 1#5 2#5 3#5) = .binjSpare 1#5 2#5 3#5 := by
  decide +kernel

end Sys2Proof.Tests
end

