-- ==== Sys2Proof/Tests/WitnessElements.lean ====
section
/-! SUPPORT. For each statement about elements, tiles and matrix arrays, concrete states and operands that meet its
hypotheses, at the ends of their ranges. Where a statement names the state `u` that a function answers, the witness shows
the answer's other part. -/

-- Each theorem is checked before the next: many waiting at once want a thread each.
set_option Elab.async false

namespace Sys2Proof.Tests

open Sys2Proof Sys2Proof.Machine

/-- FloatResults: each instruction executes. -/
theorem witness_FloatResults :
    ([Instr.fadd fields, .fsub fields, .fmul fields, .fma fields, .fms fields, .fnma fields, .fmin fields, .fmax fields,
      .fabs fields, .fneg fields, .fdiv fields, .fsqrt fields, .frcp fields, .frsq fields, .flg2 fields, .fex2 fields,
      .frnd fields, .fcmp fields].all fun i => runs i movesNone (fired [tok fmtW 0#80, tok fmtW 0#80, tok fmtW 0#80] [])) = true := by
  decide +kernel
/-- The operands A and B of the instruction that element 0 has issued. -/
def operandA (i : Instr) (s : State) : Operand := s.operand (fire i s) .i64 fields.selA
def operandB (i : Instr) (s : State) : Operand := s.operand (fire i s) .i64 fields.selB
/-- IntegerResults: each instruction executes on I64 and W operands, and on one of another format in each place. -/
theorem witness_IntegerResults :
    ([Instr.iadd fields, .isub fields, .imul fields, .imulh fields, .idiv fields, .irem fields, .imin fields, .imax fields,
      .icmp fields, .ineg fields].all fun i =>
      [int 1, tok fmtW 0#80, tok fmtL6 0#80].all fun a => [int 0, tok fmtL6 0#80].all fun b =>
        let s := fired [a, b] []
        runs i movesNone s && ((operandA i s).asI false).isSome == decide (a.fmt ≠ fmtL6) &&
          ((operandB i s).asI false).isSome == decide (b.fmt ≠ fmtL6)) = true := by decide +kernel
/-- LogicResults: each instruction executes on I64 operands, and on one of another format in each place. -/
theorem witness_LogicResults :
    ([Instr.eAnd fields, .eOr fields, .eXor fields, .andn fields, .eShl fields, .eShr fields, .eSar fields, .rol fields,
      .bins fields, .eNot fields, .popc fields, .clz fields, .ctz fields, .bext fields].all fun i =>
      [int 1, tok fmtW 0#80].all fun a => [int 64, tok fmtW 0#80].all fun b =>
        let s := fired [a, b] []
        runs i movesNone s && decide ((operandA i s).fmt = a.fmt ∧ (operandB i s).fmt = b.fmt)) = true := by decide +kernel
/-- LaneResults: each instruction executes on each format; the last lane of each, the scale lane and the lane after the
last. -/
theorem witness_LaneResults :
    ([Instr.cvtfi fields, .cvtif fields, .cvtfl fields, .cvtlf fields, .lspl fields, .lget fields, .lput fields, .ldot fields,
      .lsum fields, .bdot fields, .packedBadd fields].all fun i =>
      [int 1, tok fmtW 0#80, tok fmtL6 0#80, tok fmtI8 0#80].all fun a => [int 1, tok fmtI8 0#80].all fun b =>
        let s := fired [a, b] []
        runs i movesNone s && decide ((operandA i s).fmt = a.fmt ∧ (operandB i s).fmt = b.fmt)) = true ∧
    laneBad ⟨fmtL6, 0#80⟩ 11 false = none ∧ laneBad ⟨fmtI8, 0#80⟩ 9 false = none ∧ laneBad ⟨fmtL6, 0#80⟩ 15 true = none ∧
    laneBad ⟨fmtL6, 0#80⟩ 12 false = some 12 ∧ laneBad ⟨fmtI8, 0#80⟩ 10 true = some 10 ∧ laneBad ⟨fmtW, 0#80⟩ 0 true = some 0 ∧
    (⟨fmtI8, 0#80⟩ : Operand).intPath = true ∧ (⟨fmtL6, 0#80⟩ : Operand).intPath = false := by decide +kernel
/-- RouteAndControl: each instruction executes, with a condition of each value. -/
theorem witness_RouteAndControl :
    ([true, false].all fun c =>
      let s := fired [int 1, int 2] [c]
      ([Instr.pass fields, .sel fields, .steer fields, .merge fields, .gate fields].all fun i =>
        runs i (movesOn i) s && (fire i s).cond 0#2 == c) &&
      [Instr.const fields, .sink fields, .cond fields, .cand fields, .cor fields, .cnot fields, .eNop fields].all fun i =>
        runs i movesNone s) = true := by decide +kernel
/-- GatingAndPoison: gated off without and with O, and poisoned. -/
theorem witness_GatingAndPoison :
    ([true, false].all fun o =>
      let i := Instr.eAnd { fields with gate := 1#2, o := o }
      issues i (fired [int 1, int 2] [false]) && !(fire i (fired [int 1, int 2] [false])).gateOn &&
        (fire i (fired [int 1, int 2] [false])).f.o == o) = true ∧
    (let i := Instr.eAnd fields
     let s := fired [{ int 1 with poison := true }, int 2] []
     issues i s && (fire i s).gateOn && (fire i s).poisoned (movesOn i)) = true := by decide +kernel
/-- An open tag space. -/
def openSpace : SpaceEntry := { st := .open, k := 1, base := 0, next := 0, emitted := [], parent := none, ret := none }
/-- `s` with these tag spaces of Lantern 0's region, and these operand sets ready at element 0. -/
def spaced (sp : List (Nat × SpaceEntry)) (ready : List OpSet) (s : State) : State :=
  (s.modLan 0 fun l => { l with spaces := sp }).modCore 0 fun e => { e with ready := ready }
/-- An operand set of tag 0. -/
def set0 : OpSet := { slot := 0#5, tag := 0#36, data := [], conds := [] }
/-- All spaces of context 0, open. -/
def allOpen : List (Nat × SpaceEntry) := (List.range 32).map fun n => (n, openSpace)
/-- TagInstructions: a space open, with another free and with none; no space; other tokens of the tag, and none; TITER's
operand at each side of 2^24 and of another format. -/
theorem witness_TagInstructions :
    ([Instr.talloc fields, .tcall fields, .tfree fields, .tret fields, .tnext fields, .titer fields].all fun i =>
      let s := fired [int 1, int (2 ^ 24 - 1)] []
      let u (sp : List (Nat × SpaceEntry)) (rd : List OpSet) := consumed (fire i s) (spaced sp rd s)
      runs i movesNone s &&
      decide ((u [(0, openSpace)] []).ownOpen (fire i s) = some (0, 0) ∧ (u [(0, openSpace)] []).leadOfTile (elTile (fire i s).el) = some 0 ∧
        (u [(0, openSpace)] []).freeSpace 0 (fire i s).ctx = some 1 ∧
        (u allOpen []).ownOpen (fire i s) = some (0, 0) ∧ (u allOpen []).freeSpace 0 (fire i s).ctx = none ∧
        (u [] []).ownOpen (fire i s) = none ∧
        (u [(0, openSpace)] [set0]).spaceLive 0 (tagDie (fire i s).set.tag) (fire i s).ctx (tagSpace (fire i s).set.tag) 0 = true ∧
        (u [(0, openSpace)] []).spaceLive 0 (tagDie (fire i s).set.tag) (fire i s).ctx (tagSpace (fire i s).set.tag) 0 = false)) = true ∧
    (operandB (.titer fields) (fired [int 1, int (2 ^ 24 - 1)] [])).low.toNat < 2 ^ 24 ∧
    2 ^ 24 ≤ (operandB (.titer fields) (fired [int 1, int (2 ^ 24)] [])).low.toNat ∧
    (operandB (.titer fields) (fired [int 1, tok fmtW 0#80] [])).fmt ≠ fmtI64 := by decide +kernel
/-- TagInstructions, the firings that wait: with a space free and with none; with other tokens of the tag, and with none. -/
theorem witness_TagInstructions_waits :
    ([(TagOp.alloc, Instr.talloc fields), (.call, .tcall fields), (.free, .tfree fields), (.ret, .tret fields)].all fun x =>
      let w : WaitFiring := { op := x.1, f := fields, route := 0#64, set := set0 }
      let z (sp : List (Nat × SpaceEntry)) (rd : List OpSet) : State :=
        (spaced sp rd (region [] [])).modCore 0 fun e => { e with waits := [w] }
      let v : Fire := { el := 0, f := fields, row := ((slotRow x.2).getD (rowF2, fields)).1, set := set0, route := 0#64, last := false }
      decide (((z [] []).el 0).core.waits[0]? = some w ∧ slotRow x.2 = some (v.row, fields) ∧
        (z [(0, openSpace)] []).ownSpace v = some (0, 0) ∧ (z [] []).leadOfTile (elTile 0) = some 0 ∧
        (z [(0, openSpace)] []).freeSpace 0 v.ctx = some 1 ∧ (z allOpen []).freeSpace 0 v.ctx = none ∧
        (z [(0, openSpace)] [set0]).spaceLive 0 (tagDie v.set.tag) v.ctx (tagSpace v.set.tag) 1 = true ∧
        (z [(0, openSpace)] []).spaceLive 0 (tagDie v.set.tag) v.ctx (tagSpace v.set.tag) 1 = false)) = true := by decide +kernel
/-- The fields of a memory instruction whose format code is `n`. -/
def memFields (n : Nat) : Slot := { fields with imm := BitVec.ofNat 16 (n * 2 ^ 12) }
/-- The memory and synchronisation instructions. -/
def requests (f : Slot) : List Instr :=
  [.eLd f, .eSt f, .ldv f, .stv f, .ldx f, .stx f, .slotPhsig f, .slotAadd f, .slotAand f, .slotAor f, .slotAxor f,
   .slotAmin f, .slotAmax f, .slotAxch f, .slotAcas f, .slotFbin f, .slotQpsh f]
/-- ElementRequests: each instruction executes; the operands that are as it wants them and those that are not; the last
address of the 48-bit space and the one after it; an address aligned for format 3, and one that is not. -/
theorem witness_ElementRequests :
    ((requests (memFields 3)).all fun i => runs i movesNone (fired [int (2 ^ 48 - 8), int 0, int 0] []) &&
      runs i movesNone (fired [tok fmtW 0#80, tok fmtL6 0#80, tok fmtL6 0#80] [])) = true ∧
    (∀ k ∈ [Want.any, .i64, .version], k.ok ⟨fmtI64, 0#80⟩ = true) ∧ Want.w.ok ⟨fmtW, 0#80⟩ = true ∧
    Want.version.ok ⟨fmtI64, 0xFFFFFFFF#80⟩ = true ∧ Want.version.ok ⟨fmtI64, 0x100000000#80⟩ = false ∧
    (∀ k ∈ [Want.i64, .version, .w], k.ok ⟨fmtL6, 0#80⟩ = false) ∧
    ((memFields 3).imm.extractLsb' 12 4).toNat = 3 ∧ (0xFFFFFFFFFFF8#64 : Word).toNat % fmtAlign 3 = 0 ∧
    (0xFFFFFFFFFFF9#64 : Word).toNat % fmtAlign 3 ≠ 0 ∧ 2 ^ 48 ≤ (0x1000000000000#64 : Word).toNat := by decide +kernel
/-- Slot fields of an instruction of one operand, and of two. -/
def fields1 : Slot := { fields with selB := 0#7, selC := 0#7 }
def fields2 : Slot := { fields with selC := 0#7 }
/-- An arrival of a token at slot 0, port 0. -/
def arrival (t : Token) (cond bad : Bool) : Arrival :=
  { cond := cond, bad := bad, slot := 0#5, port := 0#2, tok := t, src := 1, old := false }
/-- Element 0 with these loaded slots, these sets ready and this token on its link. -/
def linked (i : Instr) (ready : List OpSet) (link : Nat) (a : Arrival) : State :=
  { region [] [] with elems := [(0, { Element.empty with
      links := [(link, [a])]
      core := { ElemCore.empty with ready := ready, slots := [(0, { ctx := 0, instr := ((encode i).getD (0#64, 0#64)).1, route := 0#64 })] } })] }
/-- An overflow share of context 0 that is full. -/
def fullShare : List MatchEntry :=
  List.replicate 4096 { kind := 0#2, slot := 0#5, port := 0#2, tok := int 1, seq := 0#12, dest := 0#28, cond := false, owner := 1 }
/-- `s` with `n` records held for Lantern 0's full ring. -/
def withHeld (n : Nat) (s : State) : State := s.modLan 0 fun l => { l with heldRecs := List.replicate n Record.blank }
/-- An emission of a firing that waits: to element 0, for this. -/
def waiting (why : HeldFor) : Emission := { dest := 0#28, tok := int 1, cond := false, why := why }
/-- Element 0 with this result waiting. -/
def holding (m : Emission) (s : State) : State := s.modCore 0 fun e => { e with heldOut := [m] }
/-- TokensArrive: a token that another of its cycle goes before, and one that none does; a marker, a full ready queue and a link
cut; a condition of wrong parity; a token taken, and one that stays; a token whose record waits, and one whose record is in. -/
theorem witness_TokensArrive :
    (∀ a ∈ [arrival (int 1) true true, arrival (int 1) false false, arrival { int 0 with marker := true } false false],
      ((linked (.eNot fields1) [] 0 a).el 0).links.get [] 0 = [a] ∧ (linked (.eNot fields1) [] 0 a).itsTurn 0 0 = true) ∧
    (let s := (linked (.eNot fields1) [] 1 (arrival (int 1) false false)).modEl 0 fun e =>
       { e with links := e.links.put 0 [{ arrival (int 1) false false with port := 1#2 }] }
     s.itsTurn 0 0 = false ∧ s.itsTurn 0 1 = true) ∧
    8 ≤ ((linked (.eNot fields1) (List.replicate 8 set0) 0 (arrival (int 1) false false)).el 0).core.ready.length ∧
    (linked (.eNot fields1) [] 0 (arrival (int 1) false false)).cutOff 0 0 = false ∧
    { linked (.eNot fields1) [] 0 (arrival (int 1) false false) with edges := [(1, 1)] }.cutOff
      { arrival (int 1) false false with src := 8192 * 16 }.fromDie (tileDie (elTile 0)) = true ∧
    (let s := linked (.eNot fields1) [] 0 { arrival (int 1) false false with logged := true }
     s.itsTurn 0 0 = true ∧ s.heldNo (s.leadOfTile (elTile 0)) = 0 ∧ (withHeld 1 s).heldNo (s.leadOfTile (elTile 0)) ≠ 0) ∧
    (match (linked (.eNot fields1) [] 0 (arrival (int 1) false false)).arrive 0 (arrival (int 1) false false) with
      | .taken _ => true
      | .stays _ => false) = true ∧
    (let a := { arrival (int 1) false false with port := 1#2 }
     (match ((linked (.iadd fields2) [] 0 a).modLan 0 fun l => { l with ovfl := fullShare }).arrive 0 a with
      | .taken _ => false
      | .stays _ => true) = true) ∧
    (let a := arrival (int 1) false false
     (linked (.iadd fields2) [] 0 a).hasRoom 0 (tagCtx a.tok.tag) = true ∧
       ((linked (.iadd fields2) [] 0 a).modLan 0 fun l => { l with ovfl := fullShare }).hasRoom 0 (tagCtx a.tok.tag) = false) := by
  decide +kernel
/-- TokensArrive, the results that wait: for a place with room and without, for a link with room and without, and for a record that
is in its queue and one that is not. -/
theorem witness_TokensArrive_results :
    (∀ why ∈ [HeldFor.place, .link, .record], ((holding (waiting why) (region [] [])).el 0).core.heldOut = [waiting why]) ∧
    (holding (waiting .place) (region [] [])).hasRoom 0 (tagCtx (waiting .place).tok.tag) = true ∧
    ((holding (waiting .place) (region [] [])).modLan 0 fun l => { l with ovfl := fullShare }).hasRoom 0
      (tagCtx (waiting .place).tok.tag) = false ∧
    (holding (waiting .link) (region [] [])).linkRoom (elTile 0) false 0#28 = true ∧
    ((holding (waiting .link) (region [] [])).modEl 0 fun e => { e with
      links := [(linkFrom 0 0, List.replicate 2 (arrival (int 1) false false))] }).linkRoom (elTile 0) false 0#28 = false ∧
    (let s := holding (waiting .record) (region [] [])
     s.recHeld (s.leadOfTile (elTile 0)) = false ∧ (withHeld 1 s).recHeld (s.leadOfTile (elTile 0)) = true ∧
       s.heldNo (s.leadOfTile (elTile 0)) ≤ 0) := by decide +kernel
/-- TokensMatch: an operand set complete by itself, with a partner stored, and not complete. -/
theorem witness_TokensMatch :
    (let a := arrival (int 1) false false
     let m : MatchEntry := { kind := 0#2, slot := 0#5, port := 1#2, tok := int 2, seq := 0#12, dest := 0#28, cond := false, owner := 0 }
     a.tok.fmt.toNat < 4 ∧ a.tok.pay.toNat < 2 ^ 64 ∧
     (∀ i ∈ [Instr.eNot fields1, .iadd fields2], (decodeSlot ((encode i).getD (0#64, 0#64)).1) = some i ∧ (∀ f, i ≠ .eNop f)) ∧
     ((linked (.eNot fields1) [] 0 a).partners 0 (.eNot fields1) a).any (fun x => x.1.isEmpty) = true ∧
     (((linked (.iadd fields2) [] 0 a).modCore 0 fun e => { e with store := [(0, m)] }).partners 0 (.iadd fields2) a).any
       (fun x => decide (x.1 = [.store 0])) = true ∧
     (linked (.iadd fields2) [] 0 a).partners 0 (.iadd fields2) a = none ∧ (slotRow (.merge fields)).isSome = true ∧
     isMerge (.merge fields) = true ∧ isMerge (.eNot fields1) = false ∧ arity (.eNot fields1) = 1) := by
  refine ⟨by decide +kernel, by decide +kernel, ?_, by decide +kernel, by decide +kernel, by decide +kernel, by decide +kernel⟩
  intro i hi
  simp only [List.mem_cons, List.not_mem_nil, or_false] at hi
  rcases hi with rfl | rfl <;> exact ⟨by decide +kernel, fun _ h => by cases h⟩
/-- FiringsIssue: a ninth waiting firing, a unit that is busy, one that becomes free in this cycle, a firing under way, a result that
waits; and a set that issues. -/
theorem witness_FiringsIssue :
    (let s (waits : List WaitFiring) (busy : Tab Nat) : State := (linked (.talloc fields1) [set0] 0 (arrival (int 1) false false)).modCore 0
       fun e => { e with waits := waits, busy := busy }
     let full (s : State) : State := s.modLan 0 fun l => { l with spaces := allOpen }
     let w : WaitFiring := { op := .alloc, f := fields, route := 0#64, set := set0 }
     let head (s : State) (P : Fire → Instr → Bool) : Bool := (s.headFire 0 set0).any fun x => P x.1 x.2
     ((s [] []).el 0).core.ready = [set0] ∧ ((s [] []).el 0).firing = none ∧ ((s [] []).el 0).core.heldOut = [] ∧
     ((linked (.talloc fields1) [] 0 (arrival (int 1) false false)).modEl 0 fun e => { e with firing := some set0 }).el 0 ≠ (s [] []).el 0 ∧
     ((holding (waiting .link) (s [] [])).el 0).core.heldOut ≠ [] ∧
     head (full (s (List.replicate 8 w) [])) (full (s (List.replicate 8 w) [])).ninthWait = true ∧
     head (full (s (List.replicate 7 w) [])) (fun v i => !(full (s (List.replicate 7 w) [])).ninthWait v i) = true ∧
     head (s (List.replicate 8 w) []) (fun v i => !(s (List.replicate 8 w) []).ninthWait v i) = true ∧
     (s [] []).tick = 0 ∧ head (s [] [(3, 1)]) (fun _ i => decide ((s [] [(3, 1)]).tick < ((s [] [(3, 1)]).el 0).core.busy.get 0 (unitOf i))) = true ∧
     head (s [] [(2, 1)]) (fun _ i => decide (((s [] [(2, 1)]).el 0).core.busy.get 0 (unitOf i) ≤ (s [] [(2, 1)]).tick)) = true) := by
  decide +kernel
/-- A port of the region with an element of context 0, space 0, iteration 0 that it has issued and not yet pushed. -/
def issuedPort : Port :=
  { Port.reset with
    prog := some { parcels := [0#64], pc := 0, ctx := 0, lan := 0, armed := true, binds := [0#64, 0#64, 0#64, 0#64], loops := [], wins := [],
                   waitPh := none, xheld := none }
    hs := [(0, { input := false, fmt := 3, lay := 0#2, rtz := false, ord := false, grp := false, uni := 0, count := 1, stride := 8#16,
                 line := 0#64, cur := 0#64, pos := 1, limit := 1, idx := [], nextW := 0, written := [], tr := none, flags := 0#5 })]
    outq := [{ h := 0, n := 0, va := 0#64, line := 0#64, idx := none, gath := false, st := .new, data := [], bad := false,
               miss := Miss.zero, uni := false }] }
/-- WindowsAdvance: an emitted iteration that is live, one that a port has still to push and one that is over; a parked token
inside the window, beyond it, and refused, with room on its link and without. -/
theorem witness_WindowsAdvance :
    (let e : SpaceEntry := { openSpace with emitted := [0] }
     let s (ready : List OpSet) := spaced [(0, e)] ready (region [] [])
     (s []).space 0 (spaceKey 0 0) = e ∧ e.st ≠ .free ∧ e.base ∈ e.emitted ∧ mkTag (lanDie 0) 0 0 e.base ∉ (s []).regionTags 0 ∧
       mkTag (lanDie 0) 0 0 e.base ∉ (s []).issuedTags 0 ∧ mkTag (lanDie 0) 0 0 e.base ∈ (s [set0]).regionTags 0 ∧
       mkTag (lanDie 0) 0 0 e.base ∈ { s [] with ports := [(4, issuedPort)] }.issuedTags 0 ∧ openSpace.base ∉ openSpace.emitted) ∧
    ([0, 1, 2].all fun n =>
      let m : MatchEntry := { kind := 1#2, slot := 0#5, port := 0#2, tok := { int 1 with tag := mkTag 0 0 0 n }, seq := 0#12, dest := 0#28,
                              cond := false, owner := 0 }
      let s := (spaced [(0, { openSpace with base := 1 })] [] (region [] [])).modCore 0 fun e => { e with store := [(63, m)] }
      decide ((s.el 0).core.store.find 63 = some m ∧ s.spaceLead (s.leadOfTile (elTile 0)) (tileDie (elTile 0)) m.tok.tag = some 0 ∧
        s.linkRoom (elTile 0) m.cond m.dest = true ∧ (s.modEl 0 fun e => { e with
          links := [(linkFrom 0 0, List.replicate 2 (arrival (int 1) false false))] }).linkRoom (elTile 0) m.cond m.dest = false) &&
        decide (s.windowOf (s.leadOfTile (elTile 0)) (tileDie (elTile 0)) m.tok.tag (tagIter m.tok.tag)
          = (if n = 0 then .refuse 1 else if n = 1 then .ok else .park))) = true := by decide +kernel
/-- SlotSwitches: a context not armed, one whose part is not done, and one that switches. -/
theorem witness_SlotSwitches :
    (let s (armed : Bool) (ready : List OpSet) : State := State.reset.modCore 0 fun e =>
       { e with ctxs := [(0, { CtxState.empty with armed := armed })], ready := ready }
     (((s false []).el 0).core.ctx 0).armed = false ∧ (s true [set0]).partDone 0 0 = false ∧ (((s true []).el 0).core.ctx 0).armed = true ∧
       (s true []).partDone 0 0 = true ∧ (s true []).leadOfTile (elTile 0) = none ∧ ((s true []).el 0).core.store = [] ∧
       ((s true []).lan (tileLan (elTile 0))).ovfl = []) := by decide +kernel
/-- ControlLinks: an element with nothing to do, one whose unit is busy and one with a token; a credit on its way and none; an audit
that finds the count right, wrong, one flipped bit, two, and a resynchronisation. -/
theorem witness_ControlLinks :
    (State.reset.el 0).idle State.reset.tick = true ∧ ((linked (.eNot fields1) [] 5 (arrival (int 1) true false)).el 0).idle 0 = false ∧
    { Element.empty with core := { ElemCore.empty with busy := [(3, 1)] } }.idle 0 = false ∧
    CtlLink.empty.flight = 0 ∧ CtlLink.empty.held = [] ∧
    (∀ f ∈ [1, 4], { CtlLink.empty with c := 0#3, flight := f }.flight ≠ 0) ∧
    (let s := linked (.eNot fields1) [] 5 (arrival (int 1) true false)
     let c := { CtlLink.empty with c := 3#3 }
     c.bad = false ∧ c.c.toNat + ((s.el 0).links.get [] (5 + 0)).length + (c.sent - c.got).toNat = 4 ∧
       (State.reset.el 0).links.get [] (5 + 0) = [] ∧ c.c.toNat + (c.sent - c.got).toNat ≠ 4 ∧
       { c with err := 1#6 }.bad = false ∧ { c with err := 3#6 }.bad = true ∧ c.sync = none ∧ { c with sync := some 0#32 }.sync ≠ none) := by
  decide +kernel
/-- MarkersArrive: a data token; a marker outside a region, of another snapshot, of a snapshot that the element has yet to take,
and of one whose channel is marked. -/
theorem witness_MarkersArrive :
    (let a := arrival { int 7 with marker := true } false false
     let s (k : Nat) (marked : List Nat) : State := ((linked (.eNot fields1) [] 0 a).modLan 0 fun l =>
       { l with prePend := true, snapNo := BitVec.ofNat 32 k }).modEl 0 fun e => { e with snap := if marked = [] then none else some e.core, marked := marked }
     (s 7 []).cutOff a.fromDie (tileDie (elTile 0)) = false ∧ (arrival (int 1) false false).tok.marker = false ∧
     ((s 7 []).popLink 0 0).leadOfTile (elTile 0) = some 0 ∧
     ({ State.reset with elems := (s 7 []).elems }.popLink 0 0).leadOfTile (elTile 0) = none ∧
     ((linked (.eNot fields1) [] 0 a).lan 0).prePend = false ∧
     a.tok.pay.setWidth 32 = (((s 7 []).popLink 0 0).lan 0).snapNo ∧ a.tok.pay.setWidth 32 ≠ (((s 6 []).popLink 0 0).lan 0).snapNo ∧
     ((((s 7 []).popLink 0 0).snapshot 0 7#32).el 0).marked.contains a.chan = false ∧
     ((s 7 [a.chan]).el 0).marked.contains a.chan = true) := by decide +kernel
/-- A request of element 0 at tile 1, at an address. -/
def request (op : MemOp) (va : Word) (st : ReqSt) (data : Token) : EReq :=
  { id := 0, el := 0, slot := 0#5, tag := 0#36, last := false, op := op, fmt := 3, rtz := false, scope := 1#3, o := true, va := va,
    b := data, c := data, d0 := 0#31, d1 := 0#31, st := st, miss := Miss.zero, old := false, outs := [], fault := false, word := none }
/-- A tile 1 with this request, of the region of Lantern 0, with the GiB at 0x40000000 mapped to `base`. -/
def serving (base : Nat) (r : EReq) : State :=
  let s := (region [] []).putDword 0x2008 (BitVec.ofNat 64 (base + 0x9D))
  { s with tiles := [(1, { Tile.reset with reqs := [r] })] }
/-- Whether the request translates, to this effect; or fails. -/
def places (s : State) (t : Nat) (r : EReq) (P : List (Nat × Nat × PaKind × Bool) → State → Bool) : Bool :=
  match s.reqPlaces 0 t r with
  | (.ok ps, u) => P ps u
  | (.error _, _) => false
def noPlace (s : State) (t : Nat) (r : EReq) : Bool :=
  match s.reqPlaces 0 t r with
  | (.ok _, _) => false
  | (.error _, _) => true
/-- RequestsServed: a request with no translation; one whose home is cut off; a load and a store at a home of each kind, and a store
whose format is refused; a synchronisation request; a request at its banks, granted and not; and one that is done. -/
theorem witness_RequestsServed :
    ([MemOp.ld, .st, .ldx, .stx, .ldv, .stv].all fun op =>
      let r (va : Word) (st : ReqSt) := request op va st (int 0)
      !op.isSync && noPlace (serving 0 (r 0x80000000#64 .new)) 1 (r 0x80000000#64 .new) &&
        places { serving (2 ^ 37) (r 0x40000000#64 .version) with edges := [(1, 1)] } 1 (r 0x40000000#64 .version)
          (fun ps u => u.piecesCut (tileDie 1) ps) &&
        places (serving 0 (r 0x20000#64 .entry)) 1 (r 0x20000#64 .entry) (fun ps u => !u.piecesCut (tileDie 1) ps && decide (homeOff 1 ps = none ∧
          u.stagedSet 0 = none)) &&
        places (serving (4 * 2 ^ 48 + 2 ^ 38) (r 0x40000008#64 .new)) 1 (r 0x40000008#64 .new) (fun ps u => !u.piecesCut (tileDie 1) ps &&
          decide (homeOff 1 ps = some 8 ∧ u.stagedSet 0 = none))) = true ∧
    (serving 0 (request .ld 0#64 .new (int 0))).leadOfTile (elTile 0) = some 0 ∧
    acceptsFmt 3 false (request .st 0#64 .new (int 0)).data.fmt = true ∧
    acceptsFmt 3 false (request .st 0#64 .new (tok fmtL6 0#80)).data.fmt = false ∧
    (let r := request .aadd 0xFFF8#64 .new (int 0)
     (withSeg seg1 launch1 (serving 0 r)).sliceOn 0 (tileDie 1) r.va.toNat = some 0x10FFF8 ∧ r.op.isSync = true ∧ r.va.toNat < 0x10000) ∧
    (let r := request .st 0#64 .bank (int 0)
     let q : BankReq := { src := 0, client := 0, pos := 0, g := 0, b := 0, row := 0, store := true, mask := 0#4, data := 0#32, waited := false, lead := none }
     ((serving 0 r).tile 1).granted 0 r.id = true ∧ (((serving 0 r).modTile 1 fun x => { x with bankq := [q] }).tile 1).granted 0 r.id = false ∧
       r.op.hasData = false ∧ r.o = true ∧ r.scope = 1#3) ∧
    (let r := request .st 0#64 .done (int 0)
     ((serving 0 r).tile 1).reqs[0]? = some r ∧ ((serving 0 r).tile 1).reqs[32]? = none ∧ r.st = .done ∧
       { State.reset with elems := (serving 0 r).elems }.leadOfTile (elTile 0) = none) := by decide +kernel
/-- RequestsServed: a walk at a held edge; replies with room on their links and without, and behind a record; a synchronisation
request on the window of its slice and beside it, at an object, at one cut off, and at no object; a staged store that finds an
entry, and one to a register. -/
theorem witness_RequestsServed_more :
    (let r := request .ld 0x40000000#64 .new (int 0)
     let s := { serving 0 r with roots := [(rootKey 0 0, 2 ^ 37)], edges := [(1, 1)] }
     (match s.reqPlaces 0 1 r with
      | (.error e, _) => decide (e.2 = xlCut)
      | (.ok _, _) => false) = true) ∧
    (let r := { request .ld 0#64 .reply (int 0) with outs := [(0x40000000#31, int 0)] }
     let s := serving 0 r
     s.outsFit 1 r = true ∧ s.recHeld (some 0) = false ∧ (withHeld 1 s).recHeld (some 0) = true ∧ dV 0x40000000#31 = true ∧
     ((spaced [(0, openSpace)] [] s).modEl 0 fun e => { e with
       links := [(linkFrom 1 0, List.replicate 4 (arrival (int 1) false false))] }).outsFit 1 r = false) ∧
    (let r (va : Word) := request .aadd va .new (int 0)
     let obj (va : Word) (P : List (Nat × Nat × PaKind × Bool) → State → Bool) (s : State) : Bool := places s 1 (r va) P
     (serving 0 (r 0#64)).sliceOn 0 (tileDie 1) 0 = none ∧
     noPlace (serving (6 * 2 ^ 48) (r 0x80000000#64)) 1 (r 0x80000000#64) = true ∧
     obj 0x40000000#64 (fun ps u => match ps with
       | (_, _, .sync d _, _) :: _ => !u.diesCut (tileDie 1) d
       | _ => false) (serving (6 * 2 ^ 48) (r 0x40000000#64)) = true ∧
     obj 0x40000000#64 (fun ps u => match ps with
       | (_, _, .sync d _, _) :: _ => u.diesCut (tileDie 1) d
       | _ => false) { serving (6 * 2 ^ 48 + 2 ^ 44) (r 0x40000000#64) with edges := [(1, 1)] } = true ∧
     obj 0x40000000#64 (fun ps _ => match ps with
       | (_, _, .sync _ _, _) :: _ => false
       | _ => true) (serving 0 (r 0x40000000#64)) = true) ∧
    (let r (va : Word) := request .st va .new (int 0)
     let s (base : Nat) (va : Word) := withSeg { seg1 with staged := true, set := some 0 } launch1 (serving base (r va))
     places (s (4 * 2 ^ 48 + 2 ^ 38) 0x40000000#64) 1 (r 0x40000000#64) (fun ps u =>
       decide (u.stagedSet 0 ≠ none) && (u.stagePieces 0 ps (List.replicate 8 0#8)).isSome && !anyHeld ps) = true ∧
     places ((s (4 * 2 ^ 48 + 2 ^ 38) 0x40000000#64).modTile 1 fun x => { x with
       ver := (List.range 1024).map fun n => (n, VEnt.staged 1 n 15#4 0#32) }) 1 (r 0x40000000#64) (fun ps u =>
       (u.stagePieces 0 ps (List.replicate 8 0#8)).isNone) = true) := by decide +kernel
/-- TileEvents: no access in line and one that is granted; accesses that take a free bank, a taken one, a stopped group's and a third
read of a stream port; a read that is rebuilt, and one that waits; a correction whose bank is free and one whose bank is not; a tile
with a BSCRB, one that scrubs, one under MODE.SCRUB, and one that is no memory tile; a word to write home. -/
theorem witness_TileEvents :
    (let q : BankReq := { src := 0, client := 0, pos := 0, g := 0, b := 0, row := 0, store := true, mask := 0#4, data := 0#32, waited := false, lead := none }
     let rd := { q with src := 1, store := false }
     let s (x : Tile) : State := { State.reset with tiles := [(1, x)] }
     let g (used : List Nat) (reads : List Nat) (x : Tile) : Grant := { used := used, rec_ := [], reads := reads, s := s x }
     let job (w : TileWork) : TileJob := { lan := 0, rd := 3#5, work := w }
     let line := { Tile.reset with bankq := [rd] }
     ((s Tile.reset).tile 1).bankq = [] ∧ ((s line).tile 1).order = [rd] ∧
     (s { Tile.reset with jobs := [job (.retire 0 0)] }).bankNeeds 1 q = none ∧
     (g [] [1, 1] line).full rd = true ∧ (g [] [1] line).full rd = false ∧
     (g [] [] line).s.bankNeeds 1 rd = some [0] ∧ (g [] [] line).s.bankNeeds 1 q = some [0, 12] ∧
     ((g [0] [] line).s.tile 1).bankq.contains rd = true ∧ (g [0] [] line).canRebuild 1 rd = true ∧
     (g [0, 1] [] line).canRebuild 1 rd = false ∧
     (let t := s { Tile.reset with corr := [tileBase 1] }
      ((t.tile 1).corr.find? fun pa => t.bankFree 1 (bankOfPa 1 pa)) = some (tileBase 1)) ∧
     (let t := s { Tile.reset with corr := [tileBase 1], bankq := [q] }
      ∀ pa ∈ (t.tile 1).corr, t.bankFree 1 (bankOfPa 1 pa) = false) ∧
     ((s line).tile 1).bankq ≠ [] ∧ ((s Tile.reset).tile 1).pipe = [] ∧ ((s Tile.reset).tile 1).wb = [] ∧
     ((s Tile.reset).tile 1).scrubJob = none ∧
     ((s { Tile.reset with jobs := [job (.reply 0#64), job (.scrub 8191 1 2)] }).tile 1).scrubJob = some (1, 8191, 1, 2) ∧
     modeScrub (State.reset.modeOf (tileDie 1)) = false ∧ isMemTile (tileX 1) (tileY 1) = true ∧ isMemTile (tileX 0) (tileY 0) = false ∧
     modeScrub ({ State.reset with mode := [(0, 4#64)] }.modeOf (tileDie 1)) = true ∧
     (let w : WBack := { pa := tileBase 1, mask := 0#4, data := 0#32, set := none }
      ((s { Tile.reset with wb := [w] }).tile 1).wb = [w])) := by decide +kernel
/-- FaultsReplay: a record that waits for a full ring and for one with room; a REPLAY beyond each bound, at an idle cluster and at one
that runs; a retry of a region with none and with one; a walk that fails and one that translates. -/
theorem witness_FaultsReplay :
    (let s (tail : BitVec 16) := (region [] []).modLan 0 fun l => { l with heldRecs := [{ Record.blank with kind := 1#8 }], tail := tail }
     ((s 127#16).lan 0).ringFull = true ∧ (s 127#16).foldsInto 0 { Record.blank with kind := 1#8 } = false ∧ ((s 126#16).lan 0).ringFull = false ∧
       ((s 0#16).lan 0).heldRecs = [{ Record.blank with kind := 1#8 }]) ∧
    2 ^ 11 ≤ (0x800#64 : Word).toNat ∧ 98 ≤ (0x620#64 : Word).toNat / 16 % 128 ∧ 8 ≤ (8#64 : Word).toNat % 16 ∧
    ((region [] []).lan (lanOf 0 1)).st = .idle ∧ ((region [] []).lan (lanOf 0 0)).st ≠ .idle ∧
    (let s := (region [] []).modHub fun h => { h with replays := [(3, 0x10#64), (3, 0#64)] }
     s.hub.replays.findIdx? (fun r => decide (replayLead r.2 = 0)) = some 1 ∧ ∀ r ∈ s.hub.replays, replayLead r.2 ≠ 2) ∧
    (let r := request .ld 0x80000000#64 .new (int 0); noPlace (serving 0 r) 1 r = true) ∧
    (let r := request .ld 0x20000#64 .new (int 0); places (serving 0 r) 1 r (fun _ _ => true) = true) := by decide +kernel
/-- FaultsReplay, the walks ahead of an access: of a stream's element that translates and of one that does not, of a copy of each
kind, and of a Lantern whose next line is there, and is not. -/
theorem witness_FaultsReplay_walks :
    ([(0x20000#64, true), (0x80000000#64, false)].all fun va =>
      let r : StreamReq := { h := 0, n := 0, va := va.1, line := 0#64, idx := none, gath := false, st := .new, data := [], bad := false,
                             miss := Miss.zero, uni := false }
      let s := { region [] [] with ports := [(4, { issuedPort with outq := [r] })] }
      decide ((s.port 4).outq[0]? = some r) && (s.port 4).prog.isSome &&
      (match (s.port 4).prog, (s.port 4).hs.find 0 with
       | some g, some x =>
         (match s.elemPlaces 4 (s.port 4) g x r with
          | (.ok _, _) => va.2
          | (.error _, _) => !va.2)
       | _, _ => false)) = true ∧
    ([((0x20000#64 : Word), (none : Option Nat)), (0x1000000000000#64, some 1), (0x80000000#64, some 0)].all fun src =>
      let c : Chan := { lan := 0, seg := 0#64, launch := 0, pasid := 0, sup := true, kind := .flat, rd := 3#5, dst := 0x30000#64, src := src.1,
                        len := 8, bar := none, scope := 1#3, wait := false, miss := Miss.zero, moved := 0, entWait := none, fin := false }
      let s : State := { region [] [] with chans := [(chanKey 0 0, c)] }
      decide (s.chans.find (chanKey 0 0) = some c ∧ c.wait = false ∧ c.total < 2 ^ 40 ∧ c.kind ≠ .remote) &&
        (let p := s.copyPlan 0 c
         (earlier p.src p.dst).map (·.code) == src.2)) = true ∧
    (region [] []).chans.find (chanKey 0 0) = none ∧
    (let s (pc : Word) : State := { (region [] []).modLan 0 fun l => { l with pc := pc } with focus := 0 }
     let held (s : State) : Bool := match (s.fetch 0).1 with
       | .held _ => true
       | _ => false
     (s 0x10008#64).cur.st = .run ∧ (s 0#64).cur.xheld = none ∧ held (s 0x10008#64) = false ∧
       held { s 0x80000008#64 with mode := [(0, 1#64)] } = true) := by decide +kernel
/-- A descriptor of one row, formats 3, at 0x20000 and 0x30000. -/
def descWords (m : Nat) (a : Nat) : List Word :=
  [BitVec.ofNat 64 a, 0x30000#64, 0#64, 0#64, BitVec.ofNat 64 (m + 2 ^ 8 + 3 * 2 ^ 16 + 3 * 2 ^ 24), 0#64, 0#64, 0#64]
/-- Lantern 0 with an array of one element. -/
def withArray (f : Array2 → Array2) (s : State) : State :=
  s.modLan 0 fun l => { l with mx := some (f (Array2.fresh (shapeWord 0 0 1 1))) }
/-- The descriptor's bytes. -/
def descBytes (m a : Nat) : List Byte := (descWords m a).flatMap fun w => leBytes 8 w.toNat
/-- A run of it. -/
def run1 (m a : Nat) (granted : Bool) : MxRun :=
  { MxRun.fresh (descBytes m a) 1 0 3#5 with granted := granted }
/-- A matrix command. -/
def command (k : MxKind) (a : Word) : MxCmd := { kind := k, rd := 3#5, a := a, b := 0#64, held := none, fin := false, wants := none }
/-- MatrixCommands: MXON refused and accepted; formats, parameters and priorities at their bounds; the array off, idle, busy with a
run in its last k-step and with one that is not, with a run at its boundary and with a command; a bad descriptor, a good one of no
k-step, and of the most. -/
theorem witness_MatrixCommands :
    (region [] []).cur.loads = [] ∧ (region [] []).mxonStatus 0 (shapeWord 0 0 33 1) ≠ 0 ∧ (region [] []).mxonStatus 0 (shapeWord 0 0 32 16) = 0 ∧
    ¬ mxFmtOk 4 ∧ mxFmtOk 11 = true ∧ ¬ ((11#4 : BitVec 4).toNat < 4 ∨ (11#4 : BitVec 4).toNat = 12) ∧ (12#4 : BitVec 4).toNat = 12 ∧
    6 ≤ (6#32).toNat ∧ (5#32).toNat < 6 ∧ 8 ≤ (8#32).toNat ∧ (7#32).toNat < 8 ∧ (region [] []).cur.mx = none ∧
    (withArray id (region [] [])).cur.mx = some (Array2.fresh (shapeWord 0 0 1 1)) ∧ (Array2.fresh (shapeWord 0 0 1 1)).idle = true ∧
    (let a (r : MxRun) (c : Option MxCmd) := { Array2.fresh (shapeWord 0 0 1 1) with run := some r, cmd := c }
     let r := run1 1 0 true
     (a r none).idle = false ∧ r.last = false ∧ { r with entered := true }.last = true ∧ { r with entered := true, n := 2 }.last = false ∧
     r.atBoundary = true ∧ { r with loaded := true }.atBoundary = false ∧ (a r (some (command .snap 0#64))).cmd ≠ none ∧
     (a r none).snapq = none ∧ (a r none).susp = none) ∧
    descBad (descBytes 0 0) = true ∧ descBad (descBytes 33 0) = true ∧ descBad (descBytes 32 0) = false ∧
    (let s := withArray id (region (descWords 1 0x20000) [])
     (s.x 17#5).toNat % 64 = 0 ∧
     (match s.readVirt (s.x 17#5) 64 1 with
      | .ok d _ => decide (d = descBytes 1 0x20000)
      | .stop _ => false) = true) ∧ 2 ^ 32 ≤ (0x100000000#64 : Word).toNat ∧ (0xFFFFFFFF#64 : Word).toNat < 2 ^ 32 := by decide +kernel
/-- Lantern 0 with an array of one element that runs `r` and has the command `c`. -/
def working (r : Option MxRun) (c : Option MxCmd) (s : State) : State :=
  withArray (fun x => { x with run := r, cmd := c }) s
/-- MatrixEvents: an arbiter that is due and one that is not; no array, an array without a run and without a command; a run not
granted, one that waits, one whose blocks are read, one whose access fails and one that a translation fails; a k-step that ends: the
last one, and one before it with a snapshot, with a PRE and with neither. -/
theorem witness_MatrixEvents :
    (State.reset.arb 0).due = false ∧ ({ State.reset with arbs := [(0, { Arbiter.reset with due := true })] }.arb 0).due = true ∧
    (State.reset.lan 0).mx = none ∧
    (((working none none (region [] [])).lan 0).mx.any fun a => a.run.isNone && a.cmd.isNone) = true ∧
    (run1 1 0 false).granted = false ∧ heldWaits (some Miss.zero) = true ∧ heldWaits (some { Miss.zero with ask := true }) = false ∧
    ([0x20000, 2 ^ 48, 0x80000000].all fun a =>
      let r := run1 1 a true
      let x := { Array2.fresh (shapeWord 0 0 1 1) with run := some r }
      let s := working (some r) none (region [] [])
      decide ((s.lan 0).mx = some x ∧ r.granted = true ∧ r.entered = false ∧ heldWaits r.held = false) &&
      (match s.kstepBlocks 0 x r with
       | .ok _ _ => decide (a = 0x20000)
       | .err reason _ _ => decide (a = 2 ^ 48 ∧ reason ≠ 4)
       | .wait _ reason _ => decide (a = 0x80000000 ∧ reason ≠ xlCut))) = true ∧
    (let r := { run1 1 0 true with entered := true, n := 2 }
     r.granted = true ∧ r.done + 1 ≠ r.n ∧ { r with done := 1 }.done + 1 = { r with done := 1 }.n ∧
     ∀ x ∈ [(none, false), (none, true), (some (command .snap 0#64), false)],
       (withArray (fun a => { a with run := some r, snapq := x.1, stop := x.2 }) (region [] [])).cur.mx.any
         (fun a => decide (a.run = some r ∧ a.snapq = x.1 ∧ a.stop = x.2)) = true) := by decide +kernel
/-- MatrixEvents, a feed whose table walk an edge holds. -/
theorem witness_MatrixEvents_cut :
    (let r := run1 1 0x20000 true
     let x := { Array2.fresh (shapeWord 0 0 1 1) with run := some r }
     let s := { working (some r) none (region [] []) with roots := [(rootKey 0 0, 2 ^ 37)], edges := [(1, 1)] }
     (match s.kstepBlocks 0 x r with
      | .wait _ reason _ => decide (reason = xlCut)
      | _ => false) = true) := by decide +kernel
/-- MatrixEvents, the commands: one that waits; an MXWL whose blocks are read, whose access fails, and that a translation fails; an
MXOUT and an MXSNAP whose writes are performed; an MXREST at no multiple of 64, of a bad area, of another shape, and of a good area. -/
theorem witness_MatrixEvents_commands :
    ([0x20000, 2 ^ 48, 0x80000000].all fun a =>
      let c := command (.wl 3#4) (BitVec.ofNat 64 a)
      let s := working none (some c) (region [] [])
      ((s.lan 0).mx.any fun x => decide (x.cmd = some c)) && !heldWaits c.held &&
      (match s.mxReadAll 0 c.held (blockSize 3) ((List.range 1).map fun j => (List.range 1).map fun i =>
         c.a + BitVec.ofNat 64 i * c.b + BitVec.ofNat 64 (j * blockSize 3)).flatten with
       | .ok _ _ => decide (a = 0x20000)
       | .err _ _ _ => decide (a = 2 ^ 48)
       | .wait _ reason _ => decide (a = 0x80000000 ∧ reason ≠ xlCut))) = true ∧
    ([(command (.out 3#4) 0x30000#64, 2), (command .snap 0x30000#64, 8)].all fun c =>
      let s := working none (some c.1) (region [] [])
      decide (c.1.fin = false) &&
      (match s.writesAt 0 c.1.held [(c.1.a, List.replicate c.2 0#8)] with
       | .ok ps u => (u.performWrites 0 ps).any fun v => !v.postsDue
       | _ => false)) = true ∧
    (command .rest 0x20020#64).a.toNat % 64 ≠ 0 ∧ (command .rest 0x20000#64).a.toNat % 64 = 0 := by decide +kernel
/-- The bytes of a save area as dwords. -/
def areaWords (a : Array2) : List Word :=
  (List.range ((a.area 0).length / 8)).map fun i => BitVec.ofNat 64 (fieldAt (a.area 0) (8 * i) 8)
/-- Whether the area of an MXREST at 0x20000 has a good head and good accumulators. -/
def restores (s : State) (cols : Nat) : Bool × Bool :=
  match s.mxReadAll 0 none 64 [0x20000#64, 0x20040#64] with
  | .ok hs u =>
    (!areaHeadBad hs.flatten, match u.mxReadAll 0 none 24 ((List.range (32 * cols)).map fun i =>
      0x20000#64 + BitVec.ofNat 64 (128 + 24 * i)) with
      | .ok accs _ => !accs.any accBad
      | _ => false)
  | _ => (false, false)
theorem witness_MatrixEvents_restore :
    (let a := Array2.fresh (shapeWord 0 0 1 1)
     let w := areaWords a
     restores (working none (some (command .rest 0x20000#64)) (region w [])) 1 = (true, true) ∧
     (restores (working none (some (command .rest 0x20000#64)) (region (w.map fun _ => 0#64) [])) 1).1 = false ∧
     (restores (working none (some (command .rest 0x20000#64)) (region (w.take 16 ++ [1#64, 0#64, 0#64] ++ w.drop 19) [])) 1).2 = false ∧
     shapeOf (BitVec.ofNat 64 (fieldAt (a.area 0) 8 8)) = (0, 0, 1, 1)) := by decide +kernel
end Sys2Proof.Tests
end

