-- ==== Sys2Proof/Tests/WitnessLantern.lean ====
section
/-! SUPPORT. For each statement about a Lantern, concrete states and operands that meet its hypotheses, at the ends of
their ranges. Where a statement names the state `u` that a function answers, the witness shows the answer's other part. -/

-- Each theorem is checked before the next: many waiting at once want a thread each.
set_option Elab.async false

namespace Sys2Proof.Tests

open Sys2Proof Sys2Proof.Machine

/-- The lowest GiB is mapped onto itself where the table of PASID 0 says so. -/
theorem mapped_walk (u : State) (hr : u.roots.find (rootKey 0 0) = some 0x1000) (h1 : u.dword 0x1000 = 0x2001)
    (h2 : u.dword 0x2000 = 0x9D) (a : Nat) (ha : a < 2 ^ 30) :
    u.walk 0 0 a = (some { pa := a, vbase := a / 2 ^ 30 * 2 ^ 30, size := 2 ^ 30, pbase := 0, r := true, w := true, x := true,
                           c := false, tso := false }, u) := by
  have e1 : 0x1000 + 8 * (a / 2 ^ (39 - 9 * 0) % 512) = 0x1000 := by omega
  have e2 : 0x2001 / 2 ^ 12 % 2 ^ 40 * 2 ^ 12 + 8 * (a / 2 ^ (39 - 9 * 1) % 512) = 0x2000 := by omega
  have t : tableAt u.dword a 3 0x1000 = none := by
    rw [tableAt]
    simp only [show 2 - 2 = 0 from rfl, e1, h1]
    rw [if_neg (by decide), tableAt]
    simp only [show 2 - 1 = 1 from rfl, e2, h2]
    rw [if_pos (by decide)]
  have w : walkFrom u.dword a 4 0x1000 = some (0x9D, 1) := by
    rw [walkFrom]
    simp only [show 3 - 3 = 0 from rfl, e1, h1]
    rw [if_neg (by decide), if_neg (by decide), walkFrom]
    simp only [show 3 - 2 = 1 from rfl, e2, h2]
    rw [if_neg (by decide), if_pos (by decide)]
  unfold State.walk
  rw [hr]
  simp only [t, w]
  have m : a % 1073741824 = a := Nat.mod_eq_of_lt ha
  simp [leafOf, pageSize, m] <;> omega

/-- What each step keeps, a fold keeps. -/
theorem foldl_keeps {α β : Type} (P : α → Prop) (f : α → β → α) : ∀ (l : List β) (a : α), P a →
    (∀ a, P a → ∀ b ∈ l, P (f a b)) → P (l.foldl f a)
  | [], _, h, _ => h
  | b :: l, a, h, hf => foldl_keeps P f l _ (hf a h b (by simp)) fun a h b hb => hf a h b (by simp [hb])

/-- An access of Lantern 0 in the mapped GiB translates to itself. -/
theorem mapped_xlate (u : State) (va : Word) (n : Nat) (acc : LanAcc) (hp : (u.lan 0).pasid = 0) (hs : (u.lan 0).sup = true)
    (hm : u.modeOf 0 = 0#64) (hr : u.roots.find (rootKey 0 0) = some 0x1000) (h1 : u.dword 0x1000 = 0x2001)
    (h2 : u.dword 0x2000 = 0x9D) (he : u.edges = []) (ha : va.toNat + n < 2 ^ 30) :
    u.lanXlate 0 va n acc = (.at_ va.toNat .hbm false, u) := by
  have hw := mapped_walk u hr h1 h2 va.toNat (by omega)
  have hc : u.walkCut 0 0 va.toNat = false := by unfold State.walkCut; rw [he]; rfl
  have hk : u.classify va.toNat n = some .hbm := by
    unfold State.classify
    rw [if_neg (by omega), if_pos (by omega), if_pos (by omega)]
  unfold State.lanXlate
  rw [if_neg (by omega), show lanDie 0 = 0 from rfl, hm, if_neg (by simp [modeWalk]), hp, hc,
    if_neg (by simp), hw]
  dsimp only
  rw [hk]
  cases acc <;> simp [State.writeRefused, State.readRefused, Leaf.permits, hs]

/-- No edge holds an access in HBM. -/
theorem mapped_cut (u : State) (pa : Nat) (he : u.edges = []) : u.homeCut 0 pa .hbm = false := by
  unfold State.homeCut State.diesCut State.cutOff; dsimp only; rw [he]; rfl

theorem bytes_append (m : Memory) (a n k : Nat) : m.bytes a (n + k) = m.bytes a n ++ m.bytes (a + n) k := by
  induction n generalizing a with
  | zero => simp [Memory.bytes]
  | succ n ih => rw [Nat.succ_add]; simp [Memory.bytes, ih, Nat.add_assoc, Nat.add_comm 1]

/-- A read of whole dwords by Lantern 0 in the mapped GiB gives the bytes there. -/
theorem mapped_read (u : State) (va : Word) (k : Nat) (hf : u.focus = 0) (hp : (u.lan 0).pasid = 0) (hs : (u.lan 0).sup = true)
    (hm : u.modeOf 0 = 0#64) (hr : u.roots.find (rootKey 0 0) = some 0x1000) (h1 : u.dword 0x1000 = 0x2001)
    (h2 : u.dword 0x2000 = 0x9D) (he : u.edges = []) (hres : u.resident 0 = none) (hb : u.hbmBad = [])
    (h8 : va.toNat % 8 = 0) (ha : va.toNat + 8 * k < 2 ^ 29) :
    u.readVirt va (8 * k) 1 = .ok (u.mem.bytes va.toNat (8 * k)) u := by
  have hparts : dwordParts va (8 * k) = (List.range k).map fun i => (BitVec.ofNat 64 (va.toNat + 8 * i), 8) := by
    unfold dwordParts
    rw [show (va.toNat % 8 + 8 * k + 7) / 8 = k by omega]
    refine List.map_congr_left fun i hi => ?_
    have := List.mem_range.mp hi
    dsimp only
    rw [show max va.toNat (va.toNat / 8 * 8 + 8 * i) = va.toNat + 8 * i by omega,
      show min (va.toNat + 8 * k) (va.toNat / 8 * 8 + 8 * i + 8) - (va.toNat + 8 * i) = 8 by omega]
  unfold State.readVirt
  rw [hparts]
  suffices h : ∀ j, j ≤ k → List.foldl _ (Vis.ok ([] : List Byte) u) ((List.range j).map fun i => (BitVec.ofNat 64 (va.toNat + 8 * i), 8))
      = .ok (u.mem.bytes va.toNat (8 * j)) u from h k (Nat.le_refl k)
  intro j
  induction j with
  | zero => intro _; rfl
  | succ j ih =>
    intro hj
    rw [List.range_succ, List.map_append, List.foldl_append, ih (by omega)]
    dsimp only [List.map, List.foldl]
    have hn : (BitVec.ofNat 64 (va.toNat + 8 * j)).toNat = va.toNat + 8 * j := by rw [BitVec.toNat_ofNat]; omega
    rw [hf, mapped_xlate u _ 8 .load hp hs hm hr h1 h2 he (by omega)]
    dsimp only
    rw [hn, show lanDie 0 = 0 from rfl, mapped_cut u _ he, if_neg (by simp)]
    have hl : u.lanLoad 0 (va.toNat + 8 * j) 8 = (u.mem.bytes (va.toNat + 8 * j) 8, false, u) := by
      unfold State.lanLoad
      have hk : u.classify (va.toNat + 8 * j) 8 = some .hbm := by
        unfold State.classify
        rw [if_neg (by omega), if_pos (by omega), if_pos (by omega)]
      rw [hk]
      dsimp only [State.readHome, State.raiseHome, State.raiseOwed, List.foldl]
      unfold State.overlay State.hbmPoison
      rw [hres, hb]
      rfl
    rw [hl, if_neg (by simp), show 8 * (j + 1) = 8 * j + 8 by omega, bytes_append]

/-- A write of Lantern 0 in the mapped GiB, outside a staged segment, goes through. -/
theorem mapped_write (u : State) (va : Word) (bs : List Byte) (hf : u.focus = 0) (hp : (u.lan 0).pasid = 0) (hs : (u.lan 0).sup = true)
    (hm : u.modeOf 0 = 0#64) (hr : u.roots.find (rootKey 0 0) = some 0x1000) (h1 : u.dword 0x1000 = 0x2001)
    (h2 : u.dword 0x2000 = 0x9D) (he : u.edges = []) (hst : u.stagedSet 0 = none) (ha : va.toNat + bs.length < 2 ^ 29) :
    ∃ m hb, u.writeVirt va bs 1 = .ok () { u with mem := m, hbmBad := hb } := by
  unfold State.writeVirt
  extract_lets parts places
  have hplaces : ∃ qs : List (Nat × PaKind × List Byte), (∀ q ∈ qs, q.2.1 = .hbm) ∧ places = .ok qs u := by
    refine foldl_keeps (fun acc : Vis (List (Nat × PaKind × List Byte)) => ∃ qs, (∀ q ∈ qs, q.2.1 = .hbm) ∧ acc = .ok qs u) _ _ _ ⟨[], by simp, rfl⟩ ?_
    rintro _ ⟨qs, hq, rfl⟩ p hp'
    have hlt : p.1.toNat + p.2 < 2 ^ 30 := by
      simp only [parts, dwordParts, List.mem_map, List.mem_range] at hp'
      obtain ⟨i, hi, rfl⟩ := hp'
      simp only [BitVec.toNat_ofNat]
      omega
    simp only [hf, mapped_xlate u p.1 p.2 .store hp hs hm hr h1 h2 he hlt, mapped_cut u _ he, show lanDie 0 = 0 from rfl]
    refine ⟨_, ?_, rfl⟩
    intro q hq'
    rcases List.mem_append.mp hq' with h | h
    · exact hq q h
    · simp at h; subst h; rfl
  obtain ⟨qs, hq, hpl⟩ := hplaces
  rw [hpl]
  refine foldl_keeps (fun acc => ∃ m hb, acc = Vis.ok () { u with mem := m, hbmBad := hb }) _ _ _ ⟨u.mem, u.hbmBad, rfl⟩ ?_
  rintro _ ⟨m, hb, rfl⟩ q hqm
  generalize hu : ({ u with mem := m, hbmBad := hb } : State) = v
  have hv : v.focus = 0 := by rw [← hu]; exact hf
  have h : v.stagedSet 0 = none := by rw [← hu]; exact hst
  simp only [hq q hqm, hv, State.lanStore_home 0 v .hbm q.1 q.2.2 (.inl h)]
  subst hu
  exact ⟨_, _, rfl⟩

/-- Letting a region go leaves the turn as it is. -/
theorem releaseSaved_focus (s : State) (k : Nat) (h : (s.lan k).mx = none) : (s.releaseSaved k).focus = s.focus := by
  unfold State.releaseSaved State.mxDiscard State.clearRegion
  rw [h]
  show State.focus (List.foldl _ _ _) = s.focus
  refine foldl_keeps (fun t : State => t.focus = s.focus) _ _ _ ?_ ?_
  · show (s.withdraw k).focus = s.focus
    unfold State.withdraw; split <;> rfl
  · intro t ht _ _
    exact ht
/-- RegisterArithmetic: ADD with flag U. -/
theorem witness_RegisterArithmetic :
    (0x0400000000000002#64 : Word).extractLsb' 58 6 = 1#6 ∧ (0x0400000000000002#64 : Word).getLsbD 1 = true ∧
      (0x0400000000000002#64 : Word).extractLsb' 52 6 = 0#6 := by decide
/-- ShiftsAndCompare: the last legal amount and the first illegal one. -/
theorem witness_ShiftsAndCompare : (63#32).toNat ≤ 63 ∧ 63 < (64#32).toNat := by decide
/-- LoadIssues: the last aligned dword of a mapped GiB. -/
theorem witness_LoadIssues :
    (mapped [(17, 0x3FFFFFF8#64)]).cur.loads.length < 8 ∧
      ((mapped [(17, 0x3FFFFFF8#64)]).x 17#5 + (0#32).signExtend 64).toNat < 2 ^ 48 ∧
      ((mapped [(17, 0x3FFFFFF8#64)]).x 17#5 + (0#32).signExtend 64).toNat % sizeBytes .b64 = 0 ∧
      ((mapped [(17, 0x3FFFFFF8#64)]).lanXlate 0 (0x3FFFFFF8#64) (sizeBytes .b64) .load).1
        = .at_ 0x3FFFFFF8 .hbm false := by decide +kernel
/-- A load of a dword at `pa` that has not returned; `data` once its value is taken. -/
def pending (pa : Nat) (data : Option (Word × Bool)) : PendLoad :=
  { rd := 3#5, sext := true, va := BitVec.ofNat 64 pa, pa := pa, size := 8, at_ := 0x10008#64, tso := false, data := data }
/-- LoadReturns: from HBM, from a local memory, and a load whose value was taken. -/
theorem witness_LoadReturns :
    (let s := one { lead [] with loads := [pending 0x20000 none] }
     (s.lan 0).loads = [pending 0x20000 none] ∧ s.classify 0x20000 8 = some .hbm ∧ s.hbmPoison 0x20000 8 = false ∧
       s.stagedSet 0 = none ∧ s.edges = []) ∧
    (let pa := lanPa 0 1 0
     let s := one { lead [] with loads := [pending pa none] }
     s.classify pa 8 = some (.lanMem 0 0) ∧ s.stagedSet 0 = none ∧ s.edges = []) ∧
    (let s := one { lead [] with loads := [pending 0x20000 (some (7#64, true))] }
     s.loadHeld 0 0x20000 8 = false ∧ (s.lan 0).dpoi = none) := by decide +kernel
/-- StoreStores: HBM, a local memory, the engine's SRAM, and the posted writes of a Lantern's register and state register. -/
theorem witness_StoreStores :
    (let s := mapped [(17, 0x20000#64)]
     (s.x 17#5 + (0#32).signExtend 64).toNat < 2 ^ 48 ∧ (s.x 17#5 + (0#32).signExtend 64).toNat % sizeBytes .b64 = 0 ∧
       (s.lanXlate 0 0x20000#64 8 .store).1 = .at_ 0x20000 .hbm false ∧
       (s.lanXlate 0 0x20000#64 8 .store).2.homeCut 0 0x20000 .hbm = false ∧
       ((s.lanXlate 0 0x20000#64 8 .store).2.performLoads 0).stagedSet 0 = none ∧ s.cur.loads = []) ∧
    ((paged (5 * 2 ^ 48) []).lanXlate 0 0x40020000#64 8 .store).1 = .at_ (5 * 2 ^ 48 + 2 ^ 17) (.lanMem 0 0) false ∧
    ((paged (6 * 2 ^ 48) []).lanXlate 0 0x40000020#64 8 .store).1 = .at_ (6 * 2 ^ 48 + 32) (.sync 0 32) false ∧
    ((paged (6 * 2 ^ 48) []).syncPa 0 32).isSome = true ∧
    ((paged (5 * 2 ^ 48) []).lanXlate 0 0x400000F8#64 8 .store).1 = .at_ (5 * 2 ^ 48 + 0xF8) (.lanReg 0 31) false ∧
    ((paged (5 * 2 ^ 48) []).lanXlate 0 0x40040070#64 8 .store).1 = .at_ (5 * 2 ^ 48 + 0x40070) (.lanState 0 14) false ∧
    ((paged (12 * 2 ^ 48) []).lanXlate 0 0x40000010#64 8 .store).1 = .at_ (12 * 2 ^ 48 + 0x10) (.hub 0x10) false := by
  decide +kernel
/-- StoreStores: a memory tile, and a staged segment with an entry free and with none. -/
theorem witness_StoreStores_staged :
    ((paged (tileBase 1) []).lanXlate 0 0x40000000#64 8 .store).1 = .at_ (tileBase 1) (.tileData 1 0) false ∧
    (let s := withSeg { seg1 with staged := true, set := some 0 } launch1 (mapped [(17, 0x20000#64)])
     let full := s.modTile 1 fun x => { x with ver := (List.range 1024).map fun i => (i, .staged 1 i 0xF#4 0#32) }
     (s.stagedSet 0).isSome = true ∧ ownPlace 0 .hbm = false ∧ (s.stageWrite 0 0x20000 [1#8]).isSome = true ∧
       (full.stagedSet 0).isSome = true ∧ (full.stageWrite 0 0x20000 [1#8]).isNone = true) := by decide +kernel
/-- AccessFaults: beyond 48 bits, misaligned, not mapped, and refused. -/
theorem witness_AccessFaults :
    (sup [(17, 0x1000000000000#64)]).cur.loads.length < 8 ∧
    2 ^ 48 ≤ ((sup [(17, 0x1000000000000#64)]).x 17#5 + (0#32).signExtend 64).toNat ∧
    (let v := (mapped [(17, 0x1#64)]).x 17#5 + (0#32).signExtend 64
     v.toNat < 2 ^ 48 ∧ v.toNat % sizeBytes .b16 ≠ 0) ∧
    (∃ reason, reason ≠ 5 ∧ ((mapped []).lanXlate 0 0x80000000#64 8 .load).1 = .miss reason ∧
      ((mapped []).lanXlate 0 0x80000000#64 8 .store).1 = .miss reason) ∧
    SameButFree (mapped []) ((mapped []).lanXlate 0 0x80000000#64 8 .load).2 ∧
    modeXfault ((mapped []).modeOf 0) = false ∧
    (let s := (mapped []).putDword 0x2008 0x81#64
     (s.lanXlate 0 0x40000000#64 8 .store).1 = .perm ∧ (s.lanXlate 0 0x40000000#64 8 .load).1 = .perm) := by
  refine ⟨by decide +kernel, by decide +kernel, by decide +kernel, ⟨0, by decide, by decide +kernel⟩, ?_, by decide +kernel, by decide +kernel⟩
  unfold SameButFree; decide +kernel
/-- FenceCompletes: each side of its scopes, with and without a load outstanding. -/
theorem witness_FenceCompletes :
    (1#3).toNat < 2 ∧ 2 ≤ (2#3).toNat ∧ (sup []).cur.loads = [] ∧
      (let s := one { lead [] with loads := [pending 0x20000 (some (7#64, false))] }
       s.cur.loads ≠ [] ∧ ∀ p ∈ s.cur.loads, p.data.isSome = true) := by decide +kernel
/-- BranchesAndJumps: JAL to parcel 0 and below it. -/
theorem witness_BranchesAndJumps :
    0 ≤ parcelIndex (sup []).cur.pc + (0xFFFFE200#32).toInt ∧ parcelIndex (sup []).cur.pc + (0xFFFFE1FF#32).toInt < 0 := by
  decide +kernel
/-- IndirectJumps: JR's four kinds of target; JTAB's index at LEN and below it, and lines of both kinds. -/
theorem witness_IndirectJumps :
    (sup [(17, 0xFFFFFFFFFFFFFFF8#64)]).x 17#5 = 0xFFFFFFFFFFFFFFF8#64 ∧
    ((sup [(17, 0x1000C#64)]).x 17#5).extractLsb' 0 3 ≠ 0#3 ∧ ((sup [(17, 0x10080#64)]).x 17#5).extractLsb' 0 7 = 0#7 ∧
    (let v := (sup [(17, 0x10078#64)]).x 17#5
     v.extractLsb' 0 3 = 0#3 ∧ v.extractLsb' 0 7 ≠ 0#7 ∧ v ≠ 0xFFFFFFFFFFFFFFF8#64) ∧
    (let s := sup [(17, 4#64)]
     (4#16).toNat ≤ (s.x 17#5).toNat ∧ 0 ≤ parcelIndex s.cur.pc + (5#32).toInt ∧
       parcelIndex s.cur.pc + (0x80000000#32).toInt < 0 ∧ (s.x 17#5).toNat < (5#16).toNat) ∧
    (let s := (place (mapped [(17, 1#64)]) 0x10080 [0x40000000#64, 0#64, 2#64])
     let r := s.fetchLine 0 0x10080#64
     parcelAddr (parcelIndex s.cur.pc + (15#32).toInt + 1) = 0x10090#64 ∧
       (match r.1 with
        | .ok ws => decide ((ws.getD 0 0#64).extractLsb' 30 2 = 1#2 ∧ (ws.getD 2 0#64).extractLsb' 32 32 = 0#32 ∧
            0 ≤ parcelIndex s.cur.pc + ((ws.getD 2 0#64).extractLsb' 0 32).toInt)
        | .error _ => false) = true ∧ r.2.cur.pc = s.cur.pc ∧ r.2.focus = s.focus) ∧
    (let r := (mapped [(17, 1#64)]).fetchLine 0 0x10000#64
     (match r.1 with
      | .ok ws => decide ((ws.getD 0 0#64).extractLsb' 30 2 ≠ 1#2)
      | .error _ => false) = true ∧ parcelAddr (parcelIndex (mapped []).cur.pc + (0#32).toInt + 1) = 0x10010#64) := by
  decide +kernel
/-- SystemInstructions, PrivilegedInUserMode: each mode. -/
theorem witness_SystemInstructions :
    (sup []).cur.sup = true ∧ (sup []).loadsOut 0 = false ∧ (user []).cur.sup = false ∧
      (one { lead [] with loads := [pending 0x20000 none] }).loadsOut 0 = true ∧
      (one { lead [] with loads := [pending 0x20000 none] }).cur.sup = true := by decide +kernel
/-- StateRegisterReads: the last register, the first number beyond, and a user's reads on each side. -/
theorem witness_StateRegisterReads :
    0x12 ≤ (0x12#32).toNat ∧ (0x11#32).toNat < 0x12 ∧ (sup []).cur.sup = true ∧ (user []).cur.sup = false ∧
      (17#32).toNat ∈ [0, 6, 7, 8, 9, 10, 11, 14, 15, 17] ∧ (16#32).toNat ∉ [0, 6, 7, 8, 9, 10, 11, 14, 15, 17] := by
  decide +kernel
/-- StateRegisterWrites: numbers on each side, and a ring that fits exactly and one that does not. -/
theorem witness_StateRegisterWrites :
    (0x11#32).toNat ∉ [0, 1, 2, 3, 4, 5, 0xC, 0xD, 0xE, 0xF, 0x10] ∧ (user []).cur.sup = false ∧
      (0x10#32).toNat ∈ [0, 1, 2, 3, 4, 5, 0xC, 0xD, 0x10] ∧ (user []).loadsOut 0 = false ∧ (sup []).cur.sup = true ∧
      (sup []).loadsOut 0 = false ∧ (one { lead [] with loads := [pending 0x20000 none] }).loadsOut 0 = true ∧
      (let v := (sup [(17, 0xB00000#64)]).x 17#5
       (v.extractLsb' 20 4).toNat ≤ 11 ∧ (v.extractLsb' 5 12).toNat * 32 + 32 * 2 ^ (v.extractLsb' 20 4).toNat ≤ 0x10000) ∧
      (let v := (sup [(17, 0xB00020#64)]).x 17#5
       ¬ ((v.extractLsb' 20 4).toNat ≤ 11 ∧ (v.extractLsb' 5 12).toNat * 32 + 32 * 2 ^ (v.extractLsb' 20 4).toNat ≤ 0x10000)) := by
  decide +kernel
/-- DmovMoves: each misaligned operand, a move to make, and the last one made. -/
theorem witness_DmovMoves :
    ((sup [(1, 4#64)]).x 1#5).toNat % 8 ≠ 0 ∧
    (let s := sup [(1, 8#64), (2, 4#64)]; (s.x 1#5).toNat % 8 = 0 ∧ (s.x 2#5).toNat % 8 ≠ 0) ∧
    (let s := sup [(1, 8#64), (2, 8#64), (3, 4#64)]
     (s.x 1#5).toNat % 8 = 0 ∧ (s.x 2#5).toNat % 8 = 0 ∧ (s.x 3#5).toNat % 8 ≠ 0) ∧
    (let s := sup [(1, 8#64), (2, 8#64), (3, 0#64)]
     (s.x 1#5).toNat % 8 = 0 ∧ (s.x 2#5).toNat % 8 = 0 ∧ (s.x 3#5).toNat % 8 = 0 ∧ (s.x 3#5).toNat / 8 ≤ s.cur.emicro.toNat) ∧
    (let s := mapped [(1, 0x20000#64), (2, 0x30000#64), (3, 8#64)]
     (s.x 3#5).toNat % 8 = 0 ∧ s.cur.emicro.toNat < (s.x 3#5).toNat / 8 ∧ s.cur.loads = [] ∧ s.stagedSet 0 = none ∧
       (s.lanXlate 0 (s.x 2#5 + 8#64 * s.cur.emicro) 8 .load).1 = .at_ 0x30000 .hbm false ∧
       s.classify 0x30000 8 = some .hbm ∧ s.hbmPoison 0x30000 8 = false ∧
       ((s.lanXlate 0 (s.x 2#5 + 8#64 * s.cur.emicro) 8 .load).2.lanXlate 0 (s.x 1#5 + 8#64 * s.cur.emicro) 8 .store).1
         = .at_ 0x20000 .hbm false) := by decide +kernel
/-- BoundaryTraps: a fetch from a page that is not mapped, away from TVEC and at it, and the three traps at a boundary. -/
theorem witness_BoundaryTraps :
    (let s := sup []
     (s.lan 0).st = .run ∧ fetchFaults (s.fetch 0).1 cFETCH = true ∧
       (s.lan 0).tvec ≠ (s.lan 0).pc ∧ ((s.fetch 0).2.lan 0).pc = (s.lan 0).pc) ∧
    (let s := one { lead [] with came := .start, tvec := 0x10008#64 }
     fetchFaults (s.fetch 0).1 cFETCH = true ∧ ((s.fetch 0).2.lan 0).sup = true ∧
       ((s.fetch 0).2.lan 0).came = .start ∧ ((s.fetch 0).2.lan 0).pc = ((s.fetch 0).2.lan 0).tvec) ∧
    (let s := (mapped []).modLan 0 fun l => { l with status := 0#64, budget := 0#64 }
     s.boundaryAt 0 = some (0#64, 0x10010#64) ∧ (s.lan 0).budget = 0#64 ∧ (s.lan 0).sup = false) ∧
    (let s := (mapped []).modLan 0 fun l => { l with status := 5#64, tail := 1#16 }
     s.boundaryAt 0 = some (0#64, 0x10010#64) ∧ (s.lan 0).budgetDue = false ∧ (s.lan 0).ie = true ∧
       (s.lan 0).head.toNat % 2 ^ (s.lan 0).fqsize.toNat ≠ (s.lan 0).tail.toNat % 2 ^ (s.lan 0).fqsize.toNat) ∧
    (let s := (mapped []).modLan 0 fun l => { l with dpoi := some (8#64, 0x10008#64) }
     s.boundaryAt 0 = some (0#64, 0x10010#64) ∧ (s.lan 0).budgetDue = false ∧ (s.lan 0).queueDue = false ∧
       (s.lan 0).dpoi = some (8#64, 0x10008#64)) := by decide +kernel
/-- ConfigurationLoads: misaligned; a full table; an image that fails at its QUOTA and one that passes, with an element that
an array holds and with none, and its context loaded, running and free. -/
theorem witness_ConfigurationLoads :
    ((sup [(17, 0x20020#64)]).x 17#5).toNat % 64 ≠ 0 ∧ ((sup [(17, 0x20040#64)]).x 17#5).toNat % 64 = 0 ∧
    (let s := region image (List.replicate 8 (entry true true)); 8 ≤ s.cur.cfgs.length ∧ ∃ x ∈ s.cur.cfgs, x.addr = s.x 17#5) ∧
    loaded (region (0x0000000000000004#64 :: image.drop 1) []) (fun raw u => decide (lowestOf (u.imageFails raw) = some 3)) = true ∧
    (∀ b : Bool, loaded (if b then (region holdImage []).modLan 0 fun l => { l with mx := some (Array2.fresh (shapeWord 0 0 1 1)) }
        else region holdImage [])
      (fun raw u => decide (lowestOf (u.imageFails raw) = none ∧ (∀ el ∈ u.imageEls u.focus raw.image, el ∉ u.spareHeld)) &&
        (u.imageEls u.focus raw.image).all fun el => (u.arrayAt el).isSome == b) = true) ∧
    (∀ i < 4, loaded (region image ([[], [{ entry true true with addr := 0x40#64 }],
          [{ entry true false with addr := 0x40#64 }], [{ entry false false with addr := 0x40#64 }]].getD i []))
      (fun raw u => decide (lowestOf (u.imageFails raw) = none ∧ u.cur.pickCtx raw.image.ctx = some 0 ∧
        u.thirdCtx u.focus 0 raw.image = false ∧
        (i < 2 → ∀ x ∈ u.cur.cfgs, x.ctx = 0 → x.done = true) ∧
        (i = 2 → ∀ x ∈ u.cur.cfgs, x.ctx = 0 ∧ x.done = false ∧ x.armed = true) ∧
        (i = 3 → ∃ x ∈ u.cur.cfgs, x.ctx = 0 ∧ x.done = false ∧ x.armed = false))) = true) := by decide +kernel
/-- ConfigurationUses: the address absent, loaded, armed and completed. -/
theorem witness_ConfigurationUses :
    (∀ x ∈ (region image []).cur.cfgs, x.addr = (region image []).x 17#5 → False) ∧
    (∀ b c : Bool, (region image [entry b c]).cur.cfg? ((region image [entry b c]).x 17#5) = some (entry b c)) ∧
    (entry false false).armed = false ∧ (entry true false).done = false ∧ (entry true true).done = true ∧
    (entry true true).ctx < 8 := by decide +kernel
/-- ConfigurationCompletes: an entry that runs on for its iterations, and one that has completed. -/
theorem witness_ConfigurationCompletes :
    (let x := { entry true false with img := { (entry true false).img with iters := 1 } }
     let s := region image [x]
     (s.lan 0).cfgs[0]? = some x ∧ x.done = false ∧ s.cfgDone 0 x = false) ∧
    (let x := entry true false
     let s := region image [x]
     (s.lan 0).cfgs[0]? = some x ∧ x.done = false ∧ s.cfgDone 0 x = true ∧
       (((s.ctxElems 0 0).foldl (fun s el => s.switchCtx el 0) s).lan 0).cfgs[0]? = some x) := by decide +kernel
/-- PreemptionSaves: an area that is misaligned, a load outstanding, a port that has still to push, and a quiet region. -/
theorem witness_PreemptionSaves :
    ((sup [(17, 0x20040#64)]).x 17#5).toNat % 4096 ≠ 0 ∧ ((sup [(17, 0x20000#64)]).x 17#5).toNat % 4096 = 0 ∧
    (one { lead [] with loads := [pending 0x20000 none] }).ownQuiet 0 = false ∧ (region image []).ownQuiet 0 = true ∧
    (let c : MxCmd := { kind := .snap, rd := 0#5, a := 0#64, b := 0#64, held := none, fin := false, wants := none }
     let s := (region image []).modLan 0 fun l => { l with mx := some { Array2.fresh (shapeWord 0 0 1 1) with cmd := some c } }
     s.ownQuiet 0 = true ∧ ∀ b : Bool, (s.beginPre 0 b).preReady 0 b = false) ∧
    (∀ b : Bool, ((region image []).beginPre 0 b).preReady 0 b = true) := by decide +kernel
/-- PreemptionSaves: the area of a quiet region is written and its region released, whatever bytes its body holds. -/
theorem witness_PreemptionSaves_written (b : Bool) :
    let u := (((region image []).beginPre 0 b).accrueCtxs 0).mxAccrue 0
    ∀ a bs, u.buildArea 0 b (afterParcels u.cur.pc 1) 3#5 none = (a, bs) →
      ∃ v, u.writeVirt ((region image []).x 17#5) bs 1 = .ok () v ∧ ((v.keepArea a).releaseSaved 0).focus = 0 := by
  intro u a bs h
  have hlen : bs.length < 2 ^ 28 := by
    have : bs = (u.buildArea 0 b (afterParcels u.cur.pc 1) 3#5 none).2 := by rw [h]
    rw [this]
    have hc : (u.lan 0).regW * (u.lan 0).regH = 1 := by cases b <;> decide +kernel
    have hl : bodyLen b 1 u.saves.length ≤ 0x300000 := by
      unfold bodyLen
      have := Nat.mod_lt (Config.savePad u.saves.length) (show 0 < areaBound b 1 - 71 by cases b <;> decide)
      have : areaBound b 1 ≤ 0x214000 := by cases b <;> decide
      omega
    simp only [State.buildArea, hc, areaHeader, bodyBytes, List.length_append, length_leBytes, List.length_map, List.length_range,
      List.length_take]
    omega
  obtain ⟨m, hb, hw⟩ := mapped_write u ((region image []).x 17#5) bs (by cases b <;> decide +kernel) (by cases b <;> decide +kernel)
    (by cases b <;> decide +kernel) (by cases b <;> decide +kernel) (by cases b <;> decide +kernel) (by cases b <;> decide +kernel)
    (by cases b <;> decide +kernel) (by cases b <;> decide +kernel) (by cases b <;> decide +kernel)
    (by have : ((region image []).x 17#5).toNat = 0x20000 := by decide +kernel
        omega)
  have hx : (u.lan 0).mx = none := by cases b <;> decide +kernel
  have hf : u.focus = 0 := by cases b <;> decide +kernel
  refine ⟨_, hw, (releaseSaved_focus _ 0 ?_).trans ?_⟩
  · exact hx
  · exact hf

/-- The header of a save area of no body, with the check of nothing. -/
def areaHead (kind : Nat) : List Word :=
  [BitVec.ofNat 64 (64 + kind * 2 ^ 32 + 4 * 2 ^ 40), 0#64, 0x10040#64, 0#64, 0xBDB8EF7E35E183CF#64, 0#64, 0#64, 0#64]
/-- The body of a save area, and its header. -/
def areaBody : List Byte := bodyBytes 0 8
def areaHdr : List Byte := areaHeader 72 0 0 0 0x10040#64 0#64 ((sha512 areaBody).take 8)
/-- The contents of that area, for a region with these configurations, this array and this window on a tile. -/
def area (xs : List CfgEntry) (mx : Option SavedMx) (wins : List (Nat × Nat × Win × List VEnt)) : Saved :=
  { hdr := areaHdr, body := 8, origin := 0, w := 1, h := 1, regs := [],
    fpmode := 0#64, fpflags := 0#64, ring := (0, 0), local_ := [], cfgs := xs, spaces := [], waits := [], phsw := none,
    ports := [], wins := wins, elems := [], inch := [], chans := [], ovfl := [], reqs := [], recs := [], mx := mx, lanst := none }
/-- A region with what has been stored at 0x20000, and the configurations `ys`. -/
def storedRegion (m : State) (bs : List Byte) (saves : Tab Saved) (ys : List CfgEntry) : State :=
  { m.modLan 0 (fun l => { l with cfgs := ys, region := 0x10100#64 }) with mem := m.mem.store 0x20000 bs, saves := saves }
/-- A region with that area at 0x20000, and the configurations `ys`. -/
def resuming (a : Saved) (ys : List CfgEntry) : State :=
  storedRegion (mapped [(17, 0x20000#64), (18, 0x20040#64)]) (areaHdr ++ areaBody) [(0, a)] ys
/-- Whether the header at 0x20000 and the body after it read, in this state and to this effect. -/
def readsArea (s : State) (P : List Byte → List Byte → State → Bool) : Bool :=
  match (s.performLoads s.focus).readVirt 0x20000#64 64 1 with
  | .ok h u =>
    match u.readVirt 0x20040#64 (fieldAt h 0 4 - 64) 1 with
    | .ok body v => P h body v
    | .stop _ => false
  | .stop _ => false
theorem sha_length : ((sha512 areaBody).take 8).length = 8 := by decide +kernel
/-- A header whose check has eight bytes: its length, its size, its kind, and the check in its place. -/
theorem hdr_fields (c : List Byte) (hc : c.length = 8) :
    let h := areaHeader 72 0 0 0 0x10040#64 0#64 c
    h.length = 64 ∧ fieldAt h 0 4 = 72 ∧ headerBad h = false ∧ (h.drop 0x20).take 8 = c := by
  match c, hc with
  | [_, _, _, _, _, _, _, _], _ => exact ⟨rfl, rfl, rfl, rfl⟩
/-- What has been stored at 0x20000 reads back, 64 bytes and then eight, in a state that maps the lowest GiB. -/
theorem reads_back (b : State) (h d : List Byte) (saves : Tab Saved) (hh : h.length = 64) (hd : d.length = 8)
    (hf : b.focus = 0) (hp : (b.lan 0).pasid = 0) (hs : (b.lan 0).sup = true) (hm : b.modeOf 0 = 0#64)
    (hr : b.roots.find (rootKey 0 0) = some 0x1000) (h1 : b.dword 0x1000 = 0x2001) (h2 : b.dword 0x2000 = 0x9D)
    (he : b.edges = []) (hres : b.resident 0 = none) (hb : b.hbmBad = []) (hl : (b.lan 0).loads = []) (s : State)
    (hu : s = { b with mem := b.mem.store 0x20000 (h ++ d), saves := saves }) :
    (s.performLoads s.focus).readVirt 0x20000#64 64 1 = .ok h s ∧ s.readVirt 0x20040#64 8 1 = .ok d s := by
  have hdw : ∀ pa, pa + 8 ≤ 0x20000 → s.dword pa = b.dword pa := by
    intro pa hpa
    have : ∀ n a, a + n ≤ 0x20000 → (b.mem.store 0x20000 (h ++ d)).bytes a n = b.mem.bytes a n := by
      intro n
      induction n with
      | zero => intro _ _; rfl
      | succ n ih =>
        intro a ha
        unfold Memory.bytes
        rw [ih (a + 1) (by omega), Memory.read_store_out _ _ _ _ (.inl (by omega))]
    rw [hu]
    exact congrArg leNat (this 8 pa hpa)
  have e1 := (hdw 0x1000 (by decide)).trans h1
  have e2 := (hdw 0x2000 (by decide)).trans h2
  have hmem : s.mem.bytes 0x20000 72 = h ++ d := by
    have := Memory.bytes_store b.mem 0x20000 (h ++ d)
    rw [List.length_append, hh, hd] at this
    rw [hu]
    exact this
  rw [show 72 = 64 + 8 from rfl, bytes_append] at hmem
  have hbl : ∀ m a n, (Memory.bytes m a n).length = n := by
    intro m a n
    induction n generalizing a with
    | zero => rfl
    | succ n ih => unfold Memory.bytes; rw [List.length_cons, ih]
  have hq := List.append_inj hmem (by rw [hbl, hh])
  have fields : s.focus = 0 ∧ (s.lan 0).pasid = 0 ∧ (s.lan 0).sup = true ∧ s.modeOf 0 = 0#64 ∧
      s.roots.find (rootKey 0 0) = some 0x1000 ∧ s.edges = [] ∧ s.resident 0 = none ∧ s.hbmBad = [] ∧ (s.lan 0).loads = [] := by
    subst hu
    exact ⟨hf, hp, hs, hm, hr, he, hres, hb, hl⟩
  obtain ⟨f1, f2, f3, f4, f5, f6, f7, f8, f9⟩ := fields
  have r : ∀ va k, va.toNat % 8 = 0 → va.toNat + 8 * k < 2 ^ 29 → s.readVirt va (8 * k) 1 = .ok (s.mem.bytes va.toNat (8 * k)) s :=
    fun va k h8 ha => mapped_read s va k f1 f2 f3 f4 f5 e1 e2 f6 f7 f8 h8 ha
  refine ⟨?_, ?_⟩
  · rw [f1, State.performLoads_nil _ _ f9]
    refine (r 0x20000#64 8 (by decide) (by decide)).trans ?_
    exact congrArg (fun b => Vis.ok b s) hq.1
  · refine (r 0x20040#64 1 (by decide) (by decide)).trans ?_
    exact congrArg (fun b => Vis.ok b s) hq.2
/-- The same of a region of that state, whatever its configurations are. -/
theorem reads_back_region (m : State) (h d : List Byte) (saves : Tab Saved) (hh : h.length = 64) (hd : d.length = 8)
    (ys : List CfgEntry) (hf : m.focus = 0) (hs : (m.lan 0).pasid = 0 ∧ (m.lan 0).sup = true ∧ (m.lan 0).loads = [])
    (hm : m.modeOf 0 = 0#64) (hr : m.roots.find (rootKey 0 0) = some 0x1000) (h1 : m.dword 0x1000 = 0x2001)
    (h2 : m.dword 0x2000 = 0x9D) (he : m.edges = []) (hres : m.resident 0 = none) (hb : m.hbmBad = []) (s : State)
    (hu : s = storedRegion m (h ++ d) saves ys) :
    (s.performLoads s.focus).readVirt 0x20000#64 64 1 = .ok h s ∧ s.readVirt 0x20040#64 8 1 = .ok d s := by
  have hlan : (m.modLan 0 fun l => { l with cfgs := ys, region := 0x10100#64 }).lan 0
      = { m.lan 0 with cfgs := ys, region := 0x10100#64 } := State.lan_modLan_self ..
  exact reads_back (m.modLan 0 fun l => { l with cfgs := ys, region := 0x10100#64 }) h d saves hh hd hf (by rw [hlan]; exact hs.1)
    (by rw [hlan]; exact hs.2.1) hm hr h1 h2 he hres hb (by rw [hlan]; exact hs.2.2) s hu
theorem mapped_facts :
    let m := mapped [(17, 0x20000#64), (18, 0x20040#64)]
    m.focus = 0 ∧ ((m.lan 0).pasid = 0 ∧ (m.lan 0).sup = true ∧ (m.lan 0).loads = []) ∧ m.modeOf 0 = 0#64 ∧
      m.roots.find (rootKey 0 0) = some 0x1000 ∧ m.dword 0x1000 = 0x2001 ∧ m.dword 0x2000 = 0x9D ∧ m.edges = [] ∧
      m.resident 0 = none ∧ m.hbmBad = [] := by decide +kernel
/-- The area at 0x20000 reads, its header passes, its check matches, and it is the area that was saved. -/
theorem resumes (a : Saved) (ys : List CfgEntry) (h1 : a.hdr = areaHdr) (h2 : a.body = 8) :
    let s := resuming a ys
    (s.performLoads s.focus).readVirt 0x20000#64 64 1 = .ok areaHdr s ∧ headerBad areaHdr = false ∧
      s.readVirt 0x20040#64 (fieldAt areaHdr 0 4 - 64) 1 = .ok areaBody s ∧
      (sha512 areaBody).take 8 = (areaHdr.drop 0x20).take 8 ∧ s.areaOf areaHdr areaBody = some a := by
  have hf := hdr_fields _ sha_length
  obtain ⟨m1, m2, m3, m4, m5, m6, m7, m8, m9⟩ := mapped_facts
  have back := reads_back_region (mapped [(17, 0x20000#64), (18, 0x20040#64)]) areaHdr areaBody [(0, a)] hf.1
    (by simp [areaBody, bodyBytes, length_leBytes]) ys m1 m2 m3 m4 m5 m6 m7 m8 m9 (resuming a ys) rfl
  refine ⟨back.1, hf.2.2.1, ?_, hf.2.2.2.symm, ?_⟩
  · rw [show fieldAt areaHdr 0 4 = 72 from hf.2.1]
    exact back.2
  · show ((List.find? _ [(0, a)]).map (·.2)) = some a
    simp [h1, h2, areaBody]
/-- PreemptionResumes: a header that fails, and a check that does not match. -/
theorem witness_PreemptionResumes :
    readsArea (region (areaHead 2) []) (fun h _ _ => headerBad h) = true ∧
    readsArea (region ((areaHead 0).set 4 0#64) []) (fun h body v =>
      !headerBad h && decide ((sha512 body).take 8 ≠ (h.drop 0x20).take 8 ∧ v.focus = 0)) = true ∧
    readsArea (region (areaHead 0) []) (fun h body v =>
      !headerBad h && decide ((sha512 body).take 8 = (h.drop 0x20).take 8) && (v.areaOf h body).isNone) = true := by decide +kernel
/-- An array in an area: of `r` rows, with the accumulator `acc`. -/
def savedMx (r : Nat) (acc : Tab Acc) : SavedMx :=
  { row0 := 0, col0 := 0, r := r, c := 1, acc := acc, mxks := 0#64, mxovf := 0#64, flags := 0#5, prio := 0, slow := false,
    lastM := 0, run := none }
/-- PreemptionResumes, of an area that `resumes` reads: an array that MXREST refuses, a region too small, an array that MXON
refuses, a configuration that runs, a window that finds no room, and an area that is put back. -/
theorem witness_PreemptionResumes_area :
    (area [] (some (savedMx 1 [(0, { wacc := wZero false, nacc := 1, v := false, eref := 0 })])) []).mxBad = true ∧
    (let big := { entry true true with img := { (entry true true).img with width := 9 } }
     (area [big] none []).mxBad = false ∧ (resuming (area [big] none []) []).tooSmall 0 (area [big] none []) = true) ∧
    (let a := area [] (some (savedMx 33 [])) []
     a.mxBad = false ∧ (resuming a []).tooSmall 0 a = false ∧ (resuming a []).mxRefused 0 a = true) ∧
    (let a := area [] none []
     a.mxBad = false ∧ (resuming a []).tooSmall 0 a = false ∧ (resuming a []).mxRefused 0 a = false ∧
       (resuming a []).winsFit 0 a = true ∧ (resuming a []).x 17#5 = 0x20000#64 ∧ ∀ b : Bool, (resuming a [entry true b]).cur.cfgs = [entry true b]) := by
  decide +kernel
/-- EncodeThenDecode: an instruction with legal fields for each reader. -/
theorem witness_EncodeThenDecode :
    wellFormed (.shl 31#5 31#5 (.imm 63#32)) = true ∧ wellFormed (.srr 3#5 0x11#32) = true ∧ wellFormed (.li 0#5 0#64) = true ∧
      wellFormed (.swait 0xFFFFFFFFFFF0#48) = true ∧ (∃ i, decodeSlot 0x4020108000000000#64 = some i ∧ wellFormed i = true) := by
  refine ⟨?_, ?_, ?_, ?_, _, rfl, ?_⟩ <;> decide +kernel
/-- `LinePermits`, computed. -/
def linePermits (l : Lantern) (ws : List Word) : Bool :=
  decide (l.pc.toNat % 8 = 0 ∧ l.pc.toNat % 128 ≠ 0 ∧ (ws.getD 0 0#64).extractLsb' 30 2 = 0#2 ∧
    (ws.getD 0 0#64).extractLsb' 32 32 = 4#32 ∧ (ws.getD 0 0#64).getLsbD (l.pc.toNat % 128 / 8 - 1) = true ∧
    (l.came = .seq ∨ l.came = .start ∨ (ws.getD 0 0#64).getLsbD (15 + (l.pc.toNat % 128 / 8 - 1)) = true))
theorem linePermits_iff (l : Lantern) (ws : List Word) : linePermits l ws = true ↔ LinePermits l ws := decide_eq_true_iff
/-- What the premises of a Lantern's step come to, for the line at 0x10000 and the agenda of `s`. -/
def fetches (s : State) (P : State → State → List Word → Instr → Bool) : Bool :=
  let u := { { s with agenda := [] }.tickBy 1 with focus := 0 }
  match u.fetchLine 0 ((u.lan 0).pc &&& ~~~127#64) with
  | (.ok ws, v) =>
    match decodeLantern (parcelAt (u.lan 0) ws) (parcelAfter (u.lan 0) ws) with
    | .ok i => linePermits (u.lan 0) ws && decide ((u.lan 0).st = .run ∧ heldWaits (u.lan 0).xheld = false ∧ (u.lan 0).inRetire = false) && P u v ws i
    | .error _ => false
  | _ => false
/-- StepRunsDecoded, PrivilegedInUserMode: a Lantern at an instruction of one parcel, one of two, and a privileged one in each
mode; an element whose slot has issued; a port's program. -/
theorem witness_StepRunsDecoded :
    ([0x040210A000000000#64, 0x0843800000000001#64, 0x1850000000000000#64].all fun p =>
      fetches (placed p 7#64 []) fun u v ws i =>
        decide (twoParcels i = true → (u.lan 0).pc.toNat % 128 / 8 < 15 ∧
          (ws.getD 0 0#64).getLsbD ((u.lan 0).pc.toNat % 128 / 8) = false) &&
        (u.lan 0).sup && !(v.lan 0).budgetDue && !(v.lan 0).queueDue && (v.lan 0).dpoi.isNone &&
        !(u.lan 0).stalls (refine (u.lan 0) i) && !v.frozen 0) = true ∧
    (placed 0#64 7#64 []).down = none ∧ (placed 0#64 7#64 []).agenda = [.lantern 0] := by decide +kernel
theorem witness_PrivilegedInUserMode :
    (let s := (placed 0x1850000000000000#64 0#64 []).modLan 0 fun l => { l with status := 0#64 }
     s.down = none ∧ s.agenda = [.lantern 0] ∧ fetches s (fun u v _ i => needsSup i && !(u.lan 0).sup && !(v.lan 0).sup) = true) := by
  decide +kernel
theorem witness_StepRunsDecoded_units :
    (let s := State.reset.placeSlot 0x4020108000000000#64
     s.down = none ∧ s.agenda = [.element 0] ∧ (s.el 0).firing.isSome = true ∧
       (s.el 0).core.slots.find 0 = some { ctx := 0, instr := 0x4020108000000000#64, route := 0#64 } ∧
       (decodeSlot 0x4020108000000000#64).isSome = true) ∧
    (let s := State.reset.placeStream 0x9024000000006000#64 0#64
     s.down = none ∧ s.agenda = [.port 4] ∧ (∃ g ∈ (s.port 4).prog, g.armed = true ∧ g.pc < g.parcels.length) ∧
       (decodeStream 0x9024000000006000#64 0#64).isSome = true) := by decide +kernel
end Sys2Proof.Tests
end

