-- ==== Sys2Proof/Tests/WitnessUnits.lean ====
section
/-! SUPPORT. For each statement about ports, buffers, segments, synchronisation, copies, links and the package's units,
concrete states and operands that meet its hypotheses, at the ends of their ranges. Where a statement names the state `u`
that a function answers, the witness shows the answer's other part. -/

-- Each theorem is checked before the next: many waiting at once want a thread each.
set_option Elab.async false

namespace Sys2Proof.Tests

open Sys2Proof Sys2Proof.Machine

/-- A bank access of an element of Lantern 0's region. -/
def banked : BankReq :=
  { src := 0, client := 0, pos := 0, g := 0, b := 0, row := 0, store := false, mask := 0#4, data := 0#32, waited := false, lead := some 0 }
/-- A stream handle of format 3 at 0x20000, with four elements. -/
def handle (input : Bool) (pos limit : Nat) : Handle :=
  { input := input, fmt := 3, lay := 0#2, rtz := false, ord := false, grp := false, uni := 0, count := 4, stride := 8#16,
    line := 0x20000#64, cur := 0x20000#64, pos := pos, limit := limit, idx := [], nextW := 0, written := [], tr := none, flags := 0#5 }
/-- A running program of the region of Lantern 0. -/
def program (waitPh : Option (Nat × BitVec 32)) : Prog :=
  { parcels := [0#64, 0#64], pc := 0, ctx := 0, lan := 0, armed := true, binds := [], loops := [], wins := [], waitPh := waitPh,
    xheld := none }
/-- A port with a program and a handle 0. -/
def portWith (g : Prog) (hs : List (Nat × Handle)) : Port := { Port.reset with prog := some g, hs := hs }
/-- Port 0 of memory tile 1 as `q`, in the region of Lantern 0, whose GiB at 0x40000000 is mapped to `base`. -/
def ported (base : Nat) (q : Port) : State :=
  let s := (withSeg seg1 launch1 (region [] [])).putDword 0x2008 (BitVec.ofNat 64 (base + 0x9D))
  { s with prt := 4, ports := [(4, q)] }
/-- Whether an address of a port names a synchronisation object. -/
def portNames (s : State) (addr a : Nat) (wr : Bool) : Bool :=
  match s.portSync 4 (s.port 4) (program none) addr wr with
  | .at_ d b _ => decide (d = 0 ∧ b = a)
  | .stop _ => false
/-- A phaser of two members in phase 5. -/
def phaserWords : List Word := [0x1000000000000005#64, 0x200000000#64, 0#64, 0#64]
/-- StreamCommands: a handle at each end of its released elements, and one not done; a window open, free and in the way of
another, with room and without; a port that is idle; a synchronisation object, aligned and not, there and not, its phase
over and not. -/
theorem witness_StreamCommands :
    (∀ n : Fin 5, (((ported 0 (portWith (program none) [(0, handle true 0 n.val)])).port 4).hs.find 0) = some (handle true 0 n.val)) ∧
    ((ported 0 (portWith (program none) [(0, handle true 0 1)])).handleDone 4 0 = false ∧
      (ported 0 (portWith (program none) [(0, handle true 0 0)])).handleDone 4 0 = true) ∧
    (handle true 0 1).pos ≠ (handle true 0 1).limit ∧ (handle true 1 1).pos = (handle true 1 1).limit ∧
    ((program none).loops.find 0).getD (1#16).toNat - 1 = 0 ∧ 0 < ((program none).loops.find 0).getD (0xFFFF#16).toNat - 1 ∧
    (let w : Win := { first := 0, nw := 8, ent := 0, p := 0, port := 4 }
     let s : State := (ported 0 (portWith (program none) [])).modTile 1 fun x => { x with wins := [(1, w)] }
     (s.tile (portTile 4)).wins.find 0 = none ∧ (s.tile (portTile 4)).wins.find 1 = some w ∧
       (∃ e ∈ (s.tile (portTile 4)).wins, 7 < e.2.first + e.2.nw ∧ e.2.first < 7 + 1) ∧
       (∀ e ∈ (s.tile (portTile 4)).wins, ¬ (e.1 = 0 ∨ 8 < e.2.first + e.2.nw ∧ e.2.first < 8 + 1)) ∧
       (s.tile (portTile 4)).freeEnts = 1024) ∧
    (let s := ported 0 (portWith (program none) [])
     (s.port 4).outq = [] ∧ (s.tile (portTile 4)).bankq = [] ∧ (s.port 4).hs = [] ∧ (program none).waitPh = none) ∧
    portNames (ported 0 (portWith (program none) [])) 0xFFF8 0x10FFF8 false = true ∧
    portNames (ported (6 * 2 ^ 48) (portWith (program none) [])) 0x40000020 0x20 true = true ∧ 0x10FFF8 % 32 ≠ 0 ∧
    (ported 0 (portWith (program none) [])).phaseAt 0 0x20 = none ∧
    (place (ported 0 (portWith (program none) [])) (6 * 2 ^ 48 + 0x20) phaserWords).phaseAt 0 0x20 = some 5 ∧
    phaseDone 5 5#32 = false ∧ phaseDone 5 4#32 = true ∧ phaseDone 5 0x80000005#32 = true ∧
    { ported 0 (portWith (program none) []) with beacons := [] }.resident 0 = none := by decide +kernel
/-- An element that a port has issued. -/
def issued (st : ReqSt) (n : Nat) : StreamReq :=
  { h := 0, n := n, va := 0x40000008#64, line := 0x40000000#64, idx := none, gath := false, st := st, data := [], bad := false, miss := Miss.zero,
    uni := false }
/-- StreamEvents: a program loaded and armed; an element to issue and none; a read that waits, one whose iteration is parked, and one
that goes; a token of another context, beyond COUNT, beyond the window of 64, poisoned, of a refused format, and written. -/
theorem witness_StreamEvents :
    (let g := program none
     ({ g with armed := false }.armed = false ∧ g.armed = true ∧ g.pc < g.parcels.length) ∧
     ((handle true 1 1).limit ≤ (handle true 1 1).pos ∧ (handle true 0 1).pos < (handle true 0 1).limit ∧
       (handle true 0 1).cur.toNat % (handle true 0 1).align = 0) ∧
     ([0, 1].all fun n =>
       let q := { portWith g [(0, handle false 2 2)] with outq := [issued .done n] }
       let s := (ported 0 q).modLan 0 fun l => { l with
         cfgs := [{ entry true false with img := { (entry true false).img with spaces := [(0, 1)] } }]
         spaces := [(0, { st := .open, k := 1, base := 0, next := 0, emitted := [], parent := none, ret := none })] }
       decide ((q.outq.find? fun y => decide (y.h = 0 ∧ y.n = n)) = some (issued .done n)) &&
         decide (s.windowOf (some 0) (tileDie (portTile 4)) (s.elemTag 4 g n) n = if n = 0 then .ok else .park)) = true ∧
     (let a (t : Token) : Arrival := { cond := false, bad := false, slot := 0#5, port := 0#2, tok := t, src := 1, old := false }
      let q (t : Token) := { portWith g [(0, handle true 2 4)] with outq := [issued .entry 0], inq := [a t] }
      let s (t : Token) := ported (4 * 2 ^ 48 + 2 ^ 38) (q t)
      (q (int 1)).inq[0]? = some (a (int 1)) ∧ (q (int 1)).inOrder 0 (a (int 1)) = true ∧
        (s (int 1)).cutOff (a (int 1)).fromDie (tileDie (portTile 4)) = false ∧
        (q (int 1)).inHandle = some (0, handle true 2 4) ∧ tagCtx (mkTag 0 1 0 0) ≠ g.ctx ∧ tagCtx (int 1).tag = g.ctx ∧
        (s (int 1)).countOf g (handle true 2 4) = 4 ∧ (handle true 2 4).nextW + 63 < 64 ∧
        acceptsFmt 3 false fmtL6 = false ∧ acceptsFmt 3 false (int 1).fmt = true ∧
        (match (s (int 1)).elemPlaces 4 (q (int 1)) g (handle true 2 4) (issued .entry 0) with
         | (.ok ps, u) => !u.piecesCut (tileDie (portTile 4)) ps && decide (u.layoutBad (handle true 2 4).layout ps = none ∧
             u.stagedSet g.lan = none ∧ homeOff (portTile 4) ps = some 8)
         | (.error _, _) => false) = true)) := by decide +kernel
/-- The arrival of a token at a port. -/
def portArrival (t : Token) : Arrival := { cond := false, bad := false, slot := 0#5, port := 0#2, tok := t, src := 1, old := false }
/-- Lantern 0 with context 0's space 0 open at iteration 0, one iteration wide. -/
def windowed (s : State) : State := s.modLan 0 fun l => { l with
  cfgs := [{ entry true false with img := { (entry true false).img with spaces := [(0, 1)] } }]
  spaces := [(0, { st := .open, k := 1, base := 0, next := 0, emitted := [], parent := none, ret := none })] }
/-- StreamCommands: SSIG with AFT while a write is under way, and once it is done; a port with an access under way of each kind;
a window that its port waits for; a SWAIT that waits, and an address that is bad; a speculative segment. -/
theorem witness_StreamCommands_more :
    (let s := ported 0 (portWith (program none) [(0, handle true 1 1)])
     s.sigWaits 4 0 0#3 = false ∧
     (s.modTile 1 fun x => { x with bankq := [{ banked with src := 1, store := true }] }).sigWaits 4 0 0#3 = true) ∧
    (∀ st ∈ [ReqSt.bank, .xlate, .new], ∃ r ∈ ({ portWith (program none) [] with outq := [issued st 0] } : Port).outq, r.st = st) ∧
    (∃ b ∈ (((ported 0 (portWith (program none) [])).modTile 1 fun x => { x with bankq := [{ banked with src := 1 }] }).tile (portTile 4)).bankq,
      b.src = portNum 4 + 1) ∧
    (let w : Win := { first := 0, nw := 8, ent := 0, p := 0, port := 4 }
     let s : State := (ported 0 (portWith { program none with wins := [1] } [])).modTile 1 fun x => { x with wins := [(1, w)] }
     (s.tile (portTile 4)).wins.find 1 = some w ∧ w.ent = 0 ∧ w.port = 4 ∧ 1 ∈ ({ program none with wins := [1] } : Prog).wins) ∧
    (let g := program (some (syncKey 0 0x20, 5#32))
     let s := place (ported 0 (portWith g [])) (6 * 2 ^ 48 + 0x20) phaserWords
     g.waitPh = some (syncKey 0 0x20, 5#32) ∧ s.phaseAt (syncKey 0 0x20 / 2 ^ 32) (syncKey 0 0x20 % 2 ^ 32) = some 5) ∧
    (∀ w : Bool, (match (ported 0 (portWith (program none) [])).portSync 4 (portWith (program none) []) (program none) 0x80000000 w with
      | .stop _ => true
      | .at_ _ _ _ => false) = true) ∧
    (withSeg { seg1 with st := .runs } launch1 (region [] [])).resident 0 = some (0, { seg1 with st := .runs }) := by decide +kernel
/-- StreamEvents, the programs: one that is to start, armed and not, and none; one at its end whose handles close, and one whose handle
is not done; a window of it. -/
theorem witness_StreamEvents_programs :
    (∀ b : Bool, (({ Port.reset with pend := some { program none with armed := b } } : Port).pend.map (·.armed)) = some b) ∧
    Port.reset.prog = none ∧ Port.reset.pend = none ∧ Port.reset.hs.find 0 = none ∧ Port.reset.outq[0]? = none ∧ Port.reset.inq[0]? = none ∧
    (let g := { program none with pc := 2, wins := [1] }
     let w : Win := { first := 0, nw := 8, ent := 0, p := 0, port := 4 }
     g.armed = true ∧ g.parcels.length ≤ g.pc ∧
     (∀ n ∈ [0, 1], let s := (ported 0 (portWith g [(0, handle true 0 n)])).modTile 1 fun x => { x with wins := [(1, w)] }
       ((s.tile (portTile 4)).wins.find 1) = some w ∧
       decide ((((((s.port 4).hs.map (·.1)).filter fun h => s.handleDone 4 h).foldl (fun s h => s.closeHandle 4 h g.lan) s).port 4).hs = []) =
         decide (n = 0))) := by decide +kernel
/-- StreamEvents, the issue: an element that is tried again; a handle with none to issue, a program not armed, 64 requests waiting, an
output element that is parked, one of a stopped port, and elements that are issued, with an index and without. -/
theorem witness_StreamEvents_issue :
    (let g := program none
     let q := { portWith g [(0, handle false 0 4)] with outq := [issued .new 0] }
     (q.outq.find? fun r => decide (r.h = 0 ∧ r.st = .new)) = some (issued .new 0) ∧
     (∀ r ∈ ({ q with outq := [issued .bank 0] } : Port).outq, ¬ (r.h = 0 ∧ r.st = .new)) ∧
     64 ≤ ({ q with outq := List.replicate 64 (issued .xlate 0) } : Port).outstanding ∧
     ({ q with outq := List.replicate 63 (issued .xlate 0) ++ [issued .bank 0] } : Port).outstanding < 64 ∧
     (∀ n ∈ [0, 1], let s := windowed (ported 0 (portWith g [(0, handle false n 4)]))
       decide (s.windowOf (some g.lan) (tileDie (portTile 4)) (s.elemTag 4 g n) n = .park) = decide (n = 1)) ∧
     Port.reset.stopped = false ∧ ({ q with stopped := true } : Port).stopped = true ∧
     (handle true 0 4).cur.toNat < 2 ^ 48 ∧ (handle true 0 4).cur.toNat % (handle true 0 4).align = 0 ∧ (handle true 0 4).idx = [] ∧
     (let i : IdxRel := { first := 0, count := 4, ibase := 0x20000, ifmt := 9 }
      (({ handle false 0 4 with idx := [i] } : Handle).idx.find? fun i => decide (i.first ≤ 0 ∧ 0 < i.first + i.count)) = some i)) ∧
    (let x := handle false 1 4
     let r (va : Word) := { issued .new 0 with va := va }
     (2 ^ 48 ≤ (r 0x1000000000000#64).va.toNat ∧ (r 1#64).va.toNat % x.align ≠ 0 ∧ (r 0x20000#64).va.toNat % x.align = 0) ∧
     (let i (ia : Word) := { r 0#64 with idx := some (ia, 9), gath := true }
      (i 0x1000000000000#64).idx = some (0x1000000000000#64, 9) ∧ (1#64 : Word).toNat % fmtSize 9 ≠ 0 ∧ (0x20000#64 : Word).toNat % fmtSize 9 = 0) ∧
     (let s := ported 0 (portWith (program none) [(0, x)])
      (match s.unitPlaces 0 (tileDie (portTile 4)) (portHow (s.port 4) Miss.zero.may true false) 0x80000000 (fmtSize 9) with
       | (.error _, _) => true
       | (.ok _, _) => false) = true ∧
      (match s.unitPlaces 0 (tileDie (portTile 4)) (portHow (s.port 4) Miss.zero.may true false) 0x20000 (fmtSize 9) with
       | (.error _, _) => false
       | (.ok ps, v) => !v.piecesCut (tileDie (portTile 4)) ps && !(v.readPieces 0 0 ps).2.1) = true)) := by decide +kernel
/-- StreamEvents, the pushes: an element not read, one of a group that is not whole and of one that is; its token held for a record, for
room, parked, refused, and one that goes, to an element and to no place. -/
theorem witness_StreamEvents_push :
    (let g := { program none with binds := [0x40000000#64] }
     let u (n : Nat) : Handle := { handle false 2 2 with uni := n }
     let q (st : ReqSt) := { portWith g [(0, u 1)] with outq := [issued .done 0, issued st 1] }
     let s (st : ReqSt) := ported 0 (q st)
     (q .bank).outq[1]? = some (issued .bank 1) ∧ (q .bank).hs.find 0 = some (u 1) ∧
     ((s .done).gatherElem 4 g (u 0) (issued .done 1)).2.st = .done ∧ (((s .bank).modTile 1 fun x => { x with bankq := [{ banked with src := 1, client := (issued .bank 1).client }] }).gatherElem 4 g (u 0)
       (issued .bank 1)).2.st ≠ .done ∧
     ((s .bank).unifyGroup 4 0 (u 1) ((s .bank).countOf g (u 1)) 0).isNone = true ∧
     ((s .done).unifyGroup 4 0 (u 1) ((s .done).countOf g (u 1)) 0).isSome = true ∧ (issued .done 0).uni = false) ∧
    (let g := { program none with binds := [0x40000000#64] }
     let s := windowed (ported 0 { portWith g [(0, handle false 2 2)] with outq := [issued .done 0] })
     let d := s.resolve (some g.lan) g.ctx (portTile 4) ((0x40000000#64 : Word).extractLsb' 0 31)
     routable d = true ∧ s.linkRoom (portTile 4) false d = true ∧
     (s.modPort 4 fun q => { q with inq := List.replicate 2 (portArrival (int 1)) }).linkRoom (portTile 4) false d = false ∧
     s.recHeld (some 0) = false ∧ (s.modLan 0 fun l => { l with heldRecs := [Record.blank] }).recHeld (some 0) = true ∧
     s.windowOf (some g.lan) (tileDie (portTile 4)) (s.elemTag 4 g 0) 0 = .ok ∧
     s.windowOf (some g.lan) (tileDie (portTile 4)) (s.elemTag 4 g 1) 1 = .park ∧
     ({ s with lans := (region [] []).lans } : State).windowOf (some g.lan) (tileDie (portTile 4)) (s.elemTag 4 g 0) 0 = .refuse 3 ∧
     routable (s.resolve (some g.lan) g.ctx (portTile 4) 0x5F800000#31) = false) := by decide +kernel
/-- StreamEvents, the arrivals: a token whose record is held, one behind a marker, one cut off; a marker outside a region, of another
snapshot and of the region's; a port with no program; an element that has not come, one that is read, one that failed, and one whose
translation fails; elements in order and out of it; a layout refused; words at a bank, at another home and staged. -/
theorem witness_StreamEvents_arrivals :
    (let g := program none
     let a := portArrival (int 1)
     let m := portArrival { int 7 with marker := true }
     let q := { portWith g [(0, handle true 2 4)] with outq := [issued .entry 0], inq := [m, a] }
     let s := ported 0 q
     q.inOrder 1 a = false ∧ q.inOrder 0 m = true ∧ ({ a with logged := true } : Arrival).logged = true ∧
     ({ s with edges := [(1, 1)] } : State).cutOff ({ a with src := 8192 * 16 } : Arrival).fromDie (tileDie (portTile 4)) = true ∧
     s.heldNo (s.leadOfTile (portTile 4)) < (s.modLan 0 fun l => { l with heldRecs := [Record.blank] }).heldNo (s.leadOfTile (portTile 4)) ∧
     (let u := s.modPort 4 fun q => { q with inq := q.inq.eraseIdx 0 }
      u.leadOfTile (portTile 4) = some 0 ∧ ({ State.reset with ports := s.ports }).leadOfTile (portTile 4) = none ∧ (u.lan 0).prePend = false ∧
      (let v := u.modLan 0 fun l => { l with prePend := true, snapNo := 7#32 }
       (v.lan 0).prePend = true ∧ m.tok.pay.setWidth 32 = (v.lan 0).snapNo ∧ (portArrival { int 6 with marker := true }).tok.pay.setWidth 32 ≠ (v.lan 0).snapNo)) ∧
     Port.reset.prog = none ∧ ({ q with hs := [] } : Port).inHandle = none ∧
     (∀ r ∈ ({ q with outq := [] } : Port).outq, ¬ (r.h = 0 ∧ r.n = 0)) ∧ s.countOf g (handle true 2 4) ≤ 4 ∧
     (∀ st ∈ [ReqSt.bank, .entry, .done], ({ q with outq := [issued st 0] } : Port).outq.find? (fun r => decide (r.h = 0 ∧ r.n = 0)) = some (issued st 0)) ∧
     ({ issued .entry 0 with bad := true } : StreamReq).bad = true ∧ ({ int 1 with poison := true } : Token).poison = true) ∧
    (let g := program none
     let x := handle true 2 4
     let q := { portWith g [(0, x)] with outq := [issued .entry 0] }
     let at_ (s : State) (x : Handle) (r : StreamReq) (P : List (Nat × Nat × PaKind × Bool) → State → Bool) : Bool :=
       match s.elemPlaces 4 q g x r with
       | (.ok ps, u) => P ps u
       | (.error _, _) => false
     (match (ported 0 q).elemPlaces 4 q g x { issued .entry 0 with va := 0x80000000#64 } with
      | (.ok _, _) => false
      | (.error _, _) => true) = true ∧
     x.ord = false ∧ ({ x with ord := true } : Handle).ord = true ∧ (issued .entry 0).n = x.nextW ∧ (issued .entry 1).n ≠ x.nextW ∧
     q.coincides 0 x (issued .entry 0) = false ∧
     ({ q with outq := [{ issued .entry 0 with gath := true }, { issued .entry 1 with gath := true }] } : Port).coincides 0 x { issued .entry 1 with gath := true } = true ∧
     at_ (ported 0 q) x (issued .entry 0) (fun ps u => decide (u.stagedSet g.lan = none ∧ homeOff (portTile 4) ps = none ∧
       u.layoutBad x.layout ps = none ∧ ∀ e ∈ ps, e.2.2.2 = false)) = true ∧
     at_ ((ported (4 * 2 ^ 48 + 2 ^ 38) q).modTile 1 fun y => { y with chk := 0xFF#8 }) { x with lay := 2#2 } (issued .entry 0)
       (fun ps u => (u.layoutBad ({ x with lay := 2#2 } : Handle).layout ps).isSome) = true ∧
     (let s := withSeg { seg1 with staged := true, set := some 0 } launch1 (ported (4 * 2 ^ 48 + 2 ^ 38) q)
      at_ s x (issued .entry 0) (fun ps u => decide (u.stagedSet g.lan = some 0) && (u.stagePieces g.lan ps [0#8, 0#8] x.layout).isSome && !anyHeld ps) = true ∧
      at_ (s.modTile 1 fun y => { y with ver := (List.range 1024).map fun n => (n, VEnt.staged 1 (n + 100) 15#4 0#32) }) x (issued .entry 0)
        (fun ps u => (u.stagePieces g.lan ps [0#8, 0#8] x.layout).isNone) = true)) := by decide +kernel
/-- TileCommands: a tile's address; a bank retired, a store whose parity is under way, and neither; the bounds of each operand. -/
theorem witness_TileCommands :
    (let s := sup [(17, 0x4004000000000#64)]
     s.cur.sup = true ∧ tileNamed (s.x 17#5) = some 1 ∧ s.diesCut (lanDie s.focus) (tileDie 1) = false) ∧
    (11#32).toNat < 12 ∧ 12 ≤ (12#32).toNat ∧ (Tile.reset.retired 2) = none ∧
    ({ Tile.reset with cnt := [(0x38, retireBits Tile.reset.groups 2 3)] }.retired 2) = some 3 ∧
    (let p : ParPipe := { g := 2, b := 0, row := 0, left := 1 }
     ∃ q ∈ { Tile.reset with pipe := [p] }.pipe, q.g = 2) ∧
    (let imm := 0x1FFF0001#32
     imm.extractLsb' 29 3 = 0#3 ∧ imm.extractLsb' 14 2 = 0#2 ∧ 1 ≤ (imm.extractLsb' 0 14).toNat ∧
       (imm.extractLsb' 16 13).toNat + (imm.extractLsb' 0 14).toNat ≤ 8192) ∧
    (0x38#32).toNat ≤ 0x38 ∧ (0x30#32).toNat ≠ 0x38 ∧ 0x38 < (0x40#32).toNat ∧ (0x39#32).toNat % 8 ≠ 0 := by decide +kernel
/-- TileCommands: user mode; a tile that is cut off; a retirement that may be done, of a group with a bank retired and of one without,
and one that waits; an answer that somebody waits for, and one that nobody does. -/
theorem witness_TileCommands_more :
    (let s := user [(17, 0x4004000000000#64)]
     s.cur.sup = false ∧ tileNamed 0#64 = none ∧ tileNamed 0x4104000000000#64 = some 8193 ∧
     { s with edges := [(1, 1)] }.diesCut (lanDie s.focus) (tileDie 8193) = true) ∧
    (let j (g b : Nat) : TileJob := { lan := 0, rd := 3#5, work := .retire g b }
     let p : ParPipe := { g := 1, b := 0, row := 0, left := 1 }
     let x := { Tile.reset with jobs := [j 1 0, j 2 3], pipe := [p] }
     x.jobs[1]? = some (j 2 3) ∧ (∀ p ∈ x.pipe, p.g ≠ 2) ∧ (∃ p ∈ x.pipe, p.g = 1) ∧ x.retired 2 = none ∧
     ({ x with cnt := [(0x38, retireBits Tile.reset.groups 2 3)] } : Tile).retired 2 = some 3 ∧
     ∃ y ∈ x.jobs, y = j 1 0) ∧
    (0#5 ≠ 3#5) := by decide +kernel
/-- A buffer of a page at 0x20000, of a launch. -/
def buffer (onTiles wasTiles : Bool) (pins : Nat) : Buffer :=
  { va := 0x20000, size := 4096, phaser := false, die := 0, tile := some (1, 0), members := 0, pa := tileBase 1, onTiles := onTiles,
    wasTiles := wasTiles, pins := pins }
/-- Lantern 0 in a segment of a launch with this buffer, an address of it in s17 and one outside in s18. -/
def buffered (b : Buffer) : State :=
  withSeg seg1 { launch1 with bufs := [b] } (mapped [(17, 0x20FFF#64), (18, 0x21000#64)])
/-- BufferPins: an address outside every buffer; a buffer on the tiles, off them, and evicted, with room and with none; its pins at
each bound; and a placement that wants a tile. -/
theorem witness_BufferPins :
    (buffered (buffer true true 0)).speculative 0 = false ∧
    (buffered (buffer true true 0)).bufferAt 0 ((buffered (buffer true true 0)).x 18#5) = none ∧
    ([buffer true true 65535, buffer true true 65534, buffer false false 0, buffer false true 0, buffer true true 0, buffer true true 1].all fun b =>
      decide ((buffered b).bufferAt 0 ((buffered b).x 17#5) = some (0, 0, 0, b))) = true ∧
    (buffered (buffer false true 0)).backPlace 0 (buffer false true 0) = some (tileBase 1) ∧
    (buffered (buffer true true 0)).backPlace 0 { buffer false true 0 with size := 0x61000 } = none ∧
    (buffered (buffer true true 0)).implicitPin 0 (buffer true true 0) = false ∧
    (buffered (buffer true true 0)).moveBusy (buffer true true 0) = false ∧
    ((buffered (buffer true true 0)).evict 0 0 (buffer true true 0)).isSome = true ∧
    (buffered (buffer true true 0)).wantsTile 0 = false ∧
    (let b := { buffer true true 0 with tile := none }
     let s := (buffered b).modHub fun h => { h with
       launches := h.launches ++ [(1, { launch1 with id := 1, placed := false, bufs := [buffer false false 0] })] }
     s.wantsTile 0 = true ∧ s.victim 0 = some (0, 0, b) ∧ (s.evict 0 0 b).isSome = true) := by decide +kernel
/-- BufferPins: a speculative segment; a buffer that a copy writes, and one whose tile has an access in line; a placement that wants a tile
and finds no buffer to evict. -/
theorem witness_BufferPins_more :
    (withSeg { seg1 with st := .runs } { launch1 with bufs := [buffer true true 0] } (mapped [])).speculative 0 = true ∧
    (let b := buffer true true 0
     let c : Chan :=
       { lan := 0, seg := 0#64, launch := 0, pasid := 0, sup := true, kind := .flat, rd := 5#5, dst := 0x20000#64, src := 0x30000#64,
         len := 8, bar := none, scope := 0#3, wait := false, miss := Miss.zero, moved := 0, entWait := none, fin := false }
     { buffered b with chans := [(0, c)] }.implicitPin 0 b = true ∧
     ((buffered b).modTile 1 fun x => { x with bankq := [banked] }).moveBusy b = true) ∧
    (let s := (buffered (buffer true true 0)).modHub fun h => { h with
       launches := h.launches ++ [(1, { launch1 with id := 1, placed := false, bufs := [buffer false false 0] })] }
     s.wantsTile 0 = true ∧ s.victim 0 = none) := by decide +kernel
/-- Lantern 0 in segment `g` of launch `l`. -/
def inSeg (g : Seg) (l : Launch) (regs : Tab Word) : State := withSeg g l (region [] [] |>.modLan 0 fun x => { x with regs := regs })
/-- A segment that waits on the same die, of a nearer deadline. -/
def waiting1 : Seg := { seg1 with st := .pendc, serial := 0, origin := none }
/-- SegmentCommands: a segment that is committed, speculative, staged, being pre-empted, and beaten by one that waits; the
bounds of a site; a pool, an identifier, and a save pool with room. -/
theorem witness_SegmentCommands :
    (let s := inSeg seg1 launch1 [(17, 0#64), (18, segIdent 0 0 1)]
     (s.performLoads 0).resident 0 = some (0, seg1) ∧ s.hub.launches.find seg1.launch = some launch1 ∧ s.speculative 0 = false ∧
       (s.performLoads 0).stagedSet 0 = none ∧ seg1.preempt = false ∧ s.beaten 0 seg1 = false ∧ s.x 17#5 = 0#64 ∧ s.x 18#5 ≠ 0#64 ∧
       (s.segAt (s.x 18#5)).isSome = true ∧ s.segAt 7#64 = none) ∧
    (inSeg { seg1 with st := .runs } launch1 []).speculative 0 = true ∧
    (inSeg { seg1 with st := .runs, staged := true, set := some 3 } launch1 []).stagedSet 0 = some 3 ∧
    (inSeg { seg1 with preempt := true } launch1 []).resident 0 = some (0, { seg1 with preempt := true }) ∧
    (let s := (inSeg seg1 launch1 []).modBeacon 0 fun b => { b with segs := b.segs ++ [(1, waiting1)], savepg := 4096, savebase := 0x100000 }
     s.beaten 0 seg1 = true ∧ ((s.performLoads 0).startPreempt 0 0 true).isSome = true ∧ ((s.performLoads 0).startPreempt 0 0 false).isSome = true) ∧
    (8191#64 : Word).toNat < 2 ^ 13 ∧ 2 ^ 13 ≤ (8192#64 : Word).toNat ∧ (4095#64 : Word).toNat < 2 ^ 12 ∧ 2 ^ 12 ≤ (4096#64 : Word).toNat := by
  decide +kernel
/-- SegmentCommands: no segment; an identifier of a die that is cut off; a save pool with no room; a committed pool to draw from. -/
theorem witness_SegmentCommands_more :
    (mapped []).resident 0 = none ∧ (inSeg seg1 launch1 []).hub.launches.find seg1.launch = some launch1 ∧
    (let s := (inSeg seg1 launch1 []).modBeacon 1 fun b => { b with segs := [(0, { seg1 with origin := none })] }
     (s.segAt (segIdent 1 0 1)).isSome = true ∧ { s with edges := [(1, 1)] }.diesCut 0 1 = true ∧ s.diesCut 0 1 = false) ∧
    (((inSeg seg1 launch1 []).performLoads 0).startPreempt 0 0 true).isNone = true := by decide +kernel
/-- A descriptor of one cluster on a die, that is not malformed, at 0x20000; and a ring header. -/
def descImage (die : Nat) : List Word :=
  [BitVec.ofNat 64 (127 * 2 ^ 45 + die * 2 ^ 41 + 0x10000 / 128), 0#64, 0#64, BitVec.ofNat 64 (2 ^ 41), 0#64, 0#64, 0#64, 0#64]
def ringImage (log : Nat) : List Word := [0x30000#64, BitVec.ofNat 64 log, 8#64, 0#64, 0#64, 0#64, 0#64, 0#64]
/-- Lantern 0 in segment `g`, with an image at 0x20000. -/
def spawning (g : Seg) (im : List Word) : State := withSeg g launch1 (region im [])
/-- Whether the descriptor at 0x20000 reads, to this effect. -/
def describes (s : State) (P : List Byte → SegDesc → State → Bool) : Bool :=
  match (s.performLoads s.focus).readVirt 0x20000#64 64 1 with
  | .ok bs u =>
    match u.readVirt (BitVec.ofNat 64 (descTable bs)) (8 * descExtra bs) 1 with
    | .ok ex y => decide (y.resident y.focus = s.resident 0 ∧ y.hub.launches.find 0 = some launch1) && P bs (descOf bs ex) y
    | .stop _ => false
  | .stop _ => false
/-- SegmentSpawns: a misaligned descriptor, a malformed one, one of a die outside the launch, and one that enters; a table that is
full; conditions well and badly formed; ring headers, and tails at each end of the ring; a CRES that executes. -/
theorem witness_SegmentSpawns :
    ((sup [(17, 0x20020#64)]).x 17#5).toNat % 64 ≠ 0 ∧ ((spawning seg1 []).x 17#5).toNat % 64 = 0 ∧
    describes (spawning seg1 ((descImage 0).set 3 0#64)) (fun bs d _ => segDescBad bs d launch1.clMax) = true ∧
    describes (spawning seg1 (descImage 1)) (fun bs d _ => !segDescBad bs d launch1.clMax && decide (d.die ≠ 15 ∧ launch1.dies ≤ d.die)) = true ∧
    (∀ n ∈ [0, 15], describes (spawning seg1 (descImage n)) (fun bs d y => !segDescBad bs d launch1.clMax &&
      decide ((d.die = 15 ∨ d.die < launch1.dies) ∧ (y.beacon 0).quarantined = false ∧ y.freeSeg 0 = some 1)) = true) ∧
    (Beacon.reset.quarantined = false ∧ { Beacon.reset with fenced := List.range 98 }.quarantined = true) ∧
    (let f : Factor := { site := 0, side := false, cost := 0 }
     4 < (List.replicate 5 f).length ∧ (List.replicate 4 f).length ≤ 4) ∧
    condWord 0x80000000#64 1 = some (0x8000, false, 0) ∧ condWord 0xFFFF1FFF#64 0 = some (0xFFFF, true, 4095) ∧ condWord 0x80010000#64 1 = none ∧
    condWord 0#64 0 = none ∧ ((spawning seg1 []).effectiveP 0 0 (0x8000, false, 0)).1 = 0x8000 ∧
    (let s := spawning seg1 (ringImage 3)
     match (s.performLoads 0).readVirt 0x20000#64 64 1 with
     | .ok h u => decide (ringHeader h = some (0x30000, 3, 0, 8) ∧ u.resident u.focus = some (0, seg1) ∧ (u.beacon 0).pulls = [])
     | .stop _ => false) = true ∧
    ringHeader ((ringImage 13).flatMap fun w => leBytes 8 w.toNat) = none ∧ (7 < 8 ∧ 2 ^ 3 < 17 - 8 ∧ 16 - 8 ≤ 2 ^ 3) ∧
    runs (.cres fields) movesNone (fired [] [true]) = true := by decide +kernel
/-- SegmentSpawns: a die that is cut off; a speculative segment; a ring that is being pulled by the same PASID and by another. -/
theorem witness_SegmentSpawns_more :
    ({ spawning seg1 (descImage 1) with edges := [(1, 1)] } : State).diesCut 0 1 = true ∧
    (spawning { seg1 with st := .runs } []).speculative 0 = true ∧ ({ seg1 with st := .runs } : Seg).isSpec = true ∧ seg1.isSpec = false ∧
    (∀ n ∈ [0, 1],
      let p : Pull := { hdr := 0x20000#64, base := 0x30000, log := 3, head := 8, tail := 9, pasid := n, launch := 0, sender := 0#64,
                        miss := Miss.zero, wait := false }
      ∃ q ∈ (((spawning seg1 (ringImage 3)).modBeacon 0 fun b => { b with pulls := [p] }).beacon 0).pulls,
        q.hdr = 0x20000#64 ∧ decide (q.pasid = 0) = decide (n = 0)) := by decide +kernel
/-- Lantern 0 at a synchronisation object of its own slice, at s17, with x(s18). -/
def synced (ws : List Word) (v : Word) : State :=
  place (inSeg seg1 launch1 [(17, 0x40#64), (18, v), (19, 0x20#64)]) (6 * 2 ^ 48 + 0x100040) ws
/-- Whether the request on s17 reaches that object, and the state has this property. -/
def reaches (s : State) (w : Bool) (P : State → Bool) : Bool :=
  match (s.performLoads s.focus).syncAddr (s.x 17#5) w with
  | .ok p u => decide (p = (0, 0x100040) ∧ u.diesCut (lanDie u.focus) 0 = false ∧ s.speculative s.focus = false) && P u
  | .stop _ => false
/-- The words of a phaser. -/
def phaserOf (members waitOnly carry regs drops : Nat) : List Word :=
  [0x1000000000000005#64, BitVec.ofNat 64 (members * 2 ^ 32 + waitOnly), BitVec.ofNat 64 carry, BitVec.ofNat 64 (regs * 2 ^ 48 + drops * 2 ^ 32)]
/-- SyncPhasers: addresses with room and with none; an object of another kind; counts at each bound of PHNEW, PHREG and PHDRP; an
arrival in the open phase, in the next, and too far ahead; phases that have completed and that have not; a barrier. -/
theorem witness_SyncPhasers :
    (∀ w : Bool, reaches (synced [] 0#64) w (fun u => u.sHas 0 0x100040 32 && decide (u.sKind 0 0x100040 = 0 ∧ u.phaser? 0 0x100040 = none ∧
        u.barrier? 0 0x100040 = none ∧ u.phaseAt 0 0x100040 = none)) = true) ∧
    (synced [] 0#64).sHas 0 0x3FFFF0 32 = false ∧ 2 ^ 32 ≤ ((synced [] 0x100000000#64).x 18#5).toNat ∧
    ((synced [] 0xFFFFFFFF#64).x 18#5).toNat < 2 ^ 32 ∧
    ([(0, 0, 0, 0), (2, 2 ^ 32 - 1, 65535, 65535), (2, 1, 65534, 0), (1, 1, 0, 1)].all fun p =>
      reaches (synced (phaserOf p.1 p.2.1 0 p.2.2.1 p.2.2.2) 0#64) true fun u =>
        match u.phaser? 0 0x100040 with
        | none => false
        | some q => decide (q.members = p.1 ∧ q.waitOnly = p.2.1 ∧ q.regs = p.2.2.1 ∧ q.drops = p.2.2.2 ∧
            u.cur.sigOf (syncKey 0 0x100040) = none ∧ u.cur.phsw = none ∧ u.waitPhase 0 0 0x100040 = none)) = true ∧
    (let p : Phaser := { ovr := false, phase := 5, members := 2, waitOnly := 0, arrived := 0, carry := 1, regs := 0, drops := 0 }
     (p.arrive 5).isSome = true ∧ (p.arrive 6).isSome = true ∧ { p with carry := 2 }.arrive 6 = none ∧ p.arrive 7 = none) ∧
    phaseDone 5 4#32 = true ∧ phaseDone 5 5#32 = false ∧
    reaches (synced [0x2000000000000005#64, 2#64, 1#64, 0#64] 1#64) true (fun u => (u.barrier? 0 0x100040).isSome && decide (u.x 18#5 ≠ 0#64)) = true ∧
    (2#32 &&& 0xFFFFFFFE#32) ≠ 0#32 ∧ (4#32 &&& 0xFFFFFFFC#32) ≠ 0#32 := by decide +kernel
/-- SyncPhasers: a PHSW that has signalled, its phase completed and not, one that stands at the engine, and an object that is no phaser. -/
theorem witness_SyncPhasers_waits :
    ([4#32, 5#32].all fun sig => reaches ((synced (phaserOf 2 0 0 0 0) 0#64).modLan 0 fun l => { l with phsw := some (l.pc, sig) }) true fun u =>
      decide (u.cur.phsw = some (u.cur.pc, sig) ∧ u.phaseAt 0 0x100040 = some 5 ∧ phaseDone 5 sig = decide (sig = 4#32) ∧
        u.waitPhase u.focus 0 0x100040 = none)) = true ∧
    reaches ({ synced (phaserOf 2 0 0 0 0) 0#64 with syncs := [(0, { Sync.reset with
      waits := [{ who := .lan 0 3#5, what := .phase 5#32, addr := 0x100040 }] })] } : State) true (fun u =>
        decide (u.waitPhase u.focus 0 0x100040 = some 5#32)) = true ∧
    reaches ((synced [] 0#64).modLan 0 fun l => { l with phsw := some (l.pc, 5#32) }) true (fun u =>
        decide (u.cur.phsw = some (u.cur.pc, 5#32) ∧ u.phaseAt 0 0x100040 = none)) = true ∧ (3#32 &&& 0xFFFFFFFC#32) = 0#32 := by decide +kernel
/-- SyncObjects: a word equal to x(rd) and not; a bin set to make, one made, and an object that is none; a queue empty, full and
between; a misaligned address, and one with no home. -/
theorem witness_SyncObjects :
    reaches (synced [0x20#64] 7#64) true (fun u => decide (BitVec.ofNat 64 (u.sdw 0 0x100040) = u.x 19#5 ∧ BitVec.ofNat 64 (u.sdw 0 0x100040) ≠ u.x 18#5)) = true ∧
    reaches (synced [] 0x3F000000003FFF#64) true (fun u => decide ((u.x 18#5).toNat / 2 ^ 54 = 0 ∧ (u.x 18#5).toNat / 2 ^ 16 % 2 ^ 32 = 0 ∧
      (BitVec.ofNat 16 (u.x 18#5).toNat).toInt = 16383 ∧ u.sKind 0 0x100040 = 0) && u.sHas 0 0x100040 (16 + 8 * 64) && (u.binSet? 0 0x100040).isNone) = true ∧
    (∀ w : Bool, reaches (synced [0x4000000000000000#64] 0x3FF0000000000000#64) w (fun u => (u.binSet? 0 0x100040).isSome &&
      (u.engRead 0 0x100040 (u.cur.fpmode.extractLsb' 0 2)).isSome &&
      (match u.engBin 0 0x100040 (floatLoad 0 (u.x 18#5).toNat) with | .ok _ none false _ => true | _ => false)) = true) ∧
    reaches (synced [] 0#64) false (fun u => (u.engRead 0 0x100040 (u.cur.fpmode.extractLsb' 0 2)).isNone) = true ∧
    ([0, 1, 2].all fun n => reaches (synced [0x3000000000000001#64, 0#64, BitVec.ofNat 64 n, 0#64] 0#64) true fun u =>
      match (u.serveAll 0 0x100040).queue? 0 0x100040 with
      | some q => decide (q.used = n ∧ q.cap = 2) && !((u.sync 0).waits.any fun w => w.ofLan u.focus)
      | none => false) = true ∧
    reaches (synced [] 0#64) true (fun u => ((u.serveAll 0 0x100040).queue? 0 0x100040).isNone) = true ∧
    ((sup [(17, 4#64)]).x 17#5).toNat % 8 ≠ 0 ∧ (inSeg { seg1 with st := .runs } launch1 []).speculative 0 = true ∧
    (∀ w : Bool, (match (sup [(17, 0x40#64)]).syncAddr 0x40#64 w with | .ok _ _ => false | .stop _ => true) = true) := by decide +kernel
/-- SyncObjects: a queue that the Lantern waits for; a head that is malformed and one that is not; an address that does not translate, and
an object of a die that is cut off. -/
theorem witness_SyncObjects_more :
    (let w : SyncWait := { who := .lan 0 3#5, what := .pop 0x40#64, addr := 0x100040 }
     reaches ({ synced [] 0#64 with syncs := [(0, { Sync.reset with waits := [w] })] } : State) true (fun u =>
       (u.sync 0).waits.any fun w => w.ofLan u.focus)) = true ∧
    ([0, 0x1000000].all fun n => reaches (synced [0x3000000000000001#64, 0#64, 1#64, 0#64, 0#64, BitVec.ofNat 64 n] 0#64) true fun u =>
      match (u.serveAll 0 0x100040).queue? 0 0x100040 with
      | some q => (u.serveAll 0 0x100040).headBad 0 0x100040 q == decide (n ≠ 0)
      | none => false) = true ∧
    (∀ w : Bool, (match (inSeg seg1 launch1 []).syncAddr 0x80000000#64 w with
      | .ok _ _ => false
      | .stop _ => true) = true) ∧
    (let s := { paged (6 * 2 ^ 48 + 2 ^ 44) [] with edges := [(1, 1)] }
     ∀ w : Bool, (match s.syncAddr 0x40000000#64 w with
      | .ok p t => t.diesCut (lanDie t.focus) p.1
      | .stop _ => false) = true) := by decide +kernel
/-- A copy of Lantern 0, to and from 0x30000 and 0x20000. -/
def chan (kind : CopyKind) (dst src : Word) (len : Nat) (wait : Bool) : Chan :=
  { lan := 0, seg := (inSeg seg1 launch1 []).cur.segid, launch := 0, pasid := 0, sup := true, kind := kind, rd := 5#5, dst := dst, src := src,
    len := len, bar := none, scope := 0#3, wait := wait, miss := Miss.zero, moved := 0, entWait := none, fin := false }
/-- Lantern 0 in a segment, with the copy descriptor `ws` at 0x20000 and these channels. -/
def copying (ws : List Word) (cs : List (Nat × Chan)) : State :=
  { place (inSeg seg1 launch1 [(17, 0x20000#64), (18, 0x20010#64), (19, 8#64)]) 0x20000 ws with chans := cs }
/-- CopyCommands: the descriptor of a block copy read and misaligned; a channel free and none, and a place in the queue; the bounds of
CPYQ's operand; channels at each limit of a copy's length, of a remote window and of a link; plans that fail and that do not. -/
theorem witness_CopyCommands :
    (let s := copying [0x30000#64, 0x20000#64, 0x200000004#64, 0x1000000010#64] []
     s.speculative s.focus = false ∧ (s.x 17#5).toNat % 32 = 0 ∧ (s.x 18#5).toNat % 32 ≠ 0 ∧ (s.x 19#5).toNat ≠ 0 ∧ (s.x 20#5).toNat = 0 ∧
       (match (s.performLoads s.focus).readVirt (s.x 17#5) 32 1 with
        | .ok d u => decide (fieldAt d 16 4 * fieldAt d 20 4 = 8 ∧ u.freeChan 0 = some 0 ∧ u.copyWaiters 0 = [])
        | .stop _ => false) = true) ∧
    (inSeg { seg1 with st := .runs } launch1 []).speculative 0 = true ∧
    (copying [] ((List.range 16).map fun i => (i, chan .flat 0#64 0#64 8 false))).freeChan 0 = none ∧
    (let s := { copying [] [] with copyq := [(0, [(1, 0x10008#64)])] }
     (s.modLan 1 fun _ => { (s.lan 0) with st := .run }).copyWaiters 0 ≠ []) ∧
    34 ≤ (34#32).toNat ∧ (31#32).toNat < 32 ∧ 32 ≤ (32#32).toNat ∧ (33#32).toNat < 34 ∧
    (copying [] []).chans.find (chanKey 0 0) = none ∧
    (chan .flat 0#64 0#64 8 true).wait = true ∧ 2 ^ 40 ≤ (chan .remote 0#64 0#64 (2 ^ 40) false).len ∧
    (chan .remote 0#64 0#64 (2 ^ 40 - 1) false).len < 2 ^ 40 ∧ (chan .remote 0x200000000000000#64 0#64 8 false).dst.toNat / 2 ^ 57 ≠ 0 ∧
    (let c := chan .remote 0x1FFFFFFFFFFFFFF#64 0x20000#64 8 false
     c.dst.toNat / 2 ^ 57 = 0 ∧ ((copying [] [(0, c)]).link (rcpyLink c.dst)).width ≠ 0 ∧
       (((copying [] [(0, c)]).modLink 1 fun l => { l with width := 0 }).link (rcpyLink c.dst)).width = 0) ∧
    2 ^ 40 ≤ (chan .flat 0#64 0#64 (2 ^ 40) false).total ∧ (chan .flat 0#64 0#64 (2 ^ 40 - 1) false).total < 2 ^ 40 ∧
    (let c := chan .flat 0x30000#64 0x20000#64 8 false
     let s := copying [7#64] [(0, c)]
     let p := s.copyPlan 0 c
     let r := p.s.copyReads 0 0 c p.from_
     ((p.from_ ++ p.to_).any fun x => p.s.homeCut 0 x.pa x.kind) = false ∧ (earlier p.src p.dst).isNone = true ∧ r.1.isNone = true ∧
       (r.2.2.spend.copyWrite 0 0 c p.to_ (c.shown r.2.2.free p (layOut 0 r.2.1))).isSome = true ∧ c.bar = none) ∧
    (let c := chan .flat 0x30000#64 0x200020000#64 8 false
     let p := (copying [] [(0, c)]).copyPlan 0 c
     (earlier p.src p.dst).any (fun f => decide (f.code = 0)) = true) := by decide +kernel
/-- A copy of Lantern 0's segment. -/
def own (c : Chan) : Chan := { c with seg := segIdent 0 0 1 }
/-- Lantern 0 in segment `g` of the identifier that `own` names, with this channel 0. -/
def segCopying (g : Seg) (c : Chan) : State :=
  { (withSeg g launch1 (region [] [])).modLan 0 fun l => { l with segid := segIdent 0 0 1 } with chans := [(0, c)] }
/-- CopyCommands: a copy whose bytes are written and only posts stand; one that waits for its barrier's walk; one whose home is cut off; one
that reads a bad word; a staged one, with room and with none; barriers that are there and are not; tokens of a segment that runs and of one
that does not; a remote copy that ends, waits and goes on; a register that a copy pends on. -/
theorem witness_CopyCommands_more :
    (let c := own (chan .flat 0x30000#64 0x20000#64 8 false)
     let s := segCopying seg1 c
     s.postsDue = false ∧ { s with agenda := [.post (.gpr 0 1#5 0#64)] }.postsDue = true ∧ ({ c with fin := true } : Chan).fin = true ∧
     s.chanStaged c = none ∧ (segCopying { seg1 with staged := true, set := some 0 } c).chanStaged c = some 0 ∧
     (s.lan c.lan).st ≠ .idle ∧ (s.lan c.lan).segid = c.seg ∧ (s.lan c.lan).segid ≠ (chan .flat 0#64 0#64 8 false).seg ∧
     (let b := { c with bar := some 0x20000#64 }
      { s with mode := [(0, 1#64)] }.barWalk 0 b = some (0x20000#64, 5) ∧ s.barWalk 0 b = none ∧
      (s.copyBar 0 b 0x20000#64).1 = none ∧ (s.copyBar 0 b 0x40#64).1 = some (0, 0x100040)) ∧
     (let p := { s with edges := [(1, 1)] }
      let far := { c with src := 0x40000000#64 }
      let q := (p.putDword 0x2008 0x200000009D#64).copyPlan 0 far
      ((q.from_ ++ q.to_).any fun x => q.s.homeCut 0 x.pa x.kind) = true) ∧
     (let bad := { s with hbmBad := [0x20000] }
      let p := bad.copyPlan 0 c
      (earlier p.src p.dst).isNone = true ∧ (p.s.copyReads 0 0 c p.from_).1.isSome = true) ∧
     (let g := { seg1 with staged := true, set := some 0 }
      let t := (segCopying g { c with dst := 0x40000000#64 }).putDword 0x2008 (BitVec.ofNat 64 (tileBase 1 + 0x9D))
      let full := t.modTile 1 fun y => { y with ver := (List.range 1024).map fun n => (n, VEnt.staged 1 (n + 100) 15#4 0#32) }
      [t, full].map (fun t => let p := t.copyPlan 0 { c with dst := 0x40000000#64 }
        let r := p.s.copyReads 0 0 c p.from_
        (r.2.2.spend.copyWrite 0 0 c p.to_ (c.shown r.2.2.free p (layOut 0 r.2.1))).isSome) = [true, false])) ∧
    (let c := own (chan .remote 0#64 0x20000#64 8 false)
     let s := segCopying seg1 c
     c.moved < c.len ∧ c.len ≤ ({ c with moved := 8 } : Chan).moved ∧ s.hubCut 0 = false ∧ { s with edges := [(8, 1)] }.hubCut 0 = true ∧
     (s.link (rcpyLink c.dst)).rbuf.length < 256 ∧ s.chans.find (chanKey 0 0) = some c ∧
     (s.copySide 0 c false c.src 8 0).1.isNone = true ∧ (s.copySide 0 c false 0x80000000#64 8 0).1.isSome = true) ∧
    (∀ b : Bool, let s := (segCopying seg1 (own (chan .flat 0#64 0#64 8 false))).modLan 0 fun l => { l with sb := if b then [5#5] else [] }
      s.copyPends 5 = b) := by decide +kernel
/-- A packet of one byte, zero, into window 0: every byte of its flits is zero. -/
def packet1 : Packet :=
  { seq := 0#12, lastp := false, win := 0#8, off := 0#48, sdie := 0#4, schan := 0#4, data := [0#8] }
theorem crc64_zeros (n : Nat) : crc64 (List.replicate n 0#8) = 0#64 := by
  induction n with
  | zero => rfl
  | succ n ih => exact (congrArg (fun c => (List.replicate n 0#8).foldl crcByte c) (by decide : crcByte 0#64 0#8 = 0#64)).trans ih
theorem flits_read : readFlits (List.replicate 128 0#8) = some ⟨some packet1, none⟩ := by
  have h : crc64 ((List.replicate 128 0#8).take 56 ++ (List.replicate 128 0#8).drop 64) = 0#64 := crc64_zeros 120
  unfold readFlits
  rw [h]
  decide +kernel
theorem flits_bad : readFlits ((List.replicate 128 0#8).set 56 1#8) = none := by
  have h : crc64 (((List.replicate 128 0#8).set 56 1#8).take 56 ++ ((List.replicate 128 0#8).set 56 1#8).drop 64) = 0#64 := crc64_zeros 120
  unfold readFlits
  rw [h]
  decide +kernel
/-- Link 0 as `l`, with inbound window 0 open on a page, or shut. -/
def packaged (l : Link) (open_ : Bool) : State :=
  State.reset.modHub fun h => { h with
    links := [(0, l)], wins := if open_ then [(0, (0x8000000000030000#64, 1#64, 0#64))] else [] }
/-- PackageLinks: a link down, and one up; an acknowledgement of none, of all and of too many; a packet in sequence, at each end of the
duplicates, and ahead (`flits_read` and `flits_bad`: one whose CRC is right, and one whose CRC is wrong); a window that takes it and one that does not; a timeout on time and early; lanes of each width. -/
theorem witness_PackageLinks :
    (packaged Link.reset true).link 0 = Link.reset ∧ Link.reset.up = true ∧ ({ Link.reset with width := 0 } : Link).up = false ∧
    (let l := { Link.reset with rbuf := [packet1, { packet1 with seq := 1#12 }] }
     (l.lastAck - l.lastAck).toNat = 0 ∧ (l.lastAck + 2#12 - l.lastAck).toNat ≤ l.rbuf.length ∧ l.rbuf.length < (l.lastAck + 3#12 - l.lastAck).toNat ∧
       l.rbuf ≠ []) ∧
    (Link.reset.expect - (Link.reset.expect - 2049#12)).toNat = 2049 ∧ (Link.reset.expect - (Link.reset.expect - 2048#12)).toNat = 2048 ∧
    (Link.reset.expect - (Link.reset.expect - 1#12)).toNat = 1 ∧ (Link.reset.expect - Link.reset.expect).toNat = 0 ∧
    (packaged Link.reset false).inboundAt packet1 = none ∧ (packaged Link.reset true).inboundAt packet1 = some (0x30000, .hbm) ∧
    16384 ≤ 16384 - Link.reset.since ∧ 16383 - Link.reset.since < 16384 ∧ Link.reset.rbuf = [] ∧
    Link.reset.width = 1 ∧ laneIn 2 7 = true ∧ laneIn 2 8 = false ∧ laneIn 3 8 = true ∧ laneIn 3 7 = false ∧
    (({ Link.reset with width := 2, next := 2, pend := true } : Link).retrain || true) = true ∧
    ({ Link.reset with retrain := true } : Link).retrain = true ∧ Link.reset.retrain = false ∧ Link.reset.pend = false := by decide +kernel
/-- A context that holds a configuration. -/
def context : CtxState :=
  { valid := true, loaded := true, armed := false, marked := false, rm := 0#2, flags := 0#5, quota := 1, mrem := 0, spilled := 0#32,
    snap := 0#32, lastDone := 0#32 }
/-- Lantern 0 in supervisor mode with operands in s17 and s18, at the head of a segment's region. -/
def asked (a b : Word) : State := inSeg seg1 launch1 [(17, a), (18, b)]
/-- ReliabilityInstructions: TLBI with an access in line and with none, and a word no kind reads; a die, a row, an interval, a
position, an interface and clusters at each bound; a row remapped, suspected, and free; an element that holds a context; clusters fenced,
being fenced and free; the last bits that flip. -/
theorem witness_ReliabilityInstructions :
    (asked 0#64 0#64).performAll.bankBusy (some 0) = false ∧
    ((asked 0#64 0#64).modTile 0 fun x => { x with bankq := [banked] }).performAll.bankBusy (some 0) = true ∧
    (0x400000000007F000#64 : Word).toNat / 2 ^ 20 = 2 ^ 42 ∧ (0x100000#64 : Word).toNat / 2 ^ 20 % 2 ^ 42 ≠ 0 ∧ (7#64 : Word).toNat < 8 ∧ 8 ≤ (8#64 : Word).toNat ∧
    rowOf 0xFBF#64 = some (7, 447) ∧ rowOf 0xFC0#64 = none ∧ spareOp 0x10#64 = none ∧
    ([(0x1#64, 1, 0), (0x101#64, 1, 1), (0x3FF01#64, 1, 1023), (0x40001#64, 1, 1024), (0x6F02#64, 2, 111), (0x7002#64, 2, 112), (3#64, 3, 0), (0x6F04#64, 4, 111)].all
      fun p => decide (spareOp p.1 = some p.2)) = true ∧
    (asked 0#64 0#64).spare 0 0 = spareReset ∧ spRmap spareReset = false ∧ spRmap 0x8000000000000000#64 = true ∧ spSusp 0x80000000000000#64 = true ∧
      spSusp spareReset = false ∧
    (asked 0#64 0#64).hasContext (spareEl 0 0 111) = false ∧
    ({ asked 0#64 0#64 with elems := [(spareEl 0 0 3, { Element.empty with core := { ElemCore.empty with
        ctxs := [(0, context)] } })] } : State).hasContext (spareEl 0 0 3) = true ∧
    (4095#64 : Word).toNat < 4096 ∧ 4096 ≤ (4096#64 : Word).toNat ∧ (asked 0#64 0#64).ifaceRuns 0 = true ∧ (asked 0#64 0#64).ifaceRuns 4095 = false ∧
    dieqTarget 0x761#64 = some (7, [97]) ∧ dieqTarget 0x762#64 = none ∧ dieqTarget 0x7F#64 = some (0, List.range 98) ∧
    (lanDie (asked 0#64 0#64).focus = 0 ∧ lanCl (asked 0#64 0#64).focus ∈ [0] ∧ lanCl (asked 0#64 0#64).focus ∉ [97]) ∧
    97 ∈ ((((asked 0#64 0#64).modBeacon 0 fun b => { b with fencing := b.fencing ++ [97] }).fenceStep 0).beacon 0).fenced ∧
    0 ∈ ((((asked 0#64 0#64).modBeacon 0 fun b => { b with fencing := b.fencing ++ [0] }).fenceStep 0).beacon 0).fencing ∧
    binjOp 0x260#64 = some (0, 38) ∧ binjOp 0x251#64 = some (1, 37) ∧ binjOp 2#64 = some (2, 0) ∧ binjOp 4#64 = none ∧
    (asked 0#64 0#64).binjPlace (BitVec.ofNat 64 (tileBase 1)) = true := by decide +kernel
/-- The spares' events: an interval over and not, a row held, asked for and not, an element shadowed and none; an edge and none. -/
theorem witness_ReliabilityInstructions_events :
    (asked 0#64 0#64).intervalOver 0 0 = false ∧ { asked 0#64 0#64 with tick := 2 ^ 20 }.intervalOver 0 0 = true ∧ spHold spareReset = false ∧
      spHold 0x8000#64 = true ∧ modeRotate 8#64 = true ∧ modeRotate 0#64 = false ∧ (asked 0#64 0#64).hub.askHost = [] ∧
    (asked 0#64 0#64).shadowed 0 0 = some 0 ∧ ((asked 0#64 0#64).setSpare 0 0 0x8000000000000000#64).shadowed 0 0 = none ∧
      (asked 0#64 0#64).leadOfTile (elTile 0) = some 0 ∧
    isEdge 0 1 = true ∧ isEdge 5 7 = true ∧ isEdge 1 8 = true ∧ isEdge 2 8 = false ∧ isEdge 1 2 = false ∧ modeRetrain 16#64 = true ∧
      modeRetrain 0#64 = false := by decide +kernel
/-- Launch 0, not placed, and others that hold every slice of die 0. -/
def crowded : State :=
  let other (i : Nat) : Nat × Launch := (i + 1, { launch1 with id := i + 1, slices := [(0, 0x10000 * i)] })
  (inSeg seg1 { launch1 with placed := false, slices := [] } []).modHub fun h => { h with launches := h.launches ++ (List.range 64).map other }
/-- A segment that waits for a region anywhere on its die. -/
def anywhere : Seg := { waiting1 with desc := { desc1 with cluster := 127 } }
/-- Lantern 0 in segment `g` of launch 0, with `xs` in the rest of die 0's table, and a pool to save to. -/
def beaconed (g : Seg) (xs : List (Nat × Seg)) : State :=
  (inSeg g launch1 []).modBeacon 0 fun b => { b with segs := b.segs ++ xs, savepg := 4096, savebase := 0x100000 }
/-- A pull of the ring at 0x20000 with header 0x30000. -/
def pull1 (head tail : Nat) (wait : Bool) : Pull :=
  { hdr := 0x30000#64, base := 0x20000, log := 3, head := head, tail := tail, pasid := 0, launch := 0, sender := segIdent 0 0 1,
    miss := Miss.zero, wait := wait }
/-- Lantern 0 in a segment, with that pull, and a descriptor in the ring's first record. -/
def pulling (p : Pull) (desc : List Word) : State := (spawning seg1 desc).modBeacon 0 fun b => { b with pulls := [p] }
/-- BeaconEvents: launches that are not there, ended, placed, and placed with and without room; a decision due with nothing, with a segment
that fits and with one that does not. -/
theorem witness_BeaconEvents_launches :
    (let s := beaconed seg1 []
     s.hub.launches.find 1 = none ∧ s.hub.launches.find 0 = some launch1 ∧ launch1.status = none ∧ launch1.placed = true ∧
       ({ launch1 with status := some 5 } : Launch).status ≠ none) ∧
    ((inSeg seg1 { launch1 with placed := false } []).placeLaunch 0).isSome = true ∧
    (crowded.placeLaunch 0).isNone = true ∧
    ([(0, [(1, anywhere)], true), (1, [(1, anywhere)], true), (97, [(1, anywhere)], true), (7, [], false)].all fun p =>
      let s := (beaconed seg1 p.2.1).modBeacon 0 fun b => { b with due := p.2.2, fenced := (List.range 98).filter fun c => decide (c ≠ p.1) }
      let u := s.fenceStep 0
      let w := u.modBeacon 0 fun b => { b with due := false }
      decide ((u.beacon 0).due = p.2.2 ∧ w.waitingSegs 0 = p.2.1 ∧ modePlace (w.modeOf 0) = false ∧
        (w.fit 0 anywhere none = if p.1 = 0 then none else some p.1) ∧ w.givesWay 0 anywhere = none)) = true ∧
    modePlace 0x20#64 = true := by decide +kernel
/-- BeaconEvents: PLACE with an entry that is none, that does not wait, of another die, with each bound of the origin, and taken; a quantum that
is over, at its last tick, for a segment that is beaten and one that is not; a pre-emption that is complete, and one that is not. -/
theorem witness_BeaconEvents_residents :
    (let s := beaconed seg1 [(1, anywhere)]
     (s.beacon 0).segs.find 2 = none ∧ (s.beacon 0).segs.find 0 = some seg1 ∧ (s.beacon 0).segs.find 1 = some anywhere ∧
       seg1.waiting = false ∧ anywhere.waiting = true ∧
       (0x1001#64 : Word).toNat / 2 ^ 12 % 16 ≠ 0 ∧ (0x610001#64 : Word).toNat / 2 ^ 16 % 128 = 97 ∧ (0x620001#64 : Word).toNat / 2 ^ 16 % 128 = 98 ∧
       (0x7E0001#64 : Word).toNat / 2 ^ 16 % 128 = 126 ∧ (0x7F0001#64 : Word).toNat / 2 ^ 16 % 128 = 127 ∧ (0x7F0001#64 : Word).toNat / 2 ^ 12 % 16 = 0 ∧
       s.fitsAt 0 anywhere none 97 = true ∧ s.fitsAt 0 anywhere none 0 = false) ∧
    (let s := { beaconed seg1 [(1, anywhere)] with tick := 2 ^ 20 }
     seg1.origin = some 0 ∧ seg1.preempt = false ∧ s.endReady 0 = false ∧ (s.beacon 0).quantum ≤ s.tick - seg1.since ∧
       { s with tick := 2 ^ 20 - 1 }.tick - seg1.since < (s.beacon 0).quantum ∧ s.beaten 0 seg1 = true ∧ (beaconed seg1 []).beaten 0 seg1 = false ∧
       (s.startPreempt 0 0 false).isSome = true) ∧
    (let g := { seg1 with preempt := true, saveAt := some (0, 32) }
     let s := beaconed g []
     g.preempt = true ∧ ((s.lan 0).st = .run ∨ (s.lan 0).st = .ending) ∧ s.ownQuiet 0 = true ∧ (s.lan 0).dpoi.isNone = true ∧ g.abortDue.isNone = true ∧
       s.preReady 0 false = true ∧ ({ s with chans := [(0, chan .flat 0#64 0#64 8 false)] } : State).ownQuiet 0 = false) := by decide +kernel
/-- BeaconEvents, one segment of a decision: its placement asked for; its ranges behind an edge; one that fits; one that does not, with a
segment that gives way, and can be saved, or cannot, and with none; and a PLACE that defers, fits and does not. -/
theorem witness_BeaconEvents_decides :
    (let g := anywhere
     let s := beaconed seg1 [(1, g)]
     let full (s : State) : State := s.modBeacon 0 fun b => { b with fenced := (List.range 98).filter fun c => decide (c ≠ 0) }
     let spec := { seg1 with st := .runs }
     s.placeAsked 0 1 = false ∧ (s.askPlace 0 1 g).placeAsked 0 1 = true ∧ s.rangesCut 0 g = false ∧
     ({ s with edges := [(1, 1)], roots := [(rootKey 0 0, 2 ^ 37)] } : State).rangesCut 0 { g with desc := { g.desc with ranges := [(0, 1, 3#2)] } } = true ∧
     s.fit 0 g none ≠ none ∧ (full s).fit 0 g none = none ∧ (full s).givesWay 0 g = none ∧ g.committed = true ∧
     (full (beaconed spec [(1, g)])).givesWay 0 g = some 0 ∧ ((full (beaconed spec [(1, g)])).startPreempt 0 0 false).isSome = true ∧
     (((full (beaconed spec [(1, g)])).modBeacon 0 fun b => { b with savepg := 0 }).startPreempt 0 0 false).isNone = true ∧
     ((0x7F0001#64 : Word).toNat / 2 ^ 16 % 128 = 127 ∧ (0x610001#64 : Word).toNat / 2 ^ 16 % 128 < 98)) := by decide +kernel
/-- BeaconEvents: an end that is ready, of a segment that runs, is speculative, and is none; an abort; an entry of a tile that is wanted, and
one that holds it; a commit at the head of the queue. -/
theorem witness_BeaconEvents_ends :
    ([(seg1, some (0, seg1)), ({ seg1 with st := .runs }, some (0, { seg1 with st := .runs })), ({ seg1 with origin := none }, none)].all fun p =>
      let s := (beaconed p.1 []).modLan 0 fun l => { l with st := .ending }
      s.endReady 0 && decide (s.resident 0 = p.2)) = true ∧
    (beaconed seg1 []).endReady 0 = false ∧ seg1.abortDue = none ∧ ({ seg1 with abortDue := some true } : Seg).abortDue = some true ∧
    (let g := { seg1 with st := .pends, origin := none, set := some 3 }
     let s := ((beaconed { seg1 with staged := true } [(1, g)]).modLan 0 fun l => { l with stWait := some 1 }).modTile 1 fun x =>
       { x with ver := [(0, .staged 3 0 15#4 0#32)] }
     s.entryWanted 1 = true ∧ s.costliest 1 = some (0, 1, g) ∧ s.entryWanted 3 = false ∧ s.costliest 3 = none) ∧
    (∀ r : Bool,
      let s := (beaconed seg1 []).modBeacon 0 fun b => { b with commits := [{ set := 3, idx := 0, retire := r }] }
      (s.beacon 0).commits = [{ set := 3, idx := 0, retire := r }] ∧
        ((s.modBeacon 0 fun b => { b with commits := [] }).beacon 0).segs.find 0 = some seg1 ∧ seg1.origin = some 0) ∧
    ((beaconed seg1 []).beacon 0).commits = [] := by decide +kernel
/-- BeaconEvents: pulls with none, that wait, of a launch that has ended, of a die that is fenced, at the end of the ring; the record read, its
header written, and a table with room; a record that does not translate. -/
theorem witness_BeaconEvents_pulls :
    ((beaconed seg1 []).beacon 0).pulls.find? (fun p => !p.wait) = none ∧
    ((pulling (pull1 0 1 true) []).beacon 0).pulls.find? (fun p => !p.wait) = none ∧
    (let p := pull1 0 1 false
     let s := pulling p (descImage 0)
     (s.beacon 0).pulls.find? (fun p => !p.wait) = some p ∧ s.hub.launches.find p.launch = some launch1 ∧ s.hub.launches.find 1 = none ∧
       (s.beacon 0).quarantined = false ∧ p.head < p.tail ∧ (pull1 1 1 false).tail ≤ (pull1 1 1 false).head ∧ modeWalk (s.modeOf 0) = false ∧
       (match s.readAs 0 0 0x20000#64 64 with
        | (.ok (bs, false), u) =>
          (match u.readAs 0 0 (BitVec.ofNat 64 (descTable bs)) (8 * descExtra bs) with
           | (.ok (ex, false), v) => decide ((v.mayWriteAs 0 0 (p.hdr + 12#64) 12).1 = none ∧ segDescBad bs (descOf bs ex) launch1.clMax = false ∧
               (descOf bs ex).die = 0 ∧ (v.mayWriteAs 0 0 (p.hdr + 12#64) 12).2.freeSeg 0 = some 1)
           | _ => false)
        | _ => false) = true ∧
       (match s.readAs 0 0 0x40000000#64 64 with | (.error _, _) => true | _ => false) = true) := by decide +kernel
/-- BeaconEvents: a pull that may not walk, and may; a header that may not be written; a record that is malformed, and a table that is
full. -/
theorem witness_BeaconEvents_pulls_more :
    modeWalk 1#64 = true ∧ (pull1 0 1 false).miss.may 0x20000 = false ∧ { Miss.zero with pages := [0x20] }.may 0x20000 = true ∧
    (let s := pulling (pull1 0 1 false) (descImage 0)
     (s.mayWriteAs 0 0 (0x80000000#64 + 12#64) 12).1.isSome = true) ∧
    (match (pulling (pull1 0 1 false) []).readAs 0 0 0x20000#64 64 with
     | (.ok (bs, false), _) => segDescBad bs (descOf bs []) launch1.clMax
     | _ => false) = true := by decide +kernel
theorem find_listed {α : Type} (g : α) (l : List Nat) : ∀ i ∈ l, (Tab.find (l.map fun i => (i, g)) i).isNone = false := by
  induction l with
  | nil => exact fun _ h => nomatch h
  | cons a l ih =>
    intro i hi
    by_cases e : i = a
    · simp [Tab.find, e]
    · simpa [Tab.find, e] using ih i ((List.mem_cons.mp hi).resolve_left e)
theorem lowest_listed {α : Type} (g : α) (n : Nat) :
    (lowest n fun i => (Tab.find ((List.range n).map fun i => (i, g)) i).isNone) = none :=
  List.find?_eq_none.mpr fun i hi => ne_true_of_eq_false (find_listed g (List.range n) i hi)
/-- A die whose pending table is full. -/
theorem table_full (xs : Tab Seg) (n : Nat) (hn : n = 4096) (h : xs = (List.range n).map fun i => (i, seg1)) :
    (State.reset.modBeacon 0 fun b => { b with segs := xs }).freeSeg 0 = none := by
  have e : ((State.reset.modBeacon 0 fun b => { b with segs := xs }).beacon 0).segs = xs := rfl
  unfold State.freeSeg
  rw [e, h, ← hn]
  exact lowest_listed seg1 n
/-- Interface 0 assigned, with a ring of eight packets at 0x40000 of host memory and `n` of them to serve. -/
def iface1 (d0 : Word) (n : Nat) : Iface :=
  { Iface.reset with d0 := d0, d1 := 0x40003#64, tail := BitVec.ofNat 16 n }
/-- The launch record at 0x20000: one level, of one region, and the entry at 0x20100; its descriptor. -/
def launchRecord (ptr : Word) : List Word :=
  [0x101#64, 0#64, 0x1000#64, 0#64, 0x10505#64, 0#64, 0#64, 0#64, ptr] ++ List.replicate 23 0#64 ++ descImage 15
/-- The hub with interface 0 as `f`, and a packet in its ring. -/
def hubServing (f : Iface) (packet : List Word) : State :=
  (place (place (mapped []) 0x20000 (launchRecord 0x20100#64)) (hostPa 0x40000) packet).modHub fun h => { h with ifaces := [(0, f)] }
/-- What the hub reads of the launch record at `va` for interface 0. -/
def recordReads (va : Word) (P : Except Nat Launch → Bool) : Bool :=
  P ((hubServing (iface1 0x8000000000000000#64 1) []).readLaunch
    { iface := 0, pasid := 0, tag := 0, compl := 0#64, irq := false } false va).1
/-- HubInterfaces: an entry assigned, and not; doorbells inside the ring, at its end and outside; an interrupt owed and none; an assignment
of another PASID and one with RVK; launches gone, and not, with a write under way; an interface to serve, its packet read and not, and
launch, NOP and malformed packets; a record that is accepted and one that is not. -/
theorem witness_HubInterfaces :
    ((hubServing Iface.reset []).iface 0).v = false ∧ ((hubServing (iface1 0x8000000000000000#64 1) []).iface 0).v = true ∧
    (iface1 0x8000000000000000#64 0).ring = 8 ∧ ((9#64 : Word).extractLsb' 0 16 - 0#16).toNat = 9 ∧ ((8#64 : Word).extractLsb' 0 16 - 0#16).toNat = 8 ∧
    (iface1 0x8000000000000000#64 0).owed = 0 ∧ ({ iface1 0x8000000000000000#64 0 with owed := 1 } : Iface).owed ≠ 0 ∧
    (0x8000000000000007#64).getLsbD 61 = false ∧ (0x8000000000000007#64 : Word).extractLsb' 0 20 ≠ (iface1 0x8000000000000000#64 0).d0.extractLsb' 0 20 ∧
    (mapped []).hub.launches.find 0 = none ∧ (inSeg seg1 launch1 []).launchGone launch1 = false ∧ (inSeg seg1 launch1 []).settled = true ∧
    (((inSeg seg1 launch1 []).modBeacon 0 fun b => { b with segs := [] }).launchGone launch1 = true) ∧
    ((inSeg seg1 launch1 []).modTile 1 fun x => { x with bankq := [{ banked with store := true }] }).settled = false ∧
    (mapped []).hubCut 0 = false ∧ (mapped []).nextIface = none ∧ ({ mapped [] with edges := [(8, 1)] } : State).hubCut 0 = true ∧
    (let s := hubServing (iface1 0x8000000000000000#64 1) [2#64]
     s.nextIface = some 0 ∧ s.hostStage 0x40000 false = some 0x40000 ∧
       (s.modHub fun h => { h with hstroot := 0x8000000000100000#64 }).hostStage 0x40000 false = none ∧
       (let p := s.mem.bytes (hostPa 0x40000) 64
        packetBad p = false ∧ fieldAt p 0 1 = 2) ∧
       (iface1 0x8000000000000000#64 1).rvk = false ∧ (iface1 0xA000000000000000#64 1).rvk = true) ∧
    (let s := hubServing (iface1 0x8000000000000000#64 1) [1#64, 0x20000#64]
     let p := s.mem.bytes (hostPa 0x40000) 64
     packetBad p = false ∧ fieldAt p 0 1 = 1) ∧
    packetBad (leBytes 8 3 ++ List.replicate 56 0#8) = true ∧
    recordReads 0x20000#64 (fun r => match r with | .ok l => decide (l.entries.length = 1 ∧ l.dies = 1) | .error _ => false) = true ∧
    recordReads 0x20100#64 (fun r => match r with | .ok _ => false | .error e => decide (e = 2)) = true ∧
    recordReads 0x40000000#64 (fun r => match r with | .ok _ => false | .error e => decide (e = 3)) = true := by decide +kernel
/-- HubInterfaces: a completion whose accesses an edge holds; a record whose reading an edge holds. -/
theorem witness_HubInterfaces_cut :
    (let s := { hubServing (iface1 0x8000000000000000#64 1) [] with roots := [(rootKey 0 0, 2 ^ 37)], edges := [(1, 1)] }
     s.asCut 0 0 0x20000#64 16 = true ∧ (hubServing (iface1 0x8000000000000000#64 1) []).asCut 0 0 0x20000#64 16 = false ∧
     (match (s.readLaunch { iface := 0, pasid := 0, tag := 0, compl := 0#64, irq := false } false 0x20000#64).1 with
      | .ok _ => false
      | .error e => decide (e = packetHeld)) = true) := by decide +kernel
/-- Element 0 in a region that is armed. -/
def debugging : State :=
  { sup [] with elems := [(0, { Element.empty with core := { ElemCore.empty with ctxs := [(0, { context with armed := true })] } })] }
/-- Host memory's table at 0x100000, where the page at 0 may be read and not written. -/
def hostReadOnly : State :=
  (place (place (place State.reset (hostPa 0x100000) [0x101001#64]) (hostPa 0x101000) [0x102001#64]) (hostPa 0x102000) [0x85#64]).modHub fun h =>
    { h with hstroot := 0x8000000000100000#64 }
/-- An image of the least length, with the magic number `m` and SVN 0. -/
def imageBytes (m : Nat) : List Byte := leBytes 8 m ++ List.replicate 568 0#8
/-- Lantern 0 with a trace packet in its FIFO, and die 0's ring with HEAD, PAGES and CTL. -/
def tracing (head pages ctl : Word) : State :=
  (sup [] |>.modLan 0 fun l => { l with day := { l.day with fifo := [(1#64, 2#64)] } }).modBeacon 0 fun b =>
    { b with dayBase := 0x200000#64, dayHead := head, dayPages := pages, dayCtl := ctl }
/-- ManagementEvents: state registers that a window may write and may not; an element whose regions are stopped, and offsets at each bound;
the pages of the register space; a trace packet with a ring, none, full with STOP, full without, and not yet full; mailbox addresses at
each bound, host memory that reads and does not, writes and does not; images that are well formed and are not; a CAP at its floor and above. -/
theorem witness_ManagementEvents :
    srWritable 6 = false ∧ srWritable 5 = true ∧ srWritable 0xC = true ∧ fqbaseOk 0xC00000#64 = false ∧ fqbaseOk 0x70F000#64 = true ∧
    (sup []).elStopped 0 = true ∧ debugging.elStopped 0 = false ∧ debugOk 0 0x7F8 = true ∧ debugOk 0 0x800 = false ∧ debugOk 5 0 = false ∧
    0x30018 % 8 = 0 ∧ 0x30014 % 8 ≠ 0 ∧ 0x3000 % 4096 = 0 ∧ 0x3040 % 4096 = 0x40 ∧ 0x3048 % 4096 ≠ 0x40 ∧
    ((tracing 0#64 1#64 0#64).beacon 0).dayPages ≠ 0#64 ∧ ((tracing 0#64 0#64 0#64).beacon 0).dayPages = 0#64 ∧
    ((tracing 0#64 1#64 0#64).lan (lanOf 0 0)).day.fifo = [(1#64, 2#64)] ∧ ((tracing 0#64 1#64 0#64).lan (lanOf 0 97)).day.fifo = [] ∧
    (0x1000#64).getLsbD 12 = true ∧ 4096 * (1#64 : Word).toNat ≤ (4096#64 : Word).toNat ∧ (4080#64 : Word).toNat < 4096 * (1#64 : Word).toNat ∧
    ((tracing 4080#64 1#64 0x1000#64).traceStore (0x200000 + 4080) (leBytes 8 1 ++ leBytes 8 2)).isSome = true ∧
    (4097 % 4096 ≠ 0 ∧ 2 ^ 48 ≤ 2 ^ 48 ∧ 0xFFFFFFFFF000 % 4096 = 0 ∧ 0xFFFFFFFFF000 < 2 ^ 48) ∧
    ((State.reset.mailCommand 1 0#64 none).hostBytes 0 64).isSome = true ∧
    (((State.reset.modHub fun h => { h with hstroot := 0x8000000000000000#64 }).mailCommand 1 0#64 none).hostBytes 0 64).isNone = true ∧
    ((State.reset.mailCommand 1 0#64 none).hostStage 0 true).isSome = true ∧ ((hostReadOnly.mailCommand 1 0#64 none).hostBytes 0 64).isSome = true ∧
    ((hostReadOnly.mailCommand 1 0#64 none).hostStage 0 true).isNone = true ∧
    ((State.reset.mailCommand 2 0#64 (some 576)).hostBytes 0 576).isSome = true ∧ imageOk (imageBytes 0) 0 = false ∧ imageOk (imageBytes 0x4D465A4D) 1 = false ∧
    (∀ d : Fin 8, 1024 < (State.reset.arb d.val).cap) ∧
    (∀ d : Fin 8, ({ State.reset with arbs := (List.range 8).map fun d => (d, { Arbiter.reset with cap := 1024 }) }.arb d.val).cap ≤ 1024) ∧
    State.reset.loadFail 0 [] = some ⟨1, 0xFFFF⟩ := by decide +kernel
/-- ManagementEvents: the views that are no interface's. -/
theorem witness_ManagementEvents_views : (∀ n, View.physical ≠ View.iface n) ∧ ∀ n, View.supervisor ≠ View.iface n := ⟨nofun, nofun⟩
/-- ManagementEvents: an element of an array that runs a command, one of an array that does not, and one of none; a token register that a
window write releases; a section that finds no page. -/
theorem witness_ManagementEvents_more :
    (let arr (c : Option MxCmd) : State := (region [] []).modLan 0 fun l => { l with mx := some { Array2.fresh (shapeWord 0 0 1 1) with cmd := c } }
     let c : MxCmd := { kind := .snap, rd := 3#5, a := 0#64, b := 0#64, held := none, fin := false, wants := none }
     ((arr (some c)).arrayAt 0).any (fun x => x.2.1.busy) = true ∧ ((arr none).arrayAt 0).any (fun x => !x.2.1.busy) = true ∧
     (State.reset.arrayAt 0).isNone = true ∧ (arr none).elStopped 0 = true ∧ debugOk 2 0 = true) ∧
    (let s := { (region [] []).modLan 0 fun l => { l with sb := [5#5] } with chans := [(0, own (chan .flat 0#64 0#64 8 false))] }
     s.tokenReg 0 5#5 = true ∧ s.tokenReg 0 6#5 = false) ∧
    (match ({ State.reset with nextPage := (List.range 8).map fun d => (d, 2 ^ 25) } : State).placeKind 0 [] 0 512
        [{ idx := 3, code := 1, skip := false, perm := 5, align := 12, va := 0, off := 0, len := 1 }] with
     | .error i => decide (i = 3)
     | .ok _ => false) = true := by decide +kernel
/-- An image of the right form verifies just where the keys of the package say so. -/
theorem image_verifies : imageOk (imageBytes 0x4D465A4D) 0 = Config.imageVerifies (imageBytes 0x4D465A4D) := by
  have h : (decide (leNat ((imageBytes 0x4D465A4D).take 4) = 0x4D465A4D ∧
      (imageBytes 0x4D465A4D).length = 64 + leNat (((imageBytes 0x4D465A4D).drop 8).take 8) + 512 ∧
      leNat (((imageBytes 0x4D465A4D).drop 0x10).take 48) = 0)
    && decide (0 ≤ leNat (((imageBytes 0x4D465A4D).drop 4).take 4))) = true := by decide +kernel
  exact (congrArg (· && Config.imageVerifies (imageBytes 0x4D465A4D)) h).trans (Bool.true_and _)
theorem sha512_length (m : List Byte) : (sha512 m).length = 64 := by
  have bytes (n v : Nat) : (beBytes n v).length = n := by
    induction n generalizing v with
    | zero => rfl
    | succ n ih => simp [beBytes, ih]
  have rounds (ws : List (Word × Word)) : ∀ v : List Word, v.length = 8 → (ws.foldl shaRound v).length = 8 := by
    induction ws with
    | nil => exact fun _ h => h
    | cons w ws ih => exact fun v _ => ih _ rfl
  have blocks (n : Nat) : ∀ (h : List Word) (m : List Byte), h.length = 8 → (shaBlocks n h m).length = 8 := by
    induction n with
    | zero => exact fun _ _ h => h
    | succ n ih => exact fun h m hh => ih _ _ (by simp [shaBlock, rounds _ h hh, hh])
  have all (ws : List Word) : (ws.flatMap fun w => beBytes 8 w.toNat).length = 8 * ws.length := by
    induction ws with
    | nil => rfl
    | cons w ws ih => simp [bytes, ih]; omega
  have start : shaInit.length = 8 := by decide +kernel
  rw [sha512, all, blocks _ _ _ start]
/-- The section table of a binary of an empty TEXT and an empty LNCH section. -/
def sections : List Byte :=
  leBytes 8 0x300050001 ++ leBytes 8 0 ++ leBytes 8 0 ++ leBytes 8 0 ++ leBytes 8 0x300010006 ++ leBytes 8 0 ++ leBytes 8 0 ++ leBytes 8 0
/-- That binary, whose header holds `h` as its hash. -/
def binary (h : List Byte) : List Byte :=
  leBytes 8 0x2000434464C48 ++ leBytes 8 128 ++ leBytes 8 64 ++ h ++ List.replicate 32 0#8 ++ sections
/-- Its sections. -/
def emptySection (i code perm : Nat) : Section :=
  { idx := i, code := code, skip := false, perm := perm, align := 3, va := 0, off := 0, len := 0 }
theorem placed_empty (s : State) (f : List Byte) (i code perm extra : Nat) :
    s.placeKind 0 f 0 extra [emptySection i code perm] = .ok s := by
  have h : s.placeSection f 0 (emptySection i code perm) [] = some (s, []) := by
    simp only [State.placeSection, emptySection, Section.pages, if_true, List.filter_nil, List.isEmpty_nil, Option.map_some, List.map_nil,
      List.mapIdx_nil, List.append_nil, List.foldl_nil]
    split <;> rfl
  simp only [State.placeKind, List.foldl_cons, List.foldl_nil, h]
theorem field_eq {f : List Byte} {o n v : Nat} (h : (f.drop o).take n = leBytes n v) (hv : leNat (leBytes n v) = v) : fieldAt f o n = v :=
  (congrArg leNat h).trans hv
theorem binary_sections (b0 b1 b2 b3 b4 b5 b6 b7 : Byte) :
    sectionsOf (binary [b0, b1, b2, b3, b4, b5, b6, b7]) = [emptySection 0 1 5, emptySection 1 6 1] := by
  have h0 : (binary [b0, b1, b2, b3, b4, b5, b6, b7]).drop 64 = sections := rfl
  have h1 : (binary [b0, b1, b2, b3, b4, b5, b6, b7]).drop 96 = sections.drop 32 := rfl
  have n : fieldAt (binary [b0, b1, b2, b3, b4, b5, b6, b7]) 6 2 = 2 := rfl
  have o : fieldAt (binary [b0, b1, b2, b3, b4, b5, b6, b7]) 0x10 4 = 64 := rfl
  have r : List.range 2 = [0, 1] := rfl
  simp only [sectionsOf, n, o, r, List.map_cons, List.map_nil, Nat.mul_zero, Nat.mul_one, Nat.add_zero, Nat.reduceAdd, h0, h1]
  decide +kernel
theorem binary_header (b0 b1 b2 b3 b4 b5 b6 b7 : Byte) 
    (hd : ((binary [b0, b1, b2, b3, b4, b5, b6, b7]).drop 0x18).take 8 = (sha512 ((binary [b0, b1, b2, b3, b4, b5, b6, b7]).drop 0x40)).take 8) :
    fileHeaderFail (binary [b0, b1, b2, b3, b4, b5, b6, b7]) = none := by
  have len : (binary [b0, b1, b2, b3, b4, b5, b6, b7]).length = 128 := rfl
  have a : fieldAt (binary [b0, b1, b2, b3, b4, b5, b6, b7]) 0 4 = 0x34464C48 := field_eq (v := 0x34464C48) rfl (by decide +kernel)
  have b : fieldAt (binary [b0, b1, b2, b3, b4, b5, b6, b7]) 4 2 = 4 := field_eq (v := 4) rfl (by decide +kernel)
  have n : fieldAt (binary [b0, b1, b2, b3, b4, b5, b6, b7]) 6 2 = 2 := field_eq (v := 2) rfl (by decide +kernel)
  have l : fieldAt (binary [b0, b1, b2, b3, b4, b5, b6, b7]) 8 8 = 128 := field_eq (v := 128) rfl (by decide +kernel)
  have o : fieldAt (binary [b0, b1, b2, b3, b4, b5, b6, b7]) 0x10 4 = 64 := field_eq (v := 64) rfl (by decide +kernel)
  have z : fieldAt (binary [b0, b1, b2, b3, b4, b5, b6, b7]) 0x14 4 = 0 := field_eq (v := 0) rfl (by decide +kernel)
  have y : fieldAt (binary [b0, b1, b2, b3, b4, b5, b6, b7]) 0x20 32 = 0 := field_eq (v := 0) rfl (by decide +kernel)
  simp only [fileHeaderFail, decide_eq_true hd, len, a, b, n, l, o, z, y]
  decide +kernel
/-- A load that succeeds: nothing fails, and the sections of both kinds are placed. -/
theorem load_succeeds :
    ∃ f, State.reset.loadFail 0 f = none ∧ sectionsOf f = [emptySection 0 1 5, emptySection 1 6 1] ∧ dataDie f (sectionsOf f) = 0 ∧
      State.reset.placeKind 0 f 0 512 ((sectionsOf f).filter Section.everyDie) = .ok State.reset ∧
      State.reset.placeKind 0 f 0 0 ((sectionsOf f).filter fun x => x.placed && !x.everyDie) = .ok State.reset := by
  have h8 : ((sha512 sections).take 8).length = 8 := by simp [sha512_length]
  obtain ⟨b0, b1, b2, b3, b4, b5, b6, b7, hb⟩ : ∃ b0 b1 b2 b3 b4 b5 b6 b7, (sha512 sections).take 8 = [b0, b1, b2, b3, b4, b5, b6, b7] := by
    match h : (sha512 sections).take 8, h8 with
    | [b0, b1, b2, b3, b4, b5, b6, b7], _ => exact ⟨b0, b1, b2, b3, b4, b5, b6, b7, rfl⟩
  have secs := binary_sections b0 b1 b2 b3 b4 b5 b6 b7
  have head := binary_header b0 b1 b2 b3 b4 b5 b6 b7 hb.symm
  generalize binary [b0, b1, b2, b3, b4, b5, b6, b7] = f at secs head
  refine ⟨f, ?_, secs, ?_, ?_, ?_⟩
  · simp only [State.loadFail, head, secs]
    rfl
  · rw [secs]; rfl
  · rw [secs]; exact placed_empty _ _ 0 1 5 512
  · rw [secs]; exact placed_empty _ _ 1 6 1 0
end Sys2Proof.Tests
end

section
/-! ## R126 to R128: register arithmetic, immediate forms, shifts and compare

Each of these instructions retires with one register write, or (a shift whose immediate is out of range) traps. What it
writes is the model's own formula on integers; the lemmas of the first part say which bit-vector operation that is. -/

namespace Sys2Proof.Machine

/-! ### The written values as bit-vector operations -/

/-- The high half of a 128-bit value known only modulo 2^128 is its quotient by 2^64, modulo 2^64. -/
theorem extractLsb'_ofInt_high (z : Int) : (BitVec.ofInt 128 z).extractLsb' 64 64 = BitVec.ofInt 64 (z / 2 ^ 64) := by
  apply BitVec.eq_of_toNat_eq
  rw [BitVec.extractLsb'_toNat, BitVec.toNat_ofInt, BitVec.toNat_ofInt, Nat.shiftRight_eq_div_pow]
  omega

theorem mulHigh_signed (a b : Word) :
    mulHigh false a b = (a.signExtend 128 * b.signExtend 128).extractLsb' 64 64 := by
  have h : a.signExtend 128 * b.signExtend 128 = BitVec.ofInt 128 (a.toInt * b.toInt) := (BitVec.ofInt_mul ..).symm
  rw [h, extractLsb'_ofInt_high]
  rfl

theorem mulHigh_unsigned (a b : Word) :
    mulHigh true a b = (a.setWidth 128 * b.setWidth 128).extractLsb' 64 64 := by
  have h : a.setWidth 128 * b.setWidth 128 = BitVec.ofInt 128 (a.toNat * b.toNat) := by
    rw [BitVec.ofInt_mul, BitVec.ofInt_natCast, BitVec.ofInt_natCast, BitVec.ofNat_toNat, BitVec.ofNat_toNat]
  rw [h, extractLsb'_ofInt_high]
  rfl

theorem ofInt_tdiv_toInt (a b : Word) : BitVec.ofInt 64 (a.toInt.tdiv b.toInt) = a.sdiv b := by
  apply BitVec.eq_of_toInt_eq
  rw [BitVec.toInt_ofInt, BitVec.toInt_sdiv]

theorem ofInt_tmod_toInt (a b : Word) : BitVec.ofInt 64 (a.toInt.tmod b.toInt) = a.srem b := by
  rw [← BitVec.toInt_srem, BitVec.ofInt_toInt]

/-- The overflowing quotient needs no case of its own: 2^63 / -1 is 2^63 modulo 2^64, and so is `BitVec.sdiv`. -/
theorem divWord_signed (a b : Word) :
    divWord false a b = if b = 0#64 then 0xFFFFFFFFFFFFFFFF#64 else a.sdiv b := by
  unfold divWord
  by_cases hover : a = 0x8000000000000000#64 ∧ b = 0xFFFFFFFFFFFFFFFF#64
  · obtain ⟨rfl, rfl⟩ := hover
    decide
  · simp [hover, sv, ofInt_tdiv_toInt]

theorem divWord_unsigned (a b : Word) :
    divWord true a b = if b = 0#64 then 0xFFFFFFFFFFFFFFFF#64 else a / b := by
  have h : BitVec.ofInt 64 ((a.toNat : Int) / b.toNat) = a / b := by
    rw [← Int.natCast_ediv, BitVec.ofInt_natCast, ← BitVec.udiv_def]
  simp [divWord, sv, h]

theorem remWord_signed (a b : Word) : remWord false a b = if b = 0#64 then a else a.srem b := by
  unfold remWord
  by_cases hover : a = 0x8000000000000000#64 ∧ b = 0xFFFFFFFFFFFFFFFF#64
  · obtain ⟨rfl, rfl⟩ := hover
    decide
  · simp [hover, sv, ← Int.tmod_def, ofInt_tmod_toInt]

theorem remWord_unsigned (a b : Word) : remWord true a b = if b = 0#64 then a else a % b := by
  have h : BitVec.ofInt 64 ((a.toNat : Int) % b.toNat) = a % b := by
    rw [← Int.natCast_emod, BitVec.ofInt_natCast, ← BitVec.umod_def]
  simp [remWord, sv, ← Int.emod_def, h]

theorem lessThan_signed (a b : Word) : lessThan false a b = decide (a.toInt < b.toInt) := rfl
theorem lessThan_unsigned (a b : Word) : lessThan true a b = decide (a.toNat < b.toNat) := rfl

/-- SLT's value, with the signed comparison as a proposition. -/
theorem sltValue_signed (a b : Word) :
    (if lessThan false a b then 1#64 else 0#64) = if a.toInt < b.toInt then 1#64 else 0#64 := by
  simp only [lessThan_signed, decide_eq_true_eq]

/-- SLT.U's value, with the unsigned comparison as a proposition. -/
theorem sltValue_unsigned (a b : Word) :
    (if lessThan true a b then 1#64 else 0#64) = if a.toNat < b.toNat then 1#64 else 0#64 := by
  simp only [lessThan_unsigned, decide_eq_true_eq]

/-- x(rb)[5:0] is the register modulo 64. -/
theorem toNat_extractLsb'_low (b : Word) : (b.extractLsb' 0 6).toNat = b.toNat % 64 := by
  simp [BitVec.extractLsb'_toNat]

/-! ### What the shared operations make of an instruction -/

section
variable {i : Instr} {s : State} {rd ra rb : Reg} {n : Nat} {v w : Word}

/-- An instruction that retires with one register write has no other effect. -/
theorem ends_of_retireReg (h : exec i s = .next (s.retireReg rd v n)) (hv : v = w) : Ends i s (Wrote rd w n s) :=
  ⟨_, h, hv ▸ State.wrote_retireReg ..⟩

theorem State.shiftAmount_reg (s : State) (rb : Reg) :
    s.shiftAmount (.reg rb) = some ((s.x rb).extractLsb' 0 6).toNat := by
  rw [toNat_extractLsb'_low]
  rfl

theorem State.shiftAmount_imm_of_le (s : State) {imm : BitVec 32} (h : imm.toNat ≤ 63) :
    s.shiftAmount (.imm imm) = some imm.toNat := if_pos (by omega)

theorem State.shiftAmount_imm_of_gt (s : State) {imm : BitVec 32} (h : 63 < imm.toNat) :
    s.shiftAmount (.imm imm) = none := if_neg (by omega)

variable {op : RegImm} {f : Word → Nat → Word} {imm : BitVec 32}

theorem ends_shift_of_some (h : exec i s = .next (s.shift i rd ra op f)) (ha : s.shiftAmount op = some n) :
    Ends i s (Wrote rd (f (s.x ra) n) 1 s) :=
  ends_of_retireReg (h.trans (by rw [State.shift, ha])) rfl

theorem ends_shift_of_none (h : exec i s = .next (s.shift i rd ra op f)) (ha : s.shiftAmount op = none) :
    Ends i s fun t => ∃ v, TrappedHere cILLOP v s t :=
  ⟨_, h.trans (by rw [State.shift, ha]), _, State.trapped_illop ..⟩

end

/-! ### Flag U in major 0x01 -/

/-- Format SR without flags refuses a parcel with bit [1] set. -/
theorem isSR_zero_of_f1 {r : Raw} (h : r.f1 = true) : r.isSR 0#4 = false := by
  have hfl : r.fl ≠ 0#4 := fun h0 => by simp [Raw.f1, h0] at h
  simp [Raw.isSR, hfl]

theorem onlyIf_isSR_of_f1 {r : Raw} (h : r.f1 = true) (i : Instr) : onlyIf (r.isSR 0#4) i = .error .illop := by
  rw [isSR_zero_of_f1 h]
  rfl

/-- Major 0x01 by its minors: 0 to 2 and 6 to 8 take no flags, and those from 9 on name no instruction. -/
theorem decodeRaw_arith_of_f1 {r : Raw} (x : Word) (hmaj : r.maj = 1#6) (hU : r.f1 = true)
    (hmin : r.min ≠ 3#6 ∧ r.min ≠ 4#6 ∧ r.min ≠ 5#6) : decodeRaw r x = .error .illop := by
  have hres : reservedMajor 1#6 = false := by decide
  have hm : r.min.toNat ≠ 3 ∧ r.min.toNat ≠ 4 ∧ r.min.toNat ≠ 5 := by simpa [BitVec.toNat_ne] using hmin
  have h1 : (1#6).toNat = 1 := rfl
  unfold decodeRaw
  rw [hmaj, hres, h1]
  generalize r.min.toNat = m at hm
  match m, hm with
  | 0, _ | 1, _ | 2, _ | 6, _ | 7, _ | 8, _ => exact onlyIf_isSR_of_f1 hU _
  | _ + 9, _ => rfl

end Sys2Proof.Machine

/-! ### The statements -/

section

open Sys2Proof Sys2Proof.Machine

/-- Settles O1: every instruction retires with one write of R126's value, and flag U fails the format elsewhere. -/
theorem registerArithmetic : Obligations.RegisterArithmetic := by
  refine ⟨fun s rd ra rb => ⟨?add, ?sub, ?mul, ?mulh, ?mulhU, ?div, ?divU, ?rem, ?remU, ?and, ?or, ?xor⟩, ?flagU⟩
  case add | sub | mul | and | or | xor => exact ends_of_retireReg rfl rfl
  case mulh => exact ends_of_retireReg rfl (mulHigh_signed ..)
  case mulhU => exact ends_of_retireReg rfl (mulHigh_unsigned ..)
  case div => exact ends_of_retireReg rfl (divWord_signed ..)
  case divU => exact ends_of_retireReg rfl (divWord_unsigned ..)
  case rem => exact ends_of_retireReg rfl (remWord_signed ..)
  case remU => exact ends_of_retireReg rfl (remWord_unsigned ..)
  case flagU =>
    intro p x hmaj hU hmin
    have hf1 : (unpackRaw p).f1 = true := by simpa [unpackRaw, Raw.f1] using hU
    exact decodeRaw_arith_of_f1 x hmaj hf1 hmin

/-- Settles O2: each of these instructions retires with one register write, LI after two parcels. -/
theorem immediateForms : Obligations.ImmediateForms := by
  intro s rd ra imm v
  refine ⟨?addi, ?andi, ?ori, ?xori, ?li, ?mov⟩
  case addi | andi | ori | xori | li | mov => exact ends_of_retireReg rfl rfl

/-- Settles O3: a shift retires with the amount that its operand form gives, and traps where the form gives none. -/
theorem shiftsAndCompare : Obligations.ShiftsAndCompare := by
  intro s rd ra rb imm
  refine ⟨?shl, ?shr, ?sar, fun hle => ?inRange, fun hgt => ?outOfRange, ?slt, ?sltU, ?sltImm, ?sltUImm⟩
  case shl | shr | sar => exact ends_shift_of_some rfl (s.shiftAmount_reg rb)
  case inRange =>
    have ha := s.shiftAmount_imm_of_le hle
    exact ⟨ends_shift_of_some rfl ha, ends_shift_of_some rfl ha, ends_shift_of_some rfl ha⟩
  case outOfRange =>
    have ha := s.shiftAmount_imm_of_gt hgt
    exact ⟨ends_shift_of_none rfl ha, ends_shift_of_none rfl ha, ends_shift_of_none rfl ha⟩
  case slt | sltImm => exact ends_of_retireReg rfl (sltValue_signed ..)
  case sltU | sltUImm => exact ends_of_retireReg rfl (sltValue_unsigned ..)

end
end

section
/-! ## R185, R186: the logic and shift family of the elements

Each of these instructions is a compute firing through `State.logic1` or `State.logic2`, which differ only in the value
made of the operands' low 64 bits. So an instruction is recognised as one of the two shapes, and the rules after that say
once what each shape gives, for each format of the operands. -/

namespace Sys2Proof

open Sys2Proof.Machine

theorem asBits_of_i64 {o : Operand} (h : o.fmt = fmtI64) : o.asBits = some o.low := if_pos h
theorem asBits_of_not_i64 {o : Operand} (h : o.fmt ≠ fmtI64) : o.asBits = none := if_neg h

/-! ### Which instruction has which shape -/

/-- At `s` instruction `i` is a logic firing of slot fields `f` with one operand, whose value is `g`. -/
structure IsLogic1 (i : Instr) (f : Slot) (g : Slot → Word → Word) (s : Machine.State) : Prop where
  fields : ∃ row, slotRow i = some (row, f)
  exec_eq : exec i s = s.logic1 i g

/-- At `s` instruction `i` is a logic firing of slot fields `f` with two operands, whose value is `g`. -/
structure IsLogic2 (i : Instr) (f : Slot) (g : Slot → Word → Word → Word) (s : Machine.State) : Prop where
  fields : ∃ row, slotRow i = some (row, f)
  exec_eq : exec i s = s.logic2 i g

section
variable (f : Slot) (s : Machine.State)

theorem isLogic2_eAnd : IsLogic2 (.eAnd f) f (fun _ a b => a &&& b) s := ⟨⟨_, rfl⟩, rfl⟩
theorem isLogic2_eOr : IsLogic2 (.eOr f) f (fun _ a b => a ||| b) s := ⟨⟨_, rfl⟩, rfl⟩
theorem isLogic2_eXor : IsLogic2 (.eXor f) f (fun _ a b => a ^^^ b) s := ⟨⟨_, rfl⟩, rfl⟩
theorem isLogic2_andn : IsLogic2 (.andn f) f (fun _ a b => a &&& ~~~b) s := ⟨⟨_, rfl⟩, rfl⟩
theorem isLogic2_eShl : IsLogic2 (.eShl f) f (fun _ a b => a <<< (b.toNat % 64)) s := ⟨⟨_, rfl⟩, rfl⟩
theorem isLogic2_eShr : IsLogic2 (.eShr f) f (fun _ a b => a >>> (b.toNat % 64)) s := ⟨⟨_, rfl⟩, rfl⟩
theorem isLogic2_eSar : IsLogic2 (.eSar f) f (fun _ a b => a.sshiftRight (b.toNat % 64)) s := ⟨⟨_, rfl⟩, rfl⟩
theorem isLogic2_rol : IsLogic2 (.rol f) f (fun _ a b => a.rotateLeft (b.toNat % 64)) s := ⟨⟨_, rfl⟩, rfl⟩
theorem isLogic2_bins : IsLogic2 (.bins f) f binsWord s := ⟨⟨_, rfl⟩, rfl⟩

theorem isLogic1_eNot : IsLogic1 (.eNot f) f (fun _ a => ~~~a) s := ⟨⟨_, rfl⟩, rfl⟩
theorem isLogic1_popc : IsLogic1 (.popc f) f (fun _ a => BitVec.ofNat 64 (popBits a.toNat 64)) s :=
  ⟨⟨_, rfl⟩, rfl⟩
theorem isLogic1_clz : IsLogic1 (.clz f) f (fun _ a => BitVec.ofNat 64 (clz64 a)) s := ⟨⟨_, rfl⟩, rfl⟩
theorem isLogic1_ctz : IsLogic1 (.ctz f) f (fun _ a => BitVec.ofNat 64 (ctz64 a)) s := ⟨⟨_, rfl⟩, rfl⟩
theorem isLogic1_bext : IsLogic1 (.bext f) f bextWord s := ⟨⟨_, rfl⟩, rfl⟩

/-- The instructions of the family with two operands. -/
def logicPairs : List Instr :=
  [.eAnd f, .eOr f, .eXor f, .andn f, .eShl f, .eShr f, .eSar f, .rol f, .bins f]

/-- The instructions of the family with one operand. -/
def logicSingles : List Instr := [.eNot f, .popc f, .clz f, .ctz f, .bext f]

theorem isLogic2_of_mem_logicPairs : ∀ i ∈ logicPairs f, ∃ g, IsLogic2 i f g s := by
  simp only [logicPairs, List.forall_mem_cons]
  exact ⟨⟨_, isLogic2_eAnd f s⟩, ⟨_, isLogic2_eOr f s⟩, ⟨_, isLogic2_eXor f s⟩, ⟨_, isLogic2_andn f s⟩,
    ⟨_, isLogic2_eShl f s⟩, ⟨_, isLogic2_eShr f s⟩, ⟨_, isLogic2_eSar f s⟩, ⟨_, isLogic2_rol f s⟩, ⟨_, isLogic2_bins f s⟩,
    List.forall_mem_nil _⟩

theorem isLogic1_of_mem_logicSingles : ∀ i ∈ logicSingles f, ∃ g, IsLogic1 i f g s := by
  simp only [logicSingles, List.forall_mem_cons]
  exact ⟨⟨_, isLogic1_eNot f s⟩, ⟨_, isLogic1_popc f s⟩, ⟨_, isLogic1_clz f s⟩, ⟨_, isLogic1_ctz f s⟩,
    ⟨_, isLogic1_bext f s⟩, List.forall_mem_nil _⟩

end

/-! ### What the two shapes give -/

section
variable {i : Instr} {f : Slot} {w : Fire} {s : Machine.State} {a b : Operand} {v : Word}

/-- A compute firing may be judged by the slot's own fields. -/
theorem gives_of_compute {g : Fire → Machine.State → Computed} {r : Computed} (hrow : ∃ row, slotRow i = some (row, f))
    (hexec : exec i s = s.compute i g) (hr : w.f = f → g w (consumed w s) = r) : Gives i w s r := by
  obtain ⟨_, hrow⟩ := hrow
  exact fun hx => hexec.trans (compute_next i g w s r (fun _ => hr (fieldsOf hx hrow)) hx)

section
variable {g : Slot → Word → Word} (h : IsLogic1 i f g s) (ha : a = s.operand w .i64 f.selA)
include h ha

theorem gives_logic1_of_i64 (hfa : a.fmt = fmtI64) (hv : g f a.low = v) : Gives i w s (i64Out v 0#5 none) :=
  gives_of_compute h.fields h.exec_eq fun hf => by
    simp only [hf, operand_consumed, ← ha, asBits_of_i64 hfa, hv]

theorem gives_logic1_of_not_i64 (hfa : a.fmt ≠ fmtI64) : Gives i w s (.bad a.fmt 0 0 fmtI64) :=
  gives_of_compute h.fields h.exec_eq fun hf => by
    simp only [hf, operand_consumed, ← ha, asBits_of_not_i64 hfa]

end

section
variable {g : Slot → Word → Word → Word} (h : IsLogic2 i f g s) (ha : a = s.operand w .i64 f.selA)
include h ha

/-- Operand A's format is judged before operand B's. -/
theorem gives_logic2_of_not_i64_left (hfa : a.fmt ≠ fmtI64) : Gives i w s (.bad a.fmt 0 0 fmtI64) :=
  gives_of_compute h.fields h.exec_eq fun hf => by
    simp only [hf, operand_consumed, ← ha, asBits_of_not_i64 hfa]

variable (hb : b = s.operand w .i64 f.selB)
include hb

theorem gives_logic2_of_i64 (hfa : a.fmt = fmtI64) (hfb : b.fmt = fmtI64) (hv : g f a.low b.low = v) :
    Gives i w s (i64Out v 0#5 none) :=
  gives_of_compute h.fields h.exec_eq fun hf => by
    simp only [hf, operand_consumed, ← ha, ← hb, asBits_of_i64 hfa, asBits_of_i64 hfb, hv]

theorem gives_logic2_of_not_i64_right (hfa : a.fmt = fmtI64) (hfb : b.fmt ≠ fmtI64) :
    Gives i w s (.bad b.fmt 1 0 fmtI64) :=
  gives_of_compute h.fields h.exec_eq fun hf => by
    simp only [hf, operand_consumed, ← ha, ← hb, asBits_of_i64 hfa, asBits_of_not_i64 hfb]

end
end

end Sys2Proof

/-! ### The statement -/

section

open Sys2Proof Sys2Proof.Machine

/-- Settles O23: each instruction is a logic firing of one or two operands, whose formats decide which rule it falls
under. -/
theorem logicResults : Obligations.LogicResults := by
  intro f w s a b ha hb
  refine ⟨fun hfa hfb => ⟨?and, ?or, ?xor, ?andn, ?shl, ?shr, ?sar, ?rol, ?bins⟩,
    fun hfa => ⟨?not, ?popc, ?clz, ?ctz, ?bext⟩, fun hfa i hi => ?badLeft, fun hfa hfb i hi => ?badRight⟩
  case and => exact gives_logic2_of_i64 (isLogic2_eAnd f s) ha hb hfa hfb rfl
  case or => exact gives_logic2_of_i64 (isLogic2_eOr f s) ha hb hfa hfb rfl
  case xor => exact gives_logic2_of_i64 (isLogic2_eXor f s) ha hb hfa hfb rfl
  case andn => exact gives_logic2_of_i64 (isLogic2_andn f s) ha hb hfa hfb rfl
  case shl => exact gives_logic2_of_i64 (isLogic2_eShl f s) ha hb hfa hfb rfl
  case shr => exact gives_logic2_of_i64 (isLogic2_eShr f s) ha hb hfa hfb rfl
  case sar => exact gives_logic2_of_i64 (isLogic2_eSar f s) ha hb hfa hfb rfl
  case rol => exact gives_logic2_of_i64 (isLogic2_rol f s) ha hb hfa hfb rfl
  case bins => exact gives_logic2_of_i64 (isLogic2_bins f s) ha hb hfa hfb rfl
  case not => exact gives_logic1_of_i64 (isLogic1_eNot f s) ha hfa rfl
  case popc => exact gives_logic1_of_i64 (isLogic1_popc f s) ha hfa rfl
  case clz => exact gives_logic1_of_i64 (isLogic1_clz f s) ha hfa rfl
  case ctz => exact gives_logic1_of_i64 (isLogic1_ctz f s) ha hfa rfl
  case bext => exact gives_logic1_of_i64 (isLogic1_bext f s) ha hfa rfl
  case badLeft =>
    have hshape : i ∈ logicPairs f ++ logicSingles f := hi
    rcases List.mem_append.mp hshape with hpair | hsingle
    · obtain ⟨_, h⟩ := isLogic2_of_mem_logicPairs f s i hpair
      exact gives_logic2_of_not_i64_left h ha hfa
    · obtain ⟨_, h⟩ := isLogic1_of_mem_logicSingles f s i hsingle
      exact gives_logic1_of_not_i64 h ha hfa
  case badRight =>
    obtain ⟨_, h⟩ := isLogic2_of_mem_logicPairs f s i hi
    exact gives_logic2_of_not_i64_right h ha hb hfa hfb

end
end

section
/-! ## R55, R62 to R66, R266, R333: decode and encode agree

An instruction has one of three codings. For Lantern code `decodeRaw` reads the packed fields back format by format; an
element slot is `slot_read`; a stream parcel is read back field by field, and `decodeStream` then finds the very parcels it
was given. -/

namespace Sys2Proof

open Sys2Proof.Machine

/-! ### Lantern code -/

theorem onlyIf_ok {e : Except Reject Instr} {c : Bool} {i j : Instr} (he : e = onlyIf c i) (hc : c = true) (hi : i = j) :
    e = .ok j := he.trans (onlyIf_true hc hi)

theorem f1_flU (u : Bool) {maj min rd ra rb imm ext} : (Raw.mk maj min rd ra rb imm (flU u) ext).f1 = u := flU_f1 u
theorem sc_flSc (sc : BitVec 3) {maj min rd ra rb imm ext} : (Raw.mk maj min rd ra rb imm (flSc sc) ext).sc = sc :=
  flSc_lo sc
theorem sc_flScB (b : Bool) (sc : BitVec 3) {maj min rd ra rb imm ext} :
    (Raw.mk maj min rd ra rb imm (flScB b sc) ext).sc = sc := flScB_lo b sc
theorem f4_flScB (b : Bool) (sc : BitVec 3) {maj min rd ra rb imm ext} :
    (Raw.mk maj min rd ra rb imm (flScB b sc) ext).f4 = b := flScB_hi b sc
theorem szOf_flSize (sz : Size) {maj min rd ra rb imm ext} :
    szOf (Raw.mk maj min rd ra rb imm (flSize sz) ext) = sz := flSize_sz sz
theorem f1_flOp (u : Bool) (op : RegImm) {maj min rd ra rb imm ext} :
    (Raw.mk maj min rd ra rb imm (flOp u op) ext).f1 = u := flOp_f1 u op

/-- The operand of major 0x03 is read back, and its zero fields are zero, in both forms. -/
theorem opOf_flOp (u : Bool) (op : RegImm) {maj min rd ra} :
    opOf ⟨maj, min, rd, ra, opRb op, opImm op, flOp u op, false⟩ = op := by
  cases op with
  | reg rb => simp [opOf, Raw.f2, opRb, flOp_gr]
  | imm v => simp [opOf, Raw.f2, opImm, flOp_gi]

theorem opOk_flOp (u : Bool) (op : RegImm) {maj min rd ra} :
    opOk ⟨maj, min, rd, ra, opRb op, opImm op, flOp u op, false⟩ = true := by
  cases op with
  | reg rb => simp [opOk, Raw.f2, opImm, flOp_gr, flOp_z]
  | imm v => simp [opOk, Raw.f2, Raw.noRb, opRb, flOp_gi, flOp_z]

/-- Format CL's zero fields are zero. -/
theorem isCL_clImm (sc : BitVec 3) (rs rl rbar : Reg) {maj min rd ra} :
    (Raw.mk maj min rd ra 0#5 (clImm rs rl rbar) (flSc sc) false).isCL = true := by
  simp [Raw.isCL, clImm_z, flSc_g]

/-- `decodeRaw` reads the fields of every Lantern instruction back, with the operands that a field packs. -/
theorem decodeRaw_lanternRaw (i : Instr) (r : Raw) (h : lanternRaw i = some r) (hw : wellFormed i = true) :
    decodeRaw r (lanternExt i) = .ok (canonical i) := by
  cases i
  case add | sub | mul | and | or | xor | addi | andi | ori | xori | li | mov | beq | bne | blt | bge | bltu | bgeu | jmp
      | jal | jr | trap | svc | eret | srr | srw | halt | nop | cfgld | cfggo | cfgwt | cfgst | preDrain | preMarker | rsm
      | dmov | mxon | mxoff | mxrun | mxzero | mxsnap | mxrest | mxslot | mxprio | bret | bscrb | mpin | munpn | mevct
      | spawn | spwnc | reslv | commit | abortNorequeue | abortRequeue | yield | yieldIfWaiting | dline | budgt | segid
      | tailw | phwt | fbrd | cpyq | tlbiPage | tlbiPasid | tlbiAll | wmode | spareRead | spareSetInterval | spareRemap
      | spareClear | spareSetPos | qctlRead | qctlRevoke | qctlKill | qctlRelease | dieqFence | dieqRelease | dieqStatus
      | binjFlipOne | binjFlipTwo | binjSpare =>
    cases h
    exact onlyIf_ok rfl rfl rfl
  case mulh | div | rem | mxprm | bstat =>
    cases h
    exact onlyIf_ok rfl (by simp [Raw.isSR, Raw.isSI, Raw.noRa, f1_flU]) (by rw [f1_flU]; rfl)
  case pred w rd ra rb =>
    cases h
    have hrb : (w || decide (rb = 0#5)) = true := hw
    exact onlyIf_ok rfl (by simpa [Raw.isSR, Raw.noRb, f1_flU] using hrb) (by rw [f1_flU]; rfl)
  case shl | shr | sar | slt =>
    cases h
    exact onlyIf_ok rfl (by simp [opOk_flOp, f1_flOp]) (by simp only [opOf_flOp, f1_flOp]; rfl)
  case ld | ldz | st =>
    cases h
    exact onlyIf_ok rfl (by simp [Raw.isSI, szOf_flSize]) (by rw [szOf_flSize]; rfl)
  case mxwl | mxout =>
    cases h
    exact onlyIf_ok rfl (by simp [Raw.isSR]) rfl
  case jtab ra base dflt len =>
    cases h
    have hlow : (lanternExt (.jtab ra base dflt len)).extractLsb' 0 16 = 0#16 := by
      unfold lanternExt
      rw [extract_lo _ _ _ _ (by decide), extract_lo _ _ _ _ (by decide), extract_all]
    have hdflt : (lanternExt (.jtab ra base dflt len)).extractLsb' 32 32 = dflt := by
      unfold lanternExt
      rw [extract_hi _ _ _ _ (by decide)]
      exact extract_all _
    have hlen : (lanternExt (.jtab ra base dflt len)).extractLsb' 16 16 = len := by
      unfold lanternExt
      rw [extract_lo _ _ _ _ (by decide), extract_hi _ _ _ _ (by decide)]
      exact extract_all _
    exact onlyIf_ok rfl (by simp [Raw.isSX, Raw.noRd, hlow]) (by rw [hdflt, hlen]; rfl)
  case fence =>
    cases h
    exact onlyIf_ok rfl (by simp [Raw.isSI, Raw.noRd, Raw.noRa, sc_flSc]) (by rw [sc_flSc]; rfl)
  case phnew | phsig | phsw | bexp | badd | aadd | aand | aor | axor | axch | acas | fbin | fbclr =>
    cases h
    have hsc : yScopeOk _ = true := hw
    exact onlyIf_ok rfl (by simpa [Raw.isSR, Raw.noRd, Raw.noRb, sc_flSc] using hsc) (by rw [sc_flSc]; rfl)
  case phreg | phdrp =>
    cases h
    have hsc := (Bool.and_eq_true_iff.mp hw).1
    exact onlyIf_ok rfl (by simpa [Raw.isSI, sc_flSc] using hsc) (by rw [sc_flSc]; rfl)
  case amin | amax | qpsh | qpop =>
    cases h
    have hsc : yScopeOk _ = true := hw
    exact onlyIf_ok rfl (by simpa [Raw.isSR, Raw.noRd, Raw.noRb, sc_flScB, f4_flScB] using hsc)
      (by rw [sc_flScB, f4_flScB]; rfl)
  case cpy | cpy2 | rcpy =>
    cases h
    have hsc := id hw
    simp only [wellFormed] at hsc
    exact onlyIf_ok rfl (by simpa [isCL_clImm, Raw.rs, Raw.rl, clImm_rs, clImm_rl, sc_flSc] using hsc)
      (by simp only [sc_flSc, Raw.rs, Raw.rl, Raw.rbar, clImm_rs, clImm_rl, clImm_rb]; rfl)
  all_goals cases h

/-! ### Stream programs -/

/-- The uppermost field of a packed word. -/
theorem extract_top {w v : Nat} (a : BitVec w) (b : BitVec v) : (a ++ b).extractLsb' v w = a := by
  rw [extract_hi _ _ _ _ (Nat.le_refl v), Nat.sub_self, extract_all]

theorem bit_top {v : Nat} (c : Bool) (b : BitVec v) : (bit1 c ++ b).getLsbD v = c := by
  rw [bit_hi _ _ _ (Nat.le_refl v), Nat.sub_self, bit1_bit]

/-- The major and minor of a packed stream parcel. -/
theorem code_of_append (maj min : BitVec 6) (t : BitVec 52) {p : Word} (h : p = maj ++ (min ++ t)) :
    p.extractLsb' 58 6 = maj ∧ p.extractLsb' 52 6 = min := by
  subst h
  exact ⟨extract_top _ _, (extract_lo _ _ _ _ (by decide)).trans (extract_top _ _)⟩

/-- `streamInstr` reads every field of a stream instruction back from where `encodeStream` puts it: below the fields
above it (`extract_lo`, `bit_lo`) it is the uppermost one, or what is left. -/
theorem streamInstr_encodeStream (i : Instr) (p x : Word) (h : encodeStream i = some (p, x)) : streamInstr p x = some i := by
  cases i
  case sopen | sclose | spush | sacpt | sgath | sscat | sloop | swait | ssig | wload | wdrop | vopen | vrecl | mlay =>
    cases h
    obtain ⟨hmaj, hmin⟩ := code_of_append _ _ _ rfl
    unfold streamInstr
    rw [hmaj, hmin]
    simp only [BitVec.toNat_ofNat, Nat.reducePow, Nat.reduceMod, Option.some.injEq, Instr.sopen.injEq, Instr.sclose.injEq,
      Instr.spush.injEq, Instr.sacpt.injEq, Instr.sgath.injEq, Instr.sscat.injEq, Instr.sloop.injEq, Instr.swait.injEq,
      Instr.ssig.injEq, Instr.wload.injEq, Instr.wdrop.injEq, Instr.vopen.injEq, Instr.vrecl.injEq, Instr.mlay.injEq]
    and_intros
    all_goals
      repeat rw [extract_lo _ _ _ _ (by decide)]
      repeat rw [bit_lo _ _ _ (by decide)]
      first
      | exact extract_top _ _
      | exact bit_top _ _
      | exact extract_all _
  all_goals cases h

theorem decodeStream_encodeStream {i : Instr} {p x : Word} (h : encodeStream i = some (p, x)) (hw : wellFormed i = true) :
    decodeStream p x = some i := by
  unfold decodeStream
  simp [streamInstr_encodeStream i p x h, h, hw]

/-- An instruction with legal fields that is neither Lantern code nor a slot's is a stream program's. -/
theorem encodeStream_of_wellFormed {i : Instr} (hw : wellFormed i = true) (hl : lanternRaw i = none) (hs : slotCode i = none) :
    ∃ p x, encodeStream i = some (p, x) := by
  cases i
  case sopen | sclose | spush | sacpt | sgath | sscat | sloop | swait | ssig | wload | wdrop | vopen | vrecl | mlay =>
    exact ⟨_, _, rfl⟩
  all_goals first
    | (cases hl; done)
    | (cases hs; done)
    | cases hw

end Sys2Proof

/-! ### The statement -/

section

open Sys2Proof Sys2Proof.Machine

/-- Settles O57: each of the three codings reads back what it packed. -/
theorem encodeThenDecode : Obligations.EncodeThenDecode := by
  intro i hw
  cases hl : lanternRaw i with
  | some r =>
    refine ⟨packRaw r, lanternExt i, by simp only [encode, hl], ?_⟩
    rw [if_pos (by rfl), decodeLantern, unpack_pack]
    exact decodeRaw_lanternRaw i r hl hw
  | none =>
    cases hs : slotCode i with
    | some c =>
      obtain ⟨maj, min, f⟩ := c
      refine ⟨packSlot maj min f, 0#64, by simp only [encode, hl, hs], ?_⟩
      rw [if_neg (by simp), if_pos (by rfl)]
      exact slot_read i maj min f hs hw
    | none =>
      obtain ⟨p, x, he⟩ := encodeStream_of_wellFormed hw hl hs
      refine ⟨p, x, by simp only [encode, hl, hs, he], ?_⟩
      rw [if_neg (by simp), if_neg (by simp)]
      exact decodeStream_encodeStream he hw

end
end

section
/-! ## Words of the specification, the reset state, and the frame of a firing -/

open Sys2Proof Sys2Proof.Machine

/-- Settles O56: each word is decoded by evaluating the decoder on it. -/
theorem decodedWords : Obligations.DecodedWords := by
  refine ⟨?add, ?blt, ?slt, ?li, ?fmul, ?spush, ?swait, ?reserved, ?zeroField⟩
  all_goals rfl

/-- Settles O60: no unit is listed at reset, so each reads as its own reset contents. -/
theorem resetValues : Obligations.ResetValues := by
  have hspare : spareReset.extractLsb' 16 32 = BitVec.ofNat 32 (2 ^ 20) := by decide
  have hv : Iface.reset.v = false := by decide
  exact ⟨rfl, rfl, fun d => rfl, fun k => ⟨rfl, rfl, rfl, rfl, rfl, rfl⟩,
    fun d => ⟨rfl, rfl, rfl, rfl, rfl, rfl, rfl, rfl, rfl, rfl⟩, fun d pasid site => ⟨rfl, rfl⟩,
    fun d => ⟨rfl, rfl, rfl, fun n => rfl⟩, fun d row => hspare, fun n => ⟨rfl, rfl⟩, fun n => hv⟩

/-- Settles O25: whatever the result, the firing has only emitted tokens. -/
theorem firingFrame : Obligations.FiringFrame := fun w s r => emitted_finished w s r

end

section
/-! ## R114, R115, R129: loads, stores and their faults -/

namespace Sys2Proof

open Sys2Proof.Machine

/-- Only the count of free values differs, so the later state is the earlier one with another count. -/
theorem SameButFree.eq {s u : Machine.State} (h : SameButFree s u) : u = { s with free := u.free } :=
  congrArg (fun v : Machine.State => { v with free := u.free }) h

theorem SameButFree.of_lanXlate {s u : Machine.State} {k : Nat} {va : Word} {n : Nat} {acc : LanAcc} {x : Xl}
    (h : s.lanXlate k va n acc = (x, u)) : SameButFree s u := by
  have hfree := State.lanXlate_free s k va n acc
  rwa [h] at hfree

theorem ends_of_next {i : Instr} {s t : Machine.State} {P : Machine.State → Prop} (he : exec i s = .next t) (hp : P t) :
    Ends i s P := ⟨t, he, hp⟩

theorem exec_load (b : Bool) (sz : Size) (rd ra : Reg) (imm : BitVec 32) (s : Machine.State) :
    exec (if b then .ld sz rd ra imm else .ldz sz rd ra imm) s = .next (s.load b sz rd ra imm) := by
  cases b <;> rfl

end Sys2Proof

namespace Sys2Proof.Machine

/-- Scoreboarding a register changes the scoreboard only. -/
theorem Lantern.block_eq (l : Lantern) (rd : Reg) : l.block rd = { l with sb := (l.block rd).sb } := by
  unfold Lantern.block
  split <;> rfl

@[simp] theorem Lantern.reg_block (l : Lantern) (rd r : Reg) : (l.block rd).reg r = l.reg r := by
  rw [Lantern.block_eq]
  rfl

/-- Writing a register changes the registers only. -/
theorem Lantern.setReg_eq (l : Lantern) (r : Reg) (v : Word) : l.setReg r v = { l with regs := (l.setReg r v).regs } := by
  unfold Lantern.setReg
  split <;> rfl

/-! ### The return of a load -/

section
variable {s : State} (h : s.edges = [])
include h

theorem State.cutOff_of_no_edges (a b : Nat) : s.cutOff a b = false := by
  simp [State.cutOff, h]

theorem State.diesCut_of_no_edges (a b : Nat) : s.diesCut a b = false := by
  simp [State.diesCut, State.cutOff_of_no_edges h]

theorem State.hubCut_of_no_edges (d : Nat) : s.hubCut d = false := by
  simp [State.hubCut, h]

theorem State.homeCut_of_no_edges (die pa : Nat) (kind : PaKind) : s.homeCut die pa kind = false := by
  cases kind with
  | host | hub => exact State.hubCut_of_no_edges h _
  | _ => exact State.diesCut_of_no_edges h _ _

theorem State.loadHeld_of_no_edges (k pa n : Nat) : s.loadHeld k pa n = false := by
  unfold State.loadHeld
  split
  · exact State.homeCut_of_no_edges h _ _ _
  · rfl

end

/-- Performing the oldest load takes its value and nothing else, where the read finds it without a record. -/
theorem State.performLoad_zero {s : State} {k : Nat} {p : PendLoad} {rest : List PendLoad} {bs : List Byte} {bad : Bool}
    (hl : (s.lan k).loads = p :: rest) (hd : p.data = none) (hr : s.lanLoad k p.pa p.size = (bs, bad, s)) :
    s.performLoad k 0 = s.modLan k fun l =>
      { l with loads := { p with data := some (extendLoad p.sext p.size (leNat bs), bad) } :: rest } := by
  unfold State.performLoad
  rw [hl]
  simp only [List.getElem?_cons_zero, List.range_zero, List.foldl_nil]
  unfold State.takeLoad
  simp only [hl, List.getElem?_cons_zero, hd, hr, Option.isSome_none, Bool.false_eq_true, if_false]
  exact State.modLan_congr _ _ _ _ (by simp only [hl, List.set_cons_zero])

/-- A Lantern once its oldest load has returned `v`, or uncorrectable data. -/
def Lantern.loaded (l : Lantern) (p : PendLoad) (rest : List PendLoad) (v : Word) (bad : Bool) : Lantern :=
  if bad then { (({ l with loads := rest } : Lantern).unblock p.rd) with dpoi := some (p.va, p.at_) }
  else (({ l with loads := rest } : Lantern).unblock p.rd).setReg p.rd v

theorem State.loadReturn_loaded {s s' : State} {k : Nat} {p : PendLoad} {rest : List PendLoad} {v : Word} {bad : Bool}
    (hs : s.performLoad k 0 = s') (hl : (s'.lan k).loads = p :: rest) (hd : p.data = some (v, bad))
    (hh : s'.loadHeld k p.pa p.size = false) (hp : (s'.lan k).dpoi = none ∨ bad = false) :
    s.loadReturn k 0 = s'.setLan k ((s'.lan k).loaded p rest v bad) :=
  State.loadReturn_of s s' k p rest v bad hs hl hd hh hp

section
variable (l : Lantern) (p : PendLoad) (rest : List PendLoad) (v : Word) (bad : Bool)

theorem Lantern.reg_loaded (r : Reg) :
    (l.loaded p rest v bad).reg r = if r = p.rd ∧ r ≠ 0#5 ∧ bad = false then v else l.reg r := by
  cases bad with
  | true => exact (if_neg (by simp)).symm
  | false =>
    refine (Lantern.reg_setReg _ p.rd r v).trans ?_
    simp only [and_true]
    rfl

theorem Lantern.loaded_eq : l.loaded p rest v bad =
    { l with loads := rest, sb := l.sb.filter fun x => decide (x ≠ p.rd), regs := (l.loaded p rest v bad).regs,
             dpoi := if bad then some (p.va, p.at_) else l.dpoi } := by
  cases bad with
  | true => rfl
  | false => exact Lantern.setReg_eq _ p.rd v

theorem Lantern.busy_loaded (r : Reg) : (l.loaded p rest v bad).busy r = (l.busy r && decide (r ≠ p.rd)) := by
  rw [Lantern.loaded_eq]
  exact Lantern.busy_unblock l p.rd r

end

/-! ### Where loads and stores fault -/

section
variable {s u : State} {sz : Size} {rd ra : Reg} {imm : BitVec 32} {sg : Bool} {reason : Nat}

section
variable (h8 : s.cur.loads.length < 8)
include h8

theorem State.load_far (h48 : 2 ^ 48 ≤ (effAddr (s.x ra) imm).toNat) :
    s.load sg sz rd ra imm = s.trap cLDF (effAddr (s.x ra) imm) := by
  unfold State.load
  dsimp only
  rw [if_neg (by omega), if_pos h48]

variable (h48 : (effAddr (s.x ra) imm).toNat < 2 ^ 48)
include h48

theorem State.load_misaligned (hal : (effAddr (s.x ra) imm).toNat % sizeBytes sz ≠ 0) :
    s.load sg sz rd ra imm = s.trap cALIGN (effAddr (s.x ra) imm) := by
  unfold State.load
  dsimp only
  rw [if_neg (by omega), if_neg (by omega), if_pos hal]

variable (hal : (effAddr (s.x ra) imm).toNat % sizeBytes sz = 0)
include hal

theorem State.load_perm (hx : s.lanXlate s.focus (effAddr (s.x ra) imm) (sizeBytes sz) .load = (.perm, u)) :
    s.load sg sz rd ra imm = u.trap cPERM (effAddr (s.x ra) imm) := by
  unfold State.load
  dsimp only
  rw [if_neg (by omega), if_neg (by omega), if_neg (by simpa using hal), hx]

theorem State.load_miss (hx : s.lanXlate s.focus (effAddr (s.x ra) imm) (sizeBytes sz) .load = (.miss reason, u)) :
    s.load sg sz rd ra imm = u.missAccess reason accRead cLDF (effAddr (s.x ra) imm) 1 := by
  unfold State.load
  dsimp only
  rw [if_neg (by omega), if_neg (by omega), if_neg (by simpa using hal), hx]

end

theorem State.store_far (h48 : 2 ^ 48 ≤ (effAddr (s.x ra) imm).toNat) :
    s.store sz rd ra imm = s.trap cSTF (effAddr (s.x ra) imm) := by
  unfold State.store
  dsimp only
  rw [if_pos h48]

variable (h48 : (effAddr (s.x ra) imm).toNat < 2 ^ 48)
include h48

theorem State.store_misaligned (hal : (effAddr (s.x ra) imm).toNat % sizeBytes sz ≠ 0) :
    s.store sz rd ra imm = s.trap cALIGN (effAddr (s.x ra) imm) := by
  unfold State.store
  dsimp only
  rw [if_neg (by omega), if_pos hal]

variable (hal : (effAddr (s.x ra) imm).toNat % sizeBytes sz = 0)
include hal

theorem State.store_perm (hx : s.lanXlate s.focus (effAddr (s.x ra) imm) (sizeBytes sz) .store = (.perm, u)) :
    s.store sz rd ra imm = u.trap cPERM (effAddr (s.x ra) imm) := by
  unfold State.store
  dsimp only
  rw [if_neg (by omega), if_neg (by simpa using hal), hx]

theorem State.store_miss (hx : s.lanXlate s.focus (effAddr (s.x ra) imm) (sizeBytes sz) .store = (.miss reason, u)) :
    s.store sz rd ra imm = u.missAccess reason accWrite cSTF (effAddr (s.x ra) imm) 1 := by
  unfold State.store
  dsimp only
  rw [if_neg (by omega), if_neg (by simpa using hal), hx]

end

end Sys2Proof.Machine

section

open Sys2Proof Sys2Proof.Machine

/-- Settles O7: each check that fails is a trap with the address, in the order of the checks. -/
theorem accessFaults : Obligations.AccessFaults := by
  intro s sz rd ra imm h8
  refine ⟨fun h48 => ?far, fun h48 hal => ?misaligned, fun u h48 hal hu => ⟨fun hx => ?permLoad, fun hx => ?permStore,
    fun reason hxf h5 => ⟨fun hx => ?missLoad, fun hx => ?missStore⟩⟩⟩
  case far =>
    exact ⟨trap_of rfl (State.load_far h8 h48), trap_of rfl (State.load_far h8 h48), trap_of rfl (State.store_far h48)⟩
  case misaligned =>
    exact ⟨trap_of rfl (State.load_misaligned h8 h48 hal), trap_of rfl (State.load_misaligned h8 h48 hal),
      trap_of rfl (State.store_misaligned h48 hal)⟩
  case permLoad => exact ⟨trap_of rfl (State.load_perm h8 h48 hal hx), trap_of rfl (State.load_perm h8 h48 hal hx)⟩
  case permStore => exact trap_of rfl (State.store_perm h48 hal hx)
  case missLoad =>
    have hmiss := State.missAccess_free hu reason accRead cLDF (effAddr (s.x ra) imm) 1 h5 hxf
    exact ⟨trap_of rfl ((State.load_miss h8 h48 hal hx).trans hmiss), trap_of rfl ((State.load_miss h8 h48 hal hx).trans hmiss)⟩
  case missStore =>
    exact trap_of rfl ((State.store_miss h48 hal hx).trans (State.missAccess_free hu reason accWrite cSTF _ 1 h5 hxf))

/-- Settles O4: the load is listed, rd is scoreboarded, and control goes on. -/
theorem loadIssues : Obligations.LoadIssues := by
  intro s u sz rd ra imm pa kind tso h8 h48 hal hx b
  obtain ⟨n, rfl⟩ : ∃ n, u = { s with free := n } := ⟨u.free, (SameButFree.of_lanXlate hx).eq⟩
  refine ends_congr (exec_load ..) (State.load_next s _ b sz rd ra imm pa kind tso h8 h48 hal hx) ?_
  rw [State.cur_modCur, Lantern.block_eq]
  refine ⟨rfl, fun j hj => State.lan_modCur_ne _ _ hj, fun r => ?_, rfl, fun r => ?_, rfl, rfl⟩
  · exact (congrArg (fun l : Lantern => l.reg r) (State.cur_modCur _ _)).trans (Lantern.reg_block _ rd r)
  · exact Lantern.busy_block _ rd r

/-- Settles O5: the oldest load is first performed, unless its value was taken before, and then returns. -/
theorem loadReturns : Obligations.LoadReturns := by
  constructor
  · intro s k p rest kind hl hd hc hk hs he
    obtain ⟨v, hv⟩ : ∃ v, v = extendLoad p.sext p.size (leNat (s.mem.bytes p.pa p.size)) := ⟨_, rfl⟩
    have hperf := State.performLoad_zero hl hd (State.lanLoad_direct s k p.pa p.size kind hc hk hs)
    have hret := State.loadReturn_loaded hperf (by rw [State.lan_modLan_self]) rfl
      (State.loadHeld_of_no_edges he k _ _) (.inr rfl)
    rw [State.lan_modLan_self] at hret
    have hlan : ((s.loadReturn k 0).lan k) = (s.lan k).loaded p rest v false := by
      rw [hret, State.lan_setLan_self, hv]
      rfl
    have heq := Lantern.loaded_eq (s.lan k) p rest v false
    refine ends_of_next rfl ?_
    rw [hlan]
    refine ⟨?_, fun r => ?_, congrArg Lantern.loads heq, Lantern.busy_loaded (s.lan k) p rest v false, ?_⟩
    · rw [hret]
      exact (State.onlyLan_modLan ..).trans (State.onlyLan_setLan ..)
    · rw [Lantern.reg_loaded, hv]
      simp only [and_true]
      rfl
    · exact congrArg (fun l : Lantern => { l with regs := (s.lan k).regs, loads := (s.lan k).loads, sb := (s.lan k).sb }) heq
  · intro s k p rest v bad hl hd hheld hdp
    have hret := State.loadReturn_loaded (State.performLoad_some s k p rest hl (by simp [hd])) hl hd hheld (.inl hdp)
    have hlan : ((s.loadReturn k 0).lan k) = (s.lan k).loaded p rest v bad := by rw [hret, State.lan_setLan_self]
    have heq := Lantern.loaded_eq (s.lan k) p rest v bad
    refine ends_of_next rfl ?_
    rw [hlan]
    refine ⟨?_, Lantern.reg_loaded (s.lan k) p rest v bad, congrArg Lantern.loads heq,
      Lantern.busy_loaded (s.lan k) p rest v bad, ?_, (congrArg Lantern.pc heq).trans rfl⟩
    · rw [hret]
      exact State.onlyLan_setLan ..
    · exact (congrArg Lantern.dpoi heq).trans (by rw [hdp])

end
end

section
/-! ## R129: stores -/

namespace Sys2Proof.Machine

section
variable {s u v t : State} {sz : Size} {rd ra : Reg} {imm : BitVec 32} {pa : Nat} {kind : PaKind} {tso : Bool}

/-- What a segment's staging set is depends on the Beacons only. -/
theorem State.stagedSet_congr (h : t.beacons = s.beacons) (k : Nat) : t.stagedSet k = s.stagedSet k := by
  unfold State.stagedSet State.resident State.beacon
  rw [h]

theorem State.syncPa_congr (h : t.beacons = s.beacons) (d a : Nat) : t.syncPa d a = s.syncPa d a := by
  unfold State.syncPa State.beacon
  rw [h]

theorem LoadsOnly.beacons {k : Nat} (h : LoadsOnly k s t) : t.beacons = s.beacons := by
  obtain ⟨hst, -⟩ := h
  rw [← hst]

/-- ST whose segment finds no free staging entry (R254). -/
theorem State.store_blocked (h48 : (effAddr (s.x ra) imm).toNat < 2 ^ 48)
    (hal : (effAddr (s.x ra) imm).toNat % sizeBytes sz = 0)
    (hx : s.lanXlate s.focus (effAddr (s.x ra) imm) (sizeBytes sz) .store = (.at_ pa kind tso, v))
    (hc : v.homeCut (lanDie s.focus) pa kind = false) (hp : v.performLoads s.focus = u)
    (hst : u.lanStore s.focus pa kind (leBytes (sizeBytes sz) (s.x rd).toNat) = none) (hf : u.focus = s.focus) :
    s.store sz rd ra imm = u.modCur fun l =>
      { l with stWait := u.stageBlock s.focus pa (leBytes (sizeBytes sz) (s.x rd).toNat) } := by
  unfold State.store
  dsimp only
  rw [if_neg (by omega), if_neg (by simpa using hal), hx]
  simp only [hc, Bool.false_eq_true, if_false, hp, hf, hst]

end

section
variable (u : State) (k pa : Nat) (bs : List Byte)

theorem State.raiseHome_nil (lead : Option Nat) (die : Nat) (mk : Byte → Word → Nat → Record) (kind : PaKind) :
    u.raiseHome lead die mk kind [] = u := by
  cases kind <;> rfl

variable {kind : PaKind} (h : u.stagedSet k = none ∨ ownPlace k kind = true)
include h

/-- A store at a home that owes no record. -/
theorem State.lanStore_of_writeHome {w : State} (hw : u.writeHome pa 0 bs kind = (w, [])) :
    u.lanStore k pa kind bs = some w := by
  rw [State.lanStore_home k u kind pa bs h, hw, State.raiseHome_nil]

end

theorem State.lanStore_staged {u : State} {k pa : Nat} {kind : PaKind} {bs : List Byte} (h : (u.stagedSet k).isSome = true)
    (ho : ownPlace k kind = false) : u.lanStore k pa kind bs = u.stageWrite k pa bs := by
  unfold State.lanStore
  simp [h, ho]

/-- Posting writes of dwords changes the agenda only. -/
theorem State.postDwords_eq (s : State) (old : Nat → Word) (mk : Nat → Word → Post) (off : Nat) (bs : List Byte) :
    s.postDwords old mk off bs = { s with agenda := (s.postDwords old mk off bs).agenda } := by
  unfold State.postDwords
  generalize dwordSpans off bs.length = l
  have key : ∀ (l : List (Nat × Nat × Nat)) (t : State), t = { s with agenda := t.agenda } →
      (l.foldl (fun s sp => s.post (mk sp.1 (mergeDword (old sp.1) sp.2.1 ((bs.drop (sp.1 + sp.2.1 - off)).take sp.2.2)))) t) =
        { s with agenda := (l.foldl (fun s sp =>
          s.post (mk sp.1 (mergeDword (old sp.1) sp.2.1 ((bs.drop (sp.1 + sp.2.1 - off)).take sp.2.2)))) t).agenda } := by
    intro l
    induction l with
    | nil => exact fun t ht => ht
    | cons sp r ih => exact fun t ht => ih _ (congrArg (fun w => State.post w _) ht)
  exact key l s rfl

/-- The frame of an instruction that retires after only the agenda changed. -/
theorem State.retire_posted (u : State) (ag : List Turn) :
    let t := ({ u with agenda := ag } : State).retire 1
    t.mem = u.mem ∧ { t with lans := u.lans, agenda := u.agenda } = u ∧ (∀ j, j ≠ u.focus → t.lan j = u.lan j) ∧
      (∀ r, t.x r = u.x r) ∧ t.cur.pc = afterParcels u.cur.pc 1 ∧ SameButRegs u.cur t.cur := by
  have hcur : (({ u with agenda := ag } : State).retire 1).cur = u.cur.advance 1 := State.cur_modCur ..
  refine ⟨rfl, rfl, fun j hj => State.lan_modCur_ne _ _ hj, fun r => ?_, ?_, ?_⟩
  · exact (congrArg (fun l : Lantern => l.reg r) hcur).trans rfl
  · exact congrArg Lantern.pc hcur
  · rw [hcur]
    rfl

end Sys2Proof.Machine

section

open Sys2Proof Sys2Proof.Machine

/-- Settles O6: the home that takes the store decides what it changes. -/
theorem storeStores : Obligations.StoreStores := by
  rintro s u v sz rd ra imm pa kind tso bs h48 hal hx hc hu rfl
  have hfree := SameButFree.of_lanXlate hx
  have hloads : LoadsOnly s.focus v u := hu ▸ State.loadsOnly_performLoads v s.focus
  have hbeacons : u.beacons = s.beacons := hloads.beacons.trans (by rw [hfree.eq])
  have hfocus : u.focus = s.focus := hloads.focus.trans (by rw [hfree.eq])
  have hcut : v.homeCut (lanDie s.focus) pa kind = false := by
    rw [hfree.eq]
    exact hc
  have hset := State.stagedSet_congr hbeacons s.focus
  have next : ∀ t, u.lanStore s.focus pa kind (leBytes (sizeBytes sz) (s.x rd).toNat) = some t →
      exec (.st sz rd ra imm) s = .next (t.retire 1) := fun t ht =>
    congrArg Host.Outcome.next (State.store_next s u v t sz rd ra imm pa kind tso h48 hal hx hcut hu.symm ht hfocus)
  refine ⟨fun hl => ?none, fun hown => ⟨fun a ha => ?home, fun hpost => ?posted, fun tile off hk => ?tile⟩,
    fun hst ho => ⟨fun w hw => ?staged, fun hw => ?blocked⟩⟩
  case none =>
    rw [hu, State.performLoads_nil v s.focus]
    · exact hfree
    · rw [hfree.eq]
      exact hl
  case home =>
    rw [← hset] at hown
    obtain ⟨hb, hw⟩ : ∃ hb, u.writeHome pa 0 (leBytes (sizeBytes sz) (s.x rd).toNat) kind =
        ({ u with mem := u.mem.store a (leBytes (sizeBytes sz) (s.x rd).toNat), hbmBad := hb }, []) := by
      rcases ha with ⟨rfl, rfl⟩ | ⟨j, off, rfl, rfl⟩ | ⟨d, o, rfl, hpa⟩ | ⟨hba, h, rfl, hstage, rfl⟩
      · exact ⟨_, rfl⟩
      · exact ⟨_, rfl⟩
      · refine ⟨u.hbmBad, ?_⟩
        simp only [State.writeHome, State.syncPa_congr hbeacons, hpa, Option.getD_some]
      · refine ⟨u.hbmBad, ?_⟩
        simp only [State.writeHome, hstage]
    refine ends_of_next (next _ (State.lanStore_of_writeHome u s.focus pa _ hown hw)) ?_
    refine ⟨fun i hi => ?_, fun b hb => ?_, fun hwf => Memory.wf_store _ _ _ hwf, ?_⟩
    · refine (Memory.read_store_in u.mem a i _ (by rwa [length_leBytes])).trans ?_
      exact getElem_leBytes_word _ _ _ _
    · exact Memory.read_store_out u.mem a b _ (by rwa [length_leBytes])
    · rw [← hfocus]
      exact State.retire_store u _ hb _ rfl
  case posted =>
    rw [← hset] at hown
    rw [← hfocus]
    rcases hpost with ⟨j, r, rfl⟩ | ⟨j, n, rfl⟩ | ⟨e, r, o, rfl⟩ | ⟨o, rfl⟩
    · refine ends_of_next (next _ (State.lanStore_of_writeHome u s.focus pa _ hown rfl)) ?_
      refine ⟨?_, nofun, nofun, nofun, State.retire_posted u _⟩
      rintro j r ⟨⟩
      rfl
    · refine ends_of_next (next _ (State.lanStore_of_writeHome u s.focus pa _ hown rfl)) ?_
      refine ⟨nofun, ?_, nofun, nofun, State.retire_posted u _⟩
      rintro j r ⟨⟩
      rfl
    · refine ends_of_next (next _ (State.lanStore_of_writeHome u s.focus pa _ hown rfl)) ?_
      refine ⟨nofun, nofun, ?_, nofun, ?_⟩
      · rintro e r o ⟨⟩
        rfl
      · rw [State.postDwords_eq]
        exact State.retire_posted u _
    · refine ends_of_next (next _ (State.lanStore_of_writeHome u s.focus pa _ hown rfl)) ?_
      refine ⟨nofun, nofun, nofun, ?_, ?_⟩
      · rintro o ⟨⟩
        rfl
      · rw [State.postDwords_eq]
        exact State.retire_posted u _
  case tile =>
    subst hk
    exact ends_of_next (next _ (State.lanStore_home s.focus u _ pa _ (hset ▸ hown))) rfl
  case staged => exact ends_of_next (next w ((State.lanStore_staged (hset ▸ hst) ho).trans hw)) rfl
  case blocked =>
    refine ends_of_next (congrArg Host.Outcome.next ?_) rfl
    exact State.store_blocked h48 hal hx hcut hu.symm ((State.lanStore_staged (hset ▸ hst) ho).trans hw) hfocus

end
end

section
/-! ## R130 to R134, R117: FENCE, branches, jumps and the system instructions -/

namespace Sys2Proof.Machine

section
variable (s : State)

theorem State.lan_modCur_focus (f : Lantern → Lantern) : (s.modCur f).lan s.focus = f s.cur := State.lan_modLan_self ..

theorem State.modCur_modCur (f g : Lantern → Lantern) : (s.modCur f).modCur g = s.modCur fun l => g (f l) :=
  State.modLan_modLan ..

theorem State.onlyLan_modCur (f : Lantern → Lantern) : OnlyLan s.focus s (s.modCur f) := State.onlyLan_modLan ..

/-! ### Branches -/

variable (i : Instr) (off : BitVec 32)

/-- A taken branch goes to its parcel, or traps where there is none. -/
theorem State.branchTo_of_nonneg (h : 0 ≤ parcelIndex s.cur.pc + off.toInt) :
    s.branchTo i off = s.jumpTo .jump (parcelAddr (parcelIndex s.cur.pc + off.toInt)) := if_neg (by omega)

theorem State.branchTo_of_neg (h : parcelIndex s.cur.pc + off.toInt < 0) :
    s.branchTo i off = s.trap cFETCH (parcelOf i) := if_pos h

/-- A conditional branch first notes its outcome in the trace, which moves nothing else. -/
theorem State.branched_branchIf (c : Bool) : Branched i off (c = true) s (s.branchIf i c off) := by
  have hday := s.dayOnly_traceCond c
  have hfocus := hday.focus
  have hpc := hday.pc
  unfold State.branchIf
  dsimp only
  generalize s.traceCond s.focus c = u at hday hfocus hpc
  refine ⟨fun hc => ?_, fun hc hn => ?_, fun hc hn => ?_⟩
  · rw [if_neg hc, ← hpc]
    exact hday.wentTo u.wentTo_retire
  · rw [if_pos hc, ← hpc, u.branchTo_of_nonneg i off (by rwa [hpc])]
    exact hday.wentTo (u.wentTo_jumpTo _ _)
  · rw [if_pos hc, ← hpc, u.branchTo_of_neg i off (by rwa [hpc])]
    rw [← hpc] at hn
    have htrap := u.trapped_trap cFETCH (parcelOf i) 1
    unfold TrappedHere at htrap
    rw [hfocus] at htrap
    exact hday.trapped htrap

end

end Sys2Proof.Machine

namespace Sys2Proof

open Sys2Proof.Machine

theorem Branched.congr {i : Instr} {off : BitVec 32} {c d : Prop} {s t : Machine.State} (h : Branched i off c s t) (hcd : c ↔ d) :
    Branched i off d s t := by
  rwa [propext hcd] at h

/-- A conditional branch whose condition is computed by `b`. -/
theorem ends_branchIf {i j : Instr} {off : BitVec 32} {s : Machine.State} {b : Bool} {c : Prop}
    (he : exec i s = .next (s.branchIf j b off)) (hc : b = true ↔ c) : Ends i s (Branched j off c s) :=
  ⟨_, he, (s.branched_branchIf j off b).congr hc⟩

theorem slt_iff (a b : Word) : a.slt b = true ↔ a.toInt < b.toInt := by simp [BitVec.slt]
theorem not_slt_iff (a b : Word) : (!a.slt b) = true ↔ b.toInt ≤ a.toInt := by simp [BitVec.slt]
theorem ult_iff (a b : Word) : a.ult b = true ↔ a.toNat < b.toNat := by simp [BitVec.ult]
theorem not_ult_iff (a b : Word) : (!a.ult b) = true ↔ b.toNat ≤ a.toNat := by simp [BitVec.ult]

end Sys2Proof

section

open Sys2Proof Sys2Proof.Machine

/-- Settles O8: FENCE performs the loads first, and goes on only where none is left. -/
theorem fenceCompletes : Obligations.FenceCompletes := by
  intro s scope
  refine ⟨fun hlow => ?illop, fun hhigh hnil => ?completes, fun hhigh hne hall => ?stands⟩
  case illop => exact illop_of rfl (if_pos hlow)
  case completes =>
    have hfence : s.fence scope = s.modCur fun l => ({ l with icache := [] } : Lantern).advance 1 := by
      unfold State.fence
      rw [if_neg (by omega), State.performLoads_nil s s.focus hnil]
      exact if_pos (by rw [hnil]; rfl)
    refine ends_congr (i := .fence scope) rfl hfence ?_
    rw [State.cur_modCur]
    refine ⟨State.onlyLan_modCur .., fun r => ?_, rfl, rfl, rfl⟩
    rw [State.lan_modCur_focus]
    rfl
  case stands =>
    refine is_of rfl ?_
    unfold State.fence
    rw [if_neg (by omega), State.performLoads_some s s.focus hall, if_neg (by simpa using hne)]

/-- Settles O9: each condition is the Boolean that the branch computes. -/
theorem branchesAndJumps : Obligations.BranchesAndJumps := by
  intro s ra rb off
  refine ⟨ends_branchIf rfl decide_eq_true_iff, ends_branchIf rfl decide_eq_true_iff, ends_branchIf rfl (slt_iff _ _),
    ends_branchIf rfl (not_slt_iff _ _), ends_branchIf rfl (ult_iff _ _), ends_branchIf rfl (not_ult_iff _ _),
    ?jmp, fun hn => ?jal, fun hn => ?jalBelow⟩
  case jmp =>
    refine ends_of_next rfl ⟨fun h => absurd trivial h, fun _ hn => ?_, fun _ hn => ?_⟩
    · rw [s.branchTo_of_nonneg _ off hn]
      exact s.wentTo_jumpTo _ _
    · rw [s.branchTo_of_neg _ off hn]
      exact s.trapped_trap ..
  case jal =>
    have hcall : s.callTo off = s.modCur fun l =>
        { l.setReg 1#5 (nextParcel s.cur.pc) with
          pc := parcelAddr (parcelIndex s.cur.pc + off.toInt), prev := (l.setReg 1#5 (nextParcel s.cur.pc)).pc,
          came := .jump, xheld := none } :=
      (if_neg (by omega)).trans (State.modCur_modCur ..)
    refine ends_congr (i := .jal off) rfl hcall ⟨State.onlyLan_modCur .., fun r => ?_, ?_, ?_⟩
    · refine (congrArg (Lantern.reg · r) (State.cur_modCur ..)).trans ((Lantern.reg_setReg s.cur 1#5 r _).trans ?_)
      by_cases hr : r = 1#5
      · subst hr
        simp
      · simp only [hr, false_and, if_false]
        rfl
    · exact (congrArg Lantern.pc (State.cur_modCur ..)).trans rfl
    · rw [State.cur_modCur, Lantern.setReg_eq]
      rfl
  case jalBelow => exact trap_of rfl (if_pos hn)

end
end

section
/-! ## R132, R133: indirect jumps; R134: the system instructions -/

namespace Sys2Proof.Machine

section
variable {s u : State}

/-- A jump whose trace packet has been written. -/
theorem DayOnly.jumpTo (h : DayOnly s u) (c : Came) (a : Word) : WentTo a s (u.jumpTo c a) := h.wentTo (u.wentTo_jumpTo c a)

theorem DayOnly.st (h : DayOnly s u) : u.cur.st = s.cur.st := by
  obtain ⟨d, hd⟩ := h.cur
  rw [hd]

theorem State.st_jumpTo (c : Came) (a : Word) : (u.jumpTo c a).cur.st = u.cur.st :=
  (congrArg Lantern.st (State.cur_modCur ..)).trans rfl

theorem State.came_jumpTo (c : Came) (a : Word) : (u.jumpTo c a).cur.came = c :=
  (congrArg Lantern.came (State.cur_modCur ..)).trans rfl

/-- A jump to the end address leaves the Lantern ending its segment. -/
theorem DayOnly.ended (h : DayOnly s u) (a : Word) :
    let t := u.modCur fun l => { l with pc := a, prev := l.pc, came := .jump, st := .ending, xheld := none }
    WentTo a s t ∧ t.cur.st = .ending := by
  dsimp only
  refine ⟨h.wentTo ⟨State.onlyLan_modCur .., fun r => ?_, ?_, ?_⟩, ?_⟩
  · exact (congrArg (Lantern.reg · r) (State.lan_modCur_focus ..)).trans rfl
  all_goals rw [State.cur_modCur]

/-- An address at a multiple of 2^n has its low n bits zero. -/
theorem extractLsb'_low_eq_zero_iff (a : Word) (n : Nat) : a.extractLsb' 0 n = 0#n ↔ a.toNat % 2 ^ n = 0 := by
  rw [← BitVec.toNat_inj]
  simp

variable (s) in
theorem State.jumpReg_end {ra : Reg} (h : s.x ra = endAddr) :
    s.jumpReg ra = (s.traceIndirect s.focus 0 0 endAddr).modCur
      fun l => { l with pc := endAddr, prev := l.pc, came := .jump, st := .ending, xheld := none } := by
  unfold State.jumpReg
  rw [h]
  exact if_pos rfl

variable (s) in
theorem State.tableJump_of_nonneg (i : Instr) {n : Int} (h : 0 ≤ n) : WentTo (parcelAddr n) s (s.tableJump i n) := by
  unfold State.tableJump
  rw [if_neg (by omega)]
  exact (s.dayOnly_traceIndirect ..).jumpTo ..

/-- The line of a JTAB's entry has been fetched: the entry, or ILLOP. -/
theorem State.tableEntry_of_fetch {a : Word} {ws : List Word} (h : s.fetchLine s.focus (a &&& 0xFFFFFFFFFFFFFF80#64) = (.ok ws, u)) :
    s.tableEntry a =
      if (ws.getD 0 0#64).extractLsb' 30 2 ≠ 1#2 ∨ (ws.getD (a.toNat % 128 / 8) 0#64).extractLsb' 32 32 ≠ 0#32 then
        .stop (u.trap cILLOP a 2)
      else .ok (ws.getD (a.toNat % 128 / 8) 0#64) u := by
  unfold State.tableEntry
  rw [show (~~~127#64 : Word) = 0xFFFFFFFFFFFFFF80#64 from by decide, h]

variable (s) in
theorem State.tableBranch_default {ra : Reg} {base dflt : BitVec 32} {len : BitVec 16} (h : len.toNat ≤ (s.x ra).toNat) :
    s.tableBranch ra base dflt len = s.tableJump (.jtab ra base dflt len) (parcelIndex s.cur.pc + dflt.toInt) := if_pos h

variable (s) in
theorem State.tableBranch_entry {ra : Reg} {base dflt : BitVec 32} {len : BitVec 16} (h : (s.x ra).toNat < len.toNat)
    (hm : 0 ≤ parcelIndex s.cur.pc + base.toInt + (s.x ra).toNat) :
    s.tableBranch ra base dflt len =
      match s.tableEntry (parcelAddr (parcelIndex s.cur.pc + base.toInt + (s.x ra).toNat)) with
      | .stop s => s
      | .ok e u => u.tableJump (.jtab ra base dflt len) (parcelIndex s.cur.pc + (e.extractLsb' 0 32).toInt) := by
  unfold State.tableBranch
  dsimp only
  rw [if_neg (by omega), if_neg (by omega)] <;> rfl

/-! ### ERET -/

/-- SUP and IE take PSUP and PIE, which stay (R120). -/
theorem eretStatus_bits (v : Word) :
    (eretStatus v).getLsbD 0 = v.getLsbD 1 ∧ (eretStatus v).getLsbD 2 = v.getLsbD 3 ∧
      (eretStatus v).getLsbD 1 = v.getLsbD 1 ∧ (eretStatus v).getLsbD 3 = v.getLsbD 3 := by
  unfold eretStatus
  cases h1 : v.getLsbD 1 <;> cases h3 : v.getLsbD 3 <;> simp_all

/-- What ERET makes of its Lantern: back at EPC, or waiting at the end of the segment (R141). -/
def Lantern.returned (l : Lantern) : Lantern :=
  if l.leaveTrap.pc = endAddr then { l.leaveTrap with st := .ending } else l.leaveTrap

theorem Lantern.returned_eq (l : Lantern) :
    l.returned = { l.leaveTrap with st := if l.epc = endAddr then .ending else l.st } := by
  unfold Lantern.returned
  have hpc : l.leaveTrap.pc = l.epc := rfl
  rw [hpc]
  split <;> rfl

end

/-! ### The state registers -/

/-- The values that SRR reads, in the order of their numbers (R111). -/
def State.srList (s : State) (k : Nat) : List Word :=
  let l := s.lan k
  [(l.status &&& 0xF#64) ||| (if l.head.toNat % 2 ^ l.fqsize.toNat ≠ l.tail.toNat % 2 ^ l.fqsize.toNat then 0x10#64 else 0#64) ||| (if s.speculative k then 0x20#64 else 0#64),
   l.epc, l.ecause, l.evalr, l.emicro, l.tvec, l.segid, l.region, BitVec.ofNat 64 s.tick, l.deadln, l.budget, l.cost,
   BitVec.ofNat 64 (l.fqsize.toNat * 2 ^ 20 + l.fqbase.toNat * 2 ^ 5),
   BitVec.ofNat 64 (l.tail.toNat * 2 ^ 32 + l.head.toNat), l.fpmode, l.fpflags, s.modeOf (lanDie k), l.launch]

theorem State.srValue_of_lt (s : State) (k : Nat) {n : Nat} (h : n < 0x12) : s.srValue k n = some ((s.srList k).getD n 0#64) := by
  rcases Nat.eq_zero_or_pos n with rfl | hpos
  · have hfqp : (if (s.lan k).fqp then 0x10#64 else 0#64) =
        if (s.lan k).head.toNat % 2 ^ (s.lan k).fqsize.toNat ≠ (s.lan k).tail.toNat % 2 ^ (s.lan k).fqsize.toNat then 0x10#64
        else 0#64 := ite_congr (decide_eq_true_eq ..) (fun _ => rfl) fun _ => rfl
    unfold State.srValue State.srList
    dsimp only
    rw [hfqp]
    rfl
  · have hn : n = 1 ∨ n = 2 ∨ n = 3 ∨ n = 4 ∨ n = 5 ∨ n = 6 ∨ n = 7 ∨ n = 8 ∨ n = 9 ∨ n = 10 ∨ n = 11 ∨ n = 12 ∨ n = 13 ∨ n = 14 ∨
        n = 15 ∨ n = 16 ∨ n = 17 := by omega
    rcases hn with rfl | rfl | rfl | rfl | rfl | rfl | rfl | rfl | rfl | rfl | rfl | rfl | rfl | rfl | rfl | rfl | rfl <;> rfl

theorem State.srValue_of_ge (s : State) (k : Nat) {n : Nat} (h : 0x12 ≤ n) : s.srValue k n = none := by
  unfold State.srValue
  dsimp only
  split <;> first | omega | rfl

theorem srUserReads_iff (n : Nat) : srUserReads n = true ↔ n ∈ [0, 6, 7, 8, 9, 10, 11, 14, 15, 17] := by
  simp only [srUserReads, decide_eq_true_iff, List.mem_cons, List.not_mem_nil, or_false]
  omega

theorem srWritable_iff (n : Nat) : srWritable n = true ↔ n ∈ [0, 1, 2, 3, 4, 5, 0xC, 0xD, 0xE, 0xF, 0x10] := by
  simp only [srWritable, Bool.and_eq_true, decide_eq_true_iff, Bool.not_eq_true', decide_eq_false_iff_not, List.mem_cons,
    List.not_mem_nil, or_false]
  omega

theorem srUserWrites_iff (n : Nat) : srUserWrites n = true ↔ n = 0xE ∨ n = 0xF := decide_eq_true_iff

end Sys2Proof.Machine
end

section

open Sys2Proof Sys2Proof.Machine

/-- Settles O10: JR by its target; JTAB by its index, its entry's line and the target's index. -/
theorem indirectJumps : Obligations.IndirectJumps := by
  refine ⟨fun s ra => ⟨fun h => ?jrEnd, fun h => ?jrAlign, fun h => ?jrHeader, fun h8 h128 (hend : s.x ra ≠ endAddr) => ?jrGoes⟩,
    fun s ra base dflt len => ⟨fun h hn => ?default, fun h hn => ?defaultBelow, ?entry⟩⟩
  case jrEnd =>
    exact ends_congr (i := .jr ra) rfl (s.jumpReg_end h) ((s.dayOnly_traceIndirect ..).ended _)
  case jrAlign =>
    have hmod : (s.x ra).toNat % 8 ≠ 0 := fun h0 => h ((extractLsb'_low_eq_zero_iff _ 3).2 h0)
    have hne : s.x ra ≠ endAddr := fun h0 => hmod (by rw [h0]; rfl)
    refine trap_of rfl ?_
    unfold State.jumpReg
    dsimp only
    rw [if_neg hne, if_pos hmod]
  case jrHeader =>
    have hmod : (s.x ra).toNat % 128 = 0 := (extractLsb'_low_eq_zero_iff _ 7).1 h
    have hne : s.x ra ≠ endAddr := fun h0 => absurd hmod (by rw [h0]; decide)
    have hgo : s.jumpReg ra = s.trapAt s.focus cCFI (s.x ra) s.cur.pc 0#64 (nextParcel (s.x ra)) := by
      unfold State.jumpReg
      dsimp only
      rw [if_neg hne, if_neg (by omega), if_pos hmod]
    exact ends_congr (i := .jr ra) rfl hgo (State.trapped_trapAt ..)
  case jrGoes =>
    have hmod : (s.x ra).toNat % 8 = 0 := (extractLsb'_low_eq_zero_iff _ 3).1 h8
    have hno : ¬ (s.x ra).toNat % 128 = 0 := fun h0 => h128 ((extractLsb'_low_eq_zero_iff _ 7).2 h0)
    have hgo : s.jumpReg ra = (s.traceIndirect s.focus 0 0 (s.x ra)).jumpTo .afterJal (s.x ra) := by
      unfold State.jumpReg
      dsimp only
      rw [if_neg hend, if_neg (by omega), if_neg hno]
    have hday := s.dayOnly_traceIndirect 0 0 (s.x ra)
    exact ends_congr (i := .jr ra) rfl hgo ⟨hday.jumpTo .., (State.st_jumpTo ..).trans hday.st, State.came_jumpTo ..⟩
  case default =>
    refine ends_congr (i := .jtab ra base dflt len) rfl (s.tableBranch_default h) (s.tableJump_of_nonneg _ hn)
  case defaultBelow =>
    refine ends_congr (i := .jtab ra base dflt len) rfl ((s.tableBranch_default h).trans (if_pos hn)) (s.trapped_trap ..)
  case entry =>
    rintro hlen a ws u hm rfl hfetch hpc -
    have hgo := s.tableBranch_entry (dflt := dflt) hlen hm
    rw [State.tableEntry_of_fetch hfetch] at hgo
    refine ⟨fun hkind hupper hn => ?_, fun hbad => ?_⟩
    · rw [if_neg (not_or.2 ⟨Classical.not_not.2 hkind, Classical.not_not.2 hupper⟩)] at hgo
      exact ends_congr (i := .jtab ra base dflt len) rfl hgo (u.tableJump_of_nonneg _ hn)
    · rw [if_pos hbad] at hgo
      exact ends_congr (i := .jtab ra base dflt len) rfl hgo (u.trapped_trap ..)

/-- Settles O11. -/
theorem systemInstructions : Obligations.SystemInstructions := by
  intro s code
  refine ⟨trap_of rfl rfl, trap_of rfl rfl, fun hsup hout => ?eret, fun hsup hout => ?waits, fun hsup => ?halt, fun hsup => ?priv, ?nop⟩
  case eret =>
    have hday := s.dayOnly_traceIndirect 3 0 s.cur.epc
    have hgo : s.eret = (s.traceIndirect s.focus 3 0 s.cur.epc).modCur Lantern.returned := by
      unfold State.eret
      rw [hsup, hout]
      rfl
    refine ends_congr (i := .eret) rfl hgo ?_
    generalize s.traceIndirect s.focus 3 0 s.cur.epc = u at hday
    obtain ⟨d, hd⟩ := hday.cur
    have honly := hday.only
    have hfocus := hday.focus
    have hcur : (u.modCur Lantern.returned).cur = ({ s.cur with day := d } : Lantern).returned := by
      rw [State.cur_modCur, hd]
    rw [Lantern.returned_eq] at hcur
    obtain ⟨h0, h2, h1, h3⟩ := eretStatus_bits s.cur.status
    refine ⟨honly.trans (hfocus ▸ State.onlyLan_modCur u _), fun r => ?_, ?_⟩
    · have hlan : (u.modCur Lantern.returned).lan s.focus = (u.modCur Lantern.returned).cur := by
        rw [← hfocus]
        rfl
      rw [hlan, hcur]
      rfl
    · rw [hcur]
      exact ⟨rfl, h0, h2, h1, h3, rfl, rfl, rfl⟩
  case waits =>
    refine is_of rfl ?_
    unfold State.eret
    rw [hsup, hout]
    rfl
  case halt =>
    refine ends_became .halt s (fun l => { l with st := .halted }) (congrArg Host.Outcome.next ?_)
    unfold State.halt
    rw [hsup]
    rfl
  case priv =>
    refine ⟨trap_of rfl ?_, trap_of rfl ?_⟩
    · unfold State.eret
      rw [hsup]
      rfl
    · unfold State.halt
      rw [hsup]
      rfl
  case nop => exact ends_modLan (f := (·.advance 1)) rfl rfl rfl

/-- Settles O12. -/
theorem stateRegisterReads : Obligations.StateRegisterReads := by
  intro s rd num
  refine ⟨fun h => ?none, fun h => ⟨fun hmay => ?reads, fun hsup hno => ?priv⟩⟩
  case none =>
    refine illop_of rfl ?_
    unfold State.readSr
    rw [s.srValue_of_ge s.focus h]
  case reads =>
    have hread : (s.cur.sup || srUserReads num.toNat) = true := by
      rwa [Bool.or_eq_true, srUserReads_iff]
    have hlist : s.readSr rd num = s.retireReg rd ((s.srList s.focus).getD num.toNat 0#64) 1 := by
      unfold State.readSr
      rw [s.srValue_of_lt s.focus h]
      exact if_pos hread
    exact wrote_of rfl hlist
  case priv =>
    have hread : (s.cur.sup || srUserReads num.toNat) = false := by
      rw [Bool.or_eq_false_iff]
      exact ⟨hsup, by rwa [← Bool.not_eq_true, srUserReads_iff]⟩
    refine trap_of rfl ?_
    unfold State.readSr
    rw [s.srValue_of_lt s.focus h]
    exact if_neg (by rw [hread]; exact Bool.false_ne_true)

end

section
/-! ## R111 to R113: SRW; R146: DMOV; R119, R121: traps at a boundary -/

namespace Sys2Proof.Machine

section
variable {s : State} {num : BitVec 32} {ra : Reg}

/-! ### SRW -/

theorem State.writeSr_illop (h : num.toNat ∉ [0, 1, 2, 3, 4, 5, 0xC, 0xD, 0xE, 0xF, 0x10]) :
    s.writeSr num ra = s.illop (.srw num ra) := by
  have hw : srWritable num.toNat = false := by rwa [← Bool.not_eq_true, srWritable_iff]
  unfold State.writeSr
  dsimp only
  rw [hw]
  rfl

theorem State.writeSr_priv (hw : srWritable num.toNat = true) (hsup : s.cur.sup = false) (hu : srUserWrites num.toNat = false) :
    s.writeSr num ra = s.trap cPRIV (parcelOf (.srw num ra)) := by
  unfold State.writeSr
  dsimp only
  rw [hw, hsup, hu]
  rfl

/-- A write that its mode allows stands while a load is outstanding (R114), and then is done, but for a bad FQBASE. -/
theorem State.writeSr_allowed (hw : srWritable num.toNat = true) (hmay : s.cur.sup = true ∨ srUserWrites num.toNat = true) :
    s.writeSr num ra =
      if s.loadsOut s.focus then s
      else if decide (num.toNat = 0xC) && !fqbaseOk (s.x ra) then s.illop (.srw num ra)
      else (s.srWrite s.focus num.toNat (s.x ra)).retire 1 := by
  have hpriv : (!s.cur.sup && !srUserWrites num.toNat) = false := by
    rcases hmay with h | h <;> simp [h]
  unfold State.writeSr
  dsimp only
  rw [hw, hpriv]
  rfl

/-- A write of a register other than FQBASE that its mode allows and no load holds up. -/
theorem State.writeSr_done (hw : srWritable num.toNat = true) (hmay : s.cur.sup = true ∨ srUserWrites num.toNat = true)
    (hout : s.loadsOut s.focus = false) (hC : num.toNat ≠ 0xC) :
    s.writeSr num ra = (s.srWrite s.focus num.toNat (s.x ra)).retire 1 := by
  rw [State.writeSr_allowed hw hmay, hout]
  simp [hC]

/-- Register `n`, other than FQBASE, becomes what `f` makes of it. -/
theorem ends_srw {n : Nat} (f : Lantern → Lantern) (hn : num = BitVec.ofNat 32 n) (hlt : n < 0x12) (hw : srWritable n = true)
    (hmay : s.cur.sup = true ∨ srUserWrites n = true) (hout : s.loadsOut s.focus = false) (hC : n ≠ 0xC)
    (hf : s.srWrite s.focus n (s.x ra) = s.modLan s.focus f) : Ends (.srw num ra) s (Became ((f s.cur).advance 1) s) := by
  have hnum : num.toNat = n := by
    rw [hn, BitVec.toNat_ofNat]
    omega
  refine ends_became _ s f (congrArg Host.Outcome.next ?_)
  rw [← hf, ← hnum]
  exact State.writeSr_done (hnum ▸ hw) (hnum ▸ hmay) hout (hnum ▸ hC)

/-- FQBASE keeps the ring inside the local memory (R123). -/
theorem fqbaseOk_iff (v : Word) : fqbaseOk v = true ↔
    (v.extractLsb' 20 4).toNat ≤ 11 ∧ (v.extractLsb' 5 12).toNat * 32 + 32 * 2 ^ (v.extractLsb' 20 4).toNat ≤ 0x10000 := by
  simp only [fqbaseOk, Bool.and_eq_true, decide_eq_true_iff]

variable (s) in
theorem State.modeOf_setMode (k d : Nat) (v : Word) : (s.setMode k v).modeOf d = if d = k then v &&& 0x3F#64 else s.modeOf d := by
  by_cases h : d = k
  · rw [if_pos h, h, State.modeOf_setMode_self]
  · rw [if_neg h]
    exact Tab.get_put_ne _ _ _ h

end

/-! ### DMOV -/

section
variable {s u v : State} {rd ra rb : Reg}

theorem firstOdd_none {a b c : Word} (ha : a.toNat % 8 = 0) (hb : b.toNat % 8 = 0) (hc : c.toNat % 8 = 0) : firstOdd a b c = none := by
  unfold firstOdd
  simp [ha, hb, hc]

theorem State.dmov_odd {w : Word} (h : firstOdd (s.x rd) (s.x ra) (s.x rb) = some w) : s.dmov rd ra rb = s.trap cALIGN w := by
  unfold State.dmov
  dsimp only
  rw [h]

theorem State.dmov_even (h : firstOdd (s.x rd) (s.x ra) (s.x rb) = none) :
    s.dmov rd ra rb = if s.cur.emicro.toNat < (s.x rb).toNat / 8 then (s.performLoads s.focus).dmovMove (s.x ra) (s.x rd) else
      s.modCur fun l =>
        ({ (((l.setReg rd (s.x rd + s.x rb)).setReg ra (s.x ra + s.x rb)).setReg rb 0#64) with emicro := 0#64 }).advance 1 := by
  unfold State.dmov
  dsimp only
  rw [h]

/-- One move between two places in HBM, both translated and reachable. -/
theorem State.dmovMove_hbm {src dst : Word} {pa pb : Nat} {c c' : Bool}
    (hload : s.lanXlate s.focus (src + 8#64 * s.cur.emicro) 8 .load = (.at_ pa .hbm c, u))
    (hclass : s.classify pa 8 = some .hbm) (hgood : s.hbmPoison pa 8 = false)
    (hca : s.homeCut (lanDie s.focus) pa .hbm = false) (hcb : s.homeCut (lanDie s.focus) pb .hbm = false)
    (hset : s.stagedSet s.focus = none)
    (hstore : u.lanXlate s.focus (dst + 8#64 * s.cur.emicro) 8 .store = (.at_ pb .hbm c', v)) :
    s.dmovMove src dst = (v.writeHome pb 0 (s.mem.bytes pa 8) .hbm).1.modCur
      fun l => { l with emicro := s.cur.emicro + 1#64, xheld := none, stWait := none } := by
  have hu := (SameButFree.of_lanXlate hload).eq
  have hv := (SameButFree.of_lanXlate hstore).eq
  have hfocus : u.focus = s.focus := by rw [hu]
  have hread : u.lanLoad u.focus pa 8 = (s.mem.bytes pa 8, false, u) := by
    rw [hu]
    exact State.lanLoad_direct { s with free := u.free } s.focus pa 8 .hbm hclass (.inl ⟨rfl, hgood⟩) hset
  have hca' : u.homeCut (lanDie u.focus) pa .hbm = false := by
    rw [hu]
    exact hca
  have hcb' : v.homeCut (lanDie v.focus) pb .hbm = false := by
    rw [hv, hu]
    exact hcb
  have hsv : v.stagedSet v.focus = none := by
    rw [hv, hu]
    exact hset
  have hfv : v.focus = s.focus := by rw [hv, hfocus]
  have hwrite : v.lanStore v.focus pb .hbm (s.mem.bytes pa 8) = some (v.writeHome pb 0 (s.mem.bytes pa 8) .hbm).1 :=
    State.lanStore_of_writeHome v v.focus pb _ (.inl hsv) rfl
  unfold State.dmovMove
  dsimp only
  rw [hload]
  dsimp only
  rw [if_neg (by rw [hfocus] at hca'; rw [hca']; exact Bool.false_ne_true)]
  rw [← hfocus, hread]
  dsimp only
  rw [if_neg Bool.false_ne_true, hfocus, hstore]
  dsimp only
  rw [if_neg (by rw [hfv] at hcb'; rw [hcb']; exact Bool.false_ne_true), ← hfv, hwrite]

end

/-! ### Traps at a boundary -/

section
variable {s u : State} {k : Nat}

theorem State.fetchTrap_stops (hsup : (u.lan k).sup = true) (hstart : (u.lan k).came = .start ∧ (u.lan k).pc = (u.lan k).tvec)
    (cause : Nat) (epc val : Word) (n : Nat) :
    ∃ r, r.kind = kTVEC ∧ r.addr = (u.lan k).tvec ∧
      u.fetchTrap k cause epc val n = ((u.toMc r).modLan k fun l => { l with st := .stopped }).askAbort k true := by
  refine ⟨{ lanRecord k kTVEC (u.lan k).tvec (cause + (u.lan k).ecause.toNat % 256 * 256) with
            tick := BitVec.ofNat 32 u.tick, die := BitVec.ofNat 4 (lanDie k), spec := u.speculative k }, rfl, rfl, ?_⟩
  unfold State.fetchTrap
  dsimp only
  rw [hsup, decide_eq_true hstart]
  rfl

theorem State.fetchTrap_traps (h : ¬ ((u.lan k).sup = true ∧ (u.lan k).came = .start ∧ (u.lan k).pc = (u.lan k).tvec))
    (cause : Nat) (epc val : Word) (n : Nat) :
    u.fetchTrap k cause epc val n = u.trapAt k cause epc val 0#64 (afterParcels epc n) := by
  unfold State.fetchTrap
  exact if_neg (by rwa [Bool.and_eq_true, decide_eq_true_iff])

/-- A request for an abort changes a segment of the Beacon only. -/
theorem State.askAbort_eq (s : State) (k : Nat) (requeue : Bool) :
    s.askAbort k requeue = { s with beacons := (s.askAbort k requeue).beacons } := by
  unfold State.askAbort
  split
  · rfl
  · rfl

theorem State.lan_askAbort (s : State) (k : Nat) (requeue : Bool) (j : Nat) : (s.askAbort k requeue).lan j = s.lan j := by
  rw [State.askAbort_eq]
  rfl

theorem execFetchFault_eq (hrun : (s.lan k).st = .run) {cause : Nat} {epc val : Word} {n : Nat}
    (hf : s.fetch k = (.fault cause epc val n, u)) : exec (.fetchFault k) s = .next (u.fetchTrap k cause epc val n) := by
  show execFetchFault k s = _
  unfold execFetchFault
  rw [if_pos hrun, hf]

end

end Sys2Proof.Machine
end

section

open Sys2Proof Sys2Proof.Machine

/-- Settles O13. -/
theorem stateRegisterWrites : Obligations.StateRegisterWrites := by
  intro s num ra
  refine ⟨fun h => ?illop, fun hsup h => ?priv, fun hout h => ?waits, fun hout => ⟨fun h => ?fpmode, fun h => ?fpflags⟩,
    fun hsup hout => ⟨fun h => ?r0, fun h => ?r1, fun h => ?r2, fun h => ?r3, fun h => ?r4, fun h => ?r5,
      fun h => ⟨fun hok => ?ring, fun hbad => ?badRing⟩, fun h => ?head, fun h => ?mode⟩⟩
  case illop => exact illop_of rfl (State.writeSr_illop h)
  case priv =>
    refine trap_of rfl (State.writeSr_priv ?_ hsup ?_)
    · rw [srWritable_iff]
      simp only [List.mem_cons, List.not_mem_nil, or_false] at h ⊢
      omega
    · rw [← Bool.not_eq_true, srUserWrites_iff]
      simp only [List.mem_cons, List.not_mem_nil, or_false] at h
      omega
  case waits =>
    refine is_of rfl ((State.writeSr_allowed ?_ ?_).trans (if_pos hout))
    · rw [srWritable_iff]
      simp only [List.mem_cons, List.not_mem_nil, or_false] at h ⊢
      omega
    · rw [srUserWrites_iff]
      simp only [List.mem_cons, List.not_mem_nil, or_false] at h
      exact h.elim .inr fun hs => .inl hs.1
  case fpmode => exact ends_srw (fun l => { l with fpmode := s.x ra &&& 3#64 }) h (by decide) rfl (.inr rfl) hout (by decide) rfl
  case fpflags => exact ends_srw (fun l => { l with fpflags := s.x ra &&& 0x1F#64 }) h (by decide) rfl (.inr rfl) hout (by decide) rfl
  case r0 => exact ends_srw (fun l => { l with status := s.x ra &&& 0xF#64 }) h (by decide) rfl (.inl hsup) hout (by decide) rfl
  case r1 => exact ends_srw (fun l => { l with epc := s.x ra }) h (by decide) rfl (.inl hsup) hout (by decide) rfl
  case r2 => exact ends_srw (fun l => { l with ecause := s.x ra &&& 0xFF#64 }) h (by decide) rfl (.inl hsup) hout (by decide) rfl
  case r3 => exact ends_srw (fun l => { l with evalr := s.x ra }) h (by decide) rfl (.inl hsup) hout (by decide) rfl
  case r4 => exact ends_srw (fun l => { l with emicro := s.x ra }) h (by decide) rfl (.inl hsup) hout (by decide) rfl
  case r5 => exact ends_srw (fun l => { l with tvec := s.x ra }) h (by decide) rfl (.inl hsup) hout (by decide) rfl
  case ring =>
    subst h
    refine ends_became _ s (fun l => { l with fqsize := (s.x ra).extractLsb' 20 4, fqbase := (s.x ra).extractLsb' 5 12 })
      (congrArg Host.Outcome.next ((State.writeSr_allowed rfl (.inl hsup)).trans ?_))
    rw [hout, (fqbaseOk_iff _).2 hok]
    rfl
  case badRing =>
    subst h
    refine illop_of rfl ((State.writeSr_allowed rfl (.inl hsup)).trans ?_)
    rw [hout, Bool.eq_false_iff.2 (mt (fqbaseOk_iff _).1 hbad)]
    rfl
  case head => exact ends_srw (fun l => { l with head := (s.x ra).extractLsb' 0 16 }) h (by decide) rfl (.inl hsup) hout (by decide) rfl
  case mode =>
    subst h
    have hgo : s.writeSr 0x10#32 ra = (s.setMode (lanDie s.focus) (s.x ra)).retire 1 :=
      State.writeSr_done rfl (.inl hsup) hout (by decide)
    refine ends_congr (i := .srw 0x10#32 ra) rfl hgo ⟨rfl, fun j hj => ?_, State.cur_modCur .., fun d => ?_⟩
    · exact State.lan_modLan_ne _ _ hj
    · exact State.modeOf_setMode ..

/-- Settles O14. -/
theorem dmovMoves : Obligations.DmovMoves := by
  intro s rd ra rb
  refine ⟨fun hd => ?dst, fun hd ha => ?src, fun hd ha hb => ?len, fun hd ha hb => ⟨fun hend => ?ends, ?moves⟩⟩
  case dst => exact trap_of rfl (State.dmov_odd (by simp [firstOdd, hd]))
  case src => exact trap_of rfl (State.dmov_odd (by simp [firstOdd, hd, ha]))
  case len => exact trap_of rfl (State.dmov_odd (by simp [firstOdd, hd, ha, hb]))
  case ends =>
    exact ends_modLan rfl ((State.dmov_even (firstOdd_none hd ha hb)).trans (if_neg (by omega))) rfl
  case moves =>
    intro hlt hnil hset pa pb c c' u v hload hclass hgood hca hcb hstore
    have hgo := (State.dmov_even (firstOdd_none hd ha hb)).trans (if_pos hlt)
    rw [State.performLoads_nil s s.focus hnil, State.dmovMove_hbm hload hclass hgood hca hcb hset hstore] at hgo
    have hv : v = { s with free := v.free } := by
      rw [(SameButFree.of_lanXlate hstore).eq, (SameButFree.of_lanXlate hload).eq]
    refine ends_congr (i := .dmov rd ra rb) rfl hgo ?_
    rw [hv]
    refine ⟨rfl, rfl, fun j hj => State.lan_modLan_ne _ _ hj, State.cur_modCur ..⟩

/-- Settles O15. -/
theorem boundaryTraps : Obligations.BoundaryTraps := by
  intro s k
  refine ⟨fun cause epc val n u hrun hf => ⟨fun h => ?fault, fun h => ?stops⟩,
    fun micro next hb => ⟨fun hzero hsup => ?budget, fun hbud hie hne => ?queue, fun va at_ hbud hq hd => ?dpoison⟩⟩
  case fault =>
    refine ⟨_, execFetchFault_eq hrun hf, ?_⟩
    rw [State.fetchTrap_traps h]
    exact State.trapped_trapAt ..
  case stops =>
    obtain ⟨hsup, hstart⟩ := h
    obtain ⟨r, hkind, haddr, hgo⟩ := State.fetchTrap_stops hsup hstart cause epc val n
    refine ⟨_, execFetchFault_eq hrun hf, ?_⟩
    rw [hgo]
    refine ⟨(State.lan_askAbort ..).trans ((State.lan_modLan_self ..).trans rfl), ?_⟩
    rw [State.askAbort_eq]
    exact ⟨⟨r, rfl, hkind, haddr⟩, rfl⟩
  case budget =>
    have hdue : (s.lan k).budgetDue = true := by
      unfold Lantern.budgetDue
      rw [hzero, hsup]
      rfl
    refine ends_congr (i := .budgetTrap k) (t := s.budgetTrapAt k micro next) (u := s.budgetTrapAt k micro next) ?_ rfl (State.trapped_trapAt ..)
    show execBudgetTrap k s = _
    unfold execBudgetTrap
    rw [hb]
    dsimp only
    rw [if_pos hdue]
  case queue =>
    have hdue : (s.lan k).queueDue = true := by
      unfold Lantern.queueDue
      rw [hie]
      exact decide_eq_true hne
    refine ends_congr (i := .faultQueueTrap k) (t := s.queueTrapAt k micro next) (u := s.queueTrapAt k micro next) ?_ rfl (State.trapped_trapAt ..)
    show execFaultQueueTrap k s = _
    unfold execFaultQueueTrap
    rw [hb]
    dsimp only
    rw [hbud, hdue]
    rfl
  case dpoison =>
    refine ends_congr (i := .dpoison k) (t := s.poisonTrapAt k next) (u := s.poisonTrapAt k next) ?_ rfl ?_
    · show execDpoison k s = _
      unfold execDpoison
      rw [hb]
      dsimp only
      rw [hbud, hq]
      rfl
    · unfold State.poisonTrapAt
      rw [hd]
      exact State.trapped_trapAt ..

end

section
/-! ## R59, R60, R119: what a step runs -/

namespace Sys2Proof.Machine

section
variable {s u v w : State} {k : Nat} {ws : List Word} {l : Lantern} {i : Instr}

theorem not_not_true {b : Bool} (h : b = true) : ¬ (!b) = true := by simp [h]

/-- Whether the way control came allows a landing on a parcel that is a target or not (R58, R120). -/
def Lantern.mayLand (l : Lantern) (target afterJal : Bool) : Bool :=
  match l.came with
  | .seq => true
  | .start => true
  | .jump => target
  | .afterJal => target || afterJal
  | .eret => target || decide (l.pc = l.retFirst) || decide (l.pc = l.retNext)

theorem Lantern.mayLand_target (l : Lantern) (j : Bool) : l.mayLand true j = true := by
  unfold Lantern.mayLand
  cases l.came <;> rfl

/-- What the checks of R59 give for a parcel that its line permits and that decodes: items 9 to 11 are left. -/
theorem checkParcel_of_permits (h : LinePermits l ws) (hd : decodeLantern (parcelAt l ws) (parcelAfter l ws) = .ok i) (j : Bool) :
    checkParcel l ws j =
      if twoParcels i && (decide (l.pc.toNat % 128 / 8 = 15) || (ws.getD 0 0#64).getLsbD (l.pc.toNat % 128 / 8)) then
        .fault cILLOP l.pc (parcelAt l ws) (if (parcelAt l ws).getLsbD 0 then 2 else 1)
      else if needsSup i && !l.sup then .fault cPRIV l.pc (parcelAt l ws) (if (parcelAt l ws).getLsbD 0 then 2 else 1)
      else .run (refine l i) (if twoParcels i then 2 else 1) := by
  obtain ⟨h8, h128, hkind, hgen, hstart, hcame⟩ := h
  have hpos : l.pc.toNat % 8 = 0 ∧ l.pc.toNat % 128 / 8 ≠ 0 := ⟨h8, by omega⟩
  have hallowed : l.mayLand ((ws.getD 0 0#64).getLsbD (15 + (l.pc.toNat % 128 / 8 - 1))) j = true := by
    rcases hcame with hc | hc | hc
    · unfold Lantern.mayLand
      rw [hc]
    · unfold Lantern.mayLand
      rw [hc]
    · rw [hc, Lantern.mayLand_target]
  have hgo : decodeLantern (ws.getD (l.pc.toNat % 128 / 8) 0#64)
      (if l.pc.toNat % 128 / 8 < 15 then ws.getD (l.pc.toNat % 128 / 8 + 1) 0#64 else 0#64) = .ok i := hd
  unfold checkParcel
  dsimp only
  rw [decide_eq_true hpos]
  simp only [Bool.true_and]
  refine (if_neg (Classical.not_not.2 hkind)).trans ((if_neg (not_not_true hallowed)).trans
    ((if_neg (not_not_true hstart)).trans ((if_neg (Classical.not_not.2 hgen)).trans ?_)))
  rw [hgo]
  rfl

theorem State.fetch_of_line (h : u.fetchLine k ((u.lan k).pc &&& ~~~127#64) = (.ok ws, v)) :
    u.fetch k = (checkParcel (u.lan k) ws (decide ((u.lan k).came = .afterJal) && v.afterJal k (u.lan k).pc), v) := by
  unfold State.fetch
  dsimp only
  rw [h]

theorem State.pendingTrap_none (hb : (v.lan k).budgetDue = false) (hq : (v.lan k).queueDue = false) (hd : (v.lan k).dpoi = none)
    (micro next : Word) : v.pendingTrap k micro next = none := by
  unfold State.pendingTrap
  dsimp only
  rw [hb, hq, hd]
  rfl

/-- The turn of a running Lantern that nothing holds and that is not the firmware's: its fetch decides. -/
theorem State.lanternTurn_fetch (hu : u = { w with focus := k }) (hst : (u.lan k).st = .run) (hh : heldWaits (u.lan k).xheld = false)
    (hr : (u.lan k).inRetire = false) :
    w.lanternTurn k =
      match (u.fetch k).1 with
      | .held reason => .taken ((u.fetch k).2.holdAccess reason accFetch (u.lan k).pc)
      | .fault cause epc val n => .taken ((u.fetch k).2.fetchTrap k cause epc val n)
      | .run i n =>
        match (u.fetch k).2.pendingTrap k (microOf (u.lan k) i) (afterParcels (u.lan k).pc n) with
        | some s' => .taken s'
        | none => if (u.lan k).stalls i || (u.fetch k).2.frozen k then .taken (u.fetch k).2 else .run i (u.fetch k).2 := by
  have hcur : u.cur = u.lan k := by rw [hu]; rfl
  unfold State.lanternTurn
  dsimp only
  rw [← hu, hcur, hst]
  dsimp only
  rw [if_neg (by rw [hh]; exact Bool.false_ne_true), if_neg (by rw [hr]; exact Bool.false_ne_true)] <;> rfl

/-- A step of a machine that is up runs the turn at the head of the agenda, a cycle later. -/
theorem step_turn {t : Turn} {rest : List Turn} (hdown : s.down = none) (h : s.agenda = t :: rest) :
    step s = runTurn t ({ s with agenda := rest }.tickBy 1) := by
  unfold step
  rw [h]
  dsimp only
  rw [hdown, ite_self]

/-- No privileged instruction has two parcels. -/
theorem twoParcels_of_needsSup (h : needsSup i = true) : twoParcels i = false := by
  cases i <;> first | rfl | exact absurd h Bool.false_ne_true

end

end Sys2Proof.Machine
end

section

open Sys2Proof Sys2Proof.Machine

/-- Settles O58. -/
theorem stepRunsDecoded : Obligations.StepRunsDecoded := by
  intro s w rest hdown hw
  refine ⟨?lantern, ?element, ?port, ?firmware, fun i h => ?event, fun p h => ?post⟩
  case lantern =>
    intro k u v ws i h hu hst hh hr hf hp hd htwo hsup hb hq hdp hstall hfroz
    rw [step_turn hdown h, ← hw]
    have hrun : checkParcel (u.lan k) ws (decide ((u.lan k).came = .afterJal) && v.afterJal k (u.lan k).pc) =
        .run (refine (u.lan k) i) (if twoParcels i then 2 else 1) := by
      rw [checkParcel_of_permits hp hd, if_neg, if_neg]
      · simp only [Bool.and_eq_true, Bool.not_eq_true', not_and, Bool.not_eq_false]
        exact hsup
      · simp only [Bool.and_eq_true, Bool.or_eq_true, decide_eq_true_iff, not_and, not_or, Bool.not_eq_true]
        exact fun h2 => ⟨by have := (htwo h2).1; omega, (htwo h2).2⟩
    show runBoundary (w.lanternTurn k) = _
    rw [State.lanternTurn_fetch hu hst hh hr, State.fetch_of_line hf, hrun]
    dsimp only
    rw [State.pendingTrap_none hb hq hdp, hstall, hfroz]
    rfl
  case element =>
    intro el f img i h hfire himg hdec
    rw [step_turn hdown h, ← hw]
    have hel : ∀ e, ({ w with elem := e } : Machine.State).el el = s.el el := fun e => by
      rw [hw]
      rfl
    show runBoundary (w.elementTurn el) = _
    unfold State.elementTurn State.slotOf
    dsimp only
    rw [hel, hfire]
    dsimp only
    rw [himg]
    dsimp only
    rw [hdec]
    rfl
  case port =>
    intro p g i h hg harmed hlt hdec
    rw [step_turn hdown h, ← hw]
    have hport : ({ w with prt := p } : Machine.State).port p = s.port p := by
      rw [hw]
      rfl
    show runBoundary (w.portTurn p) = _
    unfold State.portTurn Prog.next?
    dsimp only
    rw [hport, hg]
    dsimp only
    rw [harmed, decide_eq_true hlt, hdec]
    rfl
  case firmware =>
    intro k h hst hh hr
    rw [step_turn hdown h, ← hw]
    have hcur : ({ w with focus := k } : Machine.State).cur = w.lan k := rfl
    show runBoundary (w.lanternTurn k) = _
    unfold State.lanternTurn
    dsimp only
    rw [hcur, hst]
    dsimp only
    rw [if_neg (by rw [hh]; exact Bool.false_ne_true), if_pos hr]
    rfl
  case event =>
    rw [step_turn hdown h, ← hw]
    rfl
  case post =>
    rw [step_turn hdown h, ← hw]
    rfl

/-- Settles O59: of the checks of R59 only the last fails. -/
theorem privilegedInUserMode : Obligations.PrivilegedInUserMode := by
  intro s u v rest k ws i hdown hag hu hst hh hr hf hp hd hneeds hsup hsupv
  have hpriv := checkParcel_of_permits hp hd (decide ((u.lan k).came = .afterJal) && v.afterJal k (u.lan k).pc)
  rw [twoParcels_of_needsSup hneeds, hneeds, hsup] at hpriv
  have hturn := State.lanternTurn_fetch hu hst hh hr
  rw [State.fetch_of_line hf, hpriv] at hturn
  have htrap := State.trapped_trapAt v k cPRIV (u.lan k).pc (parcelAt (u.lan k) ws) 0#64
    (afterParcels (u.lan k).pc (if (parcelAt (u.lan k) ws).getLsbD 0 then 2 else 1))
  refine ⟨_, ?_, htrap⟩
  rw [step_turn hdown hag]
  show runBoundary (({ s with agenda := rest } : Machine.State).tickBy 1 |>.lanternTurn k) = _
  rw [hturn]
  show Host.Outcome.next _ = _
  congr 1
  unfold State.fetchTrap
  dsimp only
  rw [hsupv]
  rfl

end

section
/-! ## R136 to R145: the configuration of a region -/

namespace Sys2Proof.Machine

/-- A relation that every step of a fold keeps holds from its start to its end. -/
theorem foldl_rel {α β : Type} {R : α → α → Prop} (hr : ∀ s, R s s) (ht : ∀ {a b c}, R a b → R b c → R a c) {f : α → β → α}
    (hf : ∀ s x, R s (f s x)) (l : List β) (s : α) : R s (l.foldl f s) := by
  induction l generalizing s with
  | nil => exact hr s
  | cons x xs ih => exact ht (hf s x) (ih _)

/-! ### Traces of configurations and pre-emptions -/

section
variable {s t u : State}

theorem State.dayOnly_traceConfig (s : State) (event ctx : Nat) (img : Word) : DayOnly s (s.traceConfig s.focus event ctx img) :=
  State.traceConfig_day ..

theorem State.dayOnly_tracePreempt (s : State) (kind : Nat) (snap : BitVec 32) : DayOnly s (s.tracePreempt s.focus kind snap) := by
  unfold State.tracePreempt
  split
  · exact .inr (State.packet_day ..)
  · exact .inl rfl

theorem DayOnly.x (h : DayOnly s u) (r : Reg) : u.x r = s.x r := by
  obtain ⟨d, hd⟩ := h.cur
  unfold State.x
  rw [hd]
  rfl

theorem DayOnly.cfgs (h : DayOnly s u) : u.cur.cfgs = s.cur.cfgs := by
  obtain ⟨d, hd⟩ := h.cur
  rw [hd]

/-- A Lantern that has changed and has been traced has changed once. -/
theorem DayOnly.modCur {f : Lantern → Lantern} (h : DayOnly (s.modCur f) u) : ∃ d, u = s.modCur fun l => { f l with day := d } := by
  rcases h with rfl | ⟨d, rfl⟩
  · exact ⟨(f s.cur).day, State.modLan_congr _ _ _ _ rfl⟩
  · exact ⟨d, State.modLan_modLan ..⟩

/-! ### What a load of an image writes -/

/-- From `s` to `t` only elements and ports have changed. -/
def OnlyFabric (s t : State) : Prop := t = { s with elems := t.elems, ports := t.ports }

theorem OnlyFabric.refl (s : State) : OnlyFabric s s := rfl

theorem OnlyFabric.trans (h : OnlyFabric s t) (g : OnlyFabric t u) : OnlyFabric s u := by
  unfold OnlyFabric at *
  rw [g, h]

theorem OnlyFabric.fold {β : Type} {f : State → β → State} (hf : ∀ s x, OnlyFabric s (f s x)) (l : List β) (s : State) :
    OnlyFabric s (l.foldl f s) := foldl_rel OnlyFabric.refl OnlyFabric.trans hf l s

theorem State.onlyFabric_loadImage (s : State) (lead c : Nat) (im : Image) : OnlyFabric s (s.loadImage lead c im) := by
  have hctx := OnlyFabric.fold (f := fun t el => t.loadCtx c im.quota (s.imageChans lead im) el) (fun _ _ => rfl)
  have hslot := OnlyFabric.fold (f := fun s r => s.loadSlot lead c r) fun _ _ => rfl
  have hhold := OnlyFabric.fold (f := fun s r => s.loadHold lead c r) fun _ _ => rfl
  have hctrl := OnlyFabric.fold (f := fun s r => s.loadCtrl lead c r) fun _ _ => rfl
  have hext : ∀ s : State, OnlyFabric s (s.loadExtents lead) := fun _ => rfl
  have hstream := OnlyFabric.fold (f := fun t r => t.loadStream lead c (s.imageChans lead im) r) fun _ _ => rfl
  exact (((((hctx _ _).trans (hslot _ _)).trans (hhold _ _)).trans (hctrl _ _)).trans (hext _)).trans (hstream _ _)

/-! ### What arming a configuration writes -/

/-- From `s` to `t` elements, ports and the tag spaces of Lanterns have changed. -/
def OnlySpaces (s t : State) : Prop :=
  { t with elems := s.elems, ports := s.ports, lans := s.lans } = s ∧
    ∀ j, t.lan j = { s.lan j with spaces := (t.lan j).spaces }

theorem OnlySpaces.refl (s : State) : OnlySpaces s s := ⟨rfl, fun _ => rfl⟩

theorem OnlySpaces.trans (h : OnlySpaces s t) (g : OnlySpaces t u) : OnlySpaces s u := by
  obtain ⟨h1, h2⟩ := h
  obtain ⟨g1, g2⟩ := g
  refine ⟨?_, fun j => ?_⟩
  · rw [← g1] at h1
    exact h1
  · rw [g2, h2]

theorem OnlySpaces.fold {β : Type} {f : State → β → State} (hf : ∀ s x, OnlySpaces s (f s x)) (l : List β) (s : State) :
    OnlySpaces s (l.foldl f s) := foldl_rel OnlySpaces.refl OnlySpaces.trans hf l s

theorem State.onlySpaces_setSpace (s : State) (lead key : Nat) (e : SpaceEntry) : OnlySpaces s (s.setSpace lead key e) := by
  refine ⟨rfl, fun j => ?_⟩
  unfold State.setSpace
  by_cases hj : j = lead
  · rw [hj, State.lan_modLan_self]
  · rw [State.lan_modLan_ne _ _ hj]

theorem OnlySpaces.focus (h : OnlySpaces s t) : t.focus = s.focus := by
  obtain ⟨h1, -⟩ := h
  rw [← h1]

theorem OnlySpaces.mem (h : OnlySpaces s t) : t.mem = s.mem := by
  obtain ⟨h1, -⟩ := h
  rw [← h1]

theorem OnlySpaces.cfgs (h : OnlySpaces s t) (j : Nat) : (t.lan j).cfgs = (s.lan j).cfgs := by rw [h.2]

theorem OnlySpaces.fpflags (h : OnlySpaces s t) (j : Nat) : (t.lan j).fpflags = (s.lan j).fpflags := by rw [h.2]

theorem OnlySpaces.reg (h : OnlySpaces s t) (j : Nat) (r : Reg) : (t.lan j).reg r = (s.lan j).reg r := by
  rw [h.2]
  rfl

/-- What CFGGO does before it marks its entry. -/
def State.armed (s : State) (lead : Nat) (x : CfgEntry) : State :=
  ((s.armEls x.ctx ((s.lan lead).fpmode.extractLsb' 0 2) (s.imageEls lead x.img)).openDeclared lead x.ctx x.img.spaces).startStreams
    lead x.ctx x.img.streams

theorem State.onlySpaces_armed (s : State) (lead : Nat) (x : CfgEntry) : OnlySpaces s (s.armed lead x) := by
  refine ((OnlySpaces.fold (fun _ _ => ?_) _ _).trans (OnlySpaces.fold (fun _ _ => ?_) _ _)).trans (OnlySpaces.fold (fun _ _ => ?_) _ _)
  · exact ⟨rfl, fun _ => rfl⟩
  · exact State.onlySpaces_setSpace ..
  · exact ⟨rfl, fun _ => rfl⟩

theorem State.armCfg_eq (s : State) (lead : Nat) (x : CfgEntry) :
    s.armCfg lead x = (s.armed lead x).modLan lead fun l =>
      { l with cfgs := l.cfgs.map fun y => if y.addr = x.addr then { y with armed := true } else y } := rfl

/-! ### CFGLD -/

variable {ra : Reg} {raw : RawImage} {c : Nat}

theorem State.cfgld_full (hal : (s.x ra).toNat % 64 = 0) (h : 8 ≤ s.cur.cfgs.length ∨ ∃ x ∈ s.cur.cfgs, x.addr = s.x ra) :
    s.cfgld (s.x ra) = s.cfgbad 0xFFFFFFFFFFFFFFFF#64 := by
  unfold State.cfgld
  rw [if_neg (by omega), if_pos, show (0#64 - 1#64 : Word) = 0xFFFFFFFFFFFFFFFF#64 from by decide]
  · simpa only [List.any_eq_true, decide_eq_true_iff] using h

/-- CFGLD once its image has been read, by the lowest offset at which a check of it fails. -/
def State.cfgldFate (u : State) (va : Word) (raw : RawImage) (fails : Option Nat) : State :=
  fails.elim (if (u.imageEls u.focus raw.image).any fun el => u.spareHeld.contains el then u else u.cfgPlace va raw.image)
    fun off => u.cfgbad (BitVec.ofNat 64 off)

theorem State.cfgld_read (hal : (s.x ra).toNat % 64 = 0) (hlen : s.cur.cfgs.length < 8) (hne : ∀ x ∈ s.cur.cfgs, x.addr ≠ s.x ra)
    (hr : (s.performLoads s.focus).readImage (s.x ra) = .ok raw u) :
    s.cfgld (s.x ra) = u.cfgldFate (s.x ra) raw (lowestOf (u.imageFails raw)) := by
  unfold State.cfgld
  rw [if_neg (by omega), if_neg, hr]
  · unfold Vis.finish State.cfgldFate
    dsimp only
    cases lowestOf (u.imageFails raw) <;> rfl
  · simpa only [List.any_eq_true, decide_eq_true_iff, not_or, Nat.not_le, not_exists, not_and] using And.intro hlen hne

/-- The element tests of an image that passes: none is held by a spare row's move, and none is covered by an array. -/
theorem any_contains_false {xs ys : List Nat} (h : ∀ x ∈ xs, x ∉ ys) : (xs.any fun x => ys.contains x) = false := by
  simpa only [List.any_eq_false, List.contains_iff_mem] using h

theorem State.cfgPlace_array {va : Word} {im : Image} (h : ∃ el ∈ u.imageEls u.focus im, (u.arrayAt el).isSome = true) :
    u.cfgPlace va im = u.cfgbad 0xFFFFFFFFFFFFFFFD#64 := if_pos (List.any_eq_true.2 h)

/-- CFGLD beyond the arrays: the context and what holds it. -/
theorem State.cfgPlace_free {va : Word} {im : Image} (h : ∀ el ∈ u.imageEls u.focus im, u.arrayAt el = none) :
    u.cfgPlace va im =
      match u.cur.pickCtx im.ctx with
      | none => u
      | some c =>
        if (u.cur.cfgs.filter fun x => decide (x.ctx = c) && !x.done).any fun x => !x.armed then u.cfgbad 0xFFFFFFFFFFFFFFFE#64
        else if !(u.cur.cfgs.filter fun x => decide (x.ctx = c) && !x.done).isEmpty || u.thirdCtx u.focus c im then u
        else
          (((u.loadImage u.focus c im).modCur fun l => { l with cfgs := l.cfgs ++
            [{ addr := va, ctx := c, armed := false, done := false, flags := 0#5, img := { im with ctx := c } }] }).retire 1).traceConfig
              u.focus 0 c va := by
  refine (if_neg ?_).trans rfl
  rw [List.any_eq_true]
  rintro ⟨el, hel, hsome⟩
  rw [h el hel] at hsome
  exact Bool.false_ne_true hsome

theorem loaded_unarmed {cfgs : List CfgEntry} (h : ∃ x ∈ cfgs, x.ctx = c ∧ x.done = false ∧ x.armed = false) :
    ((cfgs.filter fun x => decide (x.ctx = c) && !x.done).any fun x => !x.armed) = true := by
  obtain ⟨x, hx, hc, hd, ha⟩ := h
  simp only [List.any_eq_true, List.mem_filter, Bool.and_eq_true, decide_eq_true_iff, Bool.not_eq_true']
  exact ⟨x, ⟨hx, hc, hd⟩, ha⟩

theorem loaded_armed {cfgs : List CfgEntry} (h : ∀ x ∈ cfgs, x.ctx = c → x.done = false → x.armed = true) :
    ¬ ((cfgs.filter fun x => decide (x.ctx = c) && !x.done).any fun x => !x.armed) = true := by
  simp only [List.any_eq_true, List.mem_filter, Bool.and_eq_true, decide_eq_true_iff, Bool.not_eq_true', not_exists, not_and]
  rintro x ⟨hx, hc, hd⟩
  rw [h x hx hc hd]
  exact Bool.noConfusion

theorem running_nonempty {cfgs : List CfgEntry} (h : ∃ x ∈ cfgs, x.ctx = c ∧ x.done = false) :
    (cfgs.filter fun x => decide (x.ctx = c) && !x.done).isEmpty = false := by
  obtain ⟨x, hx, hc, hd⟩ := h
  rw [List.isEmpty_eq_false_iff_exists_mem]
  exact ⟨x, List.mem_filter.2 ⟨hx, by simp [hc, hd]⟩⟩

theorem running_empty {cfgs : List CfgEntry} (h : ∀ x ∈ cfgs, x.ctx = c → x.done = true) :
    (cfgs.filter fun x => decide (x.ctx = c) && !x.done) = [] := by
  rw [List.filter_eq_nil_iff]
  intro x hx
  simp only [Bool.and_eq_true, decide_eq_true_iff, Bool.not_eq_true', not_and, Bool.not_eq_false]
  exact h x hx

end

end Sys2Proof.Machine
end

section

open Sys2Proof Sys2Proof.Machine

/-- Settles O16. -/
theorem configurationLoads : Obligations.ConfigurationLoads := by
  intro s ra
  refine ⟨fun h => trap_of rfl (if_pos h), fun hal h => trap_of rfl (State.cfgld_full hal h), ?_⟩
  intro hal hlen hne raw u hr
  have hread := State.cfgld_read hal hlen hne hr
  refine ⟨fun off hoff => ?fails, fun hok hheld => ?held, fun hok hfree => ?passes⟩
  case fails =>
    rw [hoff] at hread
    exact trap_of rfl hread
  case held =>
    rw [hok] at hread
    refine is_of rfl (hread.trans (if_pos ?_))
    simpa only [List.any_eq_true, List.contains_iff_mem] using hheld
  rw [hok] at hread
  unfold State.cfgldFate at hread
  rw [any_contains_false hfree, if_neg Bool.false_ne_true] at hread
  refine ⟨fun harr => ?array, fun harr hpick => ?noCtx, fun harr c hpick => ⟨fun hun => ?unarmed, fun hrun harm => ?running,
    fun hdone h3 => ?third, fun hdone h3 => ?loads⟩⟩
  case array => exact trap_of rfl (hread.trans (State.cfgPlace_array harr))
  all_goals
    have hplace := hread.trans (State.cfgPlace_free harr)
    rw [hpick] at hplace
    dsimp only at hplace
  case noCtx => exact is_of rfl hplace
  case unarmed =>
    rw [loaded_unarmed hun, if_pos rfl] at hplace
    exact trap_of rfl hplace
  case running =>
    rw [if_neg (loaded_armed harm), running_nonempty hrun] at hplace
    exact is_of rfl hplace
  case third =>
    rw [if_neg (loaded_armed fun x hx hc hd => absurd (hdone x hx hc) (by simp [hd])), h3, Bool.or_true, if_pos rfl] at hplace
    exact is_of rfl hplace
  case loads =>
    rw [if_neg (loaded_armed fun x hx hc hd => absurd (hdone x hx hc) (by simp [hd])), running_empty hdone, h3] at hplace
    have hfab := State.onlyFabric_loadImage u u.focus c raw.image
    generalize u.loadImage u.focus c raw.image = v at hfab hplace ⊢
    have hfocus : v.focus = u.focus := by rw [hfab]
    have hcur : v.cur = u.cur := by rw [hfab]; rfl
    unfold State.retire at hplace
    rw [if_neg (by decide), State.modCur_modCur, ← hfocus] at hplace
    obtain ⟨d, hd⟩ := (State.dayOnly_traceConfig (v.modCur fun l => Lantern.advance { l with cfgs := l.cfgs ++
      [{ addr := s.x ra, ctx := c, armed := false, done := false, flags := 0#5, img := { raw.image with ctx := c } }] } 1) 0 c
      (s.x ra)).modCur
    refine ends_congr (i := .cfgld ra) rfl (hplace.trans hd) ⟨?_, fun r => ?_, ?_, ?_, ?_, ?_⟩
    · rw [State.cur_modCur, hcur]
      rfl
    · unfold State.x
      rw [State.cur_modCur, hcur]
      rfl
    · rw [State.cur_modCur, hcur]
      rfl
    all_goals rw [hfab]; rfl

end

section
/-! ## R137, R138, R140: CFGGO, CFGWT, CFGST and the completion of a configuration -/

namespace Sys2Proof.Machine

section
variable {s t u : State} {x : CfgEntry} {va : Word}

theorem Lantern.cfg?_none {l : Lantern} (h : ∀ x ∈ l.cfgs, x.addr ≠ va) : l.cfg? va = none := by
  unfold Lantern.cfg?
  rw [List.find?_eq_none]
  simpa only [decide_eq_true_iff] using h

theorem Lantern.addr_of_cfg? {l : Lantern} (h : l.cfg? va = some x) : x.addr = va := by
  have := List.find?_some h
  simpa only [decide_eq_true_iff] using this

theorem Lantern.mem_of_cfg? {l : Lantern} (h : l.cfg? va = some x) : x ∈ l.cfgs := List.mem_of_find?_eq_some h

/-- The entries once those at an address are armed. -/
def armAt (va : Word) (cfgs : List CfgEntry) : List CfgEntry := cfgs.map fun y => if y.addr = va then { y with armed := true } else y

theorem armed_of_mem_armAt {cfgs : List CfgEntry} {y : CfgEntry} (h : y ∈ armAt va cfgs) (ha : y.addr = va) : y.armed = true := by
  obtain ⟨z, -, hz⟩ := List.mem_map.1 h
  split at hz
  · rw [← hz]
  · rename_i hne
    rw [hz] at hne
    exact absurd ha hne

theorem State.cfggo_armed (h : ∀ x ∈ s.cur.cfgs, x.addr = va → x.armed = true) : s.cfggo va = s.cfgbad va := by
  unfold State.cfggo
  cases hf : s.cur.cfg? va with
  | none => rfl
  | some x => exact if_pos (h x (Lantern.mem_of_cfg? hf) (Lantern.addr_of_cfg? hf))

theorem State.cfggo_unarmed (hf : s.cur.cfg? va = some x) (ha : x.armed = false) :
    s.cfggo va = ((s.armCfg s.focus x).retire 1).traceConfig s.focus 1 x.ctx va := by
  unfold State.cfggo
  rw [hf]
  exact if_neg (by simp [ha])

/-- CFGGO arms its entry, and takes the elements, the spaces and the ports of its configuration with it. -/
theorem State.cfggo_eq (hf : s.cur.cfg? va = some x) (ha : x.armed = false) :
    ∃ (u : State) (d : Day), OnlySpaces s u ∧ u.focus = s.focus ∧
      s.cfggo va = u.modCur fun l => { ({ l with cfgs := armAt va l.cfgs } : Lantern).advance 1 with day := d } := by
  have hsp := State.onlySpaces_armed s s.focus x
  have hgo := State.cfggo_unarmed hf ha
  rw [State.armCfg_eq, Lantern.addr_of_cfg? hf] at hgo
  generalize s.armed s.focus x = v at hsp hgo
  have hfocus := hsp.focus
  unfold State.retire at hgo
  rw [← hfocus] at hgo
  have hgo' := hgo.trans (congrArg (State.traceConfig · v.focus 1 x.ctx va) (State.modCur_modCur v _ _))
  obtain ⟨d, hd⟩ := (State.dayOnly_traceConfig (v.modCur fun l => ({ l with cfgs := armAt va l.cfgs } : Lantern).advance 1) 1 x.ctx va).modCur
  exact ⟨v, d, hsp, hfocus, hgo'.trans hd⟩

theorem State.cfgwt_bad (h : ∀ x, s.cur.cfg? va = some x → x.armed = false) : s.cfgwt va = s.cfgbad va := by
  unfold State.cfgwt
  cases hf : s.cur.cfg? va with
  | none => rfl
  | some x => exact if_pos (by simp [h x hf])

theorem State.cfgwt_armed (hf : s.cur.cfg? va = some x) (ha : x.armed = true) :
    s.cfgwt va = if x.done then
      ((s.modCur fun l => { l with cfgs := l.cfgs.filter fun y => decide (y.addr ≠ va) }).retire 1).traceConfig s.focus 2 x.ctx va
    else s := by
  unfold State.cfgwt
  rw [hf]
  exact if_neg (by simp [ha])

/-! ### CFGST -/

/-- The bits of a CFGST word below ITER: a place of three bits for CTX over four flags. -/
theorem cfgWord_bits {n ctx : Nat} (hn : n < 2 ^ 32) (hc : ctx < 8) (f d a : Bool) :
    let v : Word := BitVec.ofNat 64 (n * 2 ^ 32 + ctx * 16 + (if f then 8 else 0) + (if d then 4 else 0) + (if a then 2 else 0) + 1)
    v.getLsbD 0 = true ∧ v.getLsbD 1 = a ∧ v.getLsbD 2 = d ∧ v.getLsbD 3 = f ∧ (v.extractLsb' 4 3).toNat = ctx ∧
      v.extractLsb' 7 25 = 0#25 ∧ (v.extractLsb' 32 32).toNat = n := by
  intro v
  have hv : v.toNat = n * 2 ^ 32 + ctx * 16 + (if f then 8 else 0) + (if d then 4 else 0) + (if a then 2 else 0) + 1 := by
    refine (BitVec.toNat_ofNat ..).trans (Nat.mod_eq_of_lt ?_)
    cases f <;> cases d <;> cases a <;> simp <;> omega
  have hbit : ∀ i (b : Bool), v.toNat / 2 ^ i % 2 = (if b then 1 else 0) → v.getLsbD i = b := by
    intro i b h
    rw [BitVec.getLsbD, Nat.testBit_eq_decide_div_mod_eq, h]
    cases b <;> rfl
  have hext : ∀ i m, (v.extractLsb' i m).toNat = v.toNat / 2 ^ i % 2 ^ m := by
    intro i m
    rw [BitVec.extractLsb'_toNat, Nat.shiftRight_eq_div_pow]
  refine ⟨hbit 0 _ ?_, hbit 1 _ ?_, hbit 2 _ ?_, hbit 3 _ ?_, ?_, BitVec.eq_of_toNat_eq ?_, ?_⟩
  · rw [hv]
    cases f <;> cases d <;> cases a <;> simp <;> omega
  · rw [hv]
    cases f <;> cases d <;> cases a <;> simp <;> omega
  · rw [hv]
    cases f <;> cases d <;> cases a <;> simp <;> omega
  · rw [hv]
    cases f <;> cases d <;> cases a <;> simp <;> omega
  · rw [hext, hv]
    cases f <;> cases d <;> cases a <;> simp <;> omega
  · rw [hext, hv]
    cases f <;> cases d <;> cases a <;> simp <;> omega
  · rw [hext, hv]
    cases f <;> cases d <;> cases a <;> simp <;> omega

/-! ### CONFIG_COMPLETE -/

/-- The entry of a configuration that has completed. -/
def CfgEntry.completed (y : CfgEntry) (iters : Nat) : CfgEntry :=
  { y with done := true, flags := 0#5, img := { y.img with iters := iters } }

theorem State.configComplete_waits {lan idx : Nat} (hx : (s.lan lan).cfgs[idx]? = some x) (h : s.cfgDone lan x = false) :
    s.configComplete lan idx = s := by
  unfold State.configComplete
  rw [hx]
  exact if_pos (by simp [h])

theorem State.configComplete_done {lan idx : Nat} {y : CfgEntry} (hx : (s.lan lan).cfgs[idx]? = some x) (hd : x.done = false)
    (h : s.cfgDone lan x = true) (hu : (s.ctxElems lan x.ctx).foldl (fun s el => s.switchCtx el x.ctx) s = u)
    (hy : (u.lan lan).cfgs[idx]? = some y) :
    s.configComplete lan idx =
      ((((u.accrue lan y.flags).closeDeclared lan x.ctx x.img.spaces).modLan lan fun l =>
        { l with cfgs := l.cfgs.mapIdx fun i z => if i = idx then z.completed (s.iterOf lan x) else z }).renewChans lan) := by
  unfold State.configComplete
  rw [hx]
  dsimp only
  rw [if_neg (by simp [h, hd]), hu, hy]
  rfl

theorem State.onlySpaces_closeDeclared (s : State) (lead c : Nat) (sp : List (Nat × Nat)) :
    OnlySpaces s (s.closeDeclared lead c sp) := OnlySpaces.fold (fun _ _ => State.onlySpaces_setSpace ..) _ _

theorem State.closeDeclared_eq (s : State) (lead c : Nat) (sp : List (Nat × Nat)) :
    s.closeDeclared lead c sp = { s with lans := (s.closeDeclared lead c sp).lans } :=
  foldl_rel (R := fun s t : State => t = { s with lans := t.lans }) (fun _ => rfl) (fun h g => by rw [g, h]) (fun _ _ => rfl) _ _

end

end Sys2Proof.Machine
end

section

open Sys2Proof Sys2Proof.Machine

/-- Settles O17. -/
theorem configurationUses : Obligations.ConfigurationUses := by
  refine ⟨fun s ra => ⟨fun h => trap_of rfl (State.cfggo_armed h), fun x hf ha => ?go⟩,
    fun s ra => ⟨fun h => ?absent, fun x hf => ⟨fun ha => ?unarmed, fun ha hd => ?waits, fun ha hd => ?drops⟩⟩,
    fun s rd ra => ⟨fun h => ?none, fun x hf hc => ?reports⟩⟩
  case go =>
    obtain ⟨u, d, hsp, hfocus, hgo⟩ := State.cfggo_eq hf ha
    have hcur : u.cur = u.lan s.focus := by rw [← hfocus]; rfl
    refine ends_congr (i := .cfggo ra) rfl hgo ⟨?_, ?_, fun r => ?_, ?_, hsp.mem, hsp.1⟩
    · rw [State.cur_modCur]
      exact fun y hy => armed_of_mem_armAt hy
    · rw [State.cur_modCur]
      exact (List.length_map _).trans (by rw [hcur, hsp.cfgs]; rfl)
    · refine (congrArg (Lantern.reg · r) (State.cur_modCur ..)).trans ?_
      exact (congrArg (Lantern.reg · r) hcur).trans (hsp.reg s.focus r)
    · rw [State.cur_modCur, hcur, hsp.2]
      rfl
  case absent =>
    refine trap_of rfl (State.cfgwt_bad fun x hf => ?_)
    exact (h x (Lantern.mem_of_cfg? hf) (Lantern.addr_of_cfg? hf)).elim
  case unarmed =>
    refine trap_of rfl (State.cfgwt_bad fun y hy => ?_)
    rw [hf] at hy
    cases hy
    exact ha
  case waits => exact is_of rfl ((State.cfgwt_armed hf ha).trans (if_neg (by simp [hd])))
  case drops =>
    have hgo := (State.cfgwt_armed hf ha).trans (if_pos hd)
    unfold State.retire at hgo
    rw [State.modCur_modCur] at hgo
    obtain ⟨d, hday⟩ := (State.dayOnly_traceConfig (s.modCur fun l =>
      ({ l with cfgs := l.cfgs.filter fun y => decide (y.addr ≠ s.x ra) } : Lantern).advance 1) 2 x.ctx (s.x ra)).modCur
    refine ends_congr (i := .cfgwt ra) rfl (hgo.trans hday) ⟨State.onlyLan_modCur .., ?_, fun r => ?_, ?_⟩
    · rw [State.cur_modCur]
      rfl
    · unfold State.x
      rw [State.cur_modCur]
      rfl
    · rw [State.cur_modCur]
      rfl
  case none =>
    refine wrote_of rfl ?_
    unfold State.cfgst
    rw [Lantern.cfg?_none h]
  case reports =>
    have hgo : s.cfgst rd (s.x ra) = s.retireReg rd (s.cfgState s.focus x) 1 := by
      unfold State.cfgst
      rw [hf]
    obtain ⟨h0, h1, h2, h3, h4, h7, h32⟩ := cfgWord_bits
      (n := min (if x.done then x.img.iters else if x.armed then s.iterOf s.focus x else 0) (2 ^ 32 - 1)) (by omega) hc
      (x.armed && !x.done && s.cfgFault s.focus x.ctx) x.done x.armed
    refine ends_congr (i := .cfgst rd ra) rfl hgo ⟨_, State.wrote_retireReg .., h0, h1, h2, h3, h4, h7, fun ha hd => h32.trans ?_⟩
    rw [ha, hd]
    rfl

/-- Settles O18. -/
theorem configurationCompletes : Obligations.ConfigurationCompletes := by
  intro s lan idx x hx hd
  refine ⟨fun h => is_of rfl (State.configComplete_waits hx h), fun h u hu y hy => ?_⟩
  have hsp := State.onlySpaces_closeDeclared (u.accrue lan y.flags) lan x.ctx x.img.spaces
  have hlans := State.closeDeclared_eq (u.accrue lan y.flags) lan x.ctx x.img.spaces
  have hgo := State.configComplete_done hx hd h hu hy
  generalize (u.accrue lan y.flags).closeDeclared lan x.ctx x.img.spaces = v at hsp hlans hgo
  have hcfgs : (v.lan lan).cfgs = (u.lan lan).cfgs := (hsp.cfgs lan).trans (by unfold State.accrue; rw [State.lan_modLan_self])
  have hlan := State.lan_modLan_self v lan fun l =>
    { l with cfgs := l.cfgs.mapIdx fun i z => if i = idx then z.completed (s.iterOf lan x) else z }
  have hren : ∀ w : Machine.State, (w.renewChans lan).lan lan = w.lan lan := fun _ => rfl
  refine ends_congr (i := .configComplete lan idx) rfl hgo ⟨?_, fun i hi => ?_, ?_, fun r => ?_, hsp.mem, ?_⟩
  · rw [hren, hlan]
    dsimp only
    rw [List.getElem?_mapIdx, hcfgs, hy]
    exact congrArg some (if_pos rfl)
  · rw [hren, hlan]
    dsimp only
    rw [List.getElem?_mapIdx, hcfgs]
    simp [hi]
  · rw [hren, hlan]
    exact (hsp.fpflags lan).trans (by unfold State.accrue; rw [State.lan_modLan_self])
  · rw [hren]
    refine (congrArg (Lantern.reg · r) hlan).trans ((hsp.reg lan r).trans ?_)
    unfold State.accrue
    rw [State.lan_modLan_self]
    rfl
  · rw [hlans]
    rfl

end

section
/-! ## R142 to R145, R372: PRE and RSM -/

namespace Sys2Proof.Machine

section
variable {s t u v w : State}

/-! ### PRE -/

section
variable {marker : Bool} {rd ra : Reg}

theorem State.pre_busy (hal : (s.x ra).toNat % 4096 = 0) (hq : s.ownQuiet s.focus = false) : s.pre marker rd ra = s := by
  unfold State.pre
  dsimp only
  rw [if_neg (by omega), if_pos (by simp [hq])]

theorem State.pre_stops (hal : (s.x ra).toNat % 4096 = 0) (hq : s.ownQuiet s.focus = true)
    (hr : (s.beginPre s.focus marker).preReady s.focus marker = false) : s.pre marker rd ra = s.beginPre s.focus marker := by
  unfold State.pre
  dsimp only
  rw [if_neg (by omega), if_neg (by simp [hq]), if_pos (by simp [hr])]

/-- A region that may be saved: the area is built and written, and the region let go. -/
theorem State.pre_saves {a : Saved} {bs : List Byte} (hal : (s.x ra).toNat % 4096 = 0) (hq : s.ownQuiet s.focus = true)
    (hu : u = ((s.beginPre s.focus marker).accrueCtxs s.focus).mxAccrue s.focus)
    (hr : (s.beginPre s.focus marker).preReady s.focus marker = true)
    (hb : u.buildArea s.focus marker (afterParcels u.cur.pc 1) rd none = (a, bs)) (hw : u.writeVirt (s.x ra) bs 1 = .ok () v) :
    ∃ kind snap, s.pre marker rd ra =
      (((v.keepArea a).releaseSaved s.focus).retireReg rd (BitVec.ofNat 64 bs.length) 1).tracePreempt s.focus kind snap := by
  refine ⟨if marker then 1 else 0, if marker then v.cur.snapNo else 0#32, ?_⟩
  unfold State.pre
  dsimp only
  rw [if_neg (by omega), if_neg (by simp [hq]), if_neg (by simp [hr]), ← hu, hb]
  dsimp only
  rw [hw]
  rfl

theorem State.buildArea_bytes {a : Saved} {bs : List Byte} {k : Nat} {pc : Word} {ls : Option (List Word)}
    (h : u.buildArea k marker pc rd ls = (a, bs)) : bs = a.hdr ++ bodyBytes u.saves.length a.body := by
  obtain ⟨rfl, rfl⟩ := Prod.mk.inj h
  rfl

end

/-! ### RSM: what a restored area leaves of its Lantern -/

/-- The parts of a Lantern that RSM takes from an area and that nothing later in it changes. -/
def Lantern.code (l : Lantern) : Word × Tab Word × Word × List CfgEntry × List WaitEnt := (l.pc, l.regs, l.fpmode, l.cfgs, l.waits)

/-- From `s` to `t` the turn, and the program, registers, configurations and wait tables of Lanterns, are as they were. -/
def SameCode (s t : State) : Prop := t.focus = s.focus ∧ ∀ j, (t.lan j).code = (s.lan j).code

theorem SameCode.refl (s : State) : SameCode s s := ⟨rfl, fun _ => rfl⟩

theorem SameCode.trans (h : SameCode s t) (g : SameCode t u) : SameCode s u := ⟨g.1.trans h.1, fun j => (g.2 j).trans (h.2 j)⟩

theorem SameCode.fold {β : Type} {f : State → β → State} (hf : ∀ s x, SameCode s (f s x)) (l : List β) (s : State) :
    SameCode s (l.foldl f s) := foldl_rel SameCode.refl SameCode.trans hf l s

/-- Nothing of a Lantern has changed. -/
theorem SameCode.of_lans (hf : t.focus = s.focus) (h : t.lans = s.lans) : SameCode s t :=
  ⟨hf, fun j => by unfold State.lan; rw [h]⟩

theorem SameCode.of_modLan (k : Nat) {f : Lantern → Lantern} (h : ∀ l, (f l).code = l.code) : SameCode s (s.modLan k f) := by
  refine ⟨rfl, fun j => ?_⟩
  by_cases hj : j = k
  · rw [hj, State.lan_modLan_self, h]
  · rw [State.lan_modLan_ne _ _ hj]

theorem SameCode.of_emitted {el : Nat} (h : Emitted el s t) : SameCode s t := by
  obtain ⟨h1, -, h3, -⟩ := h
  refine ⟨by rw [← h1], fun j => ?_⟩
  rw [← h3 j]
  rfl

variable (s)

theorem State.sameCode_putElems (m : Reloc) (v : Saved) : SameCode s (s.putElems m v) := by
  refine ((SameCode.fold (fun s e => ?els) _ _).trans (SameCode.fold (fun s x => ?ovfl) _ _)).trans (SameCode.fold (fun s c => ?chans) _ _)
  case els => exact SameCode.of_lans rfl rfl
  case ovfl => exact SameCode.of_modLan _ fun _ => rfl
  case chans =>
    refine SameCode.fold (fun s a => ?_) _ _
    exact SameCode.of_lans rfl rfl

theorem State.sameCode_putPorts (m : Reloc) (lead : Nat) (ps : Tab Port) : SameCode s (s.putPorts m lead ps) := by
  unfold State.putPorts
  refine SameCode.fold (fun s p => ?_) _ _
  dsimp only
  split <;> exact SameCode.of_lans rfl rfl

/-- Windows are put back one by one, each into its tile. -/
theorem State.sameCode_putWins (m : Reloc) (ws : List (Nat × Nat × Win × List VEnt)) : ∀ t ∈ s.putWins m ws, SameCode s t := by
  unfold State.putWins
  have hstep : ∀ (ws : List (Nat × Nat × Win × List VEnt)) (acc : Option State), (∀ t ∈ acc, SameCode s t) →
      ∀ t ∈ ws.foldl (fun acc w => acc.bind fun s =>
        ((s.tile (m.tile w.1)).putWin m w.2.1 w.2.2.1 w.2.2.2).map fun x => s.modTile (m.tile w.1) fun _ => x) acc, SameCode s t := by
    intro ws
    induction ws with
    | nil => exact fun acc h => h
    | cons w ws ih =>
      refine fun acc h => ih _ fun t ht => ?_
      obtain ⟨r, hr, x, -, rfl⟩ : ∃ r, r ∈ acc ∧ ∃ x, (r.tile (m.tile w.1)).putWin m w.2.1 w.2.2.1 w.2.2.2 = some x ∧
          r.modTile (m.tile w.1) (fun _ => x) = t := by
        simpa [Option.bind_eq_some_iff] using ht
      exact (h r hr).trans (SameCode.of_lans rfl rfl)
  exact hstep ws (some s) fun t ht => by cases ht; exact SameCode.refl s

theorem State.sameCode_reservePorts (lead : Nat) (on : Bool) : SameCode s (s.reservePorts lead on) := by
  refine SameCode.fold (fun _ _ => ?_) _ _
  exact SameCode.of_lans rfl rfl

theorem State.sameCode_arbDue (die : Nat) : SameCode s (s.arbDue die) := SameCode.of_lans rfl rfl

theorem State.sameCode_level (lead : Nat) : SameCode s (s.modLan lead fun l =>
    { l with mx := l.mx.map fun a =>
        { a with run := a.run.map fun r => { r with waiting := true, since := s.tick, level := l.mxPrio } } }) :=
  SameCode.of_modLan lead fun _ => rfl

theorem Lantern.code_block (l : Lantern) (r : Reg) : (l.block r).code = l.code := by
  unfold Lantern.block
  split <;> rfl

theorem State.sameCode_putMx (lead : Nat) (v : SavedMx) : SameCode s (s.putMx lead v) := by
  have hon : SameCode s (s.mxTurnOn lead (shapeWord v.row0 v.col0 v.r v.c)) :=
    (SameCode.of_modLan (s := s) lead (f := fun l => { l with mx := some (Array2.fresh (shapeWord v.row0 v.col0 v.r v.c)), mxPrio := 0 })
      fun _ => rfl).trans (State.sameCode_reservePorts ..)
  unfold State.putMx
  dsimp only
  generalize s.mxTurnOn lead (shapeWord v.row0 v.col0 v.r v.c) = u at hon
  refine hon.trans ?_
  cases v.run.map MxRun.rest with
  | none => exact SameCode.of_modLan lead fun _ => rfl
  | some r =>
    refine SameCode.trans ?_ (SameCode.of_modLan lead fun l => l.code_block r.rd)
    refine SameCode.trans ?_ (State.sameCode_arbDue _ _)
    refine SameCode.trans ?_ (State.sameCode_level _ _)
    exact SameCode.of_modLan lead fun _ => rfl

/-- The Lantern of a restored area goes on at `pc` with the area's registers, configurations and wait table. -/
theorem State.restore_code (lead : Nat) (v : Saved) (pc : Word) :
    (s.restore lead v pc).focus = s.focus ∧
      ((s.restore lead v pc).lan lead).code = (pc, v.regs, v.fpmode, v.cfgs, v.waits) := by
  unfold State.restore
  dsimp only
  generalize hlan : State.modLan (s.putLocal lead v) lead _ = u
  have hcode : u.focus = s.focus ∧ (u.lan lead).code = (pc, v.regs, v.fpmode, v.cfgs, v.waits) := by
    rw [← hlan]
    refine ⟨rfl, ?_⟩
    rw [State.lan_modLan_self]
    split <;> rfl
  have hports := (u.sameCode_putElems (s.relocOf v lead) v).trans (State.sameCode_putPorts _ (s.relocOf v lead) lead v.ports)
  generalize (u.putElems (s.relocOf v lead) v).putPorts (s.relocOf v lead) lead v.ports = w at hports ⊢
  have hwins : SameCode w ((w.putWins (s.relocOf v lead) v.wins).getD w) := by
    cases hp : w.putWins (s.relocOf v lead) v.wins with
    | none => exact SameCode.refl w
    | some x => exact w.sameCode_putWins _ _ x hp
  generalize (w.putWins (s.relocOf v lead) v.wins).getD w = x at hwins ⊢
  have hreqs : SameCode x (x.putReqs (s.relocOf v lead) v.reqs) := by
    refine SameCode.fold (fun _ _ => ?_) _ _
    exact SameCode.of_lans rfl rfl
  generalize x.putReqs (s.relocOf v lead) v.reqs = y at hreqs ⊢
  have hrecs : SameCode y (v.recs.foldl (fun s b => s.toQueue lead (Record.ofBytes b.1 b.2)) y) :=
    SameCode.fold (fun s b => SameCode.of_emitted (State.emitted_toQueue s 0 lead _)) _ _
  generalize v.recs.foldl (fun s b => s.toQueue lead (Record.ofBytes b.1 b.2)) y = z at hrecs ⊢
  have hall := ((hports.trans hwins).trans hreqs).trans hrecs
  have hend : ∀ z', SameCode z z' → z'.focus = s.focus ∧ (z'.lan lead).code = (pc, v.regs, v.fpmode, v.cfgs, v.waits) :=
    fun z' h => ⟨(hall.trans h).1.trans hcode.1, ((hall.trans h).2 lead).trans hcode.2⟩
  cases v.mx with
  | none => exact hend z (SameCode.refl z)
  | some a => exact hend _ (z.sameCode_putMx lead a)

theorem State.focus_closeWins (lead : Nat) : (s.closeWins lead).focus = s.focus := by
  refine foldl_rel (R := fun s t : State => t.focus = s.focus) (fun _ => rfl) (fun h g => g.trans h) (fun s x => ?_) _ _
  split
  · refine foldl_rel (R := fun s t : State => t.focus = s.focus) (fun _ => rfl) (fun h g => g.trans h) (fun s w => ?_) _ _
    unfold State.closeWin State.vrecl
    split
    · rfl
    · dsimp only
      split <;> rfl
  · rfl

theorem State.focus_clearRegion (lead : Nat) : (s.clearRegion lead).focus = s.focus := by
  have hovfl := fun (ks : List Nat) (s : State) => foldl_rel (R := fun s t : State => t.focus = s.focus) (fun _ => rfl) (fun h g => g.trans h)
    (f := fun s k => s.modLan k fun l => if l.ovfl.isEmpty then l else { l with ovfl := [] }) (fun s k => rfl) ks s
  exact (hovfl _ _).trans (s.focus_closeWins lead)

end

/-! ### RSM: its tests -/

section
variable {s u v : State} {ra : Reg} {h body : List Byte} {a : Saved}

/-- RSM once its area has been read: the tests in their order (R144). -/
def State.rsmBody (s : State) (k : Nat) (va : Word) (h body : List Byte) : State :=
  if (sha512 body).take 8 ≠ (h.drop 0x20).take 8 then s.cfgbad va
  else
    match s.areaOf h body with
    | none => s.cfgbad va
    | some v =>
      if v.mxBad then s.cfgbad va
      else if s.tooSmall k v then s.cfgbad 0xFFFFFFFFFFFFFFFC#64
      else if s.mxRefused k v then s.cfgbad 0xFFFFFFFFFFFFFFFB#64
      else if (s.cur.cfgs.any fun x => x.armed && !x.done) || !s.winsFit k v then s
      else
        ((s.clearRegion k).restore k v (BitVec.ofNat 64 (fieldAt h 0x10 8))).tracePreempt k 2 (BitVec.ofNat 32 (fieldAt h 8 4))

theorem State.rsm_read (hr : (s.performLoads s.focus).readVirt (s.x ra) 64 1 = .ok h u) :
    s.rsm ra = if headerBad h then u.cfgbad (s.x ra) else
      (u.readVirt (s.x ra + 64#64) (fieldAt h 0 4 - 64) 1).finish fun body v => v.rsmBody s.focus (s.x ra) h body := by
  unfold State.rsm
  dsimp only
  rw [hr]
  rfl

theorem State.rsmBody_area {k : Nat} {va : Word} (hsha : (sha512 body).take 8 = (h.drop 0x20).take 8) (ha : v.areaOf h body = some a) :
    v.rsmBody k va h body =
      if a.mxBad then v.cfgbad va
      else if v.tooSmall k a then v.cfgbad 0xFFFFFFFFFFFFFFFC#64
      else if v.mxRefused k a then v.cfgbad 0xFFFFFFFFFFFFFFFB#64
      else if (v.cur.cfgs.any fun x => x.armed && !x.done) || !v.winsFit k a then v
      else
        ((v.clearRegion k).restore k a (BitVec.ofNat 64 (fieldAt h 0x10 8))).tracePreempt k 2 (BitVec.ofNat 32 (fieldAt h 8 4)) := by
  unfold State.rsmBody
  rw [if_neg (Classical.not_not.2 hsha), ha]

end

end Sys2Proof.Machine
end

section

open Sys2Proof Sys2Proof.Machine

theorem exec_pre (marker : Bool) (rd ra : Reg) (s : Machine.State) :
    exec (if marker then .preMarker rd ra else .preDrain rd ra) s = .next (s.pre marker rd ra) := by cases marker <;> rfl

/-- Settles O19. -/
theorem preemptionSaves : Obligations.PreemptionSaves := by
  intro s marker rd ra
  have hexec := exec_pre marker rd ra s
  refine ⟨fun h => trap_of hexec (if_pos h), fun hal hq => is_of hexec (State.pre_busy hal hq),
    fun hal hq hr => is_of hexec (State.pre_stops hal hq hr), ?_⟩
  intro hal hq u v w a bs hu hr hb hwr hw hfocus
  obtain ⟨kind, snap, hgo⟩ := State.pre_saves hal hq hu hr hb hwr
  rw [hw, ← hfocus] at hgo
  obtain ⟨d, hd⟩ := (State.dayOnly_tracePreempt (w.modCur fun l => (l.setReg rd (BitVec.ofNat 64 bs.length)).advance 1) kind snap).modCur
  refine ends_congr hexec (hgo.trans hd) ⟨State.buildArea_bytes hb, hfocus ▸ State.onlyLan_modCur .., fun r => ?_, ?_⟩
  · refine (congrArg (Lantern.reg · r) (State.cur_modCur ..)).trans ?_
    exact Lantern.reg_setReg w.cur rd r _
  · rw [State.cur_modCur, Lantern.setReg_eq]
    rfl

/-- Settles O20: the area's tests in their order, and what the restored Lantern holds. -/
theorem preemptionResumes : Obligations.PreemptionResumes := by
  intro s u v ra h body hr
  have hread := State.rsm_read hr
  refine ⟨fun hbad => trap_of rfl (hread.trans (if_pos hbad)), fun hgood hb => ?_⟩
  rw [hgood, if_neg Bool.false_ne_true, hb] at hread
  replace hread : s.rsm ra = v.rsmBody s.focus (s.x ra) h body := hread
  have hfv : v.focus = s.focus :=
    (State.seen_readVirt hb).focus.trans ((State.seen_readVirt hr).focus.trans (focus_performLoads s))
  refine ⟨fun hsha => trap_of rfl (hread.trans (if_pos hsha)), fun hsha ha => ?foreign, fun a hsha ha => ?area⟩
  case foreign =>
    refine trap_of rfl (hread.trans ?_)
    unfold State.rsmBody
    rw [if_neg (Classical.not_not.2 hsha), ha]
    rfl
  rw [State.rsmBody_area hsha ha] at hread
  refine ⟨fun hmx => trap_of rfl (hread.trans (if_pos hmx)), fun hmx hts => ?small, fun hmx hts href => ?refused,
    fun hmx hts href hwait => ?waits, fun hmx hts href hdone hfit => ?goes⟩
  all_goals rw [hmx, if_neg Bool.false_ne_true, hts] at hread
  case small => exact trap_of rfl hread
  all_goals rw [if_neg Bool.false_ne_true, href] at hread
  case refused => exact trap_of rfl hread
  all_goals rw [if_neg Bool.false_ne_true] at hread
  case waits =>
    refine is_of rfl (hread.trans (if_pos ?_))
    simpa only [Bool.or_eq_true, List.any_eq_true, Bool.and_eq_true, Bool.not_eq_true'] using hwait
  case goes =>
    rw [if_neg (by
      simp only [hfit, Bool.or_eq_true, List.any_eq_true, Bool.and_eq_true, Bool.not_eq_true', Bool.true_eq_false, or_false,
        not_exists, not_and, Bool.not_eq_false]
      exact hdone)] at hread
    obtain ⟨hfocus, hcode⟩ := (v.clearRegion s.focus).restore_code s.focus a (BitVec.ofNat 64 (fieldAt h 0x10 8))
    have hf : ((v.clearRegion s.focus).restore s.focus a (BitVec.ofNat 64 (fieldAt h 0x10 8))).focus = s.focus :=
      hfocus.trans ((v.focus_clearRegion s.focus).trans hfv)
    generalize (v.clearRegion s.focus).restore s.focus a (BitVec.ofNat 64 (fieldAt h 0x10 8)) = w at hf hcode hread ⊢
    have hday := State.dayOnly_tracePreempt w 2 (BitVec.ofNat 32 (fieldAt h 8 4))
    rw [hf] at hday
    obtain ⟨d, hd⟩ := hday.cur
    have hcur : w.cur.code = (BitVec.ofNat 64 (fieldAt h 0x10 8), a.regs, a.fpmode, a.cfgs, a.waits) := by
      unfold State.cur
      rw [hf, hcode]
    obtain ⟨hpc, hregs, hfp, hcfgs, hwaits⟩ : w.cur.pc = BitVec.ofNat 64 (fieldAt h 0x10 8) ∧ w.cur.regs = a.regs ∧
        w.cur.fpmode = a.fpmode ∧ w.cur.cfgs = a.cfgs ∧ w.cur.waits = a.waits := by
      simpa only [Lantern.code, Prod.mk.injEq] using hcur
    refine ends_congr (i := .rsm ra) rfl hread ⟨hf ▸ hday.only, hday.pc.trans hpc, fun r => (hday.x r).trans ?_, ?_, ?_, ?_⟩
    · unfold State.x Lantern.reg
      rw [hregs]
    all_goals
      rw [hd]
      assumption

end

section
/-! ## R178 to R191: the float, integer, lane and packed families of the elements -/

namespace Sys2Proof

open Sys2Proof.Machine

section
variable {i : Instr} {f : Slot} {w : Fire} {s : Machine.State} {rm : RM}

/-- `gives_of_compute` for an instruction whose handler is `e`. -/
theorem gives_of_handler (e : Slot → Machine.State → Out) {g : Fire → Machine.State → Computed} {r : Computed}
    (hrow : ∃ row, slotRow i = some (row, f)) (hi : exec i s = e f s) (he : e f s = s.compute i g)
    (hr : w.f = f → g w (consumed w s) = r) : Gives i w s r := gives_of_compute hrow (hi.trans he) hr

/-! ### Floats -/

section
variable {a b c : WVal} (ha : a = (s.operand w .w f.selA).asW false) (hrm : rm = s.rmOf w)
include ha hrm

theorem gives_float1 {g : RM → WVal → Res Pay} (hrow : ∃ row, slotRow i = some (row, f)) (he : exec i s = s.float1 i g) :
    Gives i w s (wideResult (g rm a)) :=
  gives_of_compute hrow he fun hf => by simp only [hf, operand_consumed, rmOf_consumed, ← ha, ← hrm, wideResult]

variable (hb : b = (s.operand w .w f.selB).asW false)
include hb

theorem gives_float2 {g : RM → WVal → WVal → Res Pay} (hrow : ∃ row, slotRow i = some (row, f)) (he : exec i s = s.float2 i g) :
    Gives i w s (wideResult (g rm a b)) :=
  gives_of_compute hrow he fun hf => by simp only [hf, operand_consumed, rmOf_consumed, ← ha, ← hb, ← hrm, wideResult]

theorem gives_float3 {g : RM → WVal → WVal → WVal → Res Pay} (hc : c = (s.operand w .w f.selC).asW false)
    (hrow : ∃ row, slotRow i = some (row, f)) (he : exec i s = s.float3 i g) : Gives i w s (wideResult (g rm a b c)) :=
  gives_of_compute hrow he fun hf => by simp only [hf, operand_consumed, rmOf_consumed, ← ha, ← hb, ← hc, ← hrm, wideResult]

end

/-! ### Integers -/

/-- At `s` instruction `i` is an integer firing of slot fields `f` with two operands. -/
structure IsInt2 (i : Instr) (f : Slot) (g : Slot → Word → Word → Word × Option Bool) (s : Machine.State) : Prop where
  fields : ∃ row, slotRow i = some (row, f)
  exec_eq : exec i s = s.int2 i g

theorem isInt2_of_handler (e : Slot → Machine.State → Out) {g : Slot → Word → Word → Word × Option Bool}
    (hrow : ∃ row, slotRow i = some (row, f)) (hi : exec i s = e f s) (he : e f s = s.int2 i g) : ∃ g, IsInt2 i f g s :=
  ⟨g, hrow, hi.trans he⟩

section
variable {a b : Operand} (ha : a = s.operand w .i64 f.selA)
include ha

theorem gives_int1 {g : Slot → Word → Word} {x : Res Word} (hrow : ∃ row, slotRow i = some (row, f)) (he : exec i s = s.int1 i g)
    (hx : a.asI f.uns = some x) : Gives i w s (i64Out (g f x.val) x.flags none) :=
  gives_of_compute hrow he fun hf => by simp only [hf, operand_consumed, ← ha, hx]

theorem gives_int1_bad {g : Slot → Word → Word} (hrow : ∃ row, slotRow i = some (row, f)) (he : exec i s = s.int1 i g)
    (hx : a.asI f.uns = none) : Gives i w s (.bad a.fmt 0 0 fmtI64) :=
  gives_of_compute hrow he fun hf => by simp only [hf, operand_consumed, ← ha, hx]

variable {g : Slot → Word → Word → Word × Option Bool}

/-- Operand A's format is judged before operand B's. -/
theorem gives_int2_bad_left (h : IsInt2 i f g s) (hx : a.asI f.uns = none) : Gives i w s (.bad a.fmt 0 0 fmtI64) :=
  gives_of_compute h.fields h.exec_eq fun hf => by simp only [hf, operand_consumed, ← ha, hx]

variable (hb : b = s.operand w .i64 f.selB)
include hb

theorem gives_int2_bad_right (h : IsInt2 i f g s) (hx : (a.asI f.uns).isSome) (hy : b.asI f.uns = none) : Gives i w s (.bad b.fmt 1 0 fmtI64) := by
  obtain ⟨x, hx⟩ := Option.isSome_iff_exists.1 hx
  exact gives_of_compute h.fields h.exec_eq fun hf => by simp only [hf, operand_consumed, ← ha, ← hb, hx, hy]

theorem gives_int2 {x y : Res Word} (h : IsInt2 i f g s) (hx : a.asI f.uns = some x) (hy : b.asI f.uns = some y) :
    Gives i w s (i64Out (g f x.val y.val).1 (x.flags ||| y.flags) (g f x.val y.val).2) :=
  gives_of_compute h.fields h.exec_eq fun hf => by simp only [hf, operand_consumed, ← ha, ← hb, hx, hy]

theorem gives_int2_of_handler (e : Slot → Machine.State → Out) {x y : Res Word} {v : Word} {c : Option Bool}
    (hx : a.asI f.uns = some x) (hy : b.asI f.uns = some y) (hrow : ∃ row, slotRow i = some (row, f)) (hi : exec i s = e f s)
    (he : e f s = s.int2 i g) (hg : g f x.val y.val = (v, c)) : Gives i w s (i64Out v (x.flags ||| y.flags) c) := by
  have h := gives_int2 ha hb ⟨hrow, hi.trans he⟩ hx hy
  rwa [hg] at h

end

variable (f s) in
/-- The integer instructions with two operands. -/
theorem isInt2_of_mem : ∀ i ∈ [Instr.iadd f, .isub f, .imul f, .imulh f, .idiv f, .irem f, .imin f, .imax f, .icmp f],
    ∃ g, IsInt2 i f g s := by
  simp only [List.forall_mem_cons]
  exact ⟨isInt2_of_handler execIadd ⟨_, rfl⟩ rfl rfl, isInt2_of_handler execIsub ⟨_, rfl⟩ rfl rfl,
    isInt2_of_handler execImul ⟨_, rfl⟩ rfl rfl, isInt2_of_handler execImulh ⟨_, rfl⟩ rfl rfl,
    isInt2_of_handler execIdiv ⟨_, rfl⟩ rfl rfl, isInt2_of_handler execIrem ⟨_, rfl⟩ rfl rfl,
    isInt2_of_handler execImin ⟨_, rfl⟩ rfl rfl, isInt2_of_handler execImax ⟨_, rfl⟩ rfl rfl,
    isInt2_of_handler execIcmp ⟨_, rfl⟩ rfl rfl, List.forall_mem_nil _⟩

end

end Sys2Proof
end

section

open Sys2Proof Sys2Proof.Machine

/-- Settles O21: each instruction is a float firing of one, two or three operands. -/
theorem floatResults : Obligations.FloatResults := by
  intro f w s a b c rm ha hb hc hrm
  refine ⟨?fadd, ?fsub, ?fmul, ?fma, ?fms, ?fnma, ?fmin, ?fmax, ?fabs, ?fneg, ?fdiv, ?fsqrt, ?frcp, ?frsq, ?flg2, ?fex2, ?frnd, ?fcmp⟩
  case fadd => exact gives_float2 (g := wadd) ha hrm hb ⟨_, rfl⟩ rfl
  case fsub => exact gives_float2 (g := fun rm a b => wadd rm a b.negate) ha hrm hb ⟨_, rfl⟩ rfl
  case fmul => exact gives_float2 (g := wmul) ha hrm hb ⟨_, rfl⟩ rfl
  case fma => exact gives_float3 (g := fun rm a b c => wfma rm false a b c) ha hrm hb hc ⟨_, rfl⟩ rfl
  case fms => exact gives_float3 (g := fun rm a b c => wfma rm false a b c.negate) ha hrm hb hc ⟨_, rfl⟩ rfl
  case fnma => exact gives_float3 (g := fun rm a b c => wfma rm true a b c) ha hrm hb hc ⟨_, rfl⟩ rfl
  case fmin => exact gives_float2 (g := fun _ a b => wminmax false a b) ha hrm hb ⟨_, rfl⟩ rfl
  case fmax => exact gives_float2 (g := fun _ a b => wminmax true a b) ha hrm hb ⟨_, rfl⟩ rfl
  case fabs => exact gives_float1 (g := fun _ a => wabs a) ha hrm ⟨_, rfl⟩ rfl
  case fneg => exact gives_float1 (g := fun _ a => wneg a) ha hrm ⟨_, rfl⟩ rfl
  case fdiv => exact gives_float2 (g := wdiv) ha hrm hb ⟨_, rfl⟩ rfl
  case fsqrt => exact gives_float1 (g := wsqrt) ha hrm ⟨_, rfl⟩ rfl
  case frcp => exact gives_float1 (g := fun rm a => wdiv rm (.fin false 1 0) a) ha hrm ⟨_, rfl⟩ rfl
  case frsq => exact gives_float1 (g := wrsqrt) ha hrm ⟨_, rfl⟩ rfl
  case flg2 => exact gives_float1 (g := wlog2) ha hrm ⟨_, rfl⟩ rfl
  case fex2 => exact gives_float1 (g := wexp2) ha hrm ⟨_, rfl⟩ rfl
  case frnd => exact gives_float1 (g := wrnd) ha hrm ⟨_, rfl⟩ rfl
  case fcmp =>
    exact gives_of_handler execFcmp ⟨_, rfl⟩ rfl rfl fun _ => by simp only [operand_consumed, ← ha, ← hb]

/-- Settles O22: each instruction is an integer firing of one or two operands, whose formats decide which rule it falls
under. -/
theorem integerResults : Obligations.IntegerResults := by
  intro f w s a b ha hb
  refine ⟨fun x y hx hy => ⟨?iadd, ?isub, ?imul, ?imulh, ?idiv, ?irem, ?imin, ?imax, ?icmp⟩, fun x hx => ?ineg,
    fun i hi => ?bad, fun hx => gives_int1_bad ha ⟨_, rfl⟩ (Eq.trans (b := execIneg f s) rfl rfl) hx⟩
  case iadd => exact gives_int2_of_handler ha hb execIadd hx hy ⟨_, rfl⟩ rfl rfl rfl
  case isub => exact gives_int2_of_handler ha hb execIsub hx hy ⟨_, rfl⟩ rfl rfl rfl
  case imul => exact gives_int2_of_handler ha hb execImul hx hy ⟨_, rfl⟩ rfl rfl rfl
  case imulh => exact gives_int2_of_handler ha hb execImulh hx hy ⟨_, rfl⟩ rfl rfl rfl
  case idiv => exact gives_int2_of_handler ha hb execIdiv hx hy ⟨_, rfl⟩ rfl rfl rfl
  case irem => exact gives_int2_of_handler ha hb execIrem hx hy ⟨_, rfl⟩ rfl rfl rfl
  case imin => exact gives_int2_of_handler ha hb execImin hx hy ⟨_, rfl⟩ rfl rfl rfl
  case imax => exact gives_int2_of_handler ha hb execImax hx hy ⟨_, rfl⟩ rfl rfl rfl
  case icmp => exact gives_int2_of_handler ha hb execIcmp hx hy ⟨_, rfl⟩ rfl rfl rfl
  case ineg =>
    have hneg := gives_int1 (i := .ineg f) ha ⟨_, rfl⟩ (Eq.trans (b := execIneg f s) rfl rfl) hx
    simpa only [Bool.and_eq_true, decide_eq_true_iff] using hneg
  case bad =>
    obtain ⟨g, h⟩ := isInt2_of_mem f s i hi
    exact ⟨gives_int2_bad_left ha h, gives_int2_bad_right ha hb h⟩

/-- Settles O24: each instruction is a compute firing; what `laneBad` and the formats say picks its branch. -/
theorem laneResults : Obligations.LaneResults := by
  intro f w s a b rm k ha hb hrm hk
  replace hk : laneIdx f = k := hk.symm
  refine ⟨fun r hr => ?cvtfi, ?cvtif, fun r hr => ?cvtfl, fun hl => ⟨?cvtlf, ?lspl⟩, fun hl => ⟨?lget, fun hfb => ?lput, fun hfb => ?lputBad⟩,
    fun l hl => ⟨?cvtlfLane, ?lsplLane⟩, fun l hl => ⟨?lgetLane, ?lputLane⟩, ?ldot, ?lsum, fun hia hib => ?bdotI, fun hi => ?bdotW,
    fun hfa hfb => ?badd, fun hfa => ?baddLeft, fun hfa hfb => ?baddRight⟩
  case cvtfi => exact gives_of_handler execCvtfi ⟨_, rfl⟩ rfl rfl fun _ => by simp only [operand_consumed, rmOf_consumed, ← hrm, ← hr]
  case cvtif => exact gives_of_handler execCvtif ⟨_, rfl⟩ rfl rfl fun _ => by simp only [operand_consumed, ← ha]
  case cvtfl => exact gives_of_handler execCvtfl ⟨_, rfl⟩ rfl rfl fun _ => by simp only [operand_consumed, rmOf_consumed, ← hrm, ← hr, hk]
  case cvtlf | cvtlfLane => exact gives_of_handler execCvtlf ⟨_, rfl⟩ rfl rfl fun _ => by simp only [operand_consumed, ← ha, hk, hl]
  case lspl | lsplLane => exact gives_of_handler execLspl ⟨_, rfl⟩ rfl rfl fun _ => by simp only [operand_consumed, ← ha, hk, hl]
  case lget | lgetLane => exact gives_of_handler execLget ⟨_, rfl⟩ rfl rfl fun _ => by simp only [operand_consumed, ← ha, hk, hl]
  case lputLane => exact gives_of_handler execLput ⟨_, rfl⟩ rfl rfl fun _ => by simp only [operand_consumed, ← ha, hk, hl]
  case lput =>
    exact gives_of_handler execLput ⟨_, rfl⟩ rfl rfl fun _ => by
      simp only [operand_consumed, ← ha, ← hb, hk, hl, hfb, ne_eq, not_true_eq_false, if_false]
  case lputBad =>
    exact gives_of_handler execLput ⟨_, rfl⟩ rfl rfl fun _ => by
      simp only [operand_consumed, ← ha, ← hb, hk, hl, hfb, ne_eq, not_false_eq_true, if_true]
  case ldot =>
    exact gives_of_handler execLdot ⟨_, rfl⟩ rfl rfl fun _ => by
      simp only [operand_consumed, rmOf_consumed, ← ha, ← hb, ← hrm, wideResult]
  case lsum =>
    exact gives_of_handler execLsum ⟨_, rfl⟩ rfl rfl fun _ => by
      simp only [operand_consumed, rmOf_consumed, ← ha, ← hrm, wideResult]
  case bdotI =>
    exact gives_of_handler execBdot ⟨_, rfl⟩ rfl rfl fun _ => by
      simp only [operand_consumed, ← ha, ← hb, hia, hib, Bool.and_self, if_true]
  case bdotW =>
    have hpath : (a.intPath && b.intPath) = false := by rcases hi with h | h <;> simp [h]
    exact gives_of_handler execBdot ⟨_, rfl⟩ rfl rfl fun _ => by
      simp only [operand_consumed, rmOf_consumed, ← ha, ← hb, ← hrm, hpath, Bool.false_eq_true, if_false, wideResult]
  case badd =>
    exact gives_of_handler execPackedBadd ⟨_, rfl⟩ rfl rfl fun _ => by
      simp only [operand_consumed, ← ha, ← hb, hfa, hfb, ne_eq, not_true_eq_false, if_false]
  case baddLeft =>
    exact gives_of_handler execPackedBadd ⟨_, rfl⟩ rfl rfl fun _ => by
      simp only [operand_consumed, ← ha, ne_eq, hfa, not_false_eq_true, if_true]
  case baddRight =>
    exact gives_of_handler execPackedBadd ⟨_, rfl⟩ rfl rfl fun _ => by
      simp only [operand_consumed, ← ha, ← hb, hfa, hfb, ne_eq, not_true_eq_false, not_false_eq_true, if_false, if_true]

end

section
/-! ## R192 to R206, R213, R215: routing, control, tag and memory firings of the elements -/

namespace Sys2Proof

open Sys2Proof.Machine

section
variable {i : Instr} {f : Slot} {w : Fire} {s u t : Machine.State} {mv : Moves}

/-- A firing that executes, of an instruction whose handler is `e` and whose effect is `k`. -/
theorem exec_of_handler (e : Slot → Machine.State → Out) {k : Fire → Machine.State → Machine.State} (hx : Executes i mv w s)
    (hi : exec i s = e f s) (he : e f s = s.fire i mv k) (hk : k w (consumed w s) = t) : exec i s = .next t := by
  rw [hi, he, fire_next i mv k w s hx, hk]

/-! ### Tags -/

theorem tagToken_consumed (w : Fire) (s : Machine.State) : (consumed w s).tagToken w = s.tagToken w := by
  unfold State.tagToken
  rw [operand_consumed]

theorem State.alloc_opens {p : Nat × Nat} {lead n : Nat} (c : Bool) (hp : u.ownOpen w = some p) (hl : u.leadOfTile (elTile w.el) = some lead)
    (hn : u.freeSpace lead w.ctx = some n) : u.alloc w c = u.openSpace w lead n c := by
  unfold State.alloc
  rw [hp, hl]
  dsimp only
  rw [hn]

theorem State.alloc_waits {p : Nat × Nat} {lead : Nat} (c : Bool) (hp : u.ownOpen w = some p) (hl : u.leadOfTile (elTile w.el) = some lead)
    (hn : u.freeSpace lead w.ctx = none) : u.alloc w c = u.waitFiring w (if c then .call else .alloc) := by
  unfold State.alloc
  rw [hp, hl]
  dsimp only
  rw [hn]

theorem State.alloc_closed (c : Bool) (h : u.ownOpen w = none ∨ u.leadOfTile (elTile w.el) = none) : u.alloc w c = u.tagClosed w := by
  unfold State.alloc
  rcases h with h | h
  · rw [h]
  · rw [h]
    cases u.ownOpen w <;> rfl

theorem State.free_open {lead key : Nat} (c : Bool) (h : u.ownOpen w = some (lead, key))
    (ht : t = u.modSpace lead key (u.pastCut w.el) fun e => { e with st := .closing }) :
    u.free_ w c = if t.spaceLive lead (tagDie w.set.tag) w.ctx (tagSpace w.set.tag) 0 then t.waitFiring w (if c then .ret else .free)
      else t.closeSpace w lead key c := by
  unfold State.free_
  rw [h, ht]

theorem State.free_closed (c : Bool) (h : u.ownOpen w = none) : u.free_ w c = u.tagClosed w := by
  unfold State.free_
  rw [h]

theorem exec_alloc (c : Bool) (hx : Executes (if c then .tcall f else .talloc f) movesNone w s) (hk : (consumed w s).alloc w c = t) :
    exec (if c then .tcall f else .talloc f) s = .next t := by
  cases c with
  | false => exact exec_of_handler execTalloc hx rfl rfl hk
  | true => exact exec_of_handler execTcall hx rfl rfl hk

theorem exec_free (c : Bool) (hx : Executes (if c then .tret f else .tfree f) movesNone w s) (hk : (consumed w s).free_ w c = t) :
    exec (if c then .tret f else .tfree f) s = .next t := by
  cases c with
  | false => exact exec_of_handler execTfree hx rfl rfl hk
  | true => exact exec_of_handler execTret hx rfl rfl hk

theorem fields_alloc (c : Bool) (hx : Executes (if c then .tcall f else .talloc f) movesNone w s) : w.f = f := by
  cases c with
  | false => exact fieldsOf hx (i := .talloc f) rfl
  | true => exact fieldsOf hx (i := .tcall f) rfl

theorem fields_free (c : Bool) (hx : Executes (if c then .tret f else .tfree f) movesNone w s) : w.f = f := by
  cases c with
  | false => exact fieldsOf hx (i := .tfree f) rfl
  | true => exact fieldsOf hx (i := .tret f) rfl

/-! ### The end of a tag's wait -/

/-- The instruction of a waiting firing. -/
def waitInstr (x : WaitFiring) : Instr :=
  match x.op with
  | .alloc => .talloc x.f
  | .call => .tcall x.f
  | .free => .tfree x.f
  | .ret => .tret x.f

theorem waitInstr_of_mem {x : WaitFiring}
    (h : (x.op, i) ∈ [(.alloc, Instr.talloc x.f), (.call, .tcall x.f), (.free, .tfree x.f), (.ret, .tret x.f)]) : waitInstr x = i := by
  unfold waitInstr
  simp only [List.mem_cons, List.not_mem_nil, or_false, Prod.mk.injEq] at h
  rcases h with ⟨h, rfl⟩ | ⟨h, rfl⟩ | ⟨h, rfl⟩ | ⟨h, rfl⟩ <;> rw [h]

/-- What ends a wait once its space and region are known. -/
def State.waitOver (s : Machine.State) (el idx : Nat) (w : Fire) (op : TagOp) (k key lead : Nat) : Machine.State :=
  let d := s.modCore el fun e => { e with waits := e.waits.eraseIdx idx }
  let close (ret : Bool) : Machine.State :=
    if s.spaceLive k (tagDie w.set.tag) w.ctx (tagSpace w.set.tag) 1 then s else d.closeSpace w k key ret
  let opn (call : Bool) : Machine.State :=
    match s.freeSpace lead w.ctx with
    | some n => d.openSpace w lead n call
    | none => s
  match op with
  | .alloc => opn false
  | .call => opn true
  | .free => close false
  | .ret => close true

section
variable {z d : Machine.State} {el idx k key lead : Nat} {v : Fire} {op : TagOp}
    (hd : d = z.modCore el fun e => { e with waits := e.waits.eraseIdx idx })

theorem State.waitOver_stays (hop : op = .alloc ∨ op = .call) (hn : z.freeSpace lead v.ctx = none) :
    State.waitOver z el idx v op k key lead = z := by
  rcases hop with rfl | rfl <;> (unfold State.waitOver; simp only [hn])

theorem State.waitOver_live (hop : op = .free ∨ op = .ret)
    (hl : z.spaceLive k (tagDie v.set.tag) v.ctx (tagSpace v.set.tag) 1 = true) :
    State.waitOver z el idx v op k key lead = z := by
  rcases hop with rfl | rfl <;> exact if_pos hl

include hd

theorem State.waitOver_opens (hop : op = .alloc ∨ op = .call) {n : Nat} (hn : z.freeSpace lead v.ctx = some n) :
    State.waitOver z el idx v op k key lead = d.openSpace v lead n (decide (op = .call)) := by
  rcases hop with rfl | rfl <;> (unfold State.waitOver; simp only [hn, hd]; rfl)

theorem State.waitOver_closes (hop : op = .free ∨ op = .ret)
    (hl : z.spaceLive k (tagDie v.set.tag) v.ctx (tagSpace v.set.tag) 1 = false) :
    State.waitOver z el idx v op k key lead = d.closeSpace v k key (decide (op = .ret)) := by
  rw [hd]
  rcases hop with rfl | rfl <;> exact if_neg (by simp [hl])

end

/-- What ends the wait of firing `x`, by the row of its instruction. -/
def State.waitRow (z : Machine.State) (el idx : Nat) (x : WaitFiring) : Option (Row × Slot) → Machine.State
  | none => z
  | some (row, f) =>
    let w : Fire := { el := el, f := f, row := row, set := x.set, route := x.route, last := x.set.data.any fun d => d.2.last }
    match z.ownSpace w, z.leadOfTile (elTile el) with
    | some (k, key), some lead => State.waitOver z el idx w x.op k key lead
    | _, _ => z

section
variable {z : Machine.State} {el idx k key lead : Nat} {x : WaitFiring} {row : Row} {v : Fire}
    (hx : (z.el el).core.waits[idx]? = some x)
include hx

theorem State.waitEnd_row : z.waitEnd el idx = State.waitRow z el idx x (slotRow (waitInstr x)) := by
  unfold State.waitEnd
  rw [hx]
  rfl

variable (hrow : slotRow (waitInstr x) = some (row, x.f))
    (hv : v = { el := el, f := x.f, row := row, set := x.set, route := x.route, last := x.set.data.any fun d => d.2.last })
include hrow hv

theorem State.waitEnd_over (hk : z.ownSpace v = some (k, key)) (hl : z.leadOfTile (elTile el) = some lead) :
    z.waitEnd el idx = State.waitOver z el idx v x.op k key lead := by
  rw [State.waitEnd_row hx, hrow]
  unfold State.waitRow
  dsimp only
  rw [← hv, hk, hl]

theorem State.waitEnd_nowhere (h : z.ownSpace v = none ∨ z.leadOfTile (elTile el) = none) : z.waitEnd el idx = z := by
  rw [State.waitEnd_row hx, hrow]
  unfold State.waitRow
  dsimp only
  rw [← hv]
  rcases h with h | h
  · rw [h]
  · rw [h]
    cases z.ownSpace v <;> rfl

end

/-! ### Requests -/

variable (f s) in
/-- The memory and synchronisation instructions are memory firings of slot fields `f`. -/
theorem memFire_of_mem {op : MemOp} {kb kc : Want} {index : Bool}
    (h : (i, op, kb, kc, index) ∈
        [(.eLd f, .ld, .any, .any, false), (.eSt f, .st, .any, .any, false), (.ldv f, .ldv, .version, .any, false),
         (.stv f, .stv, .any, .version, false), (.ldx f, .ldx, .i64, .any, true), (.stx f, .stx, .i64, .any, true),
         (.slotPhsig f, .phsig, .any, .any, false), (.slotAadd f, .aadd, .i64, .any, false),
         (.slotAand f, .aand, .i64, .any, false), (.slotAor f, .aor, .i64, .any, false),
         (.slotAxor f, .axor, .i64, .any, false), (.slotAmin f, .amin f.uns, .i64, .any, false),
         (.slotAmax f, .amax f.uns, .i64, .any, false), (.slotAxch f, .axch, .i64, .any, false),
         (.slotAcas f, .acas, .i64, .i64, false), (.slotFbin f, .fbin, .w, .any, false),
         (.slotQpsh f, .qpsh, .any, .any, false)]) :
    exec i s = s.memFire i op kb kc index ∧ ∃ row, slotRow i = some (row, f) := by
  simp only [List.mem_cons, List.not_mem_nil, or_false, Prod.mk.injEq] at h
  rcases h with ⟨rfl, rfl, rfl, rfl, rfl⟩ | ⟨rfl, rfl, rfl, rfl, rfl⟩ | ⟨rfl, rfl, rfl, rfl, rfl⟩ | ⟨rfl, rfl, rfl, rfl, rfl⟩ |
    ⟨rfl, rfl, rfl, rfl, rfl⟩ | ⟨rfl, rfl, rfl, rfl, rfl⟩ | ⟨rfl, rfl, rfl, rfl, rfl⟩ | ⟨rfl, rfl, rfl, rfl, rfl⟩ |
    ⟨rfl, rfl, rfl, rfl, rfl⟩ | ⟨rfl, rfl, rfl, rfl, rfl⟩ | ⟨rfl, rfl, rfl, rfl, rfl⟩ | ⟨rfl, rfl, rfl, rfl, rfl⟩ |
    ⟨rfl, rfl, rfl, rfl, rfl⟩ | ⟨rfl, rfl, rfl, rfl, rfl⟩ | ⟨rfl, rfl, rfl, rfl, rfl⟩ | ⟨rfl, rfl, rfl, rfl, rfl⟩ |
    ⟨rfl, rfl, rfl, rfl, rfl⟩
  all_goals exact ⟨rfl, _, rfl⟩

/-- The address of a memory firing (R206). -/
def memAddr (f : Slot) (op : MemOp) (index : Bool) (fmt : Nat) (a b : Operand) : Word :=
  if op.isSync then a.low
  else if index then a.low + b.low * BitVec.ofNat 64 (fmtSize fmt) + (f.imm.extractLsb' 0 11).signExtend 64
  else a.low + (f.imm.extractLsb' 0 11).signExtend 64

/-- What a memory firing with these operands does. -/
def State.memEffect (u : Machine.State) (w : Fire) (op : MemOp) (kb kc : Want) (index : Bool) (fmt : Nat) (a b c : Operand) : Machine.State :=
  if a.fmt ≠ fmtI64 then u.memFormatError w op fmt a.fmt 0
  else if !kb.ok b then u.memFormatError w op fmt b.fmt 1
  else if !kc.ok c then u.memFormatError w op fmt c.fmt 2
  else if 2 ^ 48 ≤ (memAddr w.f op index fmt a b).toNat then u.badAddress w op fmt 3 (memAddr w.f op index fmt a b)
  else if !op.isSync && decide ((memAddr w.f op index fmt a b).toNat % fmtAlign fmt ≠ 0) then
    u.badAddress w op fmt 4 (memAddr w.f op index fmt a b)
  else u.sendRequest w op fmt (memAddr w.f op index fmt a b) b c

theorem exec_memFire {op : MemOp} {kb kc : Want} {index : Bool} {a b c : Operand} {fmt : Nat} (he : exec i s = s.memFire i op kb kc index)
    (hrow : ∃ row, slotRow i = some (row, f)) (hx : Executes i movesNone w s) (ha : a = s.operand w .i64 f.selA)
    (hb : b = s.operand w .i64 f.selB) (hc : c = s.operand w .i64 f.selC) (hfmt : fmt = (f.imm.extractLsb' 12 4).toNat) :
    exec i s = .next (State.memEffect (consumed w s) w op kb kc index fmt a b c) := by
  obtain ⟨row, hrow⟩ := hrow
  have hf := fieldsOf hx hrow
  rw [he]
  unfold State.memFire
  rw [fire_next i _ _ w s hx]
  simp only [operand_consumed, hf, ← ha, ← hb, ← hc, ← hfmt]
  rw [State.memEffect, hf]
  rfl

end

end Sys2Proof
end

section

open Sys2Proof Sys2Proof.Machine

/-- Settles O26. -/
theorem routeAndControl : Obligations.RouteAndControl := by
  rintro f w s u rfl
  refine ⟨fun hx => ?pass, fun hx => ?sel, fun hx => ?const, fun hx => ?sink, fun hx => ?cond, fun hx => ?cand, fun hx => ?cor,
    fun hx => ?cnot, fun hx => ?steer, fun hx => ?merge, fun hx hc => ?gateOn, fun hx hc => ?gateOff, fun p t hp ht => ?moved,
    fun hx => ?nop⟩
  case pass => exact exec_of_handler execPass hx rfl rfl (by rw [moved_consumed])
  case sel => exact exec_of_handler execSel hx rfl rfl (by rw [moved_consumed])
  case const => exact exec_of_handler execConst hx rfl rfl rfl
  case sink => exact exec_of_handler execSink hx rfl rfl rfl
  case cond => exact exec_of_handler execCond hx rfl rfl (by rw [State.sendCond, operand_consumed, slotOf hx rfl])
  case cand => exact exec_of_handler execCand hx rfl rfl (by rw [State.sendCond, slotOf hx rfl])
  case cor => exact exec_of_handler execCor hx rfl rfl (by rw [State.sendCond, slotOf hx rfl])
  case cnot => exact exec_of_handler execCnot hx rfl rfl (by rw [State.sendCond, slotOf hx rfl])
  case steer => exact exec_of_handler execSteer hx rfl rfl (by rw [movedWhole_consumed])
  case merge => exact exec_of_handler execMerge hx rfl rfl (by rw [movedWhole_consumed])
  case gateOn =>
    exact exec_of_handler execGate hx rfl rfl (by rw [movedWhole_consumed, hc, if_pos rfl, State.sendCond, slotOf hx rfl])
  case gateOff =>
    exact exec_of_handler execGate hx rfl rfl (by rw [hc, if_neg Bool.false_ne_true, State.sendCond, slotOf hx rfl])
  case moved =>
    unfold State.movedWhole State.moved
    rw [hp]
    dsimp only
    rw [ht]
    exact ⟨rfl, rfl⟩
  case nop => exact exec_of_handler execENop hx rfl rfl rfl

/-- Settles O27: every element instruction is a firing, and its gate and its poison come before what it does. -/
theorem gatingAndPoison : Obligations.GatingAndPoison := by
  intro i w s h
  obtain ⟨k, hk⟩ := fires i (by rw [h.2.1]; rfl)
  have hgo := (hk s).trans (fire_else i (movesOn i) k w s h)
  refine ⟨fun hg ho => hgo.trans ?_, fun hg ho => hgo.trans ?_, fun hg hp => hgo.trans ?_⟩
  · simp [hg, ho]
  · simp [hg, ho]
  · simp [hg, hp]

/-- Settles O28. -/
theorem tagInstructions : Obligations.TagInstructions := by
  rintro f w s u rfl
  refine ⟨fun c hx => ⟨fun p lead n hp hl hn => ?opens, fun p lead hp hl hn => ?waits, fun h => ?closed⟩,
    fun c hx => ⟨fun lead key v hv ht => ⟨fun hlive => ?busy, fun hlive z hz => ?frees⟩, fun h => ?notOpen⟩, fun hx => ?tnext,
    fun b hx hb => ⟨fun hfmt hlt => ?titer, fun hfmt hge => ?titerFar, fun hfmt => ?titerBad⟩, ?waitEnds, fun el idx z h => ?noWait⟩
  case opens =>
    refine exec_alloc c hx ((State.alloc_opens c hp hl hn).trans ?_)
    unfold State.openSpace
    rw [fields_alloc c hx]
    rfl
  case waits =>
    refine exec_alloc c hx ((State.alloc_waits c hp hl hn).trans ?_)
    rw [State.waitFiring, fields_alloc c hx]
  case closed => exact exec_alloc c hx (State.alloc_closed c h)
  case busy =>
    refine exec_free c hx ((State.free_open c hv ht).trans ((if_pos hlive).trans ?_))
    rw [State.waitFiring, fields_free c hx]
  case frees =>
    refine exec_free c hx ((State.free_open c hv ht).trans ((if_neg (by simp [hlive])).trans ?_))
    rw [hz]
    rfl
  case notOpen => exact exec_free c hx (State.free_closed c h)
  case tnext => exact exec_of_handler execTnext hx rfl rfl rfl
  case titer =>
    refine exec_of_handler execTiter hx rfl rfl ?_
    dsimp only
    rw [operand_consumed, ← hb, if_neg (Classical.not_not.2 hfmt), if_neg (by omega)]
  case titerFar =>
    refine exec_of_handler execTiter hx rfl rfl ?_
    dsimp only
    rw [operand_consumed, ← hb, if_neg (Classical.not_not.2 hfmt), if_pos hge]
  case titerBad =>
    refine exec_of_handler execTiter hx rfl rfl ?_
    dsimp only
    rw [operand_consumed, ← hb, if_pos hfmt]
  case waitEnds =>
    intro el idx x i row k key lead z d v hx hmem hrow hv
    rw [← waitInstr_of_mem hmem] at hrow
    refine ⟨fun h => congrArg Host.Outcome.next (State.waitEnd_nowhere hx hrow hv h), fun hk hl hd => ?_⟩
    have hgo : exec (.tagWaitEnd el idx) z = .next (State.waitOver z el idx v x.op k key lead) :=
      congrArg Host.Outcome.next (State.waitEnd_over hx hrow hv hk hl)
    exact ⟨fun hop => ⟨fun hn => hgo.trans (congrArg _ (State.waitOver_stays hop hn)),
        fun n hn => hgo.trans (congrArg _ (State.waitOver_opens hd hop hn))⟩,
      fun hop => ⟨fun hlive => hgo.trans (congrArg _ (State.waitOver_live hop hlive)),
        fun hlive => hgo.trans (congrArg _ (State.waitOver_closes hd hop hlive))⟩⟩
  case noWait =>
    refine congrArg Host.Outcome.next ?_
    unfold State.waitEnd
    rw [h]

/-- Settles O29: each instruction is a memory firing, whose operands and address are tested in one order. -/
theorem elementRequests : Obligations.ElementRequests := by
  rintro f w s u a b c fmt rfl ha hb hc hfmt i op kb kc index hmem hx
  obtain ⟨he, hrow⟩ := memFire_of_mem f s hmem
  have hgo := exec_memFire he hrow hx ha hb hc hfmt
  obtain ⟨row, hrow⟩ := hrow
  have hf := fieldsOf hx hrow
  unfold State.memEffect at hgo
  rw [hf] at hgo
  refine ⟨fun hfa => ?_, fun hfa hkb => ?_, fun hfa hkb hkc => ?_, fun hfa hkb hkc va hva => ⟨fun hbig => ?_, fun hsmall hs hal => ?_,
    fun hsmall hal => ?_⟩⟩
  · rw [hgo, if_pos hfa]
  · rw [hgo, if_neg (Classical.not_not.2 hfa), if_pos (by simp [hkb])]
  · rw [hgo, if_neg (Classical.not_not.2 hfa), if_neg (by simp [hkb]), if_pos (by simp [hkc])]
  all_goals
    replace hva : memAddr f op index fmt a b = va := hva.symm
    rw [hva, if_neg (Classical.not_not.2 hfa), if_neg (by simp [hkb]), if_neg (by simp [hkc])] at hgo
  · rw [hgo, if_pos hbig]
  · rw [hgo, if_neg (by omega), if_pos (by simp [hs, hal])]
  · rw [hgo, if_neg (by omega), if_neg (by rcases hal with h | h <;> simp [h]), State.sendRequest, hf]

end

section
/-! ## R151 to R168: tokens, firings, windows, switches, control links and markers of the elements -/

namespace Sys2Proof

open Sys2Proof.Machine

section
variable {s t u : Machine.State} {el link n : Nat} {a : Arrival} {rest : List Arrival}

/-! ### Arrival -/

theorem exec_tokenArrive (h : s.itsTurn el link = true) (ht : s.tokenArrive el link = t) : exec (.tokenArrive el link) s = .next t :=
  congrArg Host.Outcome.next ((if_pos h).trans ht)

theorem exec_tokenArrive_same (h : s.itsTurn el link = true → s.tokenArrive el link = s) : exec (.tokenArrive el link) s = .next s := by
  refine congrArg Host.Outcome.next (?_ : (if s.itsTurn el link = true then s.tokenArrive el link else s) = s)
  split
  · next hi => exact h hi
  · rfl

theorem State.tokenArrive_none (h : (s.el el).links.get [] link = []) : s.tokenArrive el link = s := by
  unfold State.tokenArrive
  dsimp only
  rw [h]

theorem State.tokenArrive_waits (h : (s.el el).links.get [] link = a :: rest)
    (hw : a.tok.marker = true ∨ 8 ≤ (s.el el).core.ready.length ∨ s.cutOff a.fromDie (tileDie (elTile el)) = true) :
    s.tokenArrive el link = s := by
  unfold State.tokenArrive
  dsimp only
  rw [h]
  dsimp only
  rw [if_pos (by rcases hw with h | h | h <;> simp [h])]

/-- The head token is not held back: no marker, room in the ready queue, no held edge. -/
structure MayArrive (el link : Nat) (a : Arrival) (rest : List Arrival) (s : Machine.State) : Prop where
  head : (s.el el).links.get [] link = a :: rest
  token : a.tok.marker = false
  room : (s.el el).core.ready.length < 8
  reach : s.cutOff a.fromDie (tileDie (elTile el)) = false

theorem MayArrive.notHeld (h : MayArrive el link a rest s) :
    ¬ (a.tok.marker || decide (8 ≤ (s.el el).core.ready.length) || s.cutOff a.fromDie (tileDie (elTile el))) = true := by
  have := h.room
  simp [h.token, h.reach]
  omega

theorem State.tokenArrive_logged (h : MayArrive el link a rest s) (hl : a.logged = true) :
    s.tokenArrive el link = if s.recHeld (s.leadOfTile (elTile el)) then s else (s.leaveLink el link).recordToken el a := by
  unfold State.tokenArrive
  dsimp only
  rw [h.head]
  dsimp only
  rw [if_neg h.notHeld, if_pos hl]

theorem State.tokenArrive_parity (h : MayArrive el link a rest s) (hl : a.logged = false) (hc : a.cond = true) (hb : a.bad = true) :
    s.tokenArrive el link = (s.leadOfTile (elTile el)).elim
      ((s.elLog el kPOISON a.slot a.tok.tag 0#64 1).takeOff el link (s.heldNo (s.leadOfTile (elTile el))) a)
      fun k => ((s.elLog el kPOISON a.slot a.tok.tag 0#64 1).takeOff el link (s.heldNo (s.leadOfTile (elTile el))) a).askAbort k true := by
  unfold State.tokenArrive
  dsimp only
  rw [h.head]
  dsimp only
  rw [if_neg h.notHeld, if_neg (by simp [hl]), if_pos (by simp [hc, hb])]
  cases s.leadOfTile (elTile el) <;> rfl

theorem State.tokenArrive_taken (h : MayArrive el link a rest s) (hl : a.logged = false) (hc : (a.cond && a.bad) = false)
    (ha : s.arrive el a = .taken t) : s.tokenArrive el link = t.takeOff el link (s.heldNo (s.leadOfTile (elTile el))) a := by
  unfold State.tokenArrive
  dsimp only
  rw [h.head]
  dsimp only
  rw [if_neg h.notHeld, if_neg (by simp [hl]), if_neg (by simp [hc]), ha]

theorem State.tokenArrive_stays (h : MayArrive el link a rest s) (hl : a.logged = false) (hc : (a.cond && a.bad) = false)
    (ha : s.arrive el a = .stays t) : s.tokenArrive el link = t := by
  unfold State.tokenArrive
  dsimp only
  rw [h.head]
  dsimp only
  rw [if_neg h.notHeld, if_neg (by simp [hl]), if_neg (by simp [hc]), ha]

/-! ### Retries -/

theorem State.ovflRetry_link (hk : link ≠ 10) (h : (s.el el).links.get [] link = a :: rest) :
    s.ovflRetry el link = if s.hasRoom el (tagCtx a.tok.tag) then s.tokenArrive el link else s := by
  unfold State.ovflRetry
  rw [if_neg hk, h]

theorem State.ovflRetry_held {m : Emission} {r : List Emission} (h : (s.el el).core.heldOut = m :: r) :
    s.ovflRetry el 10 = if m.why ≠ .place ∨ s.hasRoom el (tagCtx m.tok.tag) = true then s.retryHeld el else s := by
  unfold State.ovflRetry
  rw [if_pos rfl, h]

theorem State.retryHeld_place {m : Emission} {r : List Emission} (h : (s.el el).core.heldOut = m :: r)
    (ht : t = s.modCore el fun x => { x with heldOut := r }) (hm : m.why = .place) : s.retryHeld el = t.park el m := by
  unfold State.retryHeld
  rw [h, ht]
  dsimp only
  rw [hm]

theorem State.retryHeld_link {m : Emission} {r : List Emission} (h : (s.el el).core.heldOut = m :: r)
    (ht : t = s.modCore el fun x => { x with heldOut := r }) (hm : m.why = .link) :
    s.retryHeld el = if m.tok.marker || s.linkRoom (elTile el) m.cond m.dest
      then t.deliver (elTile el) el m.cond m.dest m.tok else s := by
  unfold State.retryHeld
  rw [h, ht]
  dsimp only
  rw [hm]

theorem State.retryHeld_record {m : Emission} {r : List Emission} (h : (s.el el).core.heldOut = m :: r)
    (ht : t = s.modCore el fun x => { x with heldOut := r }) (hm : m.why = .record) :
    s.retryHeld el = if s.recHeld (s.leadOfTile (elTile el)) then s else t := by
  unfold State.retryHeld
  rw [h, ht]
  dsimp only
  rw [hm]

theorem exec_retryHeld {m : Emission} {r : List Emission} (h : (s.el el).core.heldOut = m :: r)
    (hw : m.why ≠ .place ∨ s.hasRoom el (tagCtx m.tok.tag) = true) (ht : s.retryHeld el = t) :
    exec (.ovflTokenRetry el 10) s = .next t :=
  congrArg Host.Outcome.next ((State.ovflRetry_held h).trans ((if_pos hw).trans ht))

end

/-- Settles O30: TOKEN_ARRIVE and OVFL_TOKEN_RETRY, a lemma for each fate of the token at the head of the link. -/
theorem tokensArrive : Obligations.TokensArrive := by
  unfold Obligations.TokensArrive
  intro s el link
  refine ⟨fun h => exec_tokenArrive_same fun _ => State.tokenArrive_none h, ?_, ?_, ?_, ?_⟩
  · intro a rest n h hn
    subst hn
    refine ⟨fun hi => exec_tokenArrive_same fun hi' => absurd hi' (by simp [hi]),
      fun hw => exec_tokenArrive_same fun _ => State.tokenArrive_waits h hw, ?_, ?_⟩
    · intro hi hm hr hc
      have hmay : MayArrive el link a rest s := ⟨h, hm, hr, hc⟩
      refine ⟨fun hl hn => ?_, fun hl hn => ?_, fun v hl hc hb hv => ?_, fun hl hb => ⟨fun t ht => ?_, fun t ht => ?_⟩⟩
      · exact exec_tokenArrive hi ((State.tokenArrive_logged hmay hl).trans (if_pos (by simpa [State.recHeld] using hn)))
      · exact exec_tokenArrive hi ((State.tokenArrive_logged hmay hl).trans (if_neg (by simp [State.recHeld, hn])))
      · subst hv
        exact exec_tokenArrive hi (State.tokenArrive_parity hmay hl hc hb)
      · exact exec_tokenArrive hi (State.tokenArrive_taken hmay hl hb ht)
      · exact exec_tokenArrive hi (State.tokenArrive_stays hmay hl hb ht)
    · intro hk
      refine ⟨fun hr => ?_, fun hr hi => ?_, fun hr => ?_⟩
      · exact congrArg Host.Outcome.next ((State.ovflRetry_link hk h).trans (if_pos hr))
      · exact (congrArg Host.Outcome.next ((State.ovflRetry_link hk h).trans (if_pos hr))).trans (exec_tokenArrive hi rfl).symm
      · exact congrArg Host.Outcome.next ((State.ovflRetry_link hk h).trans (if_neg (by simp [hr])))
  · intro t u a n hu hle
    subst hu
    unfold State.takeOff
    rw [if_neg (by omega)]
  · intro h
    refine congrArg Host.Outcome.next ?_
    unfold State.ovflRetry
    rw [if_pos rfl, h]
  · intro m r t h ht
    refine ⟨fun hm hr => ?_, fun hm hr => ?_, fun hm hr => ?_, fun hm hk hr => ?_, fun hm hr => ?_, fun hm hr => ?_⟩
    · exact exec_retryHeld h (.inr hr) (State.retryHeld_place h ht hm)
    · exact congrArg Host.Outcome.next ((State.ovflRetry_held h).trans (if_neg (by simp [hm, hr])))
    · exact exec_retryHeld h (.inl (by simp [hm])) ((State.retryHeld_link h ht hm).trans
        (if_pos (by rcases hr with hr | hr <;> simp [hr])))
    · exact exec_retryHeld h (.inl (by simp [hm])) ((State.retryHeld_link h ht hm).trans (if_neg (by simp [hk, hr])))
    · exact exec_retryHeld h (.inl (by simp [hm])) ((State.retryHeld_record h ht hm).trans (if_pos hr))
    · exact exec_retryHeld h (.inl (by simp [hm])) ((State.retryHeld_record h ht hm).trans (if_neg (by simp [hr])))

/-! ### Matching -/

/-- A well-formed token for a loaded slot of its context, whose instruction is no NOP. -/
structure ForSlot (el : Nat) (a : Arrival) (img : SlotImg) (i : Instr) (s : Machine.State) : Prop where
  format : a.cond = true ∨ a.tok.fmt.toNat < 4 ∧ (a.tok.fmt = fmtI64 → a.tok.pay.toNat < 2 ^ 64)
  loaded : (s.el el).core.slots.find a.slot.toNat = some img
  ctx : img.ctx = tagCtx a.tok.tag
  instr : decodeSlot img.instr = some i
  notNop : ∀ f, i ≠ .eNop f

section
variable {s : Machine.State} {el : Nat} {a : Arrival} {img : SlotImg} {i : Instr}

theorem ForSlot.goodFormat (h : ForSlot el a img i s) :
    ¬ (!a.cond && (decide (4 ≤ a.tok.fmt.toNat) || (decide (a.tok.fmt = fmtI64) && decide (2 ^ 64 ≤ a.tok.pay.toNat)))) = true := by
  rcases h.format with hc | ⟨hf, hp⟩
  · simp [hc]
  · by_cases hi : a.tok.fmt = fmtI64
    · have := hp hi
      simp only [Bool.and_eq_true, Bool.or_eq_true, decide_eq_true_eq, Classical.not_and_iff_not_or_not, not_or, Nat.not_le]
      exact .inr ⟨hf, .inr (hp hi)⟩
    · simp [hi]
      omega

theorem State.arrive_matched {ps : List Place} {o : OpSet} (h : ForSlot el a img i s) (hp : s.partners el i a = some (ps, o)) :
    s.arrive el a = .taken ((if ps.isEmpty then s else (s.removeAt el ps).clearSpilled el (tagCtx a.tok.tag)).enqueueReady el o) := by
  unfold State.arrive
  dsimp only
  rw [if_neg h.goodFormat, h.loaded]
  dsimp only
  rw [if_neg (Classical.not_not.mpr h.ctx), h.instr]
  split
  · next hn => simp at hn
  · next f hn => exact absurd (Option.some.inj hn) (h.notNop f)
  · next hn =>
    rw [← Option.some.inj hn, hp]

theorem State.arrive_unmatched (h : ForSlot el a img i s) (hp : s.partners el i a = none) :
    s.arrive el a = s.keepToken el (if a.cond then 3#2 else 0#2) a := by
  unfold State.arrive
  dsimp only
  rw [if_neg h.goodFormat, h.loaded]
  dsimp only
  rw [if_neg (Classical.not_not.mpr h.ctx), h.instr]
  split
  · next hn => simp at hn
  · next f hn => exact absurd (Option.some.inj hn) (h.notNop f)
  · next hn =>
    rw [← Option.some.inj hn, hp]

end

/-- Settles O31: what an arriving token makes with the partners that the stores hold. -/
theorem tokensMatch : Obligations.TokensMatch := by
  unfold Obligations.TokensMatch
  intro s el a img i hf hl hc hi hn
  have h : ForSlot el a img i s := ⟨hf, hl, hc, hi, hn⟩
  refine ⟨fun o hp => State.arrive_matched h hp, fun p ps o hp => State.arrive_matched h hp, State.arrive_unmatched h, ?_⟩
  intro r f hr
  unfold State.partners
  rw [hr]
  refine ⟨fun hm => if_pos hm, fun hm ha => ?_⟩
  dsimp only
  rw [if_neg (by simp [hm]), if_pos ha]

/-! ### Issue -/

section
variable {s : Machine.State} {el : Nat} {o : OpSet} {rest : List OpSet}

theorem State.issue_waits (h : (s.el el).core.ready = o :: rest)
    (hw : ((s.el el).firing.isSome || !(s.el el).core.heldOut.isEmpty || !s.mayIssue el o) = true) : s.issue el = s := by
  unfold State.issue
  dsimp only
  rw [h]
  dsimp only
  rw [if_pos hw]

theorem State.mayIssue_some {w : Fire} {i : Instr} (h : s.headFire el o = some (w, i)) :
    s.mayIssue el o = (decide ((s.el el).core.busy.get 0 (unitOf i) ≤ s.tick) && !s.ninthWait w i) := by
  unfold State.mayIssue
  rw [h]

theorem State.mayIssue_of_free (h : ∀ w i, s.headFire el o = some (w, i) →
    (s.el el).core.busy.get 0 (unitOf i) ≤ s.tick ∧ s.ninthWait w i = false) : s.mayIssue el o = true := by
  cases hh : s.headFire el o with
  | none =>
    unfold State.mayIssue
    rw [hh]
  | some p =>
    obtain ⟨w, i⟩ := p
    obtain ⟨hb, hn⟩ := h w i hh
    rw [State.mayIssue_some hh, hn]
    simpa using hb

theorem State.issue_issues {v : Machine.State} (h : (s.el el).core.ready = o :: rest) (hm : s.mayIssue el o = true) (hf : (s.el el).firing = none)
    (hh : (s.el el).core.heldOut = [])
    (hv : v = ((s.takeUnit el o).modEl el fun e => { e with core := { e.core with ready := rest }, firing := some o }).rearrive el) :
    s.issue el = { v.traceFire el o with agenda := .element el :: (v.forced el).elim v.agenda fun p => .post p :: v.agenda } := by
  unfold State.issue
  dsimp only
  rw [h]
  dsimp only
  rw [if_neg (by simp [hm, hf, hh]), ← hv]
  cases v.forced el <;> rfl

end

/-- Settles O32: FIRING_ISSUE, by what keeps the set at the head of the queue there. -/
theorem firingsIssue : Obligations.FiringsIssue := by
  unfold Obligations.FiringsIssue
  intro s el
  refine ⟨fun h => congrArg Host.Outcome.next ?_, fun o rest h => ⟨fun hw => congrArg Host.Outcome.next ?_, fun w i hh hw => ?_, ?_⟩⟩
  · unfold State.issue
    dsimp only
    rw [h]
  · refine State.issue_waits h ?_
    rcases hw with hw | hw
    · simp [Option.isSome_iff_ne_none.mpr hw]
    · simp [hw]
  · refine congrArg Host.Outcome.next (State.issue_waits h ?_)
    rw [State.mayIssue_some hh]
    rcases hw with hw | hw
    · simp [Nat.not_le.mpr hw]
    · simp [hw]
  · intro hm hf hh v hv
    exact congrArg Host.Outcome.next (State.issue_issues h (State.mayIssue_of_free hm) hf hh hv)

end Sys2Proof
end

section
/-! ## R157 to R168: windows, slot switches, control links and markers -/

namespace Sys2Proof

open Sys2Proof.Machine

section
variable {s t u : Machine.State} {el link idx n : Nat}

/-! ### Windows -/

theorem State.space_setSpace_self (s : Machine.State) (k key : Nat) {e : SpaceEntry} (h : e.st ≠ .free) :
    (s.setSpace k key e).space k key = e := by
  unfold State.space State.setSpace
  rw [State.lan_modLan_self]
  unfold modSpaces
  dsimp only
  rw [if_neg h, Tab.get_put_self]

theorem State.baseAdvance_advances {k c p : Nat} {e : SpaceEntry} (he : s.space k (spaceKey c p) = e) (hf : e.st ≠ .free)
    (hb : e.base ∈ e.emitted) (hr : mkTag (lanDie k) c p e.base ∉ s.regionTags k) (hi : mkTag (lanDie k) c p e.base ∉ s.issuedTags k) :
    s.baseAdvance k c p = s.setSpace k (spaceKey c p)
      { e with base := e.base + 1, emitted := e.emitted.filter fun i => decide (i ≠ e.base) } := by
  unfold State.baseAdvance
  dsimp only
  rw [he, if_pos ⟨hf, hb, by simp [hr, hi]⟩]

theorem State.baseAdvance_stands {k c p : Nat} {e : SpaceEntry} (he : s.space k (spaceKey c p) = e)
    (h : e.st = .free ∨ e.base ∉ e.emitted ∨ mkTag (lanDie k) c p e.base ∈ s.regionTags k ∨
      mkTag (lanDie k) c p e.base ∈ s.issuedTags k) : s.baseAdvance k c p = s := by
  unfold State.baseAdvance
  dsimp only
  rw [he, if_neg ?_]
  rintro ⟨hf, hb, hl⟩
  rw [List.mem_append, not_or] at hl
  rcases h with h | h | h | h
  · exact hf h
  · exact h hb
  · exact hl.1 h
  · exact hl.2 h

theorem State.inWindow_none {lead : Option Nat} {die : Nat} {g : Tag} (h : s.spaceLead lead die g = none) : s.inWindow lead die g = true := by
  unfold State.inWindow
  rw [h]

theorem State.inWindow_some {lead : Option Nat} {die : Nat} {g : Tag} {k : Nat} {e : SpaceEntry} (h : s.spaceLead lead die g = some k)
    (he : e = s.space k (spaceKey (tagCtx g) (tagSpace g))) : s.inWindow lead die g = decide (tagIter g < e.base + e.k) := by
  unfold State.inWindow
  rw [h, he]

/-- The entry that index `idx` names, at its place in the two stores. -/
def EntryAt (s : Machine.State) (el idx : Nat) (p : Place) (m : MatchEntry) : Prop :=
  idx < 64 ∧ (s.el el).core.store.find idx = some m ∧ p = .store idx ∨
    64 ≤ idx ∧ (s.lan (tileLan (elTile el))).ovfl[idx - 64]? = some m ∧ p = .ovfl (idx - 64)

theorem State.unpark_eq {p : Place} {m : MatchEntry} (h : EntryAt s el idx p m) :
    s.unpark el idx = if m.kind ≠ 1#2 ∨ m.owner ≠ el then s
      else if s.inWindow (s.leadOfTile (elTile el)) (tileDie (elTile el)) m.tok.tag && s.linkRoom (elTile el) m.cond m.dest then
        (s.removeAt el [p]).deliver (elTile el) el m.cond m.dest m.tok
      else s := by
  unfold State.unpark
  dsimp only
  rcases h with ⟨hi, hf, rfl⟩ | ⟨hi, hf, rfl⟩
  · rw [if_pos hi, hf, Option.map_some]
  · rw [if_neg (by omega), hf, Option.map_some]

end

/-- Settles O33: TAG_BASE_ADVANCE and PARKED_TOKEN_RELEASE, by what holds the window or the token. -/
theorem windowsAdvance : Obligations.WindowsAdvance := by
  unfold Obligations.WindowsAdvance
  refine ⟨fun s k c p e he => ⟨fun hf hb hr hi => ?_, fun h => congrArg Host.Outcome.next (State.baseAdvance_stands he h)⟩, ?_⟩
  · refine ends_of_next (congrArg Host.Outcome.next (State.baseAdvance_advances he hf hb hr hi)) ⟨?_, ?_, State.onlyLan_modLan ..⟩
    · exact State.space_setSpace_self s k _ hf
    · rw [State.setSpace, State.lan_modLan_self]
  · intro s el idx p m h
    replace h : EntryAt s el idx p m := h
    refine ⟨fun hm => ?_, fun hk ho hr => ?_, fun k e hl he hw => ?_, fun hk ho hr hw => ?_⟩
    · exact congrArg Host.Outcome.next ((State.unpark_eq h).trans (if_pos hm))
    · exact congrArg Host.Outcome.next ((State.unpark_eq h).trans ((if_neg (by simp [hk, ho])).trans (if_neg (by simp [hr]))))
    · refine congrArg Host.Outcome.next ((State.unpark_eq h).trans ?_)
      split
      · rfl
      · exact if_neg (by simp [State.inWindow_some hl he, Nat.not_lt.mpr hw])
    · have hin : s.inWindow (s.leadOfTile (elTile el)) (tileDie (elTile el)) m.tok.tag = true := by
        cases hl : s.spaceLead (s.leadOfTile (elTile el)) (tileDie (elTile el)) m.tok.tag with
        | none => exact State.inWindow_none hl
        | some k => simpa [State.inWindow_some hl rfl] using hw k _ hl rfl
      exact congrArg Host.Outcome.next ((State.unpark_eq h).trans ((if_neg (by simp [hk, ho])).trans (if_pos (by simp [hin, hr]))))

/-! ### The wavefront -/

/-- An element after the switch of context `c`. -/
def Machine.Element.switched (c : Nat) (e : Element) : Element :=
  { e with
    core := { e.core with
      slots := switchTab SlotImg.ctx c e.core.slots e.core.pslots, pslots := [],
      holds := switchTab HoldImg.ctx c e.core.holds e.core.pholds, pholds := [],
      ctrls := switchTab CtrlImg.ctx c e.core.ctrls e.core.pctrls, pctrls := [],
      store := e.core.store.filter fun m => decide (tagCtx m.2.tok.tag ≠ c),
      ctxs := e.core.ctxs.del c }
    inch := e.inch.filter fun p => decide (p.1 ≠ c) }

/-- The flags `fl` of context `c` are kept with its configuration. -/
def Machine.CfgEntry.keep (c : Nat) (fl : BitVec 5) (x : CfgEntry) : CfgEntry :=
  if x.ctx = c ∧ x.done = false then { x with flags := x.flags ||| fl } else x

/-- The overflow entries of a cluster that stay when element `el` switches after context `c`. -/
def ovflAfter (el c : Nat) (ovfl : List MatchEntry) : List MatchEntry :=
  ovfl.filter fun m => !decide (m.owner = el ∧ tagCtx m.tok.tag = c)

/-- The state of a switch before what waited for the switched slots arrives. -/
def Machine.State.switchedAt (s : Machine.State) (el c : Nat) : Machine.State :=
  let u := (s.keepFlags el c).modEl el (Element.switched c)
  if (u.lan (tileLan (elTile el))).ovfl.isEmpty then u
  else u.modLan (tileLan (elTile el)) fun l => { l with ovfl := ovflAfter el c l.ovfl }

section
variable (s : Machine.State) (el c : Nat)

theorem State.modEl_modEl (k : Nat) (f g : Element → Element) : (s.modEl k f).modEl k g = s.modEl k fun e => g (f e) := by
  unfold State.modEl
  rw [State.el_setEl_self]
  unfold State.setEl
  rw [Tab.put_put]

theorem State.switchCtx_eq : s.switchCtx el c = (s.switchedAt el c).rearrive el := by
  unfold State.switchCtx State.switchedAt State.modCore
  dsimp only
  rw [State.modEl_modEl]
  rfl

theorem CfgEntry.keep_zero (x : CfgEntry) : CfgEntry.keep c 0#5 x = x := by
  unfold CfgEntry.keep
  rw [BitVec.or_zero]
  split <;> rfl

/-- What keeping a context's flags leaves: the flags of the region's configurations, and nothing else. -/
theorem State.keepFlags_eq {k : Nat} (h : s.leadOfTile (elTile el) = some k) :
    s.keepFlags el c = s ∧ ((s.el el).core.ctx c).flags = 0#5 ∨
      s.keepFlags el c = s.modLan k fun l => { l with cfgs := l.cfgs.map (CfgEntry.keep c ((s.el el).core.ctx c).flags) } := by
  unfold State.keepFlags
  rw [h]
  dsimp only
  split
  · next hf => exact .inl ⟨rfl, hf⟩
  · exact .inr rfl

theorem State.keepFlags_none (h : s.leadOfTile (elTile el) = none) : s.keepFlags el c = s := by
  unfold State.keepFlags
  rw [h]

theorem State.lans_keepFlags : { s.keepFlags el c with lans := s.lans } = s := by
  cases h : s.leadOfTile (elTile el) with
  | none => rw [State.keepFlags_none s el c h]
  | some k =>
    rcases State.keepFlags_eq s el c h with ⟨hk, -⟩ | hk
    · rw [hk]
    · rw [hk]
      rfl

theorem State.el_keepFlags (j : Nat) : (s.keepFlags el c).el j = s.el j := by
  have h := congrArg Machine.State.elems (State.lans_keepFlags s el c)
  exact congrArg (fun t => Tab.get Element.empty t j) h

theorem State.lan_keepFlags (j : Nat) :
    (s.keepFlags el c).lan j = { s.lan j with
      cfgs := if s.leadOfTile (elTile el) = some j then (s.lan j).cfgs.map (CfgEntry.keep c ((s.el el).core.ctx c).flags)
        else (s.lan j).cfgs } := by
  cases h : s.leadOfTile (elTile el) with
  | none =>
    rw [State.keepFlags_none s el c h, if_neg (by simp)]
  | some k =>
    by_cases hj : j = k
    · subst hj
      rw [if_pos rfl]
      rcases State.keepFlags_eq s el c h with ⟨hk, hz⟩ | hk
      · rw [hk, hz, funext (CfgEntry.keep_zero c), List.map_id']
      · rw [hk, State.lan_modLan_self]
    · rw [if_neg (by simpa using Ne.symm hj)]
      rcases State.keepFlags_eq s el c h with ⟨hk, -⟩ | hk
      · rw [hk]
      · rw [hk, State.lan_modLan_ne _ _ hj]

theorem State.lan_modEl (k j : Nat) (f : Element → Element) : (s.modEl k f).lan j = s.lan j := rfl

theorem State.el_modLan (k j : Nat) (f : Lantern → Lantern) : (s.modLan k f).el j = s.el j := rfl

theorem State.elems_switchedAt : (s.switchedAt el c).elems = ((s.keepFlags el c).modEl el (Element.switched c)).elems := by
  unfold State.switchedAt
  dsimp only
  split <;> rfl

theorem State.el_switchedAt (j : Nat) : (s.switchedAt el c).el j = ((s.keepFlags el c).modEl el (Element.switched c)).el j :=
  congrArg (fun t => Tab.get Element.empty t j) (State.elems_switchedAt s el c)

theorem State.lan_switchedAt (j : Nat) :
    (s.switchedAt el c).lan j = { (s.keepFlags el c).lan j with
      ovfl := if j = tileLan (elTile el) then ovflAfter el c (s.lan j).ovfl else (s.lan j).ovfl } := by
  have hov : ((s.keepFlags el c).lan j).ovfl = (s.lan j).ovfl := (congrArg Lantern.ovfl (State.lan_keepFlags s el c j)).trans rfl
  unfold State.switchedAt
  dsimp only
  split
  · next he =>
    rw [State.lan_modEl] at he ⊢
    split
    · next hj =>
      subst hj
      rw [List.isEmpty_iff, hov] at he
      rw [he, show ovflAfter el c [] = [] from rfl, ← he, ← hov]
    · rw [← hov]
  · split
    · next hj =>
      subst hj
      rw [State.lan_modLan_self, State.lan_modEl, hov]
    · next hj => rw [State.lan_modLan_ne _ _ hj, State.lan_modEl, ← hov]

theorem State.frame_switchedAt : { s.switchedAt el c with elems := s.elems, lans := s.lans } = s := by
  have h : { s.switchedAt el c with elems := s.elems, lans := s.lans } = { s.keepFlags el c with elems := s.elems, lans := s.lans } := by
    unfold State.switchedAt
    dsimp only
    split <;> rfl
  rw [h]
  exact congrArg (fun t : Machine.State => { t with elems := s.elems }) (State.lans_keepFlags s el c)

end

/-- Settles O34: SLOT_SWITCH. `switchedAt` is the state before the waiting tokens arrive. -/
theorem slotSwitches : Obligations.SlotSwitches := by
  unfold Obligations.SlotSwitches
  intro s el c e he
  subst he
  refine ⟨fun h => congrArg Host.Outcome.next (if_neg (by rcases h with h | h <;> simp [h])), fun ha hp => ⟨s.switchedAt el c, ?_, ?_,
    fun j hj => ?_, State.frame_switchedAt s el c, fun k => ?_, fun k => ?_, fun k => ?_⟩⟩
  · exact congrArg Host.Outcome.next ((if_pos (by simp [ha, hp])).trans (State.switchCtx_eq s el c))
  · rw [State.el_switchedAt, State.el_modEl_self, State.el_keepFlags]
    rfl
  · rw [State.el_switchedAt, State.el_modEl_ne _ _ hj, State.el_keepFlags]
  · rw [State.lan_switchedAt, State.lan_keepFlags]
  · rw [State.lan_switchedAt]
    rfl
  · rw [State.lan_switchedAt, State.lan_keepFlags]
    rfl

/-! ### The control links -/

section
variable {s : Machine.State} {el link : Nat} {c : CtlLink}

theorem CtlLink.drain_none (fuel : Nat) (c : CtlLink) (out : List Arrival) (h : c.held = []) : c.drain fuel out = (c, out) := by
  cases fuel with
  | zero => rfl
  | succ n =>
    unfold CtlLink.drain
    rw [h]

/-- With nothing held by the sender, a control link's drain changes nothing that can be read. -/
theorem State.drainLink_reads {t : Machine.State} (h : ((t.el el).ctl.get CtlLink.empty link).held = []) :
    (((t.drainLink el link).el el).ctl.get CtlLink.empty link = (t.el el).ctl.get CtlLink.empty link) ∧
      (∀ j, ((t.drainLink el link).el el).links.get [] j = (t.el el).links.get [] j) ∧
      { (t.drainLink el link).el el with ctl := (t.el el).ctl, links := (t.el el).links } = t.el el ∧
      { t.drainLink el link with elems := t.elems } = t := by
  unfold State.drainLink
  rw [State.el_modEl_self]
  dsimp only
  rw [CtlLink.drain_none 8 _ [] h]
  refine ⟨Tab.get_put_self .., fun j => ?_, rfl, rfl⟩
  rw [Tab.get_put]
  split
  · next hj => rw [hj, List.append_nil]
  · rfl

theorem State.credit_back (hc : (s.el el).ctl.get CtlLink.empty link = c) (hf : c.flight ≠ 0) :
    s.credit el link = (s.modEl el fun e => { e with
      ctl := e.ctl.put link { c.setC (c.c + 1#3) with got := c.got + 1#8, flight := c.flight - 1 } }).drainLink el link := by
  unfold State.credit
  dsimp only
  rw [hc, if_neg hf]

theorem State.audit_well (hc : (s.el el).ctl.get CtlLink.empty link = c) (h : c.sync ≠ none ∨
    c.bad = false ∧ c.c.toNat + ((s.el el).links.get [] (5 + link)).length + (c.sent - c.got).toNat = 4) : s.audit el link = s := by
  unfold State.audit
  dsimp only
  rw [hc, if_pos]
  rcases h with h | ⟨hb, hn⟩
  · simp [Option.isSome_iff_ne_none.mpr h]
  · rw [hb, decide_eq_true hn]
    exact Bool.or_true _

theorem State.audit_wrong (hc : (s.el el).ctl.get CtlLink.empty link = c) (hs : c.sync = none)
    (h : c.bad = true ∨ c.c.toNat + ((s.el el).links.get [] (5 + link)).length + (c.sent - c.got).toNat ≠ 4) {n : Nat} {info : BitVec 32}
    (hn : n = ((s.el el).links.get [] (5 + link)).length)
    (hi : info = BitVec.ofNat 32 (c.c.toNat + n % 8 * 8 + (c.sent - c.got).toNat * 64 + (if c.bad then 2 ^ 14 else 0) + link * 2 ^ 15)) :
    s.audit el link =
      ((s.modEl el fun e => { e with ctl := e.ctl.put link { c with sync := some info } }).deliverAll el link n).settle el link := by
  unfold State.audit
  dsimp only
  rw [hc, if_neg ?_, ← hn, ← hi]
  rcases h with h | h
  · simp [hs, h]
  · rw [hs, decide_eq_false h]
    simp

/-- The end of a resynchronisation on a link whose buffer is empty. -/
theorem State.settle_empty {t : Machine.State} {info : BitVec 32} (hc : (t.el el).ctl.get CtlLink.empty link = c) (hs : c.sync = some info)
    (hl : (t.el el).links.get [] (5 + link) = []) :
    t.settle el link = ((t.modEl el fun e => { e with ctl := e.ctl.put link { CtlLink.empty with held := c.held } }).raise
      ((t.modEl el fun e => { e with ctl := e.ctl.put link { CtlLink.empty with held := c.held } }).leadOfTile (elTile el)) (tileDie (elTile el))
      { Record.blank with
        kind := kCTRLSYNC, unit := 6#3, el := BitVec.ofNat 4 (elNum el), y := BitVec.ofNat 7 (tileY (elTile el)),
        x := BitVec.ofNat 6 (tileX (elTile el)), info := info }).drainLink el link := by
  unfold State.settle
  dsimp only
  rw [hc, hs]
  dsimp only
  rw [if_neg (by simp [hl])]

theorem State.leadOfTile_modEl (k t : Nat) (f : Element → Element) : (s.modEl k f).leadOfTile t = s.leadOfTile t := rfl

end

/-- Settles O35: CLOCK_GATE, CONDITION_CREDIT and CTRL_AUDIT. -/
theorem controlLinks : Obligations.ControlLinks := by
  unfold Obligations.ControlLinks
  intro s el link c hc
  refine ⟨fun h => congrArg Host.Outcome.next (if_pos h), fun h => congrArg Host.Outcome.next (if_neg (by simp [h])), fun h => ?_,
    fun h => congrArg Host.Outcome.next (State.credit_back hc h), fun hf hh => ?_,
    fun h => congrArg Host.Outcome.next (State.audit_well hc h), fun hs h n info hn hi => ⟨?_, fun h0 => ?_⟩⟩
  · refine congrArg Host.Outcome.next ?_
    unfold State.credit
    dsimp only
    rw [hc, if_pos h]
  · refine ends_of_next (congrArg Host.Outcome.next (State.credit_back hc hf)) ?_
    have hh' : (((s.modEl el fun e => { e with
        ctl := e.ctl.put link { c.setC (c.c + 1#3) with got := c.got + 1#8, flight := c.flight - 1 } }).el el).ctl.get
          CtlLink.empty link).held = [] := by
      rw [State.el_modEl_self, Tab.get_put_self]
      exact hh
    obtain ⟨hctl, hlinks, hel, hfr⟩ := State.drainLink_reads hh'
    rw [State.el_modEl_self] at hctl hlinks hel
    refine ⟨hctl.trans (Tab.get_put_self ..), hlinks, ?_, ?_⟩
    · exact congrArg (fun e : Element => { e with ctl := (s.el el).ctl }) hel
    · exact congrArg (fun t : Machine.State => { t with elems := s.elems }) hfr
  · exact congrArg Host.Outcome.next (State.audit_wrong hc hs h hn hi)
  · refine congrArg Host.Outcome.next ((State.audit_wrong hc hs h hn hi).trans ?_)
    subst h0
    unfold State.deliverAll
    rw [State.settle_empty (c := { c with sync := some info }) (by rw [State.el_modEl_self, Tab.get_put_self]) rfl
      (by rw [State.el_modEl_self]; exact List.length_eq_zero_iff.mp hn.symm), State.modEl_modEl]
    rfl

/-! ### Markers -/

section
variable {s u v : Machine.State} {el link k : Nat} {a : Arrival} {rest : List Arrival}

/-- An element notes that a channel is marked. -/
def Machine.Element.note (chan : Nat) (e : Element) : Element :=
  let cs := e.core.ctxs.map fun c => if e.inch.contains (c.1, chan) then (c.1, { c.2 with mrem := c.2.mrem - 1 }) else c
  { e with marked := e.marked ++ [chan], core := { e.core with ctxs := cs } }

/-- What a marker that has left its link does. -/
def Machine.State.takeMark (u : Machine.State) (el : Nat) (a : Arrival) : Machine.State :=
  match u.leadOfTile (elTile el) with
  | none => u
  | some lead =>
    if !(u.lan lead).prePend || decide (a.tok.pay.setWidth 32 ≠ (u.lan lead).snapNo) then u
    else
      let v := if (u.el el).snap.isSome then u else u.snapshot el (a.tok.pay.setWidth 32)
      if (v.el el).marked.contains a.chan then v else v.modEl el (Element.note a.chan)

theorem State.markerArrive_waits (h : (s.el el).links.get [] link = a :: rest)
    (hw : a.tok.marker = false ∨ 8 ≤ (s.el el).core.ready.length ∨ s.cutOff a.fromDie (tileDie (elTile el)) = true) :
    s.markerArrive el link = s := by
  unfold State.markerArrive
  rw [h]
  dsimp only
  rw [if_pos (by rcases hw with h | h | h <;> simp [h])]

theorem State.markerArrive_taken (h : (s.el el).links.get [] link = a :: rest) (hu : u = s.leaveLink el link) (hm : a.tok.marker = true)
    (hr : (s.el el).core.ready.length < 8) (hc : s.cutOff a.fromDie (tileDie (elTile el)) = false) :
    s.markerArrive el link = u.takeMark el a := by
  unfold State.markerArrive
  rw [h]
  dsimp only
  rw [if_neg (by simp [hm, hc]; omega), ← hu]
  rfl

theorem State.takeMark_none (h : u.leadOfTile (elTile el) = none) : u.takeMark el a = u := by
  unfold State.takeMark
  rw [h]

theorem State.takeMark_other (h : u.leadOfTile (elTile el) = some k)
    (ho : (u.lan k).prePend = false ∨ a.tok.pay.setWidth 32 ≠ (u.lan k).snapNo) : u.takeMark el a = u := by
  unfold State.takeMark
  rw [h]
  dsimp only
  rw [if_pos (by rcases ho with h | h <;> simp [h])]

theorem State.takeMark_own (h : u.leadOfTile (elTile el) = some k) (hp : (u.lan k).prePend = true)
    (ho : a.tok.pay.setWidth 32 = (u.lan k).snapNo) (hv : v = if (u.el el).snap.isSome then u else u.snapshot el (u.lan k).snapNo) :
    u.takeMark el a = if (v.el el).marked.contains a.chan then v else v.modEl el (Element.note a.chan) := by
  unfold State.takeMark
  rw [h]
  dsimp only
  rw [if_neg (by simp [hp, ho]), ho, ← hv]

end

/-- Settles O36: MARKER_ARRIVE, by the snapshot that the marker belongs to. -/
theorem markersArrive : Obligations.MarkersArrive := by
  unfold Obligations.MarkersArrive
  intro s u el link
  refine ⟨fun h => congrArg Host.Outcome.next ?_, fun a rest h => ⟨fun hw => congrArg Host.Outcome.next (State.markerArrive_waits h hw),
    fun hu hm hr hc => ?_⟩⟩
  · unfold State.markerArrive
    rw [h]
  · have he : exec (.markerArrive el link) s = .next (u.takeMark el a) :=
      congrArg Host.Outcome.next (State.markerArrive_taken h hu hm hr hc)
    refine ⟨fun hl => he.trans (congrArg _ (State.takeMark_none hl)), fun k hl => ⟨fun ho => he.trans (congrArg _ (State.takeMark_other hl ho)),
      fun hp ho v hv => ?_⟩⟩
    rw [State.takeMark_own hl hp ho hv] at he
    refine ⟨fun hk => he.trans (congrArg _ (if_pos hk)), fun hk => ends_of_next (he.trans (congrArg _ (if_neg (by rw [hk]; exact Bool.false_ne_true)))) ?_⟩
    rw [State.el_modEl_self]
    exact ⟨rfl, rfl, rfl, rfl⟩

end Sys2Proof
end

section
/-! ## R154, R205 to R213, R229: a memory tile serves its requests -/

namespace Sys2Proof

open Sys2Proof.Machine

section
variable {s u v : Machine.State} {t idx lead : Nat} {r : EReq} {ps : List (Nat × Nat × PaKind × Bool)}

/-- Request `r` stands at index `idx` of tile `t`, among the first 32 of its port, and belongs to the region led by `lead`. -/
structure AtPort (s : Machine.State) (t idx lead : Nat) (r : EReq) : Prop where
  listed : (s.tile t).reqs[idx]? = some r
  near : idx < 32
  lead : s.leadOfTile (elTile r.el) = some lead

/-- A request of an element that the tile looks at anew. -/
def EReq.Open (r : EReq) : Prop := r.st = .new ∨ r.st = .version ∨ r.st = .entry

theorem State.serveReq_absent (h : 32 ≤ idx ∨ (s.tile t).reqs[idx]? = none) : s.serveReq t idx = s := by
  unfold State.serveReq
  split
  · rfl
  · next hi =>
    rw [h.resolve_left hi]

theorem State.serveReq_noLead (hr : (s.tile t).reqs[idx]? = some r) (hl : s.leadOfTile (elTile r.el) = none) : s.serveReq t idx = s := by
  unfold State.serveReq
  split
  · rfl
  · rw [hr]
    dsimp only
    rw [hl]

theorem State.serveReq_waiting (h : AtPort s t idx lead r) (hw : r.st = .xlate ∨ r.st = .held ∨ r.st = .done) : s.serveReq t idx = s := by
  unfold State.serveReq
  rw [if_neg (Nat.not_le.mpr h.near), h.listed]
  dsimp only
  rw [h.lead]
  dsimp only
  rcases hw with hw | hw | hw <;> rw [hw]

theorem State.serveReq_reply (h : AtPort s t idx lead r) (hw : r.st = .reply) : s.serveReq t idx = s.leaveReply t r := by
  unfold State.serveReq
  rw [if_neg (Nat.not_le.mpr h.near), h.listed]
  dsimp only
  rw [h.lead]
  dsimp only
  rw [hw]

theorem State.serveReq_bank (h : AtPort s t idx lead r) (hw : r.st = .bank) : s.serveReq t idx = s.bankReply t lead r := by
  unfold State.serveReq
  rw [if_neg (Nat.not_le.mpr h.near), h.listed]
  dsimp only
  rw [h.lead]
  dsimp only
  rw [hw]

/-- What an open request gets whose access is to memory: once its range has been translated, its access at the home. -/
def State.serveMemory (s : Machine.State) (t lead : Nat) (r : EReq) : Machine.State :=
  match s.reqPlaces lead t r with
  | (.error (va, reason), s) => s.waitXlate t r (BitVec.ofNat 64 va) reason
  | (.ok ps, s) =>
    if s.piecesCut (tileDie t) ps then s else
    match r.op with
    | .ld => s.serveLoad t lead r ps
    | .ldx => s.serveLoad t lead r ps
    | .st => s.serveStore t lead r ps
    | .stx => s.serveStore t lead r ps
    | _ => s.serveVersion t lead r ps

theorem State.serveReq_open (h : AtPort s t idx lead r) (hw : EReq.Open r) :
    s.serveReq t idx = if r.op.isSync then s.serveSlotSync t lead r else State.serveMemory s t lead r := by
  unfold State.serveReq
  rw [if_neg (Nat.not_le.mpr h.near), h.listed]
  dsimp only
  rw [h.lead]
  dsimp only
  rcases hw with hw | hw | hw <;> rw [hw] <;> rfl

theorem State.serveMemory_error {va reason : Nat} (hp : s.reqPlaces lead t r = (.error (va, reason), u)) :
    State.serveMemory s t lead r = u.waitXlate t r (BitVec.ofNat 64 va) reason := by
  unfold State.serveMemory
  rw [hp]

theorem State.serveMemory_cut (hp : s.reqPlaces lead t r = (.ok ps, u)) (hc : u.piecesCut (tileDie t) ps = true) :
    State.serveMemory s t lead r = u := by
  unfold State.serveMemory
  rw [hp]
  dsimp only
  rw [if_pos hc]

theorem State.serveMemory_load (hp : s.reqPlaces lead t r = (.ok ps, u)) (hc : u.piecesCut (tileDie t) ps = false)
    (ho : r.op = .ld ∨ r.op = .ldx) : State.serveMemory s t lead r = u.serveLoad t lead r ps := by
  unfold State.serveMemory
  rw [hp]
  dsimp only
  rw [if_neg (by simp [hc])]
  rcases ho with ho | ho <;> rw [ho]

theorem State.serveMemory_store (hp : s.reqPlaces lead t r = (.ok ps, u)) (hc : u.piecesCut (tileDie t) ps = false)
    (ho : r.op = .st ∨ r.op = .stx) : State.serveMemory s t lead r = u.serveStore t lead r ps := by
  unfold State.serveMemory
  rw [hp]
  dsimp only
  rw [if_neg (by simp [hc])]
  rcases ho with ho | ho <;> rw [ho]

theorem State.serveMemory_version (hp : s.reqPlaces lead t r = (.ok ps, u)) (hc : u.piecesCut (tileDie t) ps = false)
    (ho : r.op = .ldv ∨ r.op = .stv) : State.serveMemory s t lead r = u.serveVersion t lead r ps := by
  unfold State.serveMemory
  rw [hp]
  dsimp only
  rw [if_neg (by simp [hc])]
  rcases ho with ho | ho <;> rw [ho]

theorem State.serveLoad_home {bs : List Byte} {bad : Bool} (hh : homeOff t ps = none) (hr : s.readPieces lead 0 ps = (bs, bad, v)) :
    s.serveLoad t lead r ps = v.loadReply t lead r ps bs bad := by
  unfold State.serveLoad
  rw [hh]
  dsimp only
  rw [hr]

theorem State.serveLoad_bank {off : Nat} (hh : homeOff t ps = some off) :
    s.serveLoad t lead r ps = (s.askBank t 0 r.id 0 off r.size none (some lead)).setReq t { r with st := .bank } := by
  unfold State.serveLoad
  rw [hh]

/-- What a store writes: its operand rounded to the format of the access. -/
def EReq.stored (r : EReq) := storeBytes r.fmt false (if r.rtz then rtz else rne) ⟨r.data.fmt, r.data.pay⟩

theorem State.serveStore_format (hf : acceptsFmt r.fmt false r.data.fmt = false) :
    s.serveStore t lead r ps = (s.reqLog t r (reqRecord t r kFMT r.va (r.data.fmt.toNat + r.fmt * 16))).sendDone t r true := by
  unfold State.serveStore
  dsimp only
  rw [if_pos (by simp [hf])]

theorem State.serveStore_home (hf : acceptsFmt r.fmt false r.data.fmt = true) (hs : s.stagedSet lead = none) (hh : homeOff t ps = none) :
    s.serveStore t lead r ps = ((s.reqFlags r (EReq.stored r).flags).writePieces lead 0 ps (EReq.stored r).val).storeDone t r := by
  unfold State.serveStore
  dsimp only
  rw [if_neg (by simp [hf]), hs, if_neg (by simp), hh]
  rfl

theorem State.serveStore_bank {off : Nat} (hf : acceptsFmt r.fmt false r.data.fmt = true) (hs : s.stagedSet lead = none)
    (hh : homeOff t ps = some off) :
    s.serveStore t lead r ps = ((s.reqFlags r (EReq.stored r).flags).askBank t 0 r.id 0 off r.size (some (EReq.stored r).val)
      (some lead)).setReq t { r with st := .bank } := by
  unfold State.serveStore
  dsimp only
  rw [if_neg (by simp [hf]), hs, if_neg (by simp), hh]
  rfl

theorem State.serveStore_wanting (hf : acceptsFmt r.fmt false r.data.fmt = true) (hs : s.stagedSet lead ≠ none)
    (hz : s.stagePieces lead ps (EReq.stored r).val = none) :
    s.serveStore t lead r ps = s.setReq t { r with
      st := .entry, word := (ps.findSome? fun p => s.stageBlock lead p.1 (List.replicate p.2.1 0#8)).map fun u => (u, 0) } := by
  unfold State.serveStore
  dsimp only
  rw [if_neg (by simp [hf]), if_pos (Option.isSome_iff_ne_none.mpr hs)]
  unfold EReq.stored at hz
  rw [hz]

theorem State.serveStore_staged (hf : acceptsFmt r.fmt false r.data.fmt = true) (hs : s.stagedSet lead ≠ none)
    (hz : s.stagePieces lead ps (EReq.stored r).val = some u) :
    s.serveStore t lead r ps = if anyHeld ps then (u.reqFlags r (EReq.stored r).flags).setReq t { r with st := .held }
      else (u.reqFlags r (EReq.stored r).flags).storeDone t r := by
  unfold State.serveStore
  dsimp only
  rw [if_neg (by simp [hf]), if_pos (Option.isSome_iff_ne_none.mpr hs)]
  unfold EReq.stored at hz ⊢
  rw [hz]

theorem State.serveSlotSync_slice {a : Nat} (hv : r.va.toNat < 0x10000) (ha : s.sliceOn lead (tileDie t) r.va.toNat = some a) :
    s.serveSlotSync t lead r = s.serveSync t lead r (tileDie t) a := by
  unfold State.serveSlotSync
  dsimp only
  rw [if_pos hv, ha]

theorem State.serveSlotSync_noSlice (hv : r.va.toNat < 0x10000) (ha : s.sliceOn lead (tileDie t) r.va.toNat = none) :
    s.serveSlotSync t lead r = s.waitXlate t r r.va 0 := by
  unfold State.serveSlotSync
  dsimp only
  rw [if_pos hv, ha]

theorem State.serveSlotSync_error {va reason : Nat} (hv : 0x10000 ≤ r.va.toNat) (hp : s.reqPlaces lead t r = (.error (va, reason), u)) :
    s.serveSlotSync t lead r = u.waitXlate t r (BitVec.ofNat 64 va) reason := by
  unfold State.serveSlotSync
  dsimp only
  rw [if_neg (Nat.not_lt.mpr hv), hp]

theorem State.serveSlotSync_object {pa n d a : Nat} {tso : Bool} {rest : List (Nat × Nat × PaKind × Bool)} (hv : 0x10000 ≤ r.va.toNat)
    (hp : s.reqPlaces lead t r = (.ok ((pa, n, .sync d a, tso) :: rest), u)) :
    s.serveSlotSync t lead r = if u.diesCut (tileDie t) d then u else u.serveSync t lead r d a := by
  unfold State.serveSlotSync
  dsimp only
  rw [if_neg (Nat.not_lt.mpr hv), hp]

theorem State.serveSlotSync_elsewhere (hv : 0x10000 ≤ r.va.toNat) (hp : s.reqPlaces lead t r = (.ok ps, u))
    (hn : ∀ pa n d a tso rest, ps ≠ (pa, n, .sync d a, tso) :: rest) :
    s.serveSlotSync t lead r = (u.reqLog t r (reqRecord t r kSYNC r.va 0)).failReq t r := by
  unfold State.serveSlotSync
  dsimp only
  rw [if_neg (Nat.not_lt.mpr hv), hp]
  split
  · next h => simp at h
  · next h => exact absurd (Except.ok.inj (congrArg Prod.fst h)) (hn _ _ _ _ _ _)
  · next h => rw [(Prod.mk.inj h).2]

theorem State.bankReply_waits (h : (s.tile t).granted 0 r.id = false) : s.bankReply t lead r = s := by
  unfold State.bankReply
  rw [if_pos (by simp [h])]

theorem State.bankReply_store (h : (s.tile t).granted 0 r.id = true) (hd : r.op.hasData = false) : s.bankReply t lead r = s.storeDone t r := by
  unfold State.bankReply
  rw [if_neg (by simp [h]), if_neg (by simp [hd])]

theorem State.completeStore_none (h : (s.tile t).reqs[idx]? = none) : s.completeStore t idx = s := by
  unfold State.completeStore
  rw [h]

theorem State.completeStore_done (h : (s.tile t).reqs[idx]? = some r) (hr : r.st = .done) : s.completeStore t idx = s.sendDone t r false := by
  unfold State.completeStore
  rw [h]
  dsimp only
  rw [hr]

theorem State.completeStore_bank (h : (s.tile t).reqs[idx]? = some r) (hr : r.st = .bank) :
    s.completeStore t idx = if r.op.hasData then s else if (s.tile t).granted 0 r.id then s.sendDone t r false
      else if r.o && decide (r.scope = 1#3) then s.doneEarly t r else s := by
  unfold State.completeStore
  rw [h]
  dsimp only
  rw [hr]

theorem State.completeStore_other (h : (s.tile t).reqs[idx]? = some r) (hd : r.st ≠ .done) (hb : r.st ≠ .bank) : s.completeStore t idx = s := by
  unfold State.completeStore
  rw [h]
  dsimp only
  split
  · next hr => exact absurd hr hd
  · next hr => exact absurd hr hb
  · rfl

theorem exec_storeCompletion (h : s.completeStore t idx = u) : exec (.storeCompletion t idx) s = .next u := congrArg Host.Outcome.next h

theorem exec_elementMemReply (h : s.serveReq t idx = u) : exec (.elementMemReply t idx) s = .next u := congrArg Host.Outcome.next h

theorem exec_serveMemory (h : AtPort s t idx lead r) (hw : EReq.Open r) (hs : r.op.isSync = false) (hu : State.serveMemory s t lead r = u) :
    exec (.elementMemReply t idx) s = .next u :=
  exec_elementMemReply ((State.serveReq_open h hw).trans ((if_neg (by simp [hs])).trans hu))

theorem exec_serveSlotSync (h : AtPort s t idx lead r) (hw : EReq.Open r) (hs : r.op.isSync = true) (hu : s.serveSlotSync t lead r = u) :
    exec (.elementMemReply t idx) s = .next u :=
  exec_elementMemReply ((State.serveReq_open h hw).trans ((if_pos hs).trans hu))

theorem State.waitXlate_held {va : Word} : s.waitXlate t r va xlCut = s := if_pos rfl

theorem State.waitXlate_fails {va reason : Nat} {m : Miss} (h : reason ≠ xlCut) (hm : m = r.miss.next s.tick (va % 2 ^ 64)) :
    s.waitXlate t r (BitVec.ofNat 64 va) reason = (s.setReq t { r with st := .xlate, miss := m }).reqLog t r
      { reqRecord t r kXLATE (BitVec.ofNat 64 va) (reason + r.op.access * 16) with rep := m.rep, wait := true, tick := m.first } := by
  subst hm
  unfold State.waitXlate
  rw [if_neg h, BitVec.toNat_ofNat]
  rfl

end

/-- Settles O37: a lemma for each state that a request may be in, and for each home of its access. -/
theorem requestsServed : Obligations.RequestsServed := by
  unfold Obligations.RequestsServed
  refine ⟨fun s t idx => ⟨fun h => exec_elementMemReply (State.serveReq_absent h), fun h => exec_storeCompletion (State.completeStore_none h)⟩,
    fun s u t idx r hr => ⟨fun hl => exec_elementMemReply (State.serveReq_noLead hr hl),
      fun hd => exec_storeCompletion (State.completeStore_done hr hd), ?_, ?_, ?_⟩⟩
  · intro hb hd
    have hd' : ¬ r.op.hasData = true := by simp [hd]
    refine ⟨fun hg => ?_, fun hg ho hs => ⟨fun hf => ?_, fun hf => ?_⟩, fun hg ho => ?_⟩
    · exact exec_storeCompletion ((State.completeStore_bank hr hb).trans ((if_neg hd').trans (if_pos hg)))
    · refine exec_storeCompletion ((State.completeStore_bank hr hb).trans ((if_neg hd').trans ((if_neg (by simp [hg])).trans
        ((if_pos (by simp [ho, hs])).trans ?_))))
      exact if_pos hf
    · refine exec_storeCompletion ((State.completeStore_bank hr hb).trans ((if_neg hd').trans ((if_neg (by simp [hg])).trans
        ((if_pos (by simp [ho, hs])).trans ?_))))
      exact if_neg (by simp [hf])
    · exact exec_storeCompletion ((State.completeStore_bank hr hb).trans ((if_neg hd').trans ((if_neg (by simp [hg])).trans
        (if_neg (by rcases ho with ho | ho <;> simp [ho])))))
  · intro hd hb
    refine exec_storeCompletion ?_
    by_cases hk : r.st = .bank
    · exact (State.completeStore_bank hr hk).trans (if_pos (hb.resolve_left (Classical.not_not.mpr hk)))
    · exact State.completeStore_other hr hd hk
  · intro lead hi hl
    have h : AtPort s t idx lead r := ⟨hr, hi, hl⟩
    refine ⟨fun hw => exec_elementMemReply (State.serveReq_waiting h hw), fun hw => ?_, fun hw hs => ?_, fun hw hs => ?_, fun hw => ?_⟩
    · refine ⟨fun hf => ?_, fun hf ho => ?_⟩
      · refine exec_elementMemReply ((State.serveReq_reply h hw).trans ?_)
        unfold State.leaveReply
        rw [hl, if_pos]
        rcases hf with ⟨hf, hk⟩ | hf
        · simp [hf, hk]
        · simp [hf]
      · refine exec_elementMemReply ((State.serveReq_reply h hw).trans ?_)
        unfold State.leaveReply
        rw [hl, if_neg]
        rcases hf with hf | hf <;> simp [hf, ho]
    · refine ⟨fun va hp => ?_, fun va reason m hp hx hm => ?_, fun ps hp => ⟨fun hc => ?_, fun hc => ⟨?_, ?_, ?_, ?_, ?_⟩⟩⟩
      · exact exec_serveMemory h hw hs ((State.serveMemory_error hp).trans State.waitXlate_held)
      · exact exec_serveMemory h hw hs ((State.serveMemory_error hp).trans (State.waitXlate_fails hx hm))
      · exact exec_serveMemory h hw hs (State.serveMemory_cut hp hc)
      · intro ho hh bs bad v hrd o hov
        subst hov
        exact exec_serveMemory h hw hs ((State.serveMemory_load hp hc ho).trans (State.serveLoad_home hh hrd))
      · intro ho off hh
        exact exec_serveMemory h hw hs ((State.serveMemory_load hp hc ho).trans (State.serveLoad_bank hh))
      · intro ho hf
        exact exec_serveMemory h hw hs ((State.serveMemory_store hp hc ho).trans (State.serveStore_format hf))
      · intro ho hf v hv
        subst hv
        have hstore : ∀ {w}, u.serveStore t lead r ps = w → exec (.elementMemReply t idx) s = .next w :=
          fun hw' => exec_serveMemory h hw hs ((State.serveMemory_store hp hc ho).trans hw')
        refine ⟨fun hst => ⟨fun hh => ?_, fun off hh => ?_⟩, fun hst => ⟨fun hz => ?_, fun z hz => ⟨fun ha => ?_, fun ha => ?_⟩⟩⟩
        · exact hstore (State.serveStore_home hf hst hh)
        · exact hstore (State.serveStore_bank hf hst hh)
        · exact hstore (State.serveStore_wanting hf hst hz)
        · exact hstore ((State.serveStore_staged hf hst hz).trans (if_pos ha))
        · exact hstore ((State.serveStore_staged hf hst hz).trans (if_neg (by simp [ha])))
      · intro ho
        exact exec_serveMemory h hw hs (State.serveMemory_version hp hc ho)
    · refine ⟨fun a hv ha => ?_, fun hv ha => ?_, fun hv => ⟨fun va reason hp => ?_, fun pa n d a tso rest hp => ⟨fun hc => ?_, fun hc => ?_⟩,
        fun ps hp hn => ?_⟩⟩
      · exact exec_serveSlotSync h hw hs (State.serveSlotSync_slice hv ha)
      · exact exec_serveSlotSync h hw hs (State.serveSlotSync_noSlice hv ha)
      · exact exec_serveSlotSync h hw hs (State.serveSlotSync_error hv hp)
      · exact exec_serveSlotSync h hw hs ((State.serveSlotSync_object hv hp).trans (if_pos hc))
      · exact exec_serveSlotSync h hw hs ((State.serveSlotSync_object hv hp).trans (if_neg (by simp [hc])))
      · exact exec_serveSlotSync h hw hs (State.serveSlotSync_elsewhere hv hp hn)
    · refine ⟨fun hg => ?_, fun hg hd => ?_, fun hg hd => ?_⟩
      · exact exec_elementMemReply ((State.serveReq_bank h hw).trans (State.bankReply_waits hg))
      · exact exec_elementMemReply ((State.serveReq_bank h hw).trans (State.bankReply_store hg hd))
      · exact exec_elementMemReply (State.serveReq_bank h hw)

end Sys2Proof
end

section
/-! ## R125, R230, R231, R241 to R257: what a memory tile does of itself, held records, REPLAY and walks made ahead -/

namespace Sys2Proof

open Sys2Proof.Machine

section
variable {s u : Machine.State} {t idx k : Nat}

/-! ### The banks of a tile -/

section
variable {g : Grant} {q : BankReq} {need : List Nat}

theorem Grant.direct_stands (h : g.s.bankNeeds t q = none ∨ g.full q = true ∨
    ∃ need, g.s.bankNeeds t q = some need ∧ ∃ b ∈ need, b ∈ g.used) : g.direct t q = g := by
  unfold Grant.direct
  split
  · rfl
  · next need hn =>
    refine if_pos ?_
    rcases h with h | h | ⟨need', hn', b, hb, hu⟩
    · rw [hn] at h
      exact absurd h (by simp)
    · simp [h]
    · rw [hn, Option.some.injEq] at hn'
      subst hn'
      rw [Bool.or_eq_true, List.any_eq_true]
      exact .inr ⟨b, hb, by simpa using hu⟩

theorem Grant.direct_grants (hn : g.s.bankNeeds t q = some need) (hf : g.full q = false) (hb : ∀ b ∈ need, b ∉ g.used) :
    g.direct t q = { g with used := g.used ++ need, reads := if q.store then g.reads else q.src :: g.reads,
                            s := (g.s.dropReq t q).performBank t q } := by
  unfold Grant.direct
  rw [hn]
  refine if_neg ?_
  simpa [hf] using hb

/-- A request in line that the cycle has not granted directly. -/
theorem Grant.rebuild_lost (hq : (g.s.tile t).bankq.contains q = true) (hf : g.full q = false) (hn : g.s.bankNeeds t q ≠ none) :
    g.rebuild t q = if g.canRebuild t q then
        { used := g.used ++ q.others, rec_ := q.g :: g.rec_, reads := if q.store then g.reads else q.src :: g.reads,
          s := ((g.s.dropReq t q).performBank t q true).count t 0x10 1 }
      else { g with s := g.s.count t 0x18 1 } := by
  unfold Grant.rebuild
  rw [if_neg]
  · rfl
  · rw [hq, hf]
    simpa using hn

end

theorem State.modTile_congr {f g : Tile → Tile} (h : f (s.tile t) = g (s.tile t)) : s.modTile t f = s.modTile t g := by
  unfold State.modTile
  rw [h]

theorem Tile.order_empty {x : Tile} (h : x.bankq = []) : x.order = [] := by
  unfold Tile.order
  simp [h]

/-- `filterMap` looks at a list's members only. -/
theorem filterMap_congr_mem {α β : Type} {f g : α → Option β} {l : List α} (h : ∀ x ∈ l, f x = g x) : l.filterMap f = l.filterMap g := by
  induction l with
  | nil => rfl
  | cons x l ih =>
    obtain ⟨hx, hl⟩ := List.forall_mem_cons.mp h
    rw [List.filterMap_cons, List.filterMap_cons, hx, ih hl]

/-- In a cycle with no access in line, the writes under way come one cycle nearer. -/
theorem State.bankCycle_empty (h : (s.tile t).bankq = []) :
    s.bankCycle t = s.modTile t fun x => Tile.retireStep { x with
      rot := (x.rot + 1) % 6, bankq := [],
      pipe := x.pipe.filterMap fun p => if p.left ≤ 1 then none else some { p with left := p.left - 1 } } := by
  unfold State.bankCycle
  dsimp only
  rw [Tile.order_empty h]
  refine State.modTile_congr ?_
  have hp : ((s.tile t).pipe.filterMap fun p => if !(s.tile t).pipe.contains p then some p else if p.left ≤ 1 then none
      else some { p with left := p.left - 1 }) = (s.tile t).pipe.filterMap fun p => if p.left ≤ 1 then none
      else some { p with left := p.left - 1 } := by
    refine filterMap_congr_mem fun p hp => if_neg ?_
    simpa using hp
  rw [List.foldl_nil, List.foldl_nil, hp, h, List.map_nil]

theorem State.correctOne_free {pa : Nat} (h : ((s.tile t).corr.find? fun pa => s.bankFree t (bankOfPa t pa)) = some pa) :
    s.correctOne t = s.writeFix t pa := by
  unfold State.correctOne
  rw [h]

theorem State.correctOne_none (h : ((s.tile t).corr.find? fun pa => s.bankFree t (bankOfPa t pa)) = none) : s.correctOne t = s := by
  unfold State.correctOne
  rw [h]

theorem Tile.calm_iff (x : Tile) : x.calm = true ↔ x.bankq = [] ∧ x.pipe = [] ∧ x.wb = [] := by
  unfold Tile.calm
  simp [and_assoc]

theorem State.scrubNext_busy (h : (s.tile t).calm = false) : s.scrubNext t = s := by
  unfold State.scrubNext
  rw [if_pos (by simp [h])]

theorem State.scrubNext_job {i row left n : Nat} (hc : (s.tile t).calm = true) (hj : (s.tile t).scrubJob = some (i, row, left, n)) :
    s.scrubNext t = ((s.scrubRow t row).1.modTile t fun x => { x with jobs := x.jobs.modify i fun j => { j with
      work := if left ≤ 1 then .reply (BitVec.ofNat 64 (n + (s.scrubRow t row).2))
        else .scrub (row + 1) (left - 1) (n + (s.scrubRow t row).2) } }).tileReplies t := by
  unfold State.scrubNext
  rw [if_neg (by simp [hc]), hj]

theorem State.scrubNext_row (hc : (s.tile t).calm = true) (hj : (s.tile t).scrubJob = none) :
    s.scrubNext t = if modeScrub (s.modeOf (tileDie t)) || !isMemTile (tileX t) (tileY t) then s
      else (s.scrubRow t (s.tile t).scrub).1.modTile t fun x => { x with scrub := ((s.tile t).scrub + 1) % 8192 } := by
  unfold State.scrubNext
  rw [if_neg (by simp [hc]), hj]

end

/-- Settles O38: the cycle of a tile's banks, corrections, scrubbing and write-back. -/
theorem tileEvents : Obligations.TileEvents := by
  unfold Obligations.TileEvents
  refine ⟨fun s t g hg => ?_, fun g t q => ⟨Grant.direct_stands, fun need => Grant.direct_grants, fun hq hf hn => ⟨fun hc => ?_, fun hc => ?_⟩⟩,
    fun s t => ⟨fun h => ?_, fun pa h => ?_, fun h => ?_, fun h => ?_, fun hb hp hw => ⟨fun i row left n u owed k w hj hs hk => ?_,
      fun hj h => ?_, fun hj hm ht u owed n hs => ?_⟩, fun h => ?_, fun b rest h => ?_⟩⟩
  · subst hg
    rfl
  · exact (Grant.rebuild_lost hq hf hn).trans (if_neg (by simp [hc]))
  · exact (Grant.rebuild_lost hq hf hn).trans (if_pos hc)
  · exact congrArg (fun u => Host.Outcome.next (State.tileReplies u t)) (State.bankCycle_empty h)
  · exact congrArg Host.Outcome.next (State.correctOne_free h)
  · refine congrArg Host.Outcome.next (State.correctOne_none ?_)
    rw [List.find?_eq_none]
    simpa using h
  · refine congrArg Host.Outcome.next (State.scrubNext_busy ?_)
    rw [← Bool.not_eq_true, Tile.calm_iff]
    rintro ⟨hb, hp, hw⟩
    exact h.elim (absurd hb) (·.elim (absurd hp) (absurd hw))
  · have hc := (Tile.calm_iff (s.tile t)).mpr ⟨hb, hp, hw⟩
    refine congrArg Host.Outcome.next ((State.scrubNext_job hc hj).trans ?_)
    unfold State.scrubRow
    rw [hs, hk]
  · have hc := (Tile.calm_iff (s.tile t)).mpr ⟨hb, hp, hw⟩
    refine congrArg Host.Outcome.next ((State.scrubNext_row hc hj).trans (if_pos ?_))
    rcases h with h | h <;> simp [h]
  · have hc := (Tile.calm_iff (s.tile t)).mpr ⟨hb, hp, hw⟩
    refine congrArg Host.Outcome.next ((State.scrubNext_row hc hj).trans ((if_neg (by simp [hm, ht])).trans ?_))
    unfold State.scrubRow
    rw [hs]
  · refine congrArg Host.Outcome.next ?_
    unfold State.writeBackOne
    rw [h]
  · refine congrArg Host.Outcome.next ?_
    unfold State.writeBackOne
    rw [h]

section
variable {s u : Machine.State} {t idx k : Nat}

/-! ### Held records and REPLAY -/

theorem State.appendHeld_cons {r : Record} {rest : List Record} (h : (s.lan k).heldRecs = r :: rest) :
    s.appendHeld k = if (s.lan k).ringFull && !s.foldsInto k r then s
      else (s.modLan k fun l => { l with heldRecs := rest }).writeRecord k r := by
  unfold State.appendHeld
  rw [h]

theorem State.replayRetry_some {i : Nat} (h : s.hub.replays.findIdx? (fun r => decide (replayLead r.2 = k)) = some i)
    (hu : u = (s.modHub fun h => { h with replays := h.replays.eraseIdx i }).askRetries k) :
    s.replayRetry k = (u.waiters k).foldl (fun u w => u.retry w.2) u := by
  have hany : (s.hub.replays.any fun r => decide (replayLead r.2 = k)) = true := by
    rw [← List.findIdx?_isSome, h]
    rfl
  unfold State.replayRetry
  rw [if_pos hany, hu]
  unfold State.modHub
  dsimp only
  rw [h]

/-! ### Walks made ahead -/

section
variable {r : EReq}

theorem State.walkRequest_none (h : (s.tile t).reqs[idx]? = none) : s.walkRequest t idx = s := by
  unfold State.walkRequest
  rw [h]

theorem State.walkRequest_stands (h : (s.tile t).reqs[idx]? = some r)
    (hw : r.st ≠ .new ∨ s.leadOfTile (elTile r.el) = none ∨ r.op.isSync = true ∧ r.va.toNat < 0x10000) : s.walkRequest t idx = s := by
  unfold State.walkRequest
  rw [h]
  dsimp only
  split
  · rfl
  · next hn =>
    split
    · rfl
    · next k hl =>
      refine if_pos ?_
      obtain ⟨ho, hv⟩ := (hw.resolve_left hn).resolve_left (by simp [hl])
      simpa [ho] using hv

/-- The walk for a request that waits for nothing and whose address has to be translated. -/
structure Walks (s : Machine.State) (t idx k : Nat) (r : EReq) : Prop where
  listed : (s.tile t).reqs[idx]? = some r
  fresh : r.st = .new
  lead : s.leadOfTile (elTile r.el) = some k
  virtual : r.op.isSync = false ∨ 0x10000 ≤ r.va.toNat

theorem State.walkRequest_ok {ps : List (Nat × Nat × PaKind × Bool)} (h : Walks s t idx k r) (hp : s.reqPlaces k t r = (.ok ps, u)) :
    s.walkRequest t idx = u := by
  unfold State.walkRequest
  rw [h.listed]
  dsimp only
  rw [if_neg (Classical.not_not.mpr h.fresh), h.lead]
  dsimp only
  rw [if_neg, hp]
  rcases h.virtual with hv | hv <;> simp [hv]

theorem State.walkRequest_error {va reason : Nat} (h : Walks s t idx k r) (hp : s.reqPlaces k t r = (.error (va, reason), u)) :
    s.walkRequest t idx = u.waitXlate t r (BitVec.ofNat 64 va) reason := by
  unfold State.walkRequest
  rw [h.listed]
  dsimp only
  rw [if_neg (Classical.not_not.mpr h.fresh), h.lead]
  dsimp only
  rw [if_neg, hp]
  rcases h.virtual with hv | hv <;> simp [hv]

end

section
variable {p : Nat} {g : Prog} {r : StreamReq} {x : Handle}

theorem State.walkStream_none (h : (s.port p).prog = none ∨ (s.port p).outq[idx]? = none) : s.walkStream p idx = s := by
  unfold State.walkStream
  dsimp only
  split
  · next g r hg hr => rcases h with h | h <;> simp_all
  · rfl

/-- The element at index `idx` of a port's queue, with the program that runs and the handle. -/
structure ElemAt (s : Machine.State) (p idx : Nat) (g : Prog) (r : StreamReq) (x : Handle) : Prop where
  prog : (s.port p).prog = some g
  listed : (s.port p).outq[idx]? = some r
  handle : (s.port p).hs.find r.h = some x

theorem State.walkStream_stands (h : ElemAt s p idx g r x) (hn : r.st ≠ .new ∨ r.idx ≠ none) : s.walkStream p idx = s := by
  unfold State.walkStream
  dsimp only
  rw [h.prog, h.listed]
  dsimp only
  rw [h.handle]
  exact if_neg fun hc => hn.elim (· hc.1) (· hc.2)

theorem State.walkStream_ok {ps : List (Nat × Nat × PaKind × Bool)} (h : ElemAt s p idx g r x) (hn : r.st = .new) (hi : r.idx = none)
    (hp : s.elemPlaces p (s.port p) g x r = (.ok ps, u)) : s.walkStream p idx = u := by
  unfold State.walkStream
  dsimp only
  rw [h.prog, h.listed]
  dsimp only
  rw [h.handle]
  dsimp only
  rw [if_pos ⟨hn, hi⟩, hp]

theorem State.walkStream_error {va reason : Nat} (h : ElemAt s p idx g r x) (hn : r.st = .new) (hi : r.idx = none)
    (hp : s.elemPlaces p (s.port p) g x r = (.error (va, reason), u)) :
    s.walkStream p idx = u.waitElem p g x r (BitVec.ofNat 64 va) reason := by
  unfold State.walkStream
  dsimp only
  rw [h.prog, h.listed]
  dsimp only
  rw [h.handle]
  dsimp only
  rw [if_pos ⟨hn, hi⟩, hp]

end

section
variable {die ch : Nat} {c : Chan} {p : CopyPlan} {f : Option CopyFail}

theorem State.walkCopy_absent (h : s.chans.find (chanKey die ch) = none) : s.walkCopy die ch = s := by
  unfold State.walkCopy
  rw [h]

/-- A copy within the package whose walks may be made: the first fault of its two sides, if there is one, decides. -/
theorem State.walkCopy_local (h : s.chans.find (chanKey die ch) = some c) (hw : c.wait = false) (ht : c.total < 2 ^ 40)
    (hk : c.kind ≠ .remote) (hp : p = s.copyPlan die c) (hf : f = earlier p.src p.dst) :
    s.walkCopy die ch = f.elim p.s fun x => if x.code = 0
      then p.s.copyFails die ch c x (copyAccess (decide (p.src.map (·.off) ≠ f.map (·.off)))) else p.s := by
  subst hf hp
  unfold State.walkCopy
  rw [h]
  dsimp only
  rw [if_neg (by simp [hw]; omega)]
  split
  · next hr => exact absurd hr hk
  · cases earlier (s.copyPlan die c).src (s.copyPlan die c).dst <;> rfl

end

theorem State.walkLantern_stands (hu : u = { s with focus := k })
    (h : u.cur.st ≠ .run ∨ u.cur.xheld.isSome = true ∨ ∀ reason, (u.fetch k).1 ≠ .held reason) : s.walkLantern k = u := by
  unfold State.walkLantern
  dsimp only
  rw [← hu]
  split
  · rfl
  · next hc =>
    rw [not_or, Classical.not_not] at hc
    split
    · next reason hf => exact absurd hf ((h.resolve_left (Classical.not_not.mpr hc.1)).resolve_left hc.2 reason)
    · rfl

theorem State.walkLantern_held {reason : Nat} (hu : u = { s with focus := k }) (hr : u.cur.st = .run) (hx : u.cur.xheld = none)
    (hf : (u.fetch k).1 = .held reason) : s.walkLantern k = (u.fetch k).2.holdAccess reason accFetch u.cur.pc := by
  unfold State.walkLantern
  dsimp only
  rw [← hu, if_neg (by simp [hr, hx]), hf]

theorem State.replayWrite_refused {q : Nat} {v : Word} (h : 2 ^ 11 ≤ v.toNat ∨ 98 ≤ v.toNat / 16 % 128 ∨ 8 ≤ v.toNat % 16 ∨
    (s.lan (lanOf (v.toNat % 16) (v.toNat / 16 % 128))).st = .idle) :
    s.replayWrite q v = s.modHub fun h => { h with refusedWrites := h.refusedWrites ++ [(0x200, v)] } := by
  refine if_pos ?_
  rcases h with h | h
  · exact .inl (by omega)
  · exact .inr h

theorem State.replayWrite_kept {q : Nat} {v : Word} (h : v.toNat < 2 ^ 11) (hl : v.toNat / 16 % 128 < 98) (hd : v.toNat % 16 < 8)
    (hs : (s.lan (lanOf (v.toNat % 16) (v.toNat / 16 % 128))).st ≠ .idle) :
    s.replayWrite q v = s.modHub fun h => { h with replays := h.replays ++ [(q, v)] } := by
  refine if_neg ?_
  rintro (h' | h' | h' | h')
  · omega
  · omega
  · omega
  · exact hs h'

end

/-- Settles O39: held records, REPLAY and its retry, and the walks made ahead of an access. -/
theorem faultsReplay : Obligations.FaultsReplay := by
  unfold Obligations.FaultsReplay
  intro s k
  refine ⟨fun h => ?_, fun r rest h => ⟨fun hf hn => ?_, fun hf => ?_⟩, fun q v h => congrArg Host.Outcome.next (State.replayWrite_refused h),
    fun q v h hl hd hs => congrArg Host.Outcome.next (State.replayWrite_kept h hl hd hs), fun h => ?_,
    fun i u h hu => congrArg Host.Outcome.next (State.replayRetry_some h hu), fun t idx h => congrArg Host.Outcome.next (State.walkRequest_none h),
    fun t idx r u hr => ⟨fun h => congrArg Host.Outcome.next (State.walkRequest_stands hr h), fun hn hl hv => ⟨fun ps hp => ?_, fun va reason hp => ?_⟩⟩,
    fun p idx g r x u hg hr hx => ⟨fun h => ?_, fun hn hi => ⟨fun ps hp => ?_, fun va reason hp => ?_⟩⟩,
    fun p idx h => congrArg Host.Outcome.next (State.walkStream_none h), fun die ch => rfl,
    fun die ch h => congrArg Host.Outcome.next (State.walkCopy_absent h),
    fun die ch c p f hc hw ht hk hp hf => ?_,
    fun u hu => ⟨fun h => congrArg Host.Outcome.next (State.walkLantern_stands hu h),
      fun reason hr hx hf => congrArg Host.Outcome.next (State.walkLantern_held hu hr hx hf)⟩⟩
  · refine congrArg Host.Outcome.next ?_
    unfold State.appendHeld
    rw [h]
  · exact congrArg Host.Outcome.next ((State.appendHeld_cons h).trans (if_pos (by simp [hf, hn])))
  · exact congrArg Host.Outcome.next ((State.appendHeld_cons h).trans (if_neg (by rcases hf with hf | hf <;> simp [hf])))
  · refine congrArg Host.Outcome.next (if_neg ?_)
    simpa using fun a b hab => h (a, b) hab
  · exact congrArg Host.Outcome.next (State.walkRequest_ok ⟨hr, hn, hl, hv⟩ hp)
  · exact congrArg Host.Outcome.next (State.walkRequest_error ⟨hr, hn, hl, hv⟩ hp)
  · exact congrArg Host.Outcome.next (State.walkStream_stands ⟨hg, hr, hx⟩ h)
  · exact congrArg Host.Outcome.next (State.walkStream_ok ⟨hg, hr, hx⟩ hn hi hp)
  · exact congrArg Host.Outcome.next (State.walkStream_error ⟨hg, hr, hx⟩ hn hi hp)
  · have hall := State.walkCopy_local hc hw ht hk hp hf
    refine ⟨fun hz => ?_, fun x hx hcode => ?_, fun x hx hcode => ?_⟩
    · subst hz
      exact congrArg Host.Outcome.next hall
    · rw [hx] at hall
      exact congrArg Host.Outcome.next (hall.trans (if_neg hcode))
    · rw [hx] at hall
      rw [hx]
      exact congrArg Host.Outcome.next (hall.trans (if_pos hcode))

end Sys2Proof
end

section
/-! ## R343 to R345, R355 to R365, R370: the commands of a Lantern's matrix array -/

namespace Sys2Proof

open Sys2Proof.Machine

section
variable {s u v t : Machine.State} {rd ra rb : Reg} {a : Array2} {i : Instr}

theorem became_modCur {f : Lantern → Lantern} {l : Lantern} (he : exec i s = .next t) (ht : t = u.modCur f) (hl : f u.cur = l) :
    Ends i s (Became l u) := by
  subst ht
  exact ⟨_, he, State.onlyLan_modLan .., (State.cur_modCur ..).trans hl⟩

theorem mx_performLoads : (s.performLoads s.focus).cur.mx = s.cur.mx := by
  obtain ⟨-, -, hloads, -⟩ := State.loadsOnly_performLoads s s.focus
  have h := congrArg Lantern.mx hloads
  unfold State.cur
  rw [focus_performLoads]
  exact h

theorem Array2.idle_iff : a.idle = true ↔ a.run = none ∧ a.cmd = none ∧ a.snapq = none ∧ a.susp = none := by
  unfold Array2.idle
  simp [Option.isNone_iff_eq_none, and_assoc]

/-! ### Commands that the array takes on -/

theorem State.mxAccept_eq (hu : u = s.performLoads s.focus) (c : MxCmd) :
    s.mxAccept a c = u.modCur fun l => ({ l with mx := some { a with cmd := some c } }.block c.rd).advance 1 := by
  unfold State.mxAccept
  have hf : s.focus = u.focus := by rw [hu, focus_performLoads]
  rw [← hu, hf]
  exact State.modCur_modCur ..

theorem State.mxwl_off {fmt : BitVec 4} (hf : mxFmtOk fmt.toNat = true) (h : s.cur.mx = none) : s.mxwl rd ra rb fmt = s.mxFail rd 8 := by
  unfold State.mxwl
  rw [if_neg (by simp [hf]), h]

theorem State.mxwl_on {fmt : BitVec 4} (hf : mxFmtOk fmt.toNat = true) (h : s.cur.mx = some a) :
    s.mxwl rd ra rb fmt = if a.idle || (a.cmd.isNone && a.snapq.isNone && a.run.elim false MxRun.last) then
      s.mxAccept a ⟨.wl fmt, rd, s.x ra, s.x rb, none, false, none⟩ else s := by
  unfold State.mxwl
  rw [if_neg (by simp [hf]), h]
  dsimp only
  cases a.run <;> rfl

theorem State.mxout_off {fmt : BitVec 4} (hf : fmt.toNat < 4 ∨ fmt.toNat = 12) (h : s.cur.mx = none) : s.mxout rd ra rb fmt = s.mxFail rd 8 := by
  unfold State.mxout
  rw [if_neg (by simp [hf]), h]

theorem State.mxout_on {fmt : BitVec 4} (hf : fmt.toNat < 4 ∨ fmt.toNat = 12) (h : s.cur.mx = some a) :
    s.mxout rd ra rb fmt = if a.idle then s.mxAccept a ⟨.out fmt, rd, s.x ra, s.x rb, none, false, none⟩ else s := by
  unfold State.mxout
  rw [if_neg (by simp [hf]), h]

theorem State.mxrest_off (h : s.cur.mx = none) : s.mxrest rd ra = s.mxFail rd 8 := by
  unfold State.mxrest
  rw [h]

theorem State.mxrest_on (h : s.cur.mx = some a) :
    s.mxrest rd ra = if a.idle then s.mxAccept a ⟨.rest, rd, s.x ra, 0#64, none, false, none⟩ else s := by
  unfold State.mxrest
  rw [h]

theorem accepts {c : MxCmd} {l : Lantern} (hu : u = s.performLoads s.focus) (he : exec i s = .next (s.mxAccept a c))
    (hl : ({ u.cur with mx := some { a with cmd := some c } }.block c.rd).advance 1 = l) : Ends i s (Became l u) :=
  became_modCur he (State.mxAccept_eq hu c) hl

/-! ### MXOFF, MXZERO, MXPRM -/

theorem State.mxoff_off (hu : u = s.performLoads s.focus) (h : s.cur.mx = none) : s.mxoff rd = u.retireReg rd 1#64 1 := by
  unfold State.mxoff
  rw [h, hu]

theorem State.mxoff_on (hu : u = s.performLoads s.focus) (h : s.cur.mx = some a) :
    s.mxoff rd = if a.idle then ((u.mxAccrue u.focus).mxDiscard u.focus).retireReg rd 0#64 1 else s := by
  unfold State.mxoff
  rw [h, hu, focus_performLoads]

theorem State.mxzero_off (hu : u = s.performLoads s.focus) (h : s.cur.mx = none) : s.mxzero = u.retire 1 := by
  unfold State.mxzero
  rw [h, hu]

theorem State.mxzero_on (hu : u = s.performLoads s.focus) (h : s.cur.mx = some a) :
    s.mxzero = if a.idle then u.modCur fun l => { l with mx := some { a with acc := [], mxks := 0#64, shv := false } }.advance 1 else s := by
  have hf : s.focus = u.focus := by rw [hu, focus_performLoads]
  unfold State.mxzero
  rw [h]
  dsimp only
  rw [← hu, hf]
  refine ite_congr rfl (fun _ => ?_) fun _ => rfl
  exact State.modCur_modCur ..

section
variable {k : BitVec 32} {c : Bool}

theorem State.mxprm_eq (hu : u = s.performLoads s.focus) (hk : ¬ (6 ≤ k.toNat ∨ c = true ∧ k.toNat ≠ 1)) :
    s.mxprm c rd k = u.cur.mx.elim (u.retireReg rd 0#64 1) fun a =>
      (if c then u.setMx u.focus { a with mxovf := 0#64 } else u).retireReg rd (a.status k.toNat) 1 := by
  unfold State.mxprm
  rw [if_neg hk, ← hu]
  dsimp only
  cases u.cur.mx <;> rfl

theorem State.mxprm_on (hu : u = s.performLoads s.focus) (hk : ¬ (6 ≤ k.toNat ∨ c = true ∧ k.toNat ≠ 1)) (h : s.cur.mx = some a) :
    s.mxprm c rd k = u.modCur fun l =>
      ({ l with mx := if c then some { a with mxovf := 0#64 } else l.mx }.setReg rd (a.status k.toNat)).advance 1 := by
  have hmx : u.cur.mx = some a := by rw [hu, mx_performLoads, h]
  rw [State.mxprm_eq hu hk, hmx]
  dsimp only [Option.elim]
  cases c with
  | true => exact State.modCur_modCur ..
  | false => rfl

end

/-! ### MXRUN -/

theorem State.mxrun_on (hal : (s.x ra).toNat % 64 = 0) (h : s.cur.mx = some a) (hi : a.idle = false) : s.mxrun rd ra rb = s := by
  unfold State.mxrun
  dsimp only
  rw [if_neg (by omega), h]
  dsimp only
  rw [if_pos (by simp [hi])]

theorem State.mxrun_off (hal : (s.x ra).toNat % 64 = 0) (h : s.cur.mx = none) : s.mxrun rd ra rb = s.mxFail rd 8 := by
  unfold State.mxrun
  dsimp only
  rw [if_neg (by omega), h]

/-- What MXRUN does with the descriptor `d` that it has read. -/
def State.mxStart (v : Machine.State) (rd : Reg) (n : Word) (a : Array2) (d : List Byte) : Machine.State :=
  if descBad d ∨ 2 ^ 32 ≤ n.toNat then v.mxFail rd 10
  else if n.toNat = 0 then v.retireReg rd 0#64 1
  else ((v.setMx v.focus { (if a.shv then a.swap else a) with
      run := some { MxRun.fresh d n.toNat 0 rd with loaded := a.shv, fed := a.shv }, shv := false, slow := false,
      lastM := mxM d }).startWait v.focus).modCur fun l => (l.block rd).advance 1

theorem State.mxrun_read {d : List Byte} (hu : u = s.performLoads s.focus) (hal : (s.x ra).toNat % 64 = 0) (h : s.cur.mx = some a)
    (hi : a.idle = true) (hr : u.readVirt (s.x ra) 64 1 = .ok d v) : s.mxrun rd ra rb = State.mxStart v rd (s.x rb) a d := by
  unfold State.mxrun
  dsimp only
  rw [if_neg (by omega), h]
  dsimp only
  rw [if_neg (by simp [hi]), ← hu, hr]
  rfl

/-! ### MXSNAP -/

theorem State.mxsnap_stands (h : s.cur.mx = some a) (hw : a.snapq ≠ none ∨ a.susp ≠ none ∨ a.run = none ∧ a.cmd ≠ none) :
    s.mxsnap rd ra = s := by
  unfold State.mxsnap
  rw [h]
  refine if_neg ?_
  rw [Bool.and_eq_true, Bool.and_eq_true, Bool.or_eq_true, Option.isNone_iff_eq_none, Option.isNone_iff_eq_none,
    Option.isNone_iff_eq_none, Option.isSome_iff_ne_none]
  rintro ⟨⟨hq, hs⟩, hrun⟩
  exact hw.elim (absurd hq) (·.elim (absurd hs) fun hr => hrun.elim (absurd hr.1) (absurd · hr.2))

theorem State.mxsnap_free (hu : u = s.performLoads s.focus) (h : s.cur.mx = some a) (hq : a.snapq = none) (hs : a.susp = none)
    (hr : a.run ≠ none ∨ a.cmd = none) :
    s.mxsnap rd ra = if (s.x ra).toNat % 64 ≠ 0 then s.mxFail rd 10
      else State.trySnap ((u.setMx u.focus { a with snapq := some ⟨.snap, rd, s.x ra, 0#64, none, false, none⟩ }).modCur fun l =>
        (l.block rd).advance 1) u.focus := by
  have hf : s.focus = u.focus := by rw [hu, focus_performLoads]
  unfold State.mxsnap
  rw [h]
  dsimp only
  rw [if_pos, ← hu, hf]
  · rfl
  · rw [Bool.and_eq_true, Bool.and_eq_true, Bool.or_eq_true, Option.isNone_iff_eq_none, Option.isNone_iff_eq_none,
      Option.isNone_iff_eq_none, Option.isSome_iff_ne_none]
    exact ⟨⟨hq, hs⟩, hr⟩

theorem State.trySnap_run {k : Nat} {r : MxRun} (h : (s.lan k).mx = some a) (hr : a.run = some r) :
    s.trySnap k = if a.snapq.isSome && r.atBoundary then (s.suspendRun k true).startSnap k else s := by
  unfold State.trySnap
  rw [h]
  dsimp only
  rw [hr]

theorem State.trySnap_idle {k : Nat} (h : (s.lan k).mx = some a) (hr : a.run = none) : s.trySnap k = s.startSnap k := by
  unfold State.trySnap
  rw [h]
  dsimp only
  rw [hr]

theorem State.startSnap_some {k : Nat} {c : MxCmd} (h : (s.lan k).mx = some a) (hq : a.snapq = some c) (hr : a.run = none) (hc : a.cmd = none) :
    s.startSnap k = s.setMx k { a with snapq := none, cmd := some c, shv := false } := by
  unfold State.startSnap
  rw [h]
  dsimp only
  rw [hq]
  dsimp only
  rw [if_pos (by simp [hr, hc])]

/-- The state in which a snapshot has been asked for: its command waits in `snapq`. -/
def State.askSnap (u : Machine.State) (rd : Reg) (a : Array2) (c : MxCmd) : Machine.State :=
  (u.setMx u.focus { a with snapq := some c }).modCur fun l => (l.block rd).advance 1

theorem State.askSnap_eq (c : MxCmd) :
    State.askSnap u rd a c = u.modCur fun l => ({ l with mx := some { a with snapq := some c } }.block rd).advance 1 :=
  State.modCur_modCur ..

theorem Lantern.mx_block (l : Lantern) (r : Reg) : (l.block r).mx = l.mx := by
  unfold Lantern.block
  split <;> rfl

theorem State.mx_askSnap (c : MxCmd) : ((State.askSnap u rd a c).lan u.focus).mx = some { a with snapq := some c } := by
  rw [State.askSnap_eq, State.lan_modCur_focus]
  exact Lantern.mx_block _ rd

/-- An idle array takes a snapshot on at once. -/
theorem State.trySnap_askSnap_idle (c : MxCmd) (hi : a.idle = true) :
    State.trySnap (State.askSnap u rd a c) u.focus = u.modCur fun l =>
      { (({ l with mx := some a }.block rd).advance 1) with mx := some { a with cmd := some c, shv := false } } := by
  obtain ⟨hr, hc, hq, -⟩ := Array2.idle_iff.mp hi
  rw [State.trySnap_idle (State.mx_askSnap c) hr, State.startSnap_some (State.mx_askSnap c) rfl hr hc, State.askSnap_eq]
  refine (State.modCur_modCur ..).trans (congrArg u.modCur (funext fun l => ?_))
  unfold Lantern.block
  dsimp only
  rw [hq]
  split <;> rfl

theorem State.mxprio_eq {level : BitVec 32} (hu : u = s.performLoads s.focus) (hl : level.toNat < 8) {p : Nat}
    (hp : p = if s.cur.sup then level.toNat else min level.toNat (s.arb (lanDie s.focus)).pmax) :
    s.mxprio rd level = u.modCur fun l => ({ l with mxPrio := p }.setReg rd (BitVec.ofNat 64 p)).advance 1 := by
  unfold State.mxprio
  rw [if_neg (by omega), ← hp, ← hu]
  exact State.modCur_modCur ..

end

/-- Settles O40: each command with the array off, idle and busy. -/
theorem matrixCommands : Obligations.MatrixCommands := by
  unfold Obligations.MatrixCommands
  intro s u rd ra rb fmt k level c hu
  have hf : s.focus = u.focus := by rw [hu, focus_performLoads]
  refine ⟨fun h => ?_, fun h => ?_, fun h => ?_, fun h => ?_, fun h => ?_, fun h => ?_, fun h => ?_, fun h => ?_, fun a h => ?_, ?_, fun h => ?_⟩
  · refine wrote_of rfl ?_
    unfold State.mxon
    dsimp only
    rw [if_neg h, ← hu]
  · refine congrArg Host.Outcome.next (?_ : s.mxon rd ra = _)
    unfold State.mxon
    dsimp only
    rw [if_pos h, ← hu, h]
    rfl
  · exact illop_of rfl (if_pos (by simpa using h))
  · exact illop_of rfl (if_pos (by simpa using h))
  · exact trap_of rfl (if_pos h)
  · exact illop_of rfl (if_pos h)
  · exact illop_of rfl (if_pos h)
  · refine ⟨wrote_of rfl (State.mxoff_off hu h), fun hk => wrote_of rfl (State.mxwl_off hk h), fun hk => wrote_of rfl (State.mxout_off hk h),
      fun hal => wrote_of rfl (State.mxrun_off hal h), fun hk hc => wrote_of rfl ?_, became_modCur rfl (State.mxzero_off hu h) rfl, wrote_of rfl ?_,
      wrote_of rfl (State.mxrest_off h)⟩
    · refine (State.mxprm_eq hu fun h => h.elim (Nat.not_le.mpr hk) fun h => h.2 (hc h.1)).trans ?_
      rw [hu, mx_performLoads, h]
      rfl
    · show s.mxsnap rd ra = s.mxFail rd 8
      unfold State.mxsnap
      rw [h]
  · refine ⟨fun hk hc => ?_, fun hi => ⟨?_, fun hk => ?_, fun hal => ?_, ?_, ?_, fun d v hal hr => ?_⟩, fun hi => ⟨?_, ?_, ?_, fun hal => ?_, fun hk => ?_⟩,
      fun hk => ⟨fun hfree => ?_, fun hi hb => ?_⟩, fun hw => congrArg Host.Outcome.next (State.mxsnap_stands h hw), fun hq hs hr => ⟨fun hal => ?_, fun hal v hv => ?_⟩⟩
    · refine became_modCur rfl (State.mxprm_on hu (fun h => h.elim (Nat.not_le.mpr hk) fun h => h.2 (hc h.1)) h) ?_
      cases c with
      | true => rfl
      | false =>
        have hmx : u.cur.mx = some a := by rw [hu, mx_performLoads, h]
        simp only [Bool.false_eq_true, if_false, hmx]
    · exact congrArg Host.Outcome.next ((State.mxoff_on hu h).trans (if_pos hi))
    · exact accepts hu (congrArg Host.Outcome.next ((State.mxout_on hk h).trans (if_pos hi))) rfl
    · obtain ⟨-, hc, hq, hs⟩ := Array2.idle_iff.mp hi
      exact became_modCur rfl ((State.mxsnap_free hu h hq hs (.inr hc)).trans ((if_neg (Classical.not_not.mpr hal)).trans
        (State.trySnap_askSnap_idle _ hi))) rfl
    · exact accepts hu (congrArg Host.Outcome.next ((State.mxrest_on h).trans (if_pos hi))) rfl
    · exact became_modCur rfl ((State.mxzero_on hu h).trans (if_pos hi)) rfl
    · have hrun := State.mxrun_read (rd := rd) (rb := rb) hu hal h hi hr
      refine ⟨fun hb => wrote_of rfl (hrun.trans (if_pos hb)), fun hb hn => wrote_of rfl (hrun.trans ((if_neg ?_).trans (if_pos hn))),
        fun hb hlt hn => congrArg Host.Outcome.next (hrun.trans ((if_neg ?_).trans (if_neg hn)))⟩
      · rw [hb, hn]
        simp
      · rw [hb]
        simpa using hlt
    · exact congrArg Host.Outcome.next ((State.mxoff_on hu h).trans (if_neg (by simp [hi])))
    · exact congrArg Host.Outcome.next ((State.mxzero_on hu h).trans (if_neg (by simp [hi])))
    · exact congrArg Host.Outcome.next ((State.mxrest_on h).trans (if_neg (by simp [hi])))
    · exact congrArg Host.Outcome.next (State.mxrun_on hal h hi)
    · exact congrArg Host.Outcome.next ((State.mxout_on hk h).trans (if_neg (by simp [hi])))
    · refine accepts hu (congrArg Host.Outcome.next ((State.mxwl_on hk h).trans (if_pos ?_))) rfl
      rcases hfree with hi | ⟨hc, hq, r, hr, hl⟩
      · simp [hi]
      · simp [hc, hq, hr, hl]
    · refine congrArg Host.Outcome.next ((State.mxwl_on hk h).trans (if_neg ?_))
      rw [hi, Bool.false_or, Bool.and_eq_true, Bool.and_eq_true, Option.isNone_iff_eq_none, Option.isNone_iff_eq_none]
      rintro ⟨⟨hc, hq⟩, hr⟩
      cases hrun : a.run with
      | none => simp [hrun] at hr
      | some r =>
        rw [hrun] at hr
        exact absurd hr (by simp [((hb.resolve_left (Classical.not_not.mpr hc)).resolve_left (Classical.not_not.mpr hq)) r hrun])
    · exact wrote_of rfl ((State.mxsnap_free hu h hq hs hr).trans (if_pos hal))
    · have hsnap : ∀ r, a.run = some r → s.mxsnap rd ra = if r.atBoundary then (v.suspendRun u.focus true).startSnap u.focus else v := by
        intro r hrun
        subst hv
        refine (State.mxsnap_free hu h hq hs hr).trans ((if_neg (Classical.not_not.mpr hal)).trans ?_)
        refine (State.trySnap_run (State.mx_askSnap _) hrun).trans ?_
        rfl
      exact ⟨fun r hrun hb => congrArg Host.Outcome.next ((hsnap r hrun).trans (if_pos hb)),
        fun r hrun hb => congrArg Host.Outcome.next ((hsnap r hrun).trans (if_neg (by simp [hb])))⟩
  · subst hu
    exact wrote_of rfl rfl
  · obtain ⟨t, ht, hb⟩ := became_modCur (i := .mxprio rd level) rfl (State.mxprio_eq (rd := rd) hu h rfl) rfl
    exact ⟨t, ht, fun p hp => hp ▸ hb⟩

end Sys2Proof
end

section
/-! ## R349 to R369: what the matrix units do on their own -/

namespace Sys2Proof

open Sys2Proof.Machine

section
variable {s u v : Machine.State} {k : Nat} {a : Array2} {r : MxRun} {c : MxCmd}

/-! ### The arbiter and the k-steps -/

theorem State.kstepEnd_off (h : (s.lan k).mx = none) : s.kstepEnd k = s := by
  unfold State.kstepEnd
  rw [h]

theorem State.kstepEnd_noRun (h : (s.lan k).mx = some a) (hr : a.run = none) : s.kstepEnd k = s := by
  unfold State.kstepEnd
  rw [h]
  dsimp only
  rw [hr]

theorem State.kstepEnd_run (h : (s.lan k).mx = some a) (hr : a.run = some r) :
    s.kstepEnd k = if !r.granted then s else if r.entered then s.kstepFinish k a r else s.kstepEnter k a r := by
  unfold State.kstepEnd
  rw [h]
  dsimp only
  rw [hr]

theorem State.kstepEnd_enters (h : (s.lan k).mx = some a) (hr : a.run = some r) (hg : r.granted = true) (he : r.entered = false) :
    s.kstepEnd k = s.kstepEnter k a r :=
  (State.kstepEnd_run h hr).trans ((if_neg (by simp [hg])).trans (if_neg (by simp [he])))

theorem State.kstepEnter_held (h : heldWaits r.held = true) : s.kstepEnter k a r = s := if_pos h

theorem State.kstepEnter_ok {b : Array2} {rows : List (List Block)} (hw : heldWaits r.held = false) (h : s.kstepBlocks k a r = .ok (b, rows) u)
    (hv : v = u.setMx k { b.enterRows rows with run := some { r with fed := true, entered := true, held := none } }) :
    s.kstepEnter k a r = (if r.done + 1 = r.n then v else v.startWait k).feedAhead k := by
  subst hv
  unfold State.kstepEnter
  rw [if_neg (by simp [hw]), h]

theorem State.kstepEnter_wait {va reason : Nat} (hw : heldWaits r.held = false) (h : s.kstepBlocks k a r = .wait va reason u) :
    s.kstepEnter k a r = if reason = xlCut then u else
      ((u.feedLog k kXLATE (some (heldNext r.held u.tick va)) va (reason + 6 * 16)).setMx k { a with
        run := some { r with held := some (heldNext r.held u.tick va) } }).trySnap k := by
  unfold State.kstepEnter
  rw [if_neg (by simp [hw]), h]

theorem State.kstepEnter_err {va reason : Nat} (hw : heldWaits r.held = false) (h : s.kstepBlocks k a r = .err reason va u)
    (hv : v = u.endRun k r.rd (mxToken true false reason r.done)) :
    s.kstepEnter k a r = if reason = 4 then (v.feedLog k kPOISON none va 2).askAbort k true else v := by
  subst hv
  unfold State.kstepEnter
  rw [if_neg (by simp [hw]), h]

theorem Array2.snapq_promoteAll : a.promoteAll.snapq = a.snapq ∧ a.promoteAll.stop = a.stop := ⟨rfl, rfl⟩

theorem Array2.snapq_countKstep (p : Nat) : (a.countKstep p).snapq = a.snapq ∧ (a.countKstep p).stop = a.stop := by
  unfold Array2.countKstep
  dsimp only
  split
  · exact Array2.snapq_promoteAll
  · exact ⟨rfl, rfl⟩

theorem Array2.snapq_finished (b : Bool) (p : Nat) :
    ((if b then a.swap else a).countKstep p).snapq = a.snapq ∧ ((if b then a.swap else a).countKstep p).stop = a.stop := by
  obtain ⟨hq, hs⟩ := Array2.snapq_countKstep (a := if b then a.swap else a) p
  rw [hq, hs]
  cases b <;> exact ⟨rfl, rfl⟩

theorem State.kstepFinish_eq (hv : v = (s.setMx k { (if r.ready then a.swap else a).countKstep (mxP r.desc) with
      run := some r.next }).arbDue (lanDie k)) :
    s.kstepFinish k a r = if r.done + 1 = r.n then v.endRun k r.rd (mxToken false false 0 r.n)
      else if a.snapq.isSome then (v.suspendRun k true).startSnap k else if a.stop then v.suspendRun k false else v := by
  obtain ⟨hq, hs⟩ := Array2.snapq_finished (a := a) r.ready (mxP r.desc)
  unfold State.kstepFinish
  generalize (if r.ready then a.swap else a).countKstep (mxP r.desc) = b at hv hq hs ⊢
  subst hv
  rw [← hq, ← hs]
  rfl

/-! ### The ends of the commands -/

theorem State.mxComplete_off (h : (s.lan k).mx = none) : s.mxComplete k = s := by
  unfold State.mxComplete
  rw [h]

theorem State.mxComplete_noCmd (h : (s.lan k).mx = some a) (hc : a.cmd = none) : s.mxComplete k = s := by
  unfold State.mxComplete
  rw [h]
  dsimp only
  rw [hc]

theorem State.mxComplete_held (h : (s.lan k).mx = some a) (hc : a.cmd = some c) (hw : heldWaits c.held = true) : s.mxComplete k = s := by
  unfold State.mxComplete
  rw [h]
  dsimp only
  rw [hc]
  exact if_pos hw

/-- A command of an array that waits for no translation. -/
structure CmdDue (s : Machine.State) (k : Nat) (a : Array2) (c : MxCmd) : Prop where
  on : (s.lan k).mx = some a
  cmd : a.cmd = some c
  free : heldWaits c.held = false

theorem State.mxComplete_wl {f : BitVec 4} (h : CmdDue s k a c) (hk : c.kind = .wl f) : s.mxComplete k = s.finishWl k a c f.toNat := by
  unfold State.mxComplete
  rw [h.on]
  dsimp only
  rw [h.cmd]
  dsimp only
  rw [if_neg (by simp [h.free]), hk]

theorem State.mxComplete_out {f : BitVec 4} (h : CmdDue s k a c) (hk : c.kind = .out f) : s.mxComplete k = s.finishOut k a c f.toNat := by
  unfold State.mxComplete
  rw [h.on]
  dsimp only
  rw [h.cmd]
  dsimp only
  rw [if_neg (by simp [h.free]), hk]

theorem State.mxComplete_snap (h : CmdDue s k a c) (hk : c.kind = .snap) : s.mxComplete k = s.finishSnap k a c := by
  unfold State.mxComplete
  rw [h.on]
  dsimp only
  rw [h.cmd]
  dsimp only
  rw [if_neg (by simp [h.free]), hk]

theorem State.mxComplete_rest (h : CmdDue s k a c) (hk : c.kind = .rest) : s.mxComplete k = s.finishRest k a c := by
  unfold State.mxComplete
  rw [h.on]
  dsimp only
  rw [h.cmd]
  dsimp only
  rw [if_neg (by simp [h.free]), hk]

/-- The addresses that MXWL reads for weights of format `f`, column by column. -/
def MxCmd.weightAddrs (c : MxCmd) (a : Array2) (f : Nat) : List Word :=
  ((List.range a.c).map fun j => (List.range a.r).map fun i => c.a + BitVec.ofNat 64 i * c.b + BitVec.ofNat 64 (j * blockSize f)).flatten

theorem State.finishWl_ok {f : Nat} {bs : List (List Byte)} {cols : List (List Block)}
    (h : s.mxReadAll k c.held (blockSize f) (MxCmd.weightAddrs c a f) = .ok bs u) (hc : cols = groupsOf a.r a.c (bs.map (blockOf f))) :
    s.finishWl k a c f = (u.setMx k { a with
      shadow := weightTab a.r a.c (if f = 11 then unifyColumns cols else cols), shv := true }).endCmd k c
        (mxToken false false 0 (a.r * a.c * blockSize f)) := by
  subst hc
  unfold MxCmd.weightAddrs at h
  unfold State.finishWl
  dsimp only
  rw [h]

theorem State.cmdFailed_wait {acc va reason : Nat} :
    s.cmdFailed k c acc (.wait va reason u) = if reason = xlCut then u else
      (u.feedLog k kXLATE (some (heldNext c.held u.tick va)) va (reason + acc * 16)).modLan k fun l =>
        { l with mx := l.mx.map fun a => { a with cmd := some { c with held := some (heldNext c.held u.tick va) } } } := rfl

theorem State.finishWl_wait {f va reason : Nat} (h : s.mxReadAll k c.held (blockSize f) (MxCmd.weightAddrs c a f) = .wait va reason u) :
    s.finishWl k a c f = u.cmdFailed k c 6 (.wait va reason u) := by
  unfold MxCmd.weightAddrs at h
  unfold State.finishWl
  dsimp only
  rw [h]

theorem State.finishWl_err {f va reason : Nat} (h : s.mxReadAll k c.held (blockSize f) (MxCmd.weightAddrs c a f) = .err reason va u) :
    s.finishWl k a c f = u.cmdFailed k c 6 (.err reason va u) := by
  unfold MxCmd.weightAddrs at h
  unfold State.finishWl
  dsimp only
  rw [h]

theorem State.afterWrites_done {ps : List (List (Nat × Nat × PaKind × Bool) × List Byte)} {ok : Machine.State → Machine.State}
    (hf : c.fin = false) (hp : u.performWrites k ps = some v) (hd : v.postsDue = false) : u.afterWrites k c ps ok = ok v := by
  unfold State.afterWrites
  rw [if_neg (by simp [hf]), hp]
  exact if_neg (by simp [hd])

theorem State.finishWrites_done {ws : List (Word × List Byte)} {ps : List (List (Nat × Nat × PaKind × Bool) × List Byte)}
    {ok : Machine.State → Machine.State} (hw : s.writesAt k c.held ws = .ok ps u)
    (hf : c.fin = false) (hp : u.performWrites k ps = some v) (hd : v.postsDue = false) : s.finishWrites k c ws ok = ok v := by
  unfold State.finishWrites
  rw [hw]
  exact State.afterWrites_done hf hp hd

/-- The parts in which a save area is written. -/
def areaParts (c : MxCmd) (area : List Byte) : List (Word × List Byte) :=
  (List.range (area.length / 8)).map fun i => (c.a + BitVec.ofNat 64 (8 * i), (area.drop (8 * i)).take 8)

theorem State.finishSnap_done {area : List Byte} {ps : List (List (Nat × Nat × PaKind × Bool) × List Byte)}
    (ha : area = a.area (s.lan k).mxPrio) (hw : s.writesAt k c.held (areaParts c area) = .ok ps u)
    (hf : c.fin = false) (hp : u.performWrites k ps = some v) (hd : v.postsDue = false) :
    s.finishSnap k a c = (v.setMx k { a with susp := none }).endCmd k c (mxToken false false 0 area.length) := by
  subst ha
  unfold areaParts at hw
  unfold State.finishSnap
  dsimp only
  rw [hw]
  exact State.afterWrites_done hf hp hd

theorem State.finishRest_misaligned (h : c.a.toNat % 64 ≠ 0) : s.finishRest k a c = s.endCmd k c (mxToken true false 10 0) := if_pos h

theorem State.finishRest_badHead {hs : List (List Byte)} (hal : c.a.toNat % 64 = 0) (h : s.mxReadAll k c.held 64 [c.a, c.a + 64#64] = .ok hs u)
    (hb : areaHeadBad hs.flatten = true) : s.finishRest k a c = u.endCmd k c (mxToken true false 10 0) := by
  unfold State.finishRest
  dsimp only
  rw [if_neg (Classical.not_not.mpr hal), h]
  exact if_pos hb

/-- An area whose head is good and whose accumulators have been read. -/
theorem State.finishRest_read {hs accs : List (List Byte)} {x y n cols : Nat} (hal : c.a.toNat % 64 = 0)
    (h : s.mxReadAll k c.held 64 [c.a, c.a + 64#64] = .ok hs u) (hb : areaHeadBad hs.flatten = false)
    (hsh : shapeOf (BitVec.ofNat 64 (fieldAt hs.flatten 8 8)) = (x, y, n, cols))
    (hacc : u.mxReadAll k c.held 24 ((List.range (32 * cols)).map fun i => c.a + BitVec.ofNat 64 (128 + 24 * i)) = .ok accs v) :
    s.finishRest k a c = if accs.any accBad then v.endCmd k c (mxToken true false 10 0)
      else if n ≠ a.r ∨ cols ≠ a.c then v.endCmd k c (mxToken true false 9 0)
      else
        if ({ a.restore hs.flatten accs c.rd with cmd := none } : Array2).run.isSome
        then (v.modLan k fun l => { l with mx := some { a.restore hs.flatten accs c.rd with cmd := none }, mxPrio := fieldAt hs.flatten 6 1 }).startWait k
        else (v.modLan k fun l => { l with
          mx := some { a.restore hs.flatten accs c.rd with cmd := none }, mxPrio := fieldAt hs.flatten 6 1 }).writeToken k c.rd 0#64 := by
  unfold State.finishRest
  dsimp only
  rw [if_neg (Classical.not_not.mpr hal), h]
  dsimp only
  rw [if_neg (by simp [hb]), hsh]
  dsimp only
  rw [hacc]

theorem exec_kstepEnd (h : s.kstepEnd k = u) : exec (.kstepEnd k) s = .next u := congrArg Host.Outcome.next h

theorem exec_mxComplete (h : s.mxComplete k = u) : exec (.matrixCommandComplete k) s = .next u := congrArg Host.Outcome.next h

end

/-- Settles O41: the arbiter's decision, the two steps of a k-step, and the end of each command. -/
theorem matrixEvents : Obligations.MatrixEvents := by
  unfold Obligations.MatrixEvents
  intro s k d
  refine ⟨fun h => congrArg Host.Outcome.next (if_pos (by simp [h])), fun h => congrArg Host.Outcome.next (if_neg (by simp [h])),
    fun h => ⟨exec_kstepEnd (State.kstepEnd_off h), exec_mxComplete (State.mxComplete_off h)⟩,
    fun a h hr => exec_kstepEnd (State.kstepEnd_noRun h hr), fun a h hc => exec_mxComplete (State.mxComplete_noCmd h hc),
    fun a r h hr => ⟨fun hw => ?_, fun hg he hw => ⟨fun b rows u v hb hv => ?_, fun va u hb => ?_, fun va reason u m hb hx hm => ?_,
      fun va reason u v hb hv => ?_⟩, fun hg he v hv => ?_⟩,
    fun a c h hc => ⟨fun hw => exec_mxComplete (State.mxComplete_held h hc hw), fun hw => ?_⟩⟩
  · refine exec_kstepEnd ((State.kstepEnd_run h hr).trans ?_)
    rcases hw with hg | ⟨he, hw⟩
    · exact if_pos (by simp [hg])
    · rw [he, State.kstepEnter_held hw]
      simp
  · exact exec_kstepEnd ((State.kstepEnd_enters h hr hg he).trans (State.kstepEnter_ok hw hb hv))
  · exact exec_kstepEnd ((State.kstepEnd_enters h hr hg he).trans ((State.kstepEnter_wait hw hb).trans (if_pos rfl)))
  · subst hm
    exact exec_kstepEnd ((State.kstepEnd_enters h hr hg he).trans ((State.kstepEnter_wait hw hb).trans (if_neg hx)))
  · exact exec_kstepEnd ((State.kstepEnd_enters h hr hg he).trans (State.kstepEnter_err hw hb hv))
  · have hfin : s.kstepEnd k = _ :=
      (State.kstepEnd_run h hr).trans ((if_neg (by simp [hg])).trans ((if_pos he).trans (State.kstepFinish_eq hv)))
    refine ⟨fun hn => ?_, fun hn hq => ?_, fun hn hq hs => ?_, fun hn hq hs => ?_⟩
    · exact exec_kstepEnd (hfin.trans (if_pos hn))
    · exact exec_kstepEnd (hfin.trans ((if_neg hn).trans (if_pos (Option.isSome_iff_ne_none.mpr hq))))
    · exact exec_kstepEnd (hfin.trans ((if_neg hn).trans ((if_neg (by simp [hq])).trans (if_pos hs))))
    · exact exec_kstepEnd (hfin.trans ((if_neg hn).trans ((if_neg (by simp [hq])).trans (if_neg (by simp [hs])))))
  · have hdue : CmdDue s k a c := ⟨h, hc, hw⟩
    refine ⟨fun f feed hk hfeed => ?_, fun f b cells ps u v hk hb hcells hws hfin hp hd => ?_,
      fun f hk => exec_mxComplete (State.mxComplete_out hdue hk), fun area ps u v hk ha hws hfin hp hd => ?_,
      fun hk => exec_mxComplete (State.mxComplete_snap hdue hk), fun hk hal => ?_, fun hk hal hs u hread => ⟨fun hb => ?_, fun hb x y n cols accs v hsh hacc => ?_⟩,
      fun hk => exec_mxComplete (State.mxComplete_rest hdue hk)⟩
    · have hwl := State.mxComplete_wl hdue hk
      subst hfeed
      refine ⟨fun bs u cols hr hcols => ?_, fun va u hr => ?_, fun va reason u m hr hx hm => ?_, fun va reason u v hr hv => ?_⟩
      · exact exec_mxComplete (hwl.trans (State.finishWl_ok hr hcols))
      · exact exec_mxComplete (hwl.trans ((State.finishWl_wait hr).trans (State.cmdFailed_wait.trans (if_pos rfl))))
      · subst hm
        exact exec_mxComplete (hwl.trans ((State.finishWl_wait hr).trans (State.cmdFailed_wait.trans (if_neg hx))))
      · subst hv
        exact exec_mxComplete (hwl.trans (State.finishWl_err hr))
    · subst hb hcells
      exact exec_mxComplete ((State.mxComplete_out hdue hk).trans (State.finishWrites_done hws hfin hp hd))
    · exact exec_mxComplete ((State.mxComplete_snap hdue hk).trans (State.finishSnap_done ha hws hfin hp hd))
    · exact exec_mxComplete ((State.mxComplete_rest hdue hk).trans (State.finishRest_misaligned hal))
    · exact exec_mxComplete ((State.mxComplete_rest hdue hk).trans (State.finishRest_badHead hal hread hb))
    · have hrest := (State.mxComplete_rest hdue hk).trans (State.finishRest_read hal hread hb hsh hacc)
      refine ⟨fun ha => ?_, fun ha hn => ?_, fun ha hn hcols b w hb' hw' => ?_⟩
      · exact exec_mxComplete (hrest.trans (if_pos ha))
      · exact exec_mxComplete (hrest.trans ((if_neg (by simp [ha])).trans (if_pos hn)))
      · subst hb' hw'
        exact exec_mxComplete (hrest.trans ((if_neg (by simp [ha])).trans (if_neg (by simp [hn, hcols]))))

end Sys2Proof
end

section
/-! ## R268 to R282, R292: the instructions of a port's stream program -/

namespace Sys2Proof

open Sys2Proof.Machine

section
variable {s u : Machine.State} {p : Nat} {q : Port} {g : Prog}

/-- `g` runs at port `p`, whose turn it is. -/
structure RunsAt (s : Machine.State) (p : Nat) (q : Port) (g : Prog) : Prop where
  turn : p = s.prt
  port : q = s.port p
  prog : q.prog = some g

/-- An instruction of the running program does what its meaning `k` does there. -/
theorem onProg_next {i : Instr} {k : Nat → Port → Prog → Machine.State} (o : Out) (h : RunsAt s p q g) (he : exec i s = o)
    (ho : o = s.onProg k) (hu : k p q g = u) : exec i s = .next u := by
  obtain ⟨rfl, rfl, hg⟩ := h
  rw [he, ho]
  unfold State.onProg
  rw [hg]
  exact congrArg Host.Outcome.next hu

theorem State.modPort_congr {f f' : Port → Port} (h : f (s.port p) = f' (s.port p)) : s.modPort p f = s.modPort p f' := by
  unfold State.modPort
  rw [h]

theorem State.modHandle_some {n : Nat} {x : Handle} {f : Handle → Handle} (hx : (s.port p).hs.find n = some x) :
    s.modHandle p n f = s.modPort p fun q => { q with hs := q.hs.put n (f x) } :=
  State.modPort_congr (by rw [hx])

/-! ### Releases and loops -/

/-- How far a handle's elements are released once `n` more are asked for, or all. -/
def State.limitOf (s : Machine.State) (g : Prog) (x : Handle) (n : Nat) : Nat :=
  max x.limit (if n = 0 then s.countOf g x else min (s.countOf g x) (x.limit + n))

theorem State.release_plain {h n : Nat} {x : Handle} (hx : (s.port p).hs.find h = some x) :
    s.release p g h n none = s.modPort p fun q => { q with hs := q.hs.put h { x with limit := State.limitOf s g x n } } :=
  State.modHandle_some hx

theorem State.release_indexed {h n ibase ifmt : Nat} {x : Handle} (hx : (s.port p).hs.find h = some x) :
    s.release p g h n (some (ibase, ifmt)) = s.modPort p fun q => { q with hs := q.hs.put h { x with
      limit := State.limitOf s g x n
      idx := if x.limit < State.limitOf s g x n then
        x.idx ++ [{ first := x.limit, count := State.limitOf s g x n - x.limit, ibase := ibase, ifmt := ifmt }] else x.idx } } :=
  State.modHandle_some hx

theorem State.closeHandle_some {h lan : Nat} {x : Handle} (hx : (s.port p).hs.find h = some x) :
    s.closeHandle p h lan = (s.accrue lan x.flags).modPort p fun q =>
      { q with hs := q.hs.del h, outq := q.outq.filter fun r => decide (r.h ≠ h) } := by
  unfold State.closeHandle
  rw [hx]

section
variable {h : BitVec 2} {adv : Bool} {back : BitVec 6} {times : BitVec 16} {stp : BitVec 24} {n : Nat}

theorem sloop_waits {x : Handle} (hr : RunsAt s p q g) (ha : adv = true) (hx : q.hs.find h.toNat = some x) (hp : x.pos ≠ x.limit) :
    exec (.sloop h adv back times stp) s = .next s :=
  onProg_next (execSloop h adv back times stp s) hr rfl rfl (if_pos (by simp [ha, hx, hp]))

/-- With ADV, every released element of the loop's handle has been issued. -/
def LoopReady (q : Port) (h : BitVec 2) (adv : Bool) : Prop := adv = true → ∀ x, q.hs.find h.toNat = some x → x.pos = x.limit

theorem LoopReady.notWaiting (hw : LoopReady q h adv) : ¬ (adv && (q.hs.find h.toNat).any fun x => decide (x.pos ≠ x.limit)) = true := by
  rw [Bool.and_eq_true]
  rintro ⟨ha, hx⟩
  cases hf : q.hs.find h.toNat with
  | none => simp [hf] at hx
  | some x => simp [hf, hw ha x hf] at hx

theorem sloop_ends (hr : RunsAt s p q g) (hw : LoopReady q h adv) (hn : (g.loops.find g.pc).getD times.toNat - 1 = 0) :
    exec (.sloop h adv back times stp) s = .next (s.modProg p fun g => { g with loops := g.loops.del g.pc, pc := g.pc + 1 }) :=
  onProg_next (execSloop h adv back times stp s) hr rfl rfl ((if_neg hw.notWaiting).trans (if_neg (by omega)))

theorem sloop_repeats (hr : RunsAt s p q g) (hw : LoopReady q h adv) (hn : n = (g.loops.find g.pc).getD times.toNat - 1) (h0 : 0 < n) :
    exec (.sloop h adv back times stp) s = .next ((if adv then s.modHandle p h.toNat fun x =>
        { x with line := x.line + stp.signExtend 64, cur := x.line + stp.signExtend 64 } else s).modProg p fun g =>
      { g with loops := g.loops.put g.pc n, pc := g.pc - back.toNat }) := by
  subst hn
  exact onProg_next (execSloop h adv back times stp s) hr rfl rfl ((if_neg hw.notWaiting).trans (if_pos h0))

end

/-! ### VOPEN and MLAY -/

section
variable {win : BitVec 2} {ent : BitVec 11} {first nw : BitVec 17}

/-- Whether a window of the port's tile is its program's own, and still waits for its entries. -/
def State.ownWin (s : Machine.State) (p : Nat) (g : Prog) (k : Nat) : Bool :=
  ((s.tile (portTile p)).wins.find k).any fun w => decide (w.ent = 0 ∧ w.port = p ∧ k ∈ g.wins)

/-- Whether a window of the port's tile has the number, or holds one of the words. -/
def State.winClash (s : Machine.State) (p k first nw : Nat) : Bool :=
  (s.tile (portTile p)).wins.any fun e => decide (e.1 = k ∨ (first < e.2.first + e.2.nw ∧ e.2.first < first + nw))

theorem State.winClash_iff {k f n : Nat} : State.winClash s p k f n = true ↔
    ∃ e ∈ (s.tile (portTile p)).wins, e.1 = k ∨ (f < e.2.first + e.2.nw ∧ e.2.first < f + n) := by
  unfold State.winClash
  rw [List.any_eq_true]
  simp only [decide_eq_true_eq]

theorem vopen_clash (hr : RunsAt s p q g) (hm : State.ownWin s p g win.toNat = false) (hc : State.winClash s p win.toNat first.toNat nw.toNat = true) :
    exec (.vopen win ent first nw) s = .next ((s.portLog p g kVERREC 0#36 0#64 5).stepProg p 1) := by
  refine onProg_next (execVopen win ent first nw s) hr rfl rfl ?_
  unfold State.ownWin at hm
  unfold State.winClash at hc
  dsimp only
  rw [hc, if_pos]
  cases hw : (s.tile (portTile p)).wins.find win.toNat with
  | none => rfl
  | some w =>
    rw [hw, Option.any_some] at hm
    simp only [hm, Bool.not_false, Bool.and_self]

/-- The window that VOPEN opens: with its entries where the tile has them. -/
def opened (s : Machine.State) (p : Nat) (ent : BitVec 11) (first nw : BitVec 17) : Win :=
  { first := first.toNat, nw := nw.toNat, ent := if ent.toNat ≤ (s.tile (portTile p)).freeEnts then ent.toNat else 0, p := 0, port := p }

theorem vopen_opens (hr : RunsAt s p q g) (hc : State.ownWin s p g win.toNat = true ∨ State.winClash s p win.toNat first.toNat nw.toNat = false)
    (hu : u = if State.ownWin s p g win.toNat then (s.modTile (portTile p) fun x => { x with wins := x.wins.put win.toNat (opened s p ent first nw) })
      else (s.modTile (portTile p) fun x => { x with wins := x.wins.put win.toNat (opened s p ent first nw) }).modProg p
        fun g => { g with wins := g.wins ++ [win.toNat] }) :
    exec (.vopen win ent first nw) s = .next (if ent.toNat ≤ (s.tile (portTile p)).freeEnts then u.stepProg p 1 else u) := by
  refine onProg_next (execVopen win ent first nw s) hr rfl rfl ?_
  have hfit : ∀ b : Bool, (decide (ent.toNat ≤ (s.tile (portTile p)).freeEnts) = b) →
      opened s p ent first nw = { first := first.toNat, nw := nw.toNat, ent := if b then ent.toNat else 0, p := 0, port := p } := by
    rintro b rfl
    simp only [opened, decide_eq_true_eq]
  subst hu
  unfold State.ownWin State.winClash at *
  dsimp only
  rw [hfit _ rfl]
  cases hw : (s.tile (portTile p)).wins.find win.toNat with
  | none =>
    rw [hw] at hc
    have hc' := hc.resolve_left (by simp)
    rw [hc', Option.any_none, Bool.and_false]
    simp only [Bool.false_eq_true, if_false, decide_eq_true_eq]
  | some w =>
    rw [hw, Option.any_some] at hc
    rw [Option.any_some]
    have hn : ¬ ((!decide (w.ent = 0 ∧ w.port = p ∧ win.toNat ∈ g.wins)) &&
        ((s.tile (portTile p)).wins.any fun e => decide (e.1 = win.toNat ∨ (first.toNat < e.2.first + e.2.nw ∧
          e.2.first < first.toNat + nw.toNat)))) = true := by
      rcases hc with hc | hc <;> rw [hc] <;> simp
    rw [if_neg hn]
    simp only [decide_eq_true_eq]

end

theorem vrecl_some {win : BitVec 2} {rel : Bool} {v : BitVec 32} {w : Win} (hr : RunsAt s p q g)
    (hw : (s.tile (portTile p)).wins.find win.toNat = some w) :
    exec (.vrecl win rel v) s = .next ((s.reclaimTo (portTile p) win.toNat w
      (if rel then min (w.p + v.toNat) (2 ^ 32 - 1) else v.toNat)).stepProg p 1) := by
  refine onProg_next (execVrecl win rel v s) hr rfl rfl ?_
  dsimp only
  rw [hw]

section
variable {segs : BitVec 8} {xs chk : Bool}

/-- Whether an element waits for its translation or for its bank, or is new. -/
def StreamReq.underWay (r : StreamReq) : Bool := match r.st with
  | .bank => true
  | .xlate => true
  | .new => true
  | _ => false

theorem StreamReq.underWay_iff {r : StreamReq} : StreamReq.underWay r = true ↔ r.st = .bank ∨ r.st = .xlate ∨ r.st = .new := by
  unfold StreamReq.underWay
  cases r.st <;> simp

/-- Whether earlier accesses of a port are still to be performed. -/
def State.portBusy (s : Machine.State) (p : Nat) (q : Port) : Bool :=
  q.outq.any StreamReq.underWay || ((s.tile (portTile p)).bankq.any fun b => decide (b.src = portNum p + 1))
    || (q.hs.any fun h => decide (h.2.pos ≠ h.2.limit) || (h.2.input && decide (h.2.nextW < h.2.limit)))

theorem State.portBusy_iff : State.portBusy s p q = true ↔
    (∃ r ∈ q.outq, r.st = .bank ∨ r.st = .xlate ∨ r.st = .new) ∨ (∃ b ∈ (s.tile (portTile p)).bankq, b.src = portNum p + 1) ∨
      (∃ h ∈ q.hs, h.2.pos ≠ h.2.limit ∨ h.2.input = true ∧ h.2.nextW < h.2.limit) := by
  unfold State.portBusy
  simp only [Bool.or_eq_true, List.any_eq_true, StreamReq.underWay_iff, Bool.and_eq_true, decide_eq_true_eq, or_assoc]

theorem mlay_waits (hr : RunsAt s p q g) (hb : State.portBusy s p q = true) : exec (.mlay segs xs chk) s = .next s :=
  onProg_next (execMlay segs xs chk s) hr rfl rfl (if_pos hb)

theorem mlay_sets (hr : RunsAt s p q g) (hb : State.portBusy s p q = false) :
    exec (.mlay segs xs chk) s = .next ((s.modTile (portTile p) fun x =>
      { x with xs := (x.xs &&& ~~~segs) ||| (if xs then segs else 0#8),
               chk := (x.chk &&& ~~~segs) ||| (if chk then segs else 0#8) }).stepProg p 1) :=
  onProg_next (execMlay segs xs chk s) hr rfl rfl (if_neg (fun h => Bool.false_ne_true (hb.symm.trans h)))

end

/-! ### SWAIT and SSIG -/

section
variable {addr : BitVec 48} {h : BitVec 2} {aft : Bool} {scope : BitVec 3} {bytes : BitVec 32} {die a : Nat}

theorem swait_stop (hr : RunsAt s p q g) (hw : g.waitPh = none) (hs : s.portSync p q g addr.toNat false = .stop u) :
    exec (.swait addr) s = .next u := by
  refine onProg_next (execSwait addr s) hr rfl rfl ?_
  dsimp only
  rw [hw]
  dsimp only
  rw [hs]

/-- What SWAIT does at its object. -/
def State.waitAt (u : Machine.State) (p : Nat) (g : Prog) (addr : BitVec 48) (die a : Nat) : Machine.State :=
  if a % 32 ≠ 0 then (u.portSyncLog p g addr.toNat 3).stepProg p 2
  else (u.phaseAt die a).elim ((u.portSyncLog p g addr.toNat 2).stepProg p 2) fun ph =>
    (u.modSync die fun y => { y with waits := y.waits ++ [{ who := .port p, what := .phase (BitVec.ofNat 32 ph), addr := a }] }).modProg p
      fun g => { g with waitPh := some (syncKey die a, BitVec.ofNat 32 ph) }

theorem swait_at (hr : RunsAt s p q g) (hw : g.waitPh = none) (hs : s.portSync p q g addr.toNat false = .at_ die a u) :
    exec (.swait addr) s = .next (State.waitAt u p g addr die a) := by
  refine onProg_next (execSwait addr s) hr rfl rfl ?_
  unfold State.waitAt
  dsimp only
  rw [hw]
  dsimp only
  rw [hs]
  dsimp only
  cases u.phaseAt die a <;> rfl

theorem swait_waiting {key ph : Nat} {sig : BitVec 32} (hr : RunsAt s p q g) (hw : g.waitPh = some (key, sig))
    (hp : s.phaseAt (key / 2 ^ 32) (key % 2 ^ 32) = some ph) :
    exec (.swait addr) s = .next (if phaseDone ph sig then ((s.modSync (key / 2 ^ 32) fun y =>
        { y with waits := y.waits.filter fun w => decide (w.who ≠ .port p) }).modProg p fun g => { g with waitPh := none }).stepProg p 2
      else s) := by
  refine onProg_next (execSwait addr s) hr rfl rfl ?_
  dsimp only
  rw [hw]
  dsimp only
  rw [hp]

theorem ssig_stop (hr : RunsAt s p q g) (ha : ¬ (aft && s.sigWaits p h.toNat scope) = true) (hs : s.portSync p q g addr.toNat true = .stop u) :
    exec (.ssig h aft scope bytes addr) s = .next u := by
  refine onProg_next (execSsig h aft scope bytes addr s) hr rfl rfl ?_
  dsimp only
  rw [if_neg ha, hs]

theorem ssig_held {i : Nat} {x : Seg} (hr : RunsAt s p q g) (ha : ¬ (aft && s.sigWaits p h.toNat scope) = true)
    (hs : s.portSync p q g addr.toNat true = .at_ die a u) (hx : u.resident g.lan = some (i, x)) (hst : x.st = .runs) :
    exec (.ssig h aft scope bytes addr) s = .next ((u.modSync die fun y => { y with held := y.held ++
      [{ copy := false, none_ := false, seg := segKey (lanDie g.lan) i, addr := a, add := bytes.toNat,
         log := portRecord p kSYNC g.ctx 0#36 (BitVec.ofNat 64 addr.toNat) 0 }] }).stepProg p 2) := by
  refine onProg_next (execSsig h aft scope bytes addr s) hr rfl rfl ?_
  dsimp only
  rw [if_neg ha, hs]
  dsimp only
  rw [hx]
  exact if_pos hst

theorem ssig_posts {v : Machine.State} {reason : Option Nat} (hr : RunsAt s p q g) (ha : ¬ (aft && s.sigWaits p h.toNat scope) = true)
    (hs : s.portSync p q g addr.toNat true = .at_ die a u) (hx : ∀ i x, u.resident g.lan = some (i, x) → x.st ≠ .runs)
    (hv : u.engPost die a bytes.toNat = (v, reason)) :
    exec (.ssig h aft scope bytes addr) s = .next ((reason.elim v fun r => v.portSyncLog p g addr.toNat r).stepProg p 2) := by
  refine onProg_next (execSsig h aft scope bytes addr s) hr rfl rfl ?_
  dsimp only
  rw [if_neg ha, hs]
  dsimp only
  cases hres : u.resident g.lan with
  | none =>
    dsimp only
    rw [hv]
    cases reason <;> rfl
  | some e =>
    obtain ⟨i, x⟩ := e
    dsimp only
    rw [if_neg (hx i x hres), hv]
    cases reason <;> rfl

end

/-- The extents that WLOAD leaves: those of the mask as the Beacon has them. -/
theorem wload_extents (mask : BitVec 16) (now ext : Tab Extent) :
    ((List.range 16).foldl (fun t k => if mask.getLsbD k then (match now.find k with
        | some e => t.put k e
        | none => t.del k) else t) ext)
      = (List.range 16).foldl (fun t k => if mask.getLsbD k then (now.find k).elim (t.del k) (t.put k) else t) ext := by
  congr 1
  funext t k
  cases now.find k <;> rfl

end

/-- Settles O42: each instruction of a stream program, from what it does at the port whose turn it is. -/
theorem streamCommands : Obligations.StreamCommands := by
  unfold Obligations.StreamCommands
  intro s p q g hp hq hg
  have hr : RunsAt s p q g := ⟨hp, hq, hg⟩
  refine ⟨fun h input fmt lay rtz ord grp uni count stride base =>
      onProg_next (execSopen h input fmt lay rtz ord grp uni count stride base s) hr rfl rfl rfl, fun h n x hx limit hl => ?_,
    fun h => ⟨fun hd => onProg_next (execSclose h s) hr rfl rfl (if_neg (by simp [hd])), fun x hd hx => ?_⟩,
    fun h adv back times stp n hn => ⟨fun h0 hw => ?_, fun x ha hx hp => sloop_waits hr ha hx hp, fun h0 ha => ?_, fun x h0 ha hx hpos => ?_⟩,
    fun mask => ⟨onProg_next (execWload mask s) hr rfl rfl ?_, onProg_next (execWdrop mask s) hr rfl rfl rfl⟩, fun win ent first nw => ⟨fun hm hc => ?_, fun v w u hv he hvp hm hw hu => ?_,
      fun hn hc => ?_, fun hn hc w u hw hu => ?_⟩, fun win rel v => ⟨fun hw => onProg_next (execVrecl win rel v s) hr rfl rfl ?_, fun w hw => vrecl_some hr hw⟩,
    fun segs xs chk => ⟨fun hb => mlay_waits hr (State.portBusy_iff.mpr hb), fun ho hb hh => ?_⟩,
    fun addr u => ⟨fun hw hs => swait_stop hr hw hs, fun h scope bytes hs => ssig_stop hr (by simp) hs⟩,
    fun addr die a u hw hs => ?_, fun addr key sig ph hw hph => ?_, fun h aft scope bytes addr => ⟨fun ha hw => ?_, fun ha die a u hs => ?_⟩⟩
  · have hx' : (s.port p).hs.find h.toNat = some x := hq ▸ hx
    subst hl
    have hplain := congrArg (fun t => State.stepProg t p 1) (State.release_plain (g := g) (n := n.toNat) hx')
    refine ⟨onProg_next (execSpush h n s) hr rfl rfl hplain, onProg_next (execSacpt h n s) hr rfl rfl hplain, fun ifmt ibase y hy => ?_⟩
    subst hy
    have hidx := congrArg (fun t => State.stepProg t p 2)
      (State.release_indexed (g := g) (n := n.toNat) (ibase := ibase.toNat) (ifmt := ifmt.toNat) hx')
    exact ⟨onProg_next (execSgath h ifmt n ibase s) hr rfl rfl hidx, onProg_next (execSscat h ifmt n ibase s) hr rfl rfl hidx⟩
  · refine onProg_next (execSclose h s) hr rfl rfl ((if_pos hd).trans (congrArg (fun t => State.stepProg t p 1) ?_))
    exact State.closeHandle_some (hq ▸ hx)
  · exact sloop_ends hr hw (hn ▸ h0)
  · refine (sloop_repeats hr (fun h => absurd h (by simp [ha])) hn h0).trans ?_
    rw [if_neg (by simp [ha])]
  · refine (sloop_repeats hr (fun _ y hy => ?_) hn h0).trans ?_
    · rw [hx] at hy
      exact Option.some.inj hy ▸ hpos
    · rw [if_pos ha, State.modHandle_some (hq ▸ hx)]
  · exact congrArg (fun t => State.stepProg t p 1) (State.modPort_congr
      (congrArg (fun ext => ({ s.port p with ext := ext, hs := dropTr mask (s.port p).hs } : Port)) (wload_extents mask _ _)))
  · refine vopen_clash hr ?_ (State.winClash_iff.mpr hc)
    unfold State.ownWin
    cases hw : (s.tile (portTile p)).wins.find win.toNat with
    | none => rfl
    | some w => simpa using hm w hw
  · have hown : State.ownWin s p g win.toNat = true := by
      unfold State.ownWin
      rw [hv, Option.any_some]
      exact decide_eq_true ⟨he, hvp, hm⟩
    exact vopen_opens hr (.inl hown) (by rw [if_pos hown, hu, hw]; rfl)
  · refine vopen_clash hr ?_ (State.winClash_iff.mpr ?_)
    · unfold State.ownWin
      rw [hn]
      rfl
    · obtain ⟨e, he, ho⟩ := hc
      exact ⟨e, he, .inr ho⟩
  · have hown : State.ownWin s p g win.toNat = false := by
      unfold State.ownWin
      rw [hn]
      rfl
    refine vopen_opens hr (.inr ?_) (by rw [if_neg (by simp [hown]), hu, hw]; rfl)
    rw [← Bool.not_eq_true, State.winClash_iff]
    rintro ⟨e, he, ho⟩
    exact hc e he ho
  · dsimp only
    rw [hw]
  · refine mlay_sets hr ?_
    rw [← Bool.not_eq_true, State.portBusy_iff]
    rintro (⟨r, hr', hst⟩ | ⟨b, hb', hsrc⟩ | ⟨e, he, hpos⟩)
    · obtain ⟨h1, h2, h3⟩ := ho r hr'
      exact hst.elim h1 (·.elim h2 h3)
    · exact hb b hb' hsrc
    · obtain ⟨h1, h2⟩ := hh e he
      rcases hpos with hpos | ⟨hin, hlt⟩
      · exact hpos h1
      · have := h2 hin
        omega
  · have hat := swait_at hr hw hs
    refine ⟨fun ha => hat.trans (congrArg _ (if_pos ha)), fun ha hph => hat.trans (congrArg _ ((if_neg (Classical.not_not.mpr ha)).trans ?_)),
      fun ph ha hph => hat.trans (congrArg _ ((if_neg (Classical.not_not.mpr ha)).trans ?_))⟩
    · rw [hph]
      rfl
    · rw [hph]
      rfl
  · exact ⟨fun hd => (swait_waiting hr hw hph).trans (congrArg _ (if_neg (by simp [hd]))),
      fun hd => (swait_waiting hr hw hph).trans (congrArg _ (if_pos hd))⟩
  · exact onProg_next (execSsig h aft scope bytes addr s) hr rfl rfl (if_pos (by simp [ha, hw]))
  · have hn : ¬ (aft && s.sigWaits p h.toNat scope) = true := by rcases ha with ha | ha <;> simp [ha]
    exact ⟨fun i x hx hst => ssig_held hr hn hs hx hst, fun hx v reason hv => ssig_posts hr hn hs hx hv⟩

end Sys2Proof
end

section
/-! ## R229, R255, R259, R264 to R273, R280, R290: what a stream port does of itself -/

namespace Sys2Proof

open Sys2Proof.Machine

section
variable {s t u v : Machine.State} {p idx : Nat} {q : Port} {g : Prog}

/-! ### The end of a program and the start of the pending one -/

theorem State.endProg_none (h : (s.port p).prog = none) : s.endProg p = s := by
  unfold State.endProg
  rw [h]

theorem State.endProg_running (h : (s.port p).prog = some g) (hr : g.armed = false ∨ g.pc < g.parcels.length) : s.endProg p = s := by
  unfold State.endProg
  rw [h]
  exact if_pos (by rcases hr with hr | hr <;> simp [hr])

/-- The handles of a port that are done close. -/
def State.closeDone (s : Machine.State) (p : Nat) (g : Prog) : Machine.State :=
  (((s.port p).hs.map (·.1)).filter fun h => s.handleDone p h).foldl (fun s h => s.closeHandle p h g.lan) s

/-- The windows of a program close, and it is gone. -/
def State.leaveProg (u : Machine.State) (p : Nat) (g : Prog) : Machine.State :=
  (g.wins.foldl (fun s k => ((s.tile (portTile p)).wins.find k).elim s fun w =>
    if w.port = p then s.shutWin (portTile p) k else s) u).modPort p fun q => { q with prog := none, outq := [] }

theorem State.endProg_past (h : (s.port p).prog = some g) (ha : g.armed = true) (hp : g.parcels.length ≤ g.pc) :
    s.endProg p = if !((State.closeDone s p g).port p).hs.isEmpty then State.closeDone s p g else State.leaveProg (State.closeDone s p g) p g := by
  have hwins : ∀ u : Machine.State, (g.wins.foldl (fun s k =>
      match (s.tile (portTile p)).wins.find k with
      | some w => if w.port = p then s.shutWin (portTile p) k else s
      | none => s) u) = g.wins.foldl (fun s k => ((s.tile (portTile p)).wins.find k).elim s fun w =>
        if w.port = p then s.shutWin (portTile p) k else s) u := by
    intro u
    congr 1
    funext s k
    cases (s.tile (portTile p)).wins.find k <;> rfl
  unfold State.endProg State.leaveProg State.closeDone
  rw [h]
  dsimp only
  refine (if_neg (by simp [ha]; omega)).trans ?_
  exact ite_congr rfl (fun _ => rfl) fun _ => congrArg (fun w => State.modPort w p _) (hwins _)

theorem State.startPending_running (h : (s.port p).prog = some g) : s.startPending p = s := by
  unfold State.startPending
  rw [h]

theorem State.startPending_nothing (h : (s.port p).prog = none) (hp : (s.port p).pend = none) : s.startPending p = s := by
  unfold State.startPending
  rw [h, hp]

theorem State.startPending_pend (h : (s.port p).prog = none) (hp : (s.port p).pend = some g) :
    s.startPending p = if g.armed then s.modPort p fun q =>
      { q with prog := some g, pend := none, hs := [], outq := [], ext := s.extentsOf g.lan } else s := by
  unfold State.startPending
  rw [h, hp]

theorem State.port_accrue (k n : Nat) (fl : Flags) : (s.accrue k fl).port n = s.port n := rfl

theorem State.prog_closeHandle (h lan : Nat) : ((s.closeHandle p h lan).port p).prog = (s.port p).prog := by
  unfold State.closeHandle
  split
  · rfl
  · rw [State.port_modPort_self]
    rfl

theorem State.prog_closeDone : ((State.closeDone s p g).port p).prog = (s.port p).prog := by
  have : ∀ (hs : List Nat) (u : Machine.State), ((hs.foldl (fun s h => s.closeHandle p h g.lan) u).port p).prog = (u.port p).prog := by
    intro hs
    induction hs with
    | nil => exact fun u => rfl
    | cons h hs ih => exact fun u => (ih _).trans (State.prog_closeHandle h g.lan)
  exact this _ s

theorem exec_programStart (h : (s.endProg p).startPending p = u) : exec (.streamProgramStart p) s = .next u := congrArg Host.Outcome.next h

/-! ### The issue of elements -/

section
variable {h : Nat} {x : Handle} {r : StreamReq}

theorem State.issueElem_none (hn : (s.port p).prog = none ∨ (s.port p).hs.find h = none) : s.issueElem p h = s := by
  unfold State.issueElem
  dsimp only
  split
  · next g x hg hx => rcases hn with hn | hn <;> simp_all
  · rfl

theorem State.issueElem_retry (hg : (s.port p).prog = some g) (hx : (s.port p).hs.find h = some x)
    (hr : ((s.port p).outq.find? fun r => decide (r.h = h ∧ r.st = .new)) = some r) : s.issueElem p h = s.tryElem p (s.port p) g x r := by
  unfold State.issueElem
  dsimp only
  rw [hg, hx]
  dsimp only
  rw [hr]

/-- The next released element of a handle may be issued, its iteration's window being `w`. -/
def MayRelease (q : Port) (g : Prog) (x : Handle) (w : Window) : Prop :=
  x.pos < x.limit ∧ g.armed = true ∧ q.outstanding < 64 ∧ (x.input = true ∨ w ≠ .park ∧ q.stopped = false)

/-- The element that a handle issues next. -/
def Handle.nextElem (h : Nat) (x : Handle) : StreamReq :=
  { h := h, n := x.pos, va := x.cur, line := x.line,
    idx := (x.idx.find? fun i => decide (i.first ≤ x.pos ∧ x.pos < i.first + i.count)).map fun i =>
      (BitVec.ofNat 64 (i.ibase + (x.pos - i.first) * fmtSize i.ifmt), i.ifmt),
    gath := (x.idx.find? fun i => decide (i.first ≤ x.pos ∧ x.pos < i.first + i.count)).isSome, st := .new, data := [], bad := false,
    miss := Miss.zero, uni := false }

/-- A handle once its next element has been issued. -/
def Handle.issued (x : Handle) : Handle :=
  { x with pos := x.pos + 1
           cur := if (x.idx.find? fun i => decide (i.first ≤ x.pos ∧ x.pos < i.first + i.count)).isSome then x.cur
             else x.cur + x.stride.signExtend 64 }

/-- The condition under which the model issues an element. -/
def issueCond (q : Port) (g : Prog) (x : Handle) (w : Window) : Prop :=
  x.pos < x.limit ∧ g.armed = true ∧ q.outstanding < 64 ∧
    (x.input || (match w with | .park => false | _ => true)) = true ∧ (x.input = true ∨ q.stopped = false)

theorem issueCond_iff (w : Window) : issueCond q g x w ↔ MayRelease q g x w := by
  unfold issueCond MayRelease
  cases w <;> cases x.input <;> simp

theorem State.issueElem_next (hg : (s.port p).prog = some g) (hx : (s.port p).hs.find h = some x)
    (hr : ((s.port p).outq.find? fun r => decide (r.h = h ∧ r.st = .new)) = none) {w : Window}
    (hw : w = s.windowOf (some g.lan) (tileDie (portTile p)) (s.elemTag p g x.pos) x.pos) :
    (¬ MayRelease (s.port p) g x w → s.issueElem p h = s) ∧
    (MayRelease (s.port p) g x w → s.issueElem p h = (s.modPort p fun q =>
      { q with hs := q.hs.put h (Handle.issued x), outq := q.outq ++ [Handle.nextElem h x] }).tryElem p (s.port p) g x (Handle.nextElem h x)) := by
  unfold State.issueElem
  dsimp only
  rw [hg, hx]
  dsimp only
  rw [hr]
  dsimp only
  rw [← hw]
  exact ⟨fun hm => if_neg (fun hc => hm ((issueCond_iff w).mp hc)), fun hm => if_pos ((issueCond_iff w).mpr hm)⟩

theorem State.tryElem_direct (hi : r.idx = none) : u.tryElem p q g x r = u.placeElem p q g x r := by
  unfold State.tryElem
  rw [hi]

theorem State.placeElem_aligned (hv : r.va.toNat < 2 ^ 48) (ha : r.va.toNat % x.align = 0) :
    u.placeElem p q g x r = if x.input then u.setElem p { r with st := .entry } else u.readElem p q g x r :=
  (if_neg (by omega)).trans (if_neg (Classical.not_not.mpr ha))

theorem State.placeElem_misaligned (hv : r.va.toNat < 2 ^ 48) (ha : r.va.toNat % x.align ≠ 0) :
    u.placeElem p q g x r = u.badElem p g x r r.va 4 := (if_neg (by omega)).trans (if_pos ha)

section
variable {ia : Word} {ifmt : Nat}

theorem State.tryElem_far (hi : r.idx = some (ia, ifmt)) (hv : 2 ^ 48 ≤ ia.toNat) : u.tryElem p q g x r = u.badElem p g x r ia 3 := by
  unfold State.tryElem
  rw [hi]
  exact if_pos hv

theorem State.tryElem_misaligned (hi : r.idx = some (ia, ifmt)) (hv : ia.toNat < 2 ^ 48) (ha : ia.toNat % fmtSize ifmt ≠ 0) :
    u.tryElem p q g x r = u.badElem p g x r ia 4 := by
  unfold State.tryElem
  rw [hi]
  exact (if_neg (by omega)).trans (if_pos ha)

/-- An index that lies in the 48-bit space and is aligned. -/
structure GoodIndex (r : StreamReq) (ia : Word) (ifmt : Nat) : Prop where
  index : r.idx = some (ia, ifmt)
  near : ia.toNat < 2 ^ 48
  aligned : ia.toNat % fmtSize ifmt = 0

theorem State.tryElem_error {va reason : Nat} (hi : GoodIndex r ia ifmt)
    (hp : u.unitPlaces g.lan (tileDie (portTile p)) (portHow q r.miss.may true false) ia.toNat (fmtSize ifmt) = (.error (va, reason), v)) :
    u.tryElem p q g x r = v.waitElem p g x r (BitVec.ofNat 64 va) reason := by
  have := hi.near
  unfold State.tryElem
  rw [hi.index]
  dsimp only
  rw [if_neg (by omega), if_neg (Classical.not_not.mpr hi.aligned), hp]

theorem State.tryElem_index {ps : List (Nat × Nat × PaKind × Bool)} {bs : List Byte} {y : StreamReq} {w : Machine.State}
    (hi : GoodIndex r ia ifmt)
    (hp : u.unitPlaces g.lan (tileDie (portTile p)) (portHow q r.miss.may true false) ia.toNat (fmtSize ifmt) = (.ok ps, v))
    (hc : v.piecesCut (tileDie (portTile p)) ps = false) (hr : v.readPieces g.lan 0 ps = (bs, false, w))
    (hy : y = { r with
      va := r.line + BitVec.ofInt 64 (indexValue ifmt (leNat (w.overlayPieces g.lan ps bs)) * x.stride.toInt), idx := none }) :
    u.tryElem p q g x r = (w.setElem p y).placeElem p q g x y := by
  have := hi.near
  subst hy
  unfold State.tryElem
  rw [hi.index]
  dsimp only
  rw [if_neg (by omega), if_neg (Classical.not_not.mpr hi.aligned), hp]
  dsimp only
  rw [if_neg (by simp [hc]), hr]
  exact if_neg (by simp)

end

theorem exec_issueElem (he : s.issueElem p h = u) : exec (.streamElementIssue p h) s = .next u := congrArg Host.Outcome.next he

/-! ### Pushes -/

theorem State.pushElem_none (hn : (s.port p).prog = none ∨ (s.port p).outq[idx]? = none) : s.pushElem p idx = s := by
  unfold State.pushElem
  dsimp only
  split
  · next g r hg hr => rcases hn with hn | hn <;> simp_all
  · rfl

theorem State.pushElem_closed (hg : (s.port p).prog = some g) (hr : (s.port p).outq[idx]? = some r) (hx : (s.port p).hs.find r.h = none) :
    s.pushElem p idx = s := by
  unfold State.pushElem
  dsimp only
  rw [hg, hr]
  dsimp only
  rw [hx]

theorem State.pushElem_input (hg : (s.port p).prog = some g) (hr : (s.port p).outq[idx]? = some r) (hx : (s.port p).hs.find r.h = some x)
    (hi : x.input = true) : s.pushElem p idx = s := by
  unfold State.pushElem
  dsimp only
  rw [hg, hr]
  dsimp only
  rw [hx]
  exact if_pos hi

/-- The token that a port pushes for element `z`. -/
def State.pushToken (v : Machine.State) (p : Nat) (g : Prog) (x : Handle) (count : Nat) (z : StreamReq) : Token :=
  let op : Operand := if z.data.isEmpty then ⟨loadFmt x.fmt x.grp, 0#80⟩ else loadOperand x.fmt x.grp z.data
  { tag := v.elemTag p g z.n, fmt := op.fmt, pay := op.pay, last := decide (z.n + 1 = count), poison := z.bad, marker := false }

/-- The destinations bound to the handle of element `z`. -/
def State.pushDests (v : Machine.State) (p : Nat) (g : Prog) (z : StreamReq) : List Dest :=
  (g.binds.filter fun b => decide ((b.extractLsb' 32 2).toNat = z.h)).map fun b =>
    v.resolve (some g.lan) g.ctx (portTile p) (b.extractLsb' 0 31)

/-- What becomes of an element that is ready to be pushed. -/
def State.pushReady (v : Machine.State) (p : Nat) (g : Prog) (x : Handle) (count : Nat) (z : StreamReq) : Machine.State :=
  if (z.bad && v.recHeld (some g.lan)) ||
      ((State.pushDests v p g z).any fun d => routable d && !v.linkRoom (portTile p) false d) then v
  else
    match v.windowOf (some g.lan) (tileDie (portTile p)) (v.elemTag p g z.n) z.n with
    | .park => v
    | .refuse reason =>
      (v.modPort p fun q => { q with outq := q.outq.filter fun y => !decide (y.h = z.h ∧ y.n = z.n) }).portLog p g kTAGUSE
        (v.elemTag p g z.n) (BitVec.ofNat 64 z.n) reason
    | .ok =>
      (State.pushDests v p g z).foldl (fun s d =>
        if routable d then s.deliver (portTile p) (2 ^ 32 + p) false d (State.pushToken v p g x count z)
        else s.portLog p g kLINK (v.elemTag p g z.n) 0#64 d.toNat)
        ((v.modPort p fun q => { q with outq := q.outq.filter fun y => !decide (y.h = z.h ∧ y.n = z.n) }).noteEmitted
          (some g.lan) (tileDie (portTile p)) (v.elemTag p g z.n) (v.portSnaps.find p).isSome)

/-- An element that its banks have granted, after it has been gathered as `y` in state `u`. -/
def State.pushGathered (u : Machine.State) (p : Nat) (g : Prog) (x : Handle) (y : StreamReq) : Machine.State :=
  if y.st ≠ .done then u
  else (if x.uni = 0 ∨ y.uni = true then some u else u.unifyGroup p y.h x (u.countOf g x) y.n).elim u fun v =>
    State.pushReady v p g x (u.countOf g x) (((v.port p).outq.find? fun a => decide (a.h = y.h ∧ a.n = y.n)).getD y)

theorem State.pushElem_output {y : StreamReq} (hg : (s.port p).prog = some g) (hr : (s.port p).outq[idx]? = some r)
    (hx : (s.port p).hs.find r.h = some x) (hi : x.input = false) (hy : s.gatherElem p g x r = (u, y)) :
    s.pushElem p idx = State.pushGathered u p g x y := by
  unfold State.pushElem State.pushGathered
  dsimp only
  rw [hg, hr]
  dsimp only
  rw [hx]
  dsimp only
  rw [if_neg (by simp [hi]), hy]
  dsimp only
  refine ite_congr rfl (fun _ => rfl) fun _ => ?_
  cases (if x.uni = 0 ∨ y.uni = true then some u else u.unifyGroup p y.h x (u.countOf g x) y.n) <;> rfl

theorem exec_pushElem (he : s.pushElem p idx = u) : exec (.streamReplyPush p idx) s = .next u := congrArg Host.Outcome.next he

section
variable {z : StreamReq} {count : Nat}

/-- An element leaves: no fault record of it waits, and every destination has room. -/
structure MayPush (v : Machine.State) (p : Nat) (g : Prog) (z : StreamReq) : Prop where
  logged : z.bad = false ∨ v.recHeld (some g.lan) = false
  room : ∀ d ∈ State.pushDests v p g z, routable d = true → v.linkRoom (portTile p) false d = true

theorem MayPush.notHeld (hm : MayPush v p g z) : ¬ ((z.bad && v.recHeld (some g.lan)) ||
    ((State.pushDests v p g z).any fun d => routable d && !v.linkRoom (portTile p) false d)) = true := by
  rw [Bool.or_eq_true, List.any_eq_true]
  rintro (hb | ⟨d, hd, hr⟩)
  · rcases hm.logged with h | h <;> simp [h] at hb
  · rw [Bool.and_eq_true] at hr
    simp [hm.room d hd hr.1] at hr

theorem State.pushReady_waits (hw : z.bad = true ∧ v.recHeld (some g.lan) = true ∨
    ∃ d ∈ State.pushDests v p g z, routable d = true ∧ v.linkRoom (portTile p) false d = false) : State.pushReady v p g x count z = v := by
  refine if_pos ?_
  rw [Bool.or_eq_true, List.any_eq_true]
  rcases hw with ⟨hb, hr⟩ | ⟨d, hd, hr, hl⟩
  · simp [hb, hr]
  · exact .inr ⟨d, hd, by simp [hr, hl]⟩

theorem State.pushReady_park (hm : MayPush v p g z)
    (hw : v.windowOf (some g.lan) (tileDie (portTile p)) (v.elemTag p g z.n) z.n = .park) : State.pushReady v p g x count z = v := by
  unfold State.pushReady
  rw [if_neg hm.notHeld, hw]

theorem State.pushReady_refuse (hm : MayPush v p g z) {reason : Nat}
    (hw : v.windowOf (some g.lan) (tileDie (portTile p)) (v.elemTag p g z.n) z.n = .refuse reason) :
    State.pushReady v p g x count z = (v.modPort p fun q => { q with
      outq := q.outq.filter fun y => !decide (y.h = z.h ∧ y.n = z.n) }).portLog p g kTAGUSE (v.elemTag p g z.n) (BitVec.ofNat 64 z.n) reason := by
  unfold State.pushReady
  rw [if_neg hm.notHeld, hw]

theorem State.pushReady_ok (hm : MayPush v p g z)
    (hw : v.windowOf (some g.lan) (tileDie (portTile p)) (v.elemTag p g z.n) z.n = .ok) :
    State.pushReady v p g x count z = (State.pushDests v p g z).foldl (fun s d =>
      if routable d then s.deliver (portTile p) (2 ^ 32 + p) false d (State.pushToken v p g x count z)
      else s.portLog p g kLINK (v.elemTag p g z.n) 0#64 d.toNat)
      ((v.modPort p fun q => { q with outq := q.outq.filter fun y => !decide (y.h = z.h ∧ y.n = z.n) }).noteEmitted
        (some g.lan) (tileDie (portTile p)) (v.elemTag p g z.n) (v.portSnaps.find p).isSome) := by
  unfold State.pushReady
  rw [if_neg hm.notHeld, hw]

end

end

end

end Sys2Proof
end

section
/-! ## R229, R255, R259, R265, R270, R272, R273, R290: tokens at an input port, and the events of a stream port -/

namespace Sys2Proof

open Sys2Proof.Machine

section
variable {s t u v : Machine.State} {p idx h n : Nat} {q : Port} {g : Prog} {a : Arrival} {x : Handle} {r : StreamReq}

/-! ### Tokens at an input port -/

theorem State.sinkWrite_none (hi : (s.port p).inq[idx]? = none) : s.sinkWrite p idx = s := by
  unfold State.sinkWrite
  dsimp only
  rw [hi]

theorem State.sinkWrite_held (hi : (s.port p).inq[idx]? = some a)
    (hw : (s.port p).inOrder idx a = false ∨ s.cutOff a.fromDie (tileDie (portTile p)) = true) : s.sinkWrite p idx = s := by
  unfold State.sinkWrite
  dsimp only
  rw [hi]
  exact if_pos (by rcases hw with hw | hw <;> simp [hw])

/-- The token at place `idx` of a port's link may be looked at: its channel's order and the UCIe edges let it go. -/
structure AtSink (s : Machine.State) (p idx : Nat) (a : Arrival) : Prop where
  listed : (s.port p).inq[idx]? = some a
  order : (s.port p).inOrder idx a = true
  reach : s.cutOff a.fromDie (tileDie (portTile p)) = false

theorem AtSink.notHeld (hs : AtSink s p idx a) : ¬ (!(s.port p).inOrder idx a || s.cutOff a.fromDie (tileDie (portTile p))) = true := by
  simp [hs.order, hs.reach]

theorem State.sinkWrite_marker (hs : AtSink s p idx a) (hm : a.tok.marker = true) : s.sinkWrite p idx = s.portMark p idx a := by
  unfold State.sinkWrite
  dsimp only
  rw [hs.listed]
  dsimp only
  rw [if_neg hs.notHeld, if_pos hm]

theorem State.portMark_none (hu : u = s.modPort p fun q => { q with inq := q.inq.eraseIdx idx }) (hl : u.leadOfTile (portTile p) = none) :
    s.portMark p idx a = u := by
  unfold State.portMark
  dsimp only
  rw [← hu, hl]

theorem State.portMark_lead {lead : Nat} (hu : u = s.modPort p fun q => { q with inq := q.inq.eraseIdx idx })
    (hl : u.leadOfTile (portTile p) = some lead) :
    s.portMark p idx a = if !(u.lan lead).prePend || decide (a.tok.pay.setWidth 32 ≠ (u.lan lead).snapNo) then u
      else (u.snapPort p).modPort p fun q =>
        { q with marked := if q.marked.contains a.chan then q.marked else q.marked ++ [a.chan] } := by
  unfold State.portMark
  dsimp only
  rw [← hu, hl]

theorem State.sinkWrite_idle (hs : AtSink s p idx a) (hm : a.tok.marker = false)
    (hw : (s.port p).prog = none ∨ (s.port p).inHandle = none) : s.sinkWrite p idx = s := by
  unfold State.sinkWrite
  dsimp only
  rw [hs.listed]
  dsimp only
  rw [if_neg hs.notHeld, if_neg (by simp [hm])]
  split
  · next g h x hg hx => rcases hw with hw | hw <;> simp_all
  · rfl

/-- What becomes of a token for an element `r` of the input handle that has been issued. -/
def State.sinkElem (s : Machine.State) (p idx : Nat) (g : Prog) (h n : Nat) (x : Handle) (a : Arrival) (r : StreamReq) : Machine.State :=
  if r.st ≠ .entry ∧ r.st ≠ .done then s
  else if a.tok.poison then
    s.faultToken p idx a (fun s => s.portLog p g kPOISON a.tok.tag 0#64 0) fun s =>
      ((s.takeIn p idx a).markWritten p h n).askAbort g.lan true
  else if r.bad then
    if s.recHeld (s.leadOfTile (portTile p)) then s else (s.takeIn p idx a).markWritten p h n
  else if !acceptsFmt x.fmt x.grp a.tok.fmt then
    s.faultToken p idx a (fun s => s.portLog p g kFMT a.tok.tag 0#64 (a.tok.fmt.toNat + x.fmt * 16)) fun s =>
      (s.takeIn p idx a).markWritten p h n
  else s.writeElem p idx (s.port p) g h x r a

/-- What becomes of a token for iteration `n` of the input handle of the program that runs. -/
def State.sinkToken (s : Machine.State) (p idx : Nat) (g : Prog) (h n : Nat) (x : Handle) (a : Arrival) : Machine.State :=
  if s.countOf g x ≤ n then
    s.faultToken p idx a (fun s => s.portLog p g kTAGUSE a.tok.tag (BitVec.ofNat 64 n) 6) fun s => s.takeIn p idx a
  else if x.nextW + 63 < n then s
  else ((s.port p).outq.find? fun r => decide (r.h = h ∧ r.n = n)).elim s (State.sinkElem s p idx g h n x a)

theorem State.sinkWrite_token (hs : AtSink s p idx a) (hm : a.tok.marker = false) (hg : (s.port p).prog = some g)
    (hx : (s.port p).inHandle = some (h, x)) :
    s.sinkWrite p idx = if tagCtx a.tok.tag ≠ g.ctx then s else State.sinkToken s p idx g h (tagIter a.tok.tag) x a := by
  unfold State.sinkWrite State.sinkToken
  dsimp only
  rw [hs.listed]
  dsimp only
  rw [if_neg hs.notHeld, if_neg (by simp [hm]), hg, hx]
  dsimp only
  refine ite_congr rfl (fun _ => rfl) fun _ => ite_congr rfl (fun _ => rfl) fun _ => ite_congr rfl (fun _ => rfl) fun _ => ?_
  cases ((s.port p).outq.find? fun r => decide (r.h = h ∧ r.n = tagIter a.tok.tag)) <;> rfl

/-- The token's element has been issued and waits for a token, or has been written before. -/
theorem State.sinkElem_open (hr : r.st = .entry ∨ r.st = .done) :
    State.sinkElem s p idx g h n x a r = if a.tok.poison then
        s.faultToken p idx a (fun s => s.portLog p g kPOISON a.tok.tag 0#64 0) fun s =>
          ((s.takeIn p idx a).markWritten p h n).askAbort g.lan true
      else if r.bad then
        if s.recHeld (s.leadOfTile (portTile p)) then s else (s.takeIn p idx a).markWritten p h n
      else if !acceptsFmt x.fmt x.grp a.tok.fmt then
        s.faultToken p idx a (fun s => s.portLog p g kFMT a.tok.tag 0#64 (a.tok.fmt.toNat + x.fmt * 16)) fun s =>
          (s.takeIn p idx a).markWritten p h n
      else s.writeElem p idx (s.port p) g h x r a :=
  if_neg fun hc => hr.elim hc.1 hc.2

theorem State.faultToken_logged {log k : Machine.State → Machine.State} (hl : a.logged = true) :
    s.faultToken p idx a log k = if s.recHeld (s.leadOfTile (portTile p)) then s else k s := if_pos hl

theorem State.faultToken_new {log k : Machine.State → Machine.State} (hl : a.logged = false) :
    s.faultToken p idx a log k = if s.heldNo (s.leadOfTile (portTile p)) < (log s).heldNo (s.leadOfTile (portTile p)) then
      (log s).modPort p fun q => { q with inq := q.inq.set idx { a with logged := true } } else k (log s) := if_neg (by simp [hl])

/-! ### The write of an accepted token -/

section
variable {ps : List (Nat × Nat × PaKind × Bool)}

theorem State.writeElem_error {va reason : Nat} (hp : s.elemPlaces p q g x r = (.error (va, reason), u)) :
    s.writeElem p idx q g h x r a = if r.st = .done ∨ 64 ≤ q.outstanding then u else u.waitElem p g x r (BitVec.ofNat 64 va) reason := by
  unfold State.writeElem
  rw [hp]

/-- An element that has not been written before stands behind earlier elements of its stream. -/
def Behind (q : Port) (x : Handle) (r : StreamReq) (ps : List (Nat × Nat × PaKind × Bool)) : Prop :=
  (x.ord = true ∨ ∃ e ∈ ps, e.2.2.2 = true) ∧ r.n ≠ x.nextW ∨ q.coincides r.h x r = true

theorem behind_iff : Behind q x r ps ↔
    ((x.ord || ps.any fun e => e.2.2.2) && decide (r.n ≠ x.nextW) || q.coincides r.h x r) = true := by
  unfold Behind
  rw [Bool.or_eq_true, Bool.and_eq_true, Bool.or_eq_true, List.any_eq_true, decide_eq_true_eq]

theorem State.writeElem_stands (hp : s.elemPlaces p q g x r = (.ok ps, u))
    (hw : r.st ≠ .done ∧ Behind q x r ps ∨ u.piecesCut (tileDie (portTile p)) ps = true) : s.writeElem p idx q g h x r a = u := by
  unfold State.writeElem
  rw [hp]
  refine if_pos ?_
  rw [Bool.or_eq_true, Bool.and_eq_true]
  rcases hw with ⟨hd, hb⟩ | hc
  · exact .inl ⟨by simp [hd], behind_iff.mp hb⟩
  · exact .inr hc

/-- An accepted token whose element is translated and may be written now. -/
structure MayWrite (s u : Machine.State) (p : Nat) (q : Port) (g : Prog) (x : Handle) (r : StreamReq)
    (ps : List (Nat × Nat × PaKind × Bool)) : Prop where
  places : s.elemPlaces p q g x r = (.ok ps, u)
  turn : r.st = .done ∨ ¬ Behind q x r ps
  reach : u.piecesCut (tileDie (portTile p)) ps = false

theorem MayWrite.notHeld (hm : MayWrite s u p q g x r ps) :
    ¬ ((!decide (r.st = .done) && ((x.ord || ps.any fun e => e.2.2.2) && decide (r.n ≠ x.nextW) || q.coincides r.h x r))
      || u.piecesCut (tileDie (portTile p)) ps) = true := by
  rw [Bool.or_eq_true, Bool.and_eq_true, ← behind_iff, Bool.not_eq_true', decide_eq_false_iff_not]
  rintro (⟨hd, hb⟩ | hc)
  · exact hm.turn.elim hd fun hn => hn hb
  · exact absurd hc (by simp [hm.reach])

theorem State.writeElem_layout {mode : Bool} (hm : MayWrite s u p q g x r ps) (hl : u.layoutBad x.layout ps = some mode) :
    s.writeElem p idx q g h x r a = u.faultToken p idx a (fun s => s.portLog p g kLAYOUT a.tok.tag r.va (layoutInfo x.layout mode)) fun s =>
      (s.takeIn p idx a).markWritten p h r.n := by
  unfold State.writeElem
  rw [hm.places]
  dsimp only
  rw [if_neg hm.notHeld, hl]

/-- What a token is written as: rounded to the format of its handle. -/
def writtenAs (x : Handle) (a : Arrival) := storeBytes x.fmt x.grp (if x.rtz then rtz else rne) ⟨a.tok.fmt, a.tok.pay⟩

/-- The token is off its link, and its flags are in its handle. -/
def State.takeFlags (u : Machine.State) (p idx h : Nat) (x : Handle) (a : Arrival) : Machine.State :=
  (u.takeIn p idx a).modHandle p h fun y => { y with flags := y.flags ||| (writtenAs x a).flags }

theorem State.writeElem_bank {off : Nat} (hm : MayWrite s u p q g x r ps) (hl : u.layoutBad x.layout ps = none)
    (hs : u.stagedSet g.lan = none) (ho : homeOff (portTile p) ps = some off) :
    s.writeElem p idx q g h x r a = ((State.takeFlags u p idx h x a).askBank (portTile p) (portNum p + 1) r.client x.layout off
      x.bytes (some (writtenAs x a).val) (some g.lan)).markWritten p h r.n := by
  unfold State.writeElem
  rw [hm.places]
  dsimp only
  rw [if_neg hm.notHeld, hl]
  dsimp only
  rw [hs, if_neg (by simp), ho]
  rfl

theorem State.writeElem_home (hm : MayWrite s u p q g x r ps) (hl : u.layoutBad x.layout ps = none)
    (hs : u.stagedSet g.lan = none) (ho : homeOff (portTile p) ps = none) :
    s.writeElem p idx q g h x r a =
      ((State.takeFlags u p idx h x a).writePieces g.lan x.layout ps (writtenAs x a).val).markWritten p h r.n := by
  unfold State.writeElem
  rw [hm.places]
  dsimp only
  rw [if_neg hm.notHeld, hl]
  dsimp only
  rw [hs, if_neg (by simp), ho]
  rfl

theorem State.writeElem_wanting {k : Nat} (hm : MayWrite s u p q g x r ps) (hl : u.layoutBad x.layout ps = none)
    (hs : u.stagedSet g.lan = some k) (hz : u.stagePieces g.lan ps (writtenAs x a).val x.layout = none) :
    s.writeElem p idx q g h x r a = u.modPort p fun q => { q with
      entWait := ps.findSome? fun e => u.stageBlock g.lan e.1 (List.replicate e.2.1 0#8) x.layout } := by
  unfold State.writeElem
  rw [hm.places]
  dsimp only
  rw [if_neg hm.notHeld, hl]
  dsimp only
  unfold writtenAs at hz
  rw [hs, if_pos Option.isSome_some, hz]

theorem State.writeElem_staged {k : Nat} {w : Machine.State} (hm : MayWrite s u p q g x r ps) (hl : u.layoutBad x.layout ps = none)
    (hs : u.stagedSet g.lan = some k) (hz : u.stagePieces g.lan ps (writtenAs x a).val x.layout = some w) :
    s.writeElem p idx q g h x r a = if anyHeld ps then (State.takeFlags w p idx h x a).setElem p { r with st := .held }
      else (State.takeFlags w p idx h x a).markWritten p h r.n := by
  unfold State.writeElem
  rw [hm.places]
  dsimp only
  rw [if_neg hm.notHeld, hl]
  dsimp only
  unfold writtenAs at hz
  rw [hs, if_pos Option.isSome_some, hz]
  rfl

end

theorem exec_sinkWrite (he : s.sinkWrite p idx = u) : exec (.sinkElementWrite p idx) s = .next u := congrArg Host.Outcome.next he

end

/-- Settles O43: the program's end and start, the issue and the push of elements, and the tokens at an input port. -/
theorem streamEvents : Obligations.StreamEvents := by
  unfold Obligations.StreamEvents
  intro s p q hq
  subst hq
  refine ⟨fun g hn hp => ⟨fun ha => ?_, fun ha => ?_⟩, fun hn hp => ?_, fun g hg => ⟨fun hr => ?_, fun ha hp u hu => ⟨fun hh => ?_, fun hh => ?_⟩⟩,
    fun h hn => exec_issueElem (State.issueElem_none hn), fun g h x hg hx => ⟨fun r hr => exec_issueElem (State.issueElem_retry hg hx hr), ?_, ?_⟩,
    fun idx hn => exec_pushElem (State.pushElem_none hn), fun g idx r hg hr hx => exec_pushElem (State.pushElem_closed hg hr hx),
    fun g idx r x hg hr hx => ⟨fun hi => exec_pushElem (State.pushElem_input hg hr hx hi), fun hb => if_neg fun hc => hb hc.1, fun hi u y hy => ?_⟩,
    fun idx hi => exec_sinkWrite (State.sinkWrite_none hi), ?_, ?_⟩
  · rw [exec_programStart rfl, State.endProg_none hn, State.startPending_pend hn hp, if_neg (by simp [ha])]
  · rw [exec_programStart rfl, State.endProg_none hn, State.startPending_pend hn hp, if_pos ha]
  · rw [exec_programStart rfl, State.endProg_none hn, State.startPending_nothing hn hp]
  · rw [exec_programStart rfl, State.endProg_running hg hr, State.startPending_running hg]
  · have hu' : u = State.closeDone s p g := hu
    rw [exec_programStart rfl, State.endProg_past hg ha hp, if_pos (by simpa [← hu'] using hh), ← hu']
    exact congrArg _ (State.startPending_running ((congrArg (fun t => (State.port t p).prog) hu').trans (State.prog_closeDone.trans hg)))
  · have hu' : u = State.closeDone s p g := hu
    rw [exec_programStart rfl, State.endProg_past hg ha hp, if_neg (by simp [← hu', hh]), ← hu']
    rfl
  · intro hnone w hw
    have hfind : ((s.port p).outq.find? fun r => decide (r.h = h ∧ r.st = .new)) = none := by
      rw [List.find?_eq_none]
      simpa using hnone
    obtain ⟨hstay, hgo⟩ := State.issueElem_next hg hx hfind hw
    refine ⟨fun hno => exec_issueElem (hstay ?_), fun hpos ha ho hwin => ⟨fun rel r hrel hr => ?_, fun hin hidx hcur hal => ?_⟩⟩
    · rintro ⟨hpos, ha, ho, hwin⟩
      rcases hno with hno | hno | hno | ⟨hin, hno⟩
      · omega
      · simp [hno] at ha
      · omega
      · obtain ⟨hpark, hst⟩ := hwin.resolve_left (by simp [hin])
        exact hno.elim hpark (by simp [hst])
    · subst hrel hr
      exact exec_issueElem (hgo ⟨hpos, ha, ho, hwin⟩)
    · refine exec_issueElem ((hgo ⟨hpos, ha, ho, hwin⟩).trans ?_)
      have hrel : (x.idx.find? fun i => decide (i.first ≤ x.pos ∧ x.pos < i.first + i.count)) = none := by rw [hidx]; rfl
      unfold Handle.nextElem Handle.issued
      rw [hrel]
      exact (State.tryElem_direct rfl).trans ((State.placeElem_aligned hcur hal).trans (if_pos hin))
  · intro u r
    refine ⟨fun hi hv => (State.tryElem_direct hi).trans (if_pos hv), fun hi hv ha => (State.tryElem_direct hi).trans (State.placeElem_misaligned hv ha),
      fun hi hv ha => (State.tryElem_direct hi).trans (State.placeElem_aligned hv ha),
      fun ia ifmt hi => ⟨State.tryElem_far hi, State.tryElem_misaligned hi, fun hv ha res v hp => ⟨fun va reason hres => ?_,
        fun ps bs bad w y hres hc hr hb hy => ?_⟩⟩⟩
    · exact State.tryElem_error ⟨hi, hv, ha⟩ (hres ▸ hp)
    · exact State.tryElem_index ⟨hi, hv, ha⟩ (hres ▸ hp) hc (hb ▸ hr) hy
  · have hpush : s.pushElem p idx = State.pushGathered u p g x y := State.pushElem_output hg hr hx hi hy
    refine ⟨fun hst => exec_pushElem (hpush.trans (if_pos hst)), fun hst hun hyu hgr => exec_pushElem (hpush.trans ((if_neg (Classical.not_not.mpr hst)).trans ?_)),
      fun v z op tok ds hst hv hz hop htok hds => ?_⟩
    · rw [if_neg (by simp [hun, hyu]), hgr]
      rfl
    · have hready : s.pushElem p idx = State.pushReady v p g x (u.countOf g x) z := by
        refine hpush.trans ((if_neg (Classical.not_not.mpr hst)).trans ?_)
        rcases hv with ⟨hun, rfl⟩ | ⟨⟨hun, hyu⟩, hgr⟩
        · rw [if_pos hun, hz]
          rfl
        · rw [if_neg (by simp [hun, hyu]), hgr, hz]
          rfl
      have htok' : tok = State.pushToken v p g x (u.countOf g x) z := by rw [htok, hop]; rfl
      have hds' : ds = State.pushDests v p g z := hds
      have htag : tok.tag = v.elemTag p g z.n := by rw [htok']; rfl
      rw [htag]
      clear htok hop hds htag
      subst htok' hds'
      refine ⟨fun hw => exec_pushElem (hready.trans (State.pushReady_waits hw)), fun hlog hroom left hleft =>
        ⟨fun hw => exec_pushElem (hready.trans (State.pushReady_park ⟨hlog, hroom⟩ hw)), fun reason hw => ?_, fun hw => ?_⟩⟩
      · subst hleft
        exact exec_pushElem (hready.trans (State.pushReady_refuse ⟨hlog, hroom⟩ hw))
      · subst hleft
        exact exec_pushElem (hready.trans (State.pushReady_ok ⟨hlog, hroom⟩ hw))
  · intro idx a log k lead hi hl
    subst hl
    exact ⟨State.faultToken_logged, fun hl hn => (State.faultToken_new hl).trans (if_neg (Nat.not_lt.mpr hn)),
      fun hl hn => (State.faultToken_new hl).trans (if_pos hn)⟩
  · intro idx a hi
    refine ⟨fun hw => exec_sinkWrite (State.sinkWrite_held hi hw), fun ho hc => ?_⟩
    have hs : AtSink s p idx a := ⟨hi, ho, hc⟩
    refine ⟨fun u hm hu => ⟨fun hl => ?_, fun lead hl => ⟨fun hno => ?_, fun hp hk => ?_⟩⟩, fun hm hw => exec_sinkWrite (State.sinkWrite_idle hs hm hw),
      fun g h x n hm hg hx hn => ⟨fun hctx => ?_, fun hctx => ?_⟩⟩
    · exact exec_sinkWrite ((State.sinkWrite_marker hs hm).trans (State.portMark_none hu hl))
    · exact exec_sinkWrite ((State.sinkWrite_marker hs hm).trans ((State.portMark_lead hu hl).trans
        (if_pos (by rcases hno with hno | hno <;> simp [hno]))))
    · exact exec_sinkWrite ((State.sinkWrite_marker hs hm).trans ((State.portMark_lead hu hl).trans (if_neg (by simp [hp, hk]))))
    · exact exec_sinkWrite ((State.sinkWrite_token hs hm hg hx).trans (if_pos hctx))
    · subst hn
      have htoken : s.sinkWrite p idx = State.sinkToken s p idx g h (tagIter a.tok.tag) x a :=
        (State.sinkWrite_token hs hm hg hx).trans (if_neg (Classical.not_not.mpr hctx))
      refine ⟨fun hcnt => exec_sinkWrite (htoken.trans (if_pos hcnt)),
        fun hcnt hfar => exec_sinkWrite (htoken.trans ((if_neg (by omega)).trans (if_pos hfar))), fun hcnt hfar hno => ?_, fun r hcnt hfar hr => ?_⟩
      · have hfind : ((s.port p).outq.find? fun r => decide (r.h = h ∧ r.n = tagIter a.tok.tag)) = none := by
          rw [List.find?_eq_none]
          simpa using hno
        refine exec_sinkWrite (htoken.trans ((if_neg (by omega)).trans ((if_neg (by omega)).trans ?_)))
        rw [hfind]
        rfl
      · have helem : s.sinkWrite p idx = State.sinkElem s p idx g h (tagIter a.tok.tag) x a r := by
          refine htoken.trans ((if_neg (by omega)).trans ((if_neg (by omega)).trans ?_))
          rw [hr]
          rfl
        refine ⟨fun he hd => exec_sinkWrite (helem.trans (if_pos ⟨he, hd⟩)), fun hst => ?_⟩
        have hopen := helem.trans (State.sinkElem_open hst)
        refine ⟨fun hpo => exec_sinkWrite (hopen.trans (if_pos hpo)), fun hpo hb => exec_sinkWrite (hopen.trans ((if_neg (by simp [hpo])).trans (if_pos hb))),
          fun hpo hb hf => exec_sinkWrite (hopen.trans ((if_neg (by simp [hpo])).trans ((if_neg (by simp [hb])).trans (if_pos (by simp [hf]))))),
          fun hpo hb hf => ?_⟩
        have hwrite : s.sinkWrite p idx = s.writeElem p idx (s.port p) g h x r a :=
          hopen.trans ((if_neg (by simp [hpo])).trans ((if_neg (by simp [hb])).trans (if_neg (by simp [hf]))))
        refine ⟨fun va reason u hp => exec_sinkWrite (hwrite.trans (State.writeElem_error hp)), fun ps u hp =>
          ⟨fun hw => exec_sinkWrite (hwrite.trans (State.writeElem_stands hp hw)), fun hturn hcut => ?_⟩⟩
        have hmay : MayWrite s u p (s.port p) g x r ps := by
          refine ⟨hp, hturn.imp_right ?_, hcut⟩
          rintro ⟨hord, hco⟩ (⟨hts, hne⟩ | hco')
          · rcases hord with ⟨hord, hall⟩ | hnext
            · rcases hts with hts | ⟨e, he, ht⟩
              · simp [hord] at hts
              · simp [hall e he] at ht
            · exact hne hnext
          · simp [hco] at hco'
        refine ⟨fun mode hl => exec_sinkWrite (hwrite.trans (State.writeElem_layout hmay hl)), fun v hl hv => ?_⟩
        subst hv
        refine ⟨fun off hst ho => exec_sinkWrite (hwrite.trans (State.writeElem_bank hmay hl hst ho)),
          fun hst ho => exec_sinkWrite (hwrite.trans (State.writeElem_home hmay hl hst ho)),
          fun k hst hz => exec_sinkWrite (hwrite.trans (State.writeElem_wanting hmay hl hst hz)), fun k w y hst hz hy => ?_⟩
        subst hy
        exact exec_sinkWrite (hwrite.trans (State.writeElem_staged hmay hl hst hz))

end Sys2Proof
end

section
/-! ## R261, R285 to R289: the commands to memory tiles, and the placement commands -/

namespace Sys2Proof

open Sys2Proof.Machine

section
variable {s u v : Machine.State} {rd ra : Reg} {imm : BitVec 32} {i : Instr} {t : Nat}

/-! ### Commands to tiles -/

section
variable {ok : Bool} {k : Nat → Machine.State → Machine.State}

theorem tileCmd_user (he : exec i s = .next (s.tileCmd i ra ok k)) (hs : s.cur.sup = false) :
    Ends i s (TrappedHere cPRIV (parcelOf i) s) := trap_of he (if_pos (by simp [hs]))

theorem tileCmd_bad (he : exec i s = .next (s.tileCmd i ra ok k)) (hs : s.cur.sup = true) (hk : ok = false) :
    Ends i s (TrappedHere cILLOP (parcelOf i) s) := illop_of he ((if_neg (by simp [hs])).trans (if_pos (by simp [hk])))

theorem State.tileCmd_good (hs : s.cur.sup = true) (hk : ok = true) :
    s.tileCmd i ra ok k = (tileNamed (s.x ra)).elim (s.trap cSTF (s.x ra)) fun t =>
      if s.diesCut (lanDie s.focus) (tileDie t) then s else k t (s.performLoads s.focus) := by
  unfold State.tileCmd
  rw [if_neg (by simp [hs]), if_neg (by simp [hk])]
  cases tileNamed (s.x ra) <;> rfl

theorem tileCmd_elsewhere (he : exec i s = .next (s.tileCmd i ra ok k)) (hs : s.cur.sup = true) (hk : ok = true)
    (ht : tileNamed (s.x ra) = none) : Ends i s (TrappedHere cSTF (s.x ra) s) :=
  trap_of he ((State.tileCmd_good hs hk).trans (by rw [ht]; rfl))

theorem tileCmd_cut (he : exec i s = .next (s.tileCmd i ra ok k)) (hs : s.cur.sup = true) (hk : ok = true)
    (ht : tileNamed (s.x ra) = some t) (hc : s.diesCut (lanDie s.focus) (tileDie t) = true) : exec i s = .next s := by
  rw [he, State.tileCmd_good hs hk, ht]
  exact congrArg _ (if_pos hc)

theorem State.tileCmd_given (hs : s.cur.sup = true) (hk : ok = true)
    (ht : tileNamed (s.x ra) = some t) (hc : s.diesCut (lanDie s.focus) (tileDie t) = false) :
    s.tileCmd i ra ok k = k t (s.performLoads s.focus) := by
  rw [State.tileCmd_good hs hk, ht]
  exact if_neg (by simp [hc])

end

/-- A command has gone to its tile: rd is scoreboarded, and the Lantern goes on. -/
theorem became_giveJob {w : TileWork} {n : Nat} (he : exec i s = .next (u.giveJob t rd w)) (hf : u.focus = n) :
    Ends i s (Became ((u.cur.block rd).advance 1)
      (u.modTile t fun x => { x with jobs := x.jobs ++ [{ lan := n, rd := rd, work := w }] })) := by
  subst hf
  exact became_modCur he rfl rfl

/-- Whether BSCRB's rows lie in the tile, and its zero bits are zero. -/
def scrubOk (imm : BitVec 32) : Bool :=
  decide (imm.extractLsb' 29 3 = 0#3 ∧ imm.extractLsb' 14 2 = 0#2 ∧ 1 ≤ (imm.extractLsb' 0 14).toNat ∧
    (imm.extractLsb' 16 13).toNat + (imm.extractLsb' 0 14).toNat ≤ 8192)

/-- Whether BSTAT's offset names a counter that it may read, or clear. -/
def statOk (clear : Bool) (imm : BitVec 32) : Bool :=
  decide (imm.toNat ≤ 0x38 ∧ imm.toNat % 8 = 0) && !(clear && decide (imm.toNat = 0x38))

theorem State.bscrb_eq : s.bscrb rd ra imm = s.tileCmd (.bscrb rd ra imm) ra (scrubOk imm) fun t s =>
    s.giveJob t rd (.scrub (imm.extractLsb' 16 13).toNat (imm.extractLsb' 0 14).toNat 0) := rfl

theorem State.bstat_eq (c : Bool) : s.bstat c rd ra imm = s.tileCmd (.bstat c rd ra imm) ra (statOk c imm) fun t s =>
    (if c then s.modTile t fun x => { x with cnt := x.cnt.put imm.toNat 0#64 } else s).giveJob t rd
      (.reply ((s.tile t).cnt.get 0#64 imm.toNat)) := rfl

theorem State.bret_eq : s.bret rd ra imm = s.tileCmd (.bret rd ra imm) ra (decide (imm.toNat < 12)) fun t s => s.giveJob t rd
    (((s.tile t).retired (imm.toNat / 4)).elim (.retire (imm.toNat / 4) (imm.toNat % 4)) fun rb =>
      .reply (if rb = imm.toNat % 4 then 1#64 else 2#64)) := by
  unfold State.bret
  congr 1
  funext t u
  dsimp only
  cases (u.tile t).retired (imm.toNat / 4) <;> rfl

theorem exec_bret : exec (.bret rd ra imm) s = .next (s.bret rd ra imm) := rfl

theorem exec_bscrb : exec (.bscrb rd ra imm) s = .next (s.bscrb rd ra imm) := rfl

theorem exec_bstat (c : Bool) : exec (.bstat c rd ra imm) s = .next (s.bstat c rd ra imm) := rfl

/-! ### What a tile makes of its commands -/

/-- Whether a command retires a bank of a group whose parity is settled. -/
def Tile.dueRetire (x : Tile) (j : TileJob) : Bool := match j.work with
  | .retire g _ => !x.parityDue g
  | _ => false

/-- A tile once the command at a place has retired its bank. -/
def Tile.retireAt (x : Tile) (place : Option Nat) : Tile :=
  match place with
  | none => x
  | some i =>
    match x.jobs[i]? with
    | some j =>
      (match j.work with
       | .retire g b => let r := x.retire g b; { r.1 with jobs := x.jobs.set i { j with work := .reply r.2 } }
       | _ => x)
    | none => x

theorem Tile.retireStep_eq (x : Tile) : x.retireStep = Tile.retireAt x (x.jobs.findIdx? (Tile.dueRetire x)) := rfl

section
variable {x : Tile} {n g b : Nat} {j : TileJob}

theorem Tile.parityDue_iff : x.parityDue g = true ↔ ∃ p ∈ x.pipe, p.g = g := by
  unfold Tile.parityDue
  simp only [List.any_eq_true, decide_eq_true_eq]

theorem Tile.dueRetire_retire (hj : j.work = .retire g b) : Tile.dueRetire x j = !x.parityDue g := by
  unfold Tile.dueRetire
  rw [hj]

theorem Tile.dueRetire_iff : Tile.dueRetire x j = true ↔ ∃ g b, j.work = .retire g b ∧ x.parityDue g = false := by
  unfold Tile.dueRetire
  cases j.work <;> simp

/-- The first command of a tile that is due to retire its bank. -/
theorem Tile.findIdx_dueRetire (hi : x.jobs[n]? = some j) (hj : Tile.dueRetire x j = true)
    (hbefore : ∀ k y, k < n → x.jobs[k]? = some y → Tile.dueRetire x y = false) :
    x.jobs.findIdx? (Tile.dueRetire x) = some n := by
  rw [List.findIdx?_eq_some_iff_getElem]
  obtain ⟨hlt, hget⟩ := List.getElem?_eq_some_iff.mp hi
  refine ⟨hlt, hget ▸ hj, fun k hk => ?_⟩
  have hkl : k < x.jobs.length := by omega
  simpa using hbefore k x.jobs[k] hk (List.getElem?_eq_getElem hkl)

theorem Tile.retireStep_first (hi : x.jobs[n]? = some j) (hj : j.work = .retire g b) (hf : x.jobs.findIdx? (Tile.dueRetire x) = some n) :
    x.retireStep = { (x.retire g b).1 with jobs := x.jobs.set n { j with work := .reply (x.retire g b).2 } } := by
  rw [Tile.retireStep_eq, hf]
  unfold Tile.retireAt
  dsimp only
  rw [hi]
  dsimp only
  rw [hj]

theorem Tile.retire_none (h : x.retired g = none) : x.retire g b = ({ x with cnt := x.cnt.put 0x38 (retireBits x.groups g b) }, 0#64) := by
  unfold Tile.retire
  rw [h]

theorem Tile.retire_some {rb : Nat} (h : x.retired g = some rb) : x.retire g b = (x, if rb = b then 1#64 else 2#64) := by
  unfold Tile.retire
  rw [h]

end

theorem Tile.mem_stopped {x : Tile} {g b : Nat} {j : TileJob} (hj : j ∈ x.jobs) (hw : j.work = .retire g b) : g ∈ x.stopped := by
  unfold Tile.stopped
  rw [List.mem_filterMap]
  exact ⟨j, hj, by rw [hw]⟩

end

/-- Settles O44: the three commands, from the checks that they share, and what a tile makes of them. -/
theorem tileCommands : Obligations.TileCommands := by
  unfold Obligations.TileCommands
  refine ⟨fun s v rd ra imm first count goodScrub hfirst hcount hgood hv => ⟨fun hs c i hi => ?_, fun hs => ⟨fun h => ?_, fun h => ?_, fun h c => ?_,
    fun h => ?_, fun c i hi => ?_, fun t ht hc gave hgave => ⟨fun g b hlt hg hb => ?_, fun hok => ?_, fun hle hal => ?_⟩⟩⟩,
    fun x i g b j hi hj hp hbefore => ?_, fun s t q ⟨j, hj, b, hw⟩ => ?_, fun j w s => ⟨fun h => if_pos h, fun h => if_neg h⟩⟩
  · simp only [List.mem_cons, List.not_mem_nil, or_false] at hi
    rcases hi with rfl | rfl | rfl
    · exact tileCmd_user (exec_bret.trans (congrArg _ State.bret_eq)) hs
    · exact tileCmd_user (exec_bscrb.trans (congrArg _ State.bscrb_eq)) hs
    · exact tileCmd_user ((exec_bstat c).trans (congrArg _ (State.bstat_eq c))) hs
  · exact tileCmd_bad (exec_bret.trans (congrArg _ State.bret_eq)) hs (decide_eq_false (by omega))
  · subst hfirst hcount hgood
    exact tileCmd_bad (exec_bscrb.trans (congrArg _ State.bscrb_eq)) hs (decide_eq_false h)
  · refine tileCmd_bad ((exec_bstat c).trans (congrArg _ (State.bstat_eq c))) hs ?_
    unfold statOk
    rw [decide_eq_false (by omega), Bool.false_and]
  · refine tileCmd_bad ((exec_bstat true).trans (congrArg _ (State.bstat_eq true))) hs ?_
    unfold statOk
    rw [decide_eq_true h]
    exact Bool.and_false _
  · subst hfirst hcount hgood
    rcases hi with ⟨rfl, h⟩ | ⟨rfl, h⟩ | ⟨rfl, hle, hal, h⟩
    · have he := exec_bret.trans (congrArg _ (State.bret_eq (s := s) (rd := rd) (ra := ra) (imm := imm)))
      exact ⟨tileCmd_elsewhere he hs (decide_eq_true h), fun t => tileCmd_cut he hs (decide_eq_true h)⟩
    · have he := exec_bscrb.trans (congrArg _ (State.bscrb_eq (s := s) (rd := rd) (ra := ra) (imm := imm)))
      exact ⟨tileCmd_elsewhere he hs (decide_eq_true h), fun t => tileCmd_cut he hs (decide_eq_true h)⟩
    · have hok : statOk c imm = true := by
        unfold statOk
        rw [decide_eq_true ⟨hle, hal⟩]
        rcases h with h | h <;> simp [h]
      have he := (exec_bstat c).trans (congrArg _ (State.bstat_eq (s := s) (rd := rd) (ra := ra) (imm := imm) c))
      exact ⟨tileCmd_elsewhere he hs hok, fun t => tileCmd_cut he hs hok⟩
  · have hfoc : v.focus = s.focus := by rw [hv, focus_performLoads]
    have hgiven := (State.bret_eq (s := s) (rd := rd) (ra := ra) (imm := imm)).trans (State.tileCmd_given hs (decide_eq_true hlt) ht hc)
    rw [← hv] at hgiven
    subst hg hb
    refine ⟨fun rb hrb => ?_, fun hrb => ?_⟩
    · rw [hgave]
      refine became_giveJob (congrArg Host.Outcome.next (hgiven.trans ?_)) hfoc
      rw [hrb]
      rfl
    · rw [hgave]
      refine became_giveJob (congrArg Host.Outcome.next (hgiven.trans ?_)) hfoc
      rw [hrb]
      rfl
  · have hfoc : v.focus = s.focus := by rw [hv, focus_performLoads]
    subst hfirst hcount hgood
    have hgiven := (State.bscrb_eq (s := s) (rd := rd) (ra := ra) (imm := imm)).trans (State.tileCmd_given hs (decide_eq_true hok) ht hc)
    rw [← hv] at hgiven
    rw [hgave]
    exact became_giveJob (congrArg Host.Outcome.next hgiven) hfoc
  · have hfoc : v.focus = s.focus := by rw [hv, focus_performLoads]
    rw [hgave, hgave]
    refine ⟨?_, fun hne => ?_⟩
    · have hgiven := (State.bstat_eq (s := s) (rd := rd) (ra := ra) (imm := imm) false).trans
        (State.tileCmd_given hs (by unfold statOk; rw [decide_eq_true ⟨hle, hal⟩]; rfl) ht hc)
      rw [← hv] at hgiven
      exact became_giveJob (congrArg Host.Outcome.next hgiven) hfoc
    · have hgiven := (State.bstat_eq (s := s) (rd := rd) (ra := ra) (imm := imm) true).trans
        (State.tileCmd_given hs (by unfold statOk; rw [decide_eq_true ⟨hle, hal⟩, decide_eq_false hne]; rfl) ht hc)
      rw [← hv] at hgiven
      exact became_giveJob (u := v.modTile t fun x => { x with cnt := x.cnt.put imm.toNat 0#64 })
        (congrArg Host.Outcome.next hgiven) hfoc
  · have hdue : Tile.dueRetire x j = true := by
      rw [Tile.dueRetire_retire hj, Bool.not_eq_true', ← Bool.not_eq_true, Tile.parityDue_iff]
      rintro ⟨p, hmem, hpg⟩
      exact hp p hmem hpg
    have hfirst := Tile.findIdx_dueRetire hi hdue fun k y hk hy => by
      rw [← Bool.not_eq_true, Tile.dueRetire_iff]
      rintro ⟨g', b', hw, hno⟩
      exact absurd (Tile.parityDue_iff.mpr (hbefore k y hk hy g' b' hw)) (by simp [hno])
    have hstep := Tile.retireStep_first hi hj hfirst
    refine ⟨fun hr => ?_, fun rb hr => ?_⟩
    · rw [hstep, Tile.retire_none hr]
    · rw [hstep, Tile.retire_some hr]
  · exact if_pos (List.contains_iff_mem.mpr (Tile.mem_stopped hj hw))

section
variable {s v : Machine.State} {rd ra : Reg}

/-! ### Launch buffers -/

theorem State.pinCmd_waits {k : Nat → Nat → Nat → Buffer → Machine.State → Machine.State} (h : s.speculative s.focus = true) :
    s.pinCmd rd ra k = s := if_pos h

theorem State.pinCmd_nowhere {k : Nat → Nat → Nat → Buffer → Machine.State → Machine.State} (h : s.speculative s.focus = false)
    (hb : s.bufferAt s.focus (s.x ra) = none) : s.pinCmd rd ra k = s.retireReg rd 0xFFFFFFFFFFFFFFFF#64 1 := by
  unfold State.pinCmd
  rw [if_neg (by simp [h]), hb]
  rfl

theorem State.pinCmd_buffer {k : Nat → Nat → Nat → Buffer → Machine.State → Machine.State} {id pasid n : Nat} {b : Buffer}
    (hv : v = s.performLoads s.focus) (h : s.speculative s.focus = false)
    (hb : s.bufferAt s.focus (s.x ra) = some (id, pasid, n, b)) : s.pinCmd rd ra k = k id pasid n b v := by
  unfold State.pinCmd
  rw [if_neg (by simp [h]), hb, hv]

theorem State.evictNext_none {die : Nat} (h : s.victim die = none) : s.evictNext die = s := by
  unfold State.evictNext
  rw [h]

theorem State.evictNext_some {die id n : Nat} {b : Buffer} (h : s.victim die = some (id, n, b)) :
    s.evictNext die = if s.moveBusy b then s else (s.evict id n b).getD s := by
  unfold State.evictNext
  rw [h]

end

/-- Settles O45: the placement commands on the buffer that holds the address, and the Beacon's eviction. -/
theorem bufferPins : Obligations.BufferPins := by
  unfold Obligations.BufferPins
  intro s v hv
  refine ⟨fun rd ra h i hi => ?_, fun rd ra h => ⟨fun i hi hb => ?_, fun id pasid n b hb => ?_⟩, fun die => ⟨fun h => is_of rfl (if_neg (by simp [h])),
    fun h hn => is_of rfl ((if_pos h).trans (State.evictNext_none hn)), fun id n b h hb => ⟨fun hm => ?_, fun hm => ?_⟩⟩⟩
  · simp only [List.mem_cons, List.not_mem_nil, or_false] at hi
    rcases hi with rfl | rfl | rfl
    · exact congrArg Host.Outcome.next (State.pinCmd_waits h)
    · exact congrArg Host.Outcome.next (State.pinCmd_waits h)
    · exact congrArg Host.Outcome.next (State.pinCmd_waits h)
  · simp only [List.mem_cons, List.not_mem_nil, or_false] at hi
    rcases hi with rfl | rfl | rfl
    · exact wrote_of rfl (State.pinCmd_nowhere h hb)
    · exact wrote_of rfl (State.pinCmd_nowhere h hb)
    · exact wrote_of rfl (State.pinCmd_nowhere h hb)
  · have hpin : s.mpin rd ra = _ := State.pinCmd_buffer hv h hb
    have hevct : s.mevct rd ra = _ := State.pinCmd_buffer hv h hb
    dsimp only at hpin hevct
    refine ⟨fun hp => wrote_of rfl (hpin.trans (if_pos hp)), fun hp ho => wrote_of rfl (hpin.trans ((if_neg hp).trans (if_pos ho))),
      fun hp ho hw => wrote_of rfl (hpin.trans ((if_neg hp).trans ((if_neg (by simp [ho])).trans (if_neg (by simp [hw]))))),
      fun hp ho hw => ⟨fun pa hpa => ?_, fun hpa => ?_⟩, wrote_of rfl (State.pinCmd_buffer hv h hb),
      fun ho => wrote_of rfl (hevct.trans (if_pos (by simp [ho]))),
      fun ho hp => wrote_of rfl (hevct.trans ((if_neg (by simp [ho])).trans (if_pos hp))), fun ho hp hi hm => ⟨fun u hu => ?_, fun hu => ?_⟩,
      fun ho hp hi hm => ?_⟩
    · refine wrote_of rfl (hpin.trans ((if_neg hp).trans ((if_neg (by simp [ho])).trans ((if_pos hw).trans ?_))))
      rw [hpa]
    · refine is_of rfl (hpin.trans ((if_neg hp).trans ((if_neg (by simp [ho])).trans ((if_pos hw).trans ?_))))
      rw [hpa]
    · refine wrote_of rfl (hevct.trans ((if_neg (by simp [ho])).trans ((if_neg (by simp [hp, hi])).trans ((if_neg (by simp [hm])).trans ?_))))
      rw [hu]
    · refine congrArg Host.Outcome.next (hevct.trans ((if_neg (by simp [ho])).trans ((if_neg (by simp [hp, hi])).trans
        ((if_neg (by simp [hm])).trans ?_))))
      rw [hu]
    · exact congrArg Host.Outcome.next (hevct.trans ((if_neg (by simp [ho])).trans ((if_neg (by simp [hp, hi])).trans (if_pos hm))))
  · exact is_of rfl ((if_pos h).trans ((State.evictNext_some hb).trans (if_pos hm)))
  · exact is_of rfl ((if_pos h).trans ((State.evictNext_some hb).trans (if_neg (by simp [hm]))))

end Sys2Proof
end

section
/-! ## R386, R396, R398 to R408, R410 to R412: the commands of a segment -/

namespace Sys2Proof

open Sys2Proof.Machine

section
variable {s u v y z : Machine.State} {rd ra rb : Reg} {i : Instr} {idx die n : Nat} {g : Seg} {l : Launch}

theorem State.onSeg_some {k : Nat → Nat → Seg → Launch → Machine.State} (hr : s.resident s.focus = some (idx, g))
    (hl : s.hub.launches.find g.launch = some l) : s.onSeg rd k = k (lanDie s.focus) idx g l := by
  unfold State.onSeg
  rw [hr]
  dsimp only
  rw [hl]

theorem State.onSeg_none {k : Nat → Nat → Seg → Launch → Machine.State} (hr : s.resident s.focus = none) :
    s.onSeg rd k = s.retireReg rd allOnes 1 := by
  unfold State.onSeg
  rw [hr]

theorem State.modBeacon_congr {f f' : Beacon → Beacon} (h : f (s.beacon n) = f' (s.beacon n)) : s.modBeacon n f = s.modBeacon n f' := by
  unfold State.modBeacon
  rw [h]

/-! ### RESLV and COMMIT -/

theorem State.reslv_spec (hs : s.speculative s.focus = true) : s.reslv rd ra = s := if_pos hs

theorem State.reslv_bad (hs : s.speculative s.focus = false) (h : 2 ^ 13 ≤ (s.x ra).toNat) :
    s.reslv rd ra = s.retireReg rd allOnes 1 :=
  (if_neg (by simp [hs])).trans (if_pos (by omega))

theorem State.reslv_resolves (hs : s.speculative s.focus = false) (h : (s.x ra).toNat < 2 ^ 13) (hv : v = s.performLoads s.focus)
    (hr : v.resident v.focus = some (idx, g)) (hl : v.hub.launches.find g.launch = some l) {r : Nat × Nat × Machine.State}
    (hres : r = v.resolveSites (lanDie v.focus) l.id g.pasid (v.resolveFuel (lanDie v.focus))
      [((s.x ra).toNat % 4096, (s.x ra).getLsbD 12)]) :
    s.reslv rd ra = (r.2.2.releaseAll (lanDie v.focus)).retireReg rd (BitVec.ofNat 64 (min r.2.1 0xFFFF * 2 ^ 16 + min r.1 0xFFFF)) 1 := by
  unfold State.reslv
  dsimp only
  rw [if_neg (by simp [hs]), if_neg (by omega), ← hv, State.onSeg_some hr hl, hres]
  rfl

theorem State.commitNow_spec (hs : s.speculative s.focus = true) : s.commitNow rd = s := if_pos hs

theorem State.commitNow_staged {k : Nat} (hs : s.speculative s.focus = false) (hv : v = s.performLoads s.focus)
    (hk : v.stagedSet v.focus = some k) (hr : v.resident v.focus = some (idx, g)) :
    s.commitNow rd = ((v.modBeacon (lanDie v.focus) fun b =>
      { b with commits := b.commits ++ [{ set := k, idx := idx, retire := false }] }).releaseAll (lanDie v.focus)).retireReg rd 0#64 1 := by
  unfold State.commitNow
  dsimp only
  rw [if_neg (by simp [hs]), ← hv, hk, hr]

theorem State.commitNow_unstaged (hs : s.speculative s.focus = false) (hv : v = s.performLoads s.focus)
    (hk : v.stagedSet v.focus = none) : s.commitNow rd = v.retireReg rd 1#64 1 := by
  unfold State.commitNow
  dsimp only
  rw [if_neg (by simp [hs]), ← hv, hk]

theorem State.stagedSet_none (hr : s.resident n = none) : s.stagedSet n = none := by
  unfold State.stagedSet
  rw [hr]

/-! ### PRED -/

theorem clampP_natCast (k : Nat) : clampP k = max 64 (min k 32704) := by
  unfold clampP
  omega

theorem State.pred_spec (hs : s.speculative s.focus = true) : s.pred_ true rd ra rb = s := if_pos hs

theorem State.pred_bad {w : Bool} (hw : w = false ∨ s.speculative s.focus = false) (h : 2 ^ 12 ≤ (s.x ra).toNat) :
    s.pred_ w rd ra rb = s.retireReg rd allOnes 1 :=
  (if_neg (by rcases hw with h | h <;> simp [h])).trans (if_pos (by omega))

theorem State.pred_good {w : Bool} {p : Nat} (hw : w = false ∨ s.speculative s.focus = false) (h : (s.x ra).toNat < 2 ^ 12)
    (hv : v = s.performLoads s.focus) (hr : v.resident v.focus = some (idx, g)) (hl : v.hub.launches.find g.launch = some l)
    (hp : p = (v.beacon (lanDie v.focus)).predOf g.pasid (s.x ra).toNat) :
    s.pred_ w rd ra rb = (v.setPred (lanDie v.focus) g.pasid (s.x ra).toNat
      (if w then max 64 (min (s.x rb).toNat 32704) else p)).retireReg rd (BitVec.ofNat 64 p) 1 := by
  unfold State.pred_
  dsimp only
  rw [if_neg (by rcases hw with h | h <;> simp [h]), if_neg (by omega), ← hv, State.onSeg_some hr hl, hp, clampP_natCast]

/-! ### ABORT and YIELD -/

theorem State.abort_some (q : Bool) (hr : s.resident s.focus = some (idx, g)) : s.abort_ q = s.abortSeg (lanDie s.focus) idx q := by
  unfold State.abort_
  rw [hr]

theorem State.abort_none (q : Bool) (hr : s.resident s.focus = none) : s.abort_ q = s.modCur fun l => { l with st := .idle } := by
  unfold State.abort_
  rw [hr]

theorem State.yield_none (c : Bool) (hr : s.resident s.focus = none) : s.yield_ rd c = s.retireReg rd 0#64 1 := by
  unfold State.yield_
  rw [hr]

theorem State.yield_draining (c : Bool) (hr : s.resident s.focus = some (idx, g)) (hp : g.preempt = true) : s.yield_ rd c = s := by
  unfold State.yield_
  rw [hr]
  exact if_pos hp

theorem State.yield_unbeaten (hr : s.resident s.focus = some (idx, g)) (hp : g.preempt = false)
    (hb : s.beaten (lanDie s.focus) g = false) : s.yield_ rd true = s.retireReg rd 0#64 1 := by
  unfold State.yield_
  rw [hr]
  exact (if_neg (by simp [hp])).trans (if_pos (by simp [hb]))

theorem State.yield_drains {c : Bool} {o : Option Machine.State} (hr : s.resident s.focus = some (idx, g)) (hp : g.preempt = false)
    (hb : c = false ∨ s.beaten (lanDie s.focus) g = true)
    (ho : (s.performLoads s.focus).startPreempt (lanDie s.focus) idx s.cur.sup = o) :
    s.yield_ rd c = o.elim (s.retireReg rd 0#64 1) fun u => u.retireReg rd 1#64 1 := by
  unfold State.yield_
  rw [hr]
  dsimp only
  rw [if_neg (by simp [hp]), if_neg (by rcases hb with h | h <;> simp [h]), ho]
  cases o <;> rfl

/-! ### DLINE, BUDGT and SEGID -/

theorem State.dline_none (hr : (s.performLoads s.focus).resident (s.performLoads s.focus).focus = none) :
    s.dline rd ra = (s.performLoads s.focus).retireReg rd allOnes 1 := by
  unfold State.dline
  exact State.onSeg_none hr

theorem State.budgt_none (hr : (s.performLoads s.focus).resident (s.performLoads s.focus).focus = none) :
    s.budgt rd ra = (s.performLoads s.focus).retireReg rd allOnes 1 := by
  unfold State.budgt
  exact State.onSeg_none hr

theorem State.segid_none (hr : (s.performLoads s.focus).resident (s.performLoads s.focus).focus = none) :
    s.segid_ rd ra = (s.performLoads s.focus).retireReg rd allOnes 1 := by
  unfold State.segid_
  exact State.onSeg_none hr

theorem State.dline_some (hv : v = s.performLoads s.focus) (hr : v.resident v.focus = some (idx, g))
    (hl : v.hub.launches.find g.launch = some l) :
    s.dline rd ra = ((v.modSeg (lanDie v.focus) idx fun g => { g with deadline := s.x ra }).modCur fun l =>
      { l with deadln := s.x ra }).retireReg rd g.deadline 1 := by
  unfold State.dline
  dsimp only
  rw [← hv, State.onSeg_some hr hl]

theorem State.budgt_some (hv : v = s.performLoads s.focus) (hr : v.resident v.focus = some (idx, g))
    (hl : v.hub.launches.find g.launch = some l) :
    s.budgt rd ra = if s.x ra = 0#64 then v.retireReg rd (BitVec.ofNat 64 (min l.pool (2 ^ 64 - 1))) 1
      else ((v.modLaunch l.id fun x => { x with pool := x.pool - min (s.x ra).toNat l.pool }).modCur fun x =>
        { x with budget := satAdd x.budget (min (s.x ra).toNat l.pool) }).retireReg rd (BitVec.ofNat 64 (min (s.x ra).toNat l.pool)) 1 := by
  unfold State.budgt
  dsimp only
  rw [← hv, State.onSeg_some hr hl]

/-- What SEGID answers of a segment of launch `id`, or of none. -/
def segAnswer (v : Machine.State) (id : Nat) (e : Option (Nat × Nat × Seg)) : Word :=
  e.elim 0#64 fun e => if e.2.2.launch = id then v.segWord e.2.2 else 0#64

theorem State.segid_own (hv : v = s.performLoads s.focus) (hr : v.resident v.focus = some (idx, g))
    (hl : v.hub.launches.find g.launch = some l) (hx : s.x ra = 0#64) : s.segid_ rd ra = v.retireReg rd (v.segWord g) 1 := by
  unfold State.segid_
  dsimp only
  rw [← hv, State.onSeg_some hr hl, if_neg (by simp [hx]), if_pos hx]

theorem State.segid_other (hv : v = s.performLoads s.focus) (hr : v.resident v.focus = some (idx, g))
    (hl : v.hub.launches.find g.launch = some l) (hx : s.x ra ≠ 0#64) :
    s.segid_ rd ra = if (v.segAt (s.x ra)).any fun e => v.diesCut (lanDie v.focus) e.1 then v
      else v.retireReg rd (segAnswer v l.id (v.segAt (s.x ra))) 1 := by
  unfold State.segid_
  dsimp only
  rw [← hv, State.onSeg_some hr hl, decide_eq_true hx, Bool.true_and, if_neg hx]
  cases v.segAt (s.x ra) <;> rfl

end

end Sys2Proof
end

section

open Sys2Proof Sys2Proof.Machine

/-- Settles O46: each command without a segment, and with one. -/
theorem segmentCommands : Obligations.SegmentCommands := by
  unfold Obligations.SegmentCommands
  refine ⟨fun s v rd ra hv hr => ⟨fun i hi => ?_, fun hs => wrote_of rfl (State.commitNow_unstaged hs hv (State.stagedSet_none hr))⟩,
    fun s rd hr => ⟨fun i hi => ?_, fun i hi => ?_⟩, fun s v rd ra rb idx die g l hv hr hl hdie => ?_⟩
  · simp only [List.mem_cons, List.not_mem_nil, or_false] at hi
    subst hv
    rcases hi with rfl | rfl | rfl
    · exact wrote_of rfl (State.dline_none hr)
    · exact wrote_of rfl (State.budgt_none hr)
    · exact wrote_of rfl (State.segid_none hr)
  · simp only [List.mem_cons, List.not_mem_nil, or_false] at hi
    rcases hi with rfl | rfl
    · exact became_modCur rfl (State.abort_none false hr) rfl
    · exact became_modCur rfl (State.abort_none true hr) rfl
  · simp only [List.mem_cons, List.not_mem_nil, or_false] at hi
    rcases hi with rfl | rfl
    · exact wrote_of rfl (State.yield_none false hr)
    · exact wrote_of rfl (State.yield_none true hr)
  · subst hdie
    refine ⟨fun hs i hi => ?_, fun hs => ⟨fun h => wrote_of rfl (State.reslv_bad hs h), fun h r hres =>
        wrote_of rfl (State.reslv_resolves hs h hv hr hl hres), fun k hk => wrote_of rfl (State.commitNow_staged hs hv hk hr),
        fun hk => wrote_of rfl (State.commitNow_unstaged hs hv hk)⟩,
      fun w hw => ⟨fun h => wrote_of rfl (State.pred_bad hw h), fun h p hp => wrote_of rfl (State.pred_good hw h hv hr hl hp)⟩,
      fun n d hd => ⟨is_of rfl (State.abort_some false hd), is_of rfl (State.abort_some true hd),
        fun hp => ⟨is_of rfl (State.yield_draining false hd hp), is_of rfl (State.yield_draining true hd hp)⟩,
        fun hp => ⟨fun hb => wrote_of rfl (State.yield_unbeaten hd hp hb), fun u hu => ?_⟩, fun hp hu => ?_⟩,
      wrote_of rfl (State.dline_some hv hr hl), fun hx => wrote_of rfl ((State.budgt_some hv hr hl).trans (if_pos hx)),
      fun hx n hn => ?_, fun hx => wrote_of rfl (State.segid_own hv hr hl hx), fun hx => ?_⟩
    · simp only [List.mem_cons, List.not_mem_nil, or_false] at hi
      rcases hi with rfl | rfl | rfl
      · exact is_of rfl (State.reslv_spec hs)
      · exact is_of rfl (State.commitNow_spec hs)
      · exact is_of rfl (State.pred_spec hs)
    · rw [hv] at hu
      exact ⟨wrote_of rfl (State.yield_drains hd hp (Or.inl rfl) hu), fun hb => wrote_of rfl (State.yield_drains hd hp (Or.inr hb) hu)⟩
    · rw [hv] at hu
      exact ⟨wrote_of rfl (State.yield_drains hd hp (Or.inl rfl) hu), fun hb => wrote_of rfl (State.yield_drains hd hp (Or.inr hb) hu)⟩
    · subst hn
      exact wrote_of rfl ((State.budgt_some hv hr hl).trans (if_neg hx))
    · have hsegid := State.segid_other (rd := rd) hv hr hl hx
      refine ⟨fun a b t ht hc => congrArg Host.Outcome.next (hsegid.trans ?_), fun a b t ht hc => wrote_of rfl (hsegid.trans ?_),
        fun ht => wrote_of rfl (hsegid.trans ?_)⟩
      · rw [ht]
        exact if_pos hc
      · rw [ht]
        exact if_neg (by simp [hc])
      · rw [ht]
        exact if_neg (by simp)

end

section
/-! ## R216, R389, R390, R398 to R401, R404: the spawns, the tails and the outcomes -/

namespace Sys2Proof

open Sys2Proof.Machine

section
variable {s u v y z : Machine.State} {rd ra rb : Reg} {i : Instr} {idx die tgt n : Nat} {g : Seg} {l : Launch} {d : SegDesc} {va : Word}
  {bs ex : List Byte}

theorem Vis.finish_ok {α : Type} {a : α} {k : α → Machine.State → Machine.State} : (Vis.ok a s).finish k = k a s := rfl

/-! ### SPAWN and SPWNC -/

/-- A spawn on a segment's Lantern once its descriptor has been read. -/
def State.spawnOn (y : Machine.State) (rd : Reg) (cw : Option Word) (d : SegDesc) (bad : Bool) (va : Word) (die idx : Nat) (g : Seg) (l : Launch)
    (tgt : Nat) : Machine.State :=
  if bad then y.retireReg rd (spawnErr 1) 1
  else if decide (d.die ≠ 15) && decide (l.dies ≤ d.die) then y.retireReg rd (spawnErr 2) 1
  else if y.diesCut die tgt then y
  else
    match cw with
    | none => y.enterSpawn rd die tgt idx g l d va none
    | some v =>
      match condWord v d.like with
      | none => y.retireReg rd (spawnErr 3) 1
      | some c => if tgt ≠ die then y.retireReg rd (spawnErr 3) 1 else y.enterSpawn rd die tgt idx g l d va (some c)

/-- What a spawn enters, once its factors are known: it waits for room in the table and for the depth rule. -/
def State.enterWith (y z : Machine.State) (rd : Reg) (die tgt idx : Nat) (g : Seg) (l : Launch) (d : SegDesc) (va : Word) (spec : Bool)
    (fs : List Factor) : Machine.State :=
  if 4 < fs.length || (z.beacon tgt).quarantined then y
  else (z.freeSeg tgt).elim y fun i =>
    (z.enterSeg tgt i l d va spec fs (some (segIdent die idx g.serial))).2.retireReg rd
      (z.enterSeg tgt i l d va spec fs (some (segIdent die idx g.serial))).1 1

theorem State.spawn_misaligned (cw : Option Word) (h : (s.x ra).toNat % 64 ≠ 0) : s.spawn rd ra cw = s.trap cALIGN (s.x ra) := if_pos h

theorem State.spawn_read (cw : Option Word) (h : (s.x ra).toNat % 64 = 0) (hv : v = s.performLoads s.focus)
    (hbs : v.readVirt (s.x ra) 64 1 = .ok bs u) (hex : u.readVirt (BitVec.ofNat 64 (descTable bs)) (8 * descExtra bs) 1 = .ok ex y)
    (hr : y.resident y.focus = some (idx, g)) (hl : y.hub.launches.find g.launch = some l) (hd : d = descOf bs ex)
    (htgt : tgt = if d.die = 15 then lanDie y.focus else d.die) :
    s.spawn rd ra cw = State.spawnOn y rd cw d (segDescBad bs d l.clMax) (s.x ra) (lanDie y.focus) idx g l tgt := by
  unfold State.spawn
  dsimp only
  rw [if_neg (Classical.not_not.mpr h), ← hv, hbs, Vis.finish_ok, hex, Vis.finish_ok, State.onSeg_some hr hl]
  rw [htgt, hd]
  exact rfl

theorem State.spawnOn_bad (cw : Option Word) : State.spawnOn y rd cw d true va die idx g l tgt = y.retireReg rd (spawnErr 1) 1 := rfl

theorem State.spawnOn_outside (cw : Option Word) (h : d.die ≠ 15) (hl : l.dies ≤ d.die) :
    State.spawnOn y rd cw d false va die idx g l tgt = y.retireReg rd (spawnErr 2) 1  :=
  (if_neg Bool.false_ne_true).trans (if_pos (by simp [h, hl]))

theorem State.spawnOn_cut (cw : Option Word) (h : d.die = 15 ∨ d.die < l.dies) (hc : y.diesCut die tgt = true) :
    State.spawnOn y rd cw d false va die idx g l tgt = y :=
  (if_neg Bool.false_ne_true).trans ((if_neg (by simpa using Decidable.or_iff_not_imp_left.mp h)).trans (if_pos hc))

theorem State.spawnOn_plain (h : d.die = 15 ∨ d.die < l.dies) (hc : y.diesCut die tgt = false) :
    State.spawnOn y rd none d false va die idx g l tgt = y.enterSpawn rd die tgt idx g l d va none :=
  (if_neg Bool.false_ne_true).trans ((if_neg (by simpa using Decidable.or_iff_not_imp_left.mp h)).trans (if_neg (by simp [hc])))

theorem State.spawnOn_noCond (h : d.die = 15 ∨ d.die < l.dies) (hc : y.diesCut die tgt = false)
    (hw : condWord va d.like = none ∨ tgt ≠ die) {w : Word} :
    State.spawnOn y rd (some va) d false w die idx g l tgt = y.retireReg rd (spawnErr 3) 1 := by
  refine (if_neg Bool.false_ne_true).trans ((if_neg (by simpa using Decidable.or_iff_not_imp_left.mp h)).trans ((if_neg (by simp [hc])).trans ?_))
  dsimp only
  cases hcond : condWord va d.like with
  | none => rfl
  | some c => exact if_pos (hw.resolve_left (by simp [hcond]))

theorem State.spawnOn_cond {c : Nat × Bool × Nat} (h : d.die = 15 ∨ d.die < l.dies) (hc : y.diesCut die tgt = false)
    (hw : condWord va d.like = some c) (ht : tgt = die) {w : Word} :
    State.spawnOn y rd (some va) d false w die idx g l tgt = y.enterSpawn rd die tgt idx g l d w (some c) := by
  refine (if_neg Bool.false_ne_true).trans ((if_neg (by simpa using Decidable.or_iff_not_imp_left.mp h)).trans ((if_neg (by simp [hc])).trans ?_))
  dsimp only
  rw [hw]
  exact if_neg (Classical.not_not.mpr ht)

theorem State.enterSpawn_plain : y.enterSpawn rd die tgt idx g l d va none =
    State.enterWith y y rd die tgt idx g l d va g.isSpec (if g.isSpec then g.factors else []) := by
  have h : y.enterSpawn rd die tgt idx g l d va none =
      State.enterWith y y rd die tgt idx g l d va (g.isSpec || false) (if g.isSpec then g.factors else []) := by
    unfold State.enterSpawn State.enterWith
    dsimp only
    cases y.freeSeg tgt <;> rfl
  rw [h, Bool.or_false]

/-- The factors of a segment spawned under a condition whose likelihood code is `p`. -/
def condFactors (g : Seg) (p : Nat) (c : Nat × Bool × Nat) : List Factor :=
  (if g.isSpec then g.factors else []) ++ (if p = 0x8000 then [] else [{ site := c.2.2, side := c.2.1, cost := costOf p }])

theorem State.enterSpawn_cond {c : Nat × Bool × Nat} {p : Nat} (h : y.effectiveP die g.pasid c = (p, z)) :
    y.enterSpawn rd die tgt idx g l d va (some c) =
      State.enterWith y z rd die tgt idx g l d va (g.isSpec || decide (p ≠ 0x8000)) (condFactors g p c) := by
  have hfs : condFactors g p c = if p = 0x8000 then (if g.isSpec then g.factors else [])
      else (if g.isSpec then g.factors else []) ++ [{ site := c.2.2, side := c.2.1, cost := costOf p }] := by
    unfold condFactors
    by_cases hp : p = 0x8000
    · rw [if_pos hp, if_pos hp, List.append_nil]
    · rw [if_neg hp, if_neg hp]
  obtain ⟨c, side, site⟩ := c
  rw [hfs]
  unfold State.enterSpawn State.enterWith
  dsimp only
  rw [h]
  dsimp only
  cases z.freeSeg tgt <;> rfl

theorem State.enterWith_waits {spec : Bool} {fs : List Factor}
    (h : 4 < fs.length ∨ (z.beacon tgt).quarantined = true ∨ z.freeSeg tgt = none) :
    State.enterWith y z rd die tgt idx g l d va spec fs = y := by
  unfold State.enterWith
  split
  · rfl
  · next hno => rw [(or_assoc.mpr h).resolve_left (by simpa using hno), Option.elim_none]

theorem State.enterWith_enters {spec : Bool} {fs : List Factor} (hf : fs.length ≤ 4) (hq : (z.beacon tgt).quarantined = false)
    (hi : z.freeSeg tgt = some n) {r : Word × Machine.State}
    (hr : r = z.enterSeg tgt n l d va spec fs (some (segIdent die idx g.serial))) :
    State.enterWith y z rd die tgt idx g l d va spec fs = r.2.retireReg rd r.1 1 := by
  subst hr
  unfold State.enterWith
  rw [if_neg (by simp [hq]; omega), hi, Option.elim_some]

theorem exec_spawn : exec (.spawn rd ra) s = .next (s.spawn rd ra none) := rfl

theorem exec_spwnc : exec (.spwnc rd ra rb) s = .next (s.spawn rd ra (some (s.x rb))) := rfl

/-- What holds of both spawns, whatever the condition word, holds of each. -/
theorem exec_spawns {P : Instr → Prop} (h : ∀ i cw, exec i s = .next (s.spawn rd ra cw) → P i) :
    ∀ i ∈ [Instr.spawn rd ra, .spwnc rd ra rb], P i := by
  intro i hi
  simp only [List.mem_cons, List.not_mem_nil, or_false] at hi
  rcases hi with rfl | rfl
  · exact h _ none exec_spawn
  · exact h _ (some (s.x rb)) exec_spwnc

/-! ### TAILW -/

theorem State.tailw_spec (h : s.speculative s.focus = true) : s.tailw rd ra rb = s := if_pos h

theorem State.tailw_misaligned (hs : s.speculative s.focus = false) (h : (s.x ra).toNat % 64 ≠ 0) :
    s.tailw rd ra rb = s.trap cALIGN (s.x ra) :=
  (if_neg (by simp [hs])).trans (if_pos h)

/-- Whether a pull takes up the ring at an address. -/
def samePull (va : Word) (pasid : Nat) (q : Pull) : Bool := decide (q.hdr = va ∧ q.pasid = pasid)

/-- TAILW on a segment's Lantern once a well-formed header has been read. -/
def State.tailOn (u : Machine.State) (rd : Reg) (va : Word) (die idx : Nat) (g : Seg) (l : Launch) (base log tgt head t : Nat) : Machine.State :=
  if t < head ∨ 2 ^ log < t - head then u.retireReg rd 2#64 1
  else if u.diesCut die tgt then u
  else (u.modBeacon tgt fun b => { b with
    pulls :=
      if b.pulls.any (samePull va g.pasid) then b.pulls.map fun q => if samePull va g.pasid q then { q with tail := max q.tail t } else q
      else b.pulls ++ [{ hdr := va, base := base, log := log, head := head, tail := t, pasid := g.pasid, launch := l.id,
                         sender := segIdent die idx g.serial, miss := Miss.zero, wait := false }] }).retireReg rd 0#64 1

theorem State.tailw_read {h : List Byte} (hs : s.speculative s.focus = false) (ha : (s.x ra).toNat % 64 = 0)
    (hv : v = s.performLoads s.focus) (hh : v.readVirt (s.x ra) 64 1 = .ok h u)
    (hr : u.resident u.focus = some (idx, g)) (hl : u.hub.launches.find g.launch = some l) :
    s.tailw rd ra rb = (ringHeader h).elim (u.retireReg rd 1#64 1) fun r =>
      State.tailOn u rd (s.x ra) (lanDie u.focus) idx g l r.1 r.2.1 r.2.2.1 r.2.2.2 (s.x rb).toNat := by
  unfold State.tailw
  dsimp only
  rw [if_neg (by simp [hs]), if_neg (Classical.not_not.mpr ha), ← hv, hh, Vis.finish_ok, State.onSeg_some hr hl]
  cases ringHeader h <;> rfl

end

end Sys2Proof
end

section

open Sys2Proof Sys2Proof.Machine

/-- Settles O47: the spawns by the outcome of each check, TAILW by its header and its tail, and CRES. -/
theorem segmentSpawns : Obligations.SegmentSpawns := by
  unfold Obligations.SegmentSpawns
  refine ⟨fun s v rd ra rb hv => ⟨fun ha => exec_spawns fun i cw he => trap_of he (State.spawn_misaligned cw ha),
    fun ha bs ex u y idx g l hbs hex hr hl d die tgt hd hdie htgt => ?_, fun hs => is_of rfl (State.tailw_spec hs),
    fun hs => ⟨fun ha => trap_of rfl (State.tailw_misaligned hs ha), fun ha h u idx g l hh hr hl => ?_⟩⟩,
    fun f w s hx => exec_of_handler execCres hx rfl rfl (by rw [slotOf hx rfl])⟩
  · subst hdie
    have hread := fun cw => State.spawn_read (rd := rd) cw ha hv hbs hex hr hl hd htgt
    refine ⟨fun hb => exec_spawns fun i cw he => wrote_of he ((hread cw).trans (by rw [hb]; rfl)),
      fun hb h15 hout => exec_spawns fun i cw he => wrote_of he ((hread cw).trans (by rw [hb]; exact State.spawnOn_outside cw h15 hout)),
      fun hb hin hc => exec_spawns fun i cw he => he.trans (congrArg _ ((hread cw).trans (by rw [hb]; exact State.spawnOn_cut cw hin hc))),
      fun hb hin hc => ?_⟩
    rw [hb] at hread
    have hplain := (hread none).trans ((State.spawnOn_plain hin hc).trans State.enterSpawn_plain)
    refine ⟨fun fs hfs => ?_, fun hw => wrote_of exec_spwnc ((hread _).trans (State.spawnOn_noCond hin hc hw)),
      fun c p z fs hw ht heff hfs => ?_⟩
    · subst hfs
      exact ⟨fun h => is_of exec_spawn (hplain.trans (State.enterWith_waits h)),
        fun hf hq i hi r hr => wrote_of exec_spawn (hplain.trans (State.enterWith_enters hf hq hi hr))⟩
    · have hcond := (hread _).trans ((State.spawnOn_cond hin hc hw ht).trans (State.enterSpawn_cond heff))
      have hfs' : fs = condFactors g p c := hfs
      subst hfs'
      exact ⟨fun h => is_of exec_spwnc (hcond.trans (State.enterWith_waits h)),
        fun hf hq i hi r hr => wrote_of exec_spwnc (hcond.trans (State.enterWith_enters hf hq hi hr))⟩
  · have hread := State.tailw_read (rd := rd) (rb := rb) hs ha hv hh hr hl
    refine ⟨fun hn => wrote_of rfl (hread.trans (by rw [hn]; rfl)), fun base log tgt head n hring hn => ?_⟩
    subst hn
    rw [hring] at hread
    refine ⟨fun ht => wrote_of rfl (hread.trans (if_pos ht)), fun h1 h2 hc => congrArg _ (hread.trans ((if_neg (by dsimp only; omega)).trans (if_pos hc))),
      fun h1 h2 hc hq => ?_, fun h1 h2 hc hq => ?_⟩
    · refine wrote_of rfl (hread.trans ((if_neg (by dsimp only; omega)).trans ((if_neg (by simp [hc])).trans ?_)))
      refine congrArg (fun w => State.retireReg w rd 0#64 1) (State.modBeacon_congr ?_)
      have hany : (u.beacon tgt).pulls.any (samePull (s.x ra) g.pasid) = true :=
        List.any_eq_true.mpr (hq.imp fun q h => ⟨h.1, decide_eq_true h.2⟩)
      rw [if_pos hany]
      exact rfl
    · refine wrote_of rfl (hread.trans ((if_neg (by dsimp only; omega)).trans ((if_neg (by simp [hc])).trans ?_)))
      refine congrArg (fun w => State.retireReg w rd 0#64 1) (State.modBeacon_congr ?_)
      rw [if_neg]
      simp only [samePull, List.any_eq_true, decide_eq_true_eq]
      exact fun ⟨q, hm, h1, h2⟩ => hq q hm h1 h2

end

section
/-! ## R308 to R315: phasers and barriers -/

namespace Sys2Proof

open Sys2Proof.Machine

section
variable {s t u v : Machine.State} {sc : BitVec 3} {rd ra rb : Reg} {i : Instr} {die a n : Nat} {va : Word} {p d : Phaser}

/-! ### What the engine answers of a phaser -/

theorem State.engNew_noRoom (h : u.sHas die a 32 = false) : u.engNew die a n = .err 2 := if_pos (by simp [h])

theorem State.engNew_taken (h : u.sHas die a 32 = true) (hk : u.sKind die a ≠ 0) : u.engNew die a n = .ok 1 none false u :=
  (if_neg (by simp [h])).trans (if_pos hk)

theorem State.engNew_many (h : u.sHas die a 32 = true) (hk : u.sKind die a = 0) (hn : 2 ^ 32 ≤ n) :
    u.engNew die a n = .ok 2 none false u :=
  (if_neg (by simp [h])).trans ((if_neg (Classical.not_not.mpr hk)).trans (if_pos hn))

theorem State.engNew_made (h : u.sHas die a 32 = true) (hk : u.sKind die a = 0) (hn : n < 2 ^ 32) :
    u.engNew die a n = .ok 0 none false (u.setPhaser die a
      { ovr := false, phase := 0, members := n, waitOnly := 0, arrived := 0, carry := 0, regs := 0, drops := 0 }) :=
  (if_neg (by simp [h])).trans ((if_neg (Classical.not_not.mpr hk)).trans (if_neg (by omega)))

theorem State.engReg_none (w : Bool) (h : u.phaser? die a = none) : u.engReg die a w = .err 2 := by
  unfold State.engReg
  rw [h]

theorem State.engReg_wait (h : u.phaser? die a = some p) : u.engReg die a true =
    if p.waitOnly = 2 ^ 32 - 1 then .err 4
    else .ok p.phase none false (u.putPhaser die a { p with waitOnly := p.waitOnly + 1 }) := by
  unfold State.engReg
  rw [h]
  exact if_pos rfl

theorem State.engReg_member (h : u.phaser? die a = some p) : u.engReg die a false =
    if p.members = 0 then .ok p.phase (some (BitVec.ofNat 32 p.phase - 1#32)) false (u.putPhaser die a { p with members := 1 })
    else if p.regs = 65535 then .err 4
    else .ok ((p.phase + 1) % 2 ^ 32) (some (BitVec.ofNat 32 p.phase)) false (u.putPhaser die a { p with regs := p.regs + 1 }) := by
  unfold State.engReg
  rw [h]
  exact if_neg Bool.false_ne_true

theorem State.engDrop_none {w : Bool} {q : Option Nat} (h : u.phaser? die a = none) : u.engDrop die a w q = .err 2 := by
  unfold State.engDrop
  rw [h]

theorem State.engDrop_wait {q : Option Nat} (h : u.phaser? die a = some p) : u.engDrop die a true q =
    if p.waitOnly = 0 then .err 4
    else .ok p.phase none false (u.putPhaser die a { p with waitOnly := p.waitOnly - 1 }) := by
  unfold State.engDrop
  rw [h]
  exact if_pos rfl

theorem State.engDrop_many {q : Option Nat} (h : u.phaser? die a = some p) (hd : p.drops = 65535 ∨ p.members + p.regs < p.drops + 1) :
    u.engDrop die a false q = .err 4 := by
  unfold State.engDrop
  rw [h]
  exact (if_neg Bool.false_ne_true).trans (if_pos hd)

theorem State.engDrop_member (h : u.phaser? die a = some p) (hd : p.drops ≠ 65535) (hm : p.drops + 1 ≤ p.members + p.regs) :
    u.engDrop die a false none = .ok ((p.phase + 1) % 2 ^ 32) none false (u.putPhaser die a { p with drops := p.drops + 1 }) := by
  unfold State.engDrop
  rw [h]
  exact (if_neg Bool.false_ne_true).trans (if_neg (by omega))

theorem State.engDrop_arrives {q : Nat} (h : u.phaser? die a = some p) (hd : p.drops ≠ 65535) (hm : p.drops + 1 ≤ p.members + p.regs) :
    u.engDrop die a false (some q) = (Phaser.arrive { p with drops := p.drops + 1 } q).elim (.err 1) fun d =>
      .ok ((p.phase + 1) % 2 ^ 32) none false (u.putPhaser die a d) := by
  unfold State.engDrop
  rw [h]
  refine (if_neg Bool.false_ne_true).trans ((if_neg (by omega)).trans ?_)
  dsimp only
  cases Phaser.arrive { p with drops := p.drops + 1 } q <;> rfl

/-- The phase in which a member arrives: after the one of the wait table, or the open one. -/
def arrivesIn (sig : Option (BitVec 32)) (phase : Nat) : Nat := (sig.map fun v => (v + 1#32).toNat).getD phase

theorem State.engSig_none {sig : Option (BitVec 32)} (h : u.phaser? die a = none) : u.engSig die a sig = .err 2 := by
  unfold State.engSig
  rw [h]

theorem State.engSig_some {sig : Option (BitVec 32)} (h : u.phaser? die a = some p) :
    u.engSig die a sig = (p.arrive (arrivesIn sig p.phase)).elim (.err 1) fun d =>
      .ok (arrivesIn sig p.phase) (some (BitVec.ofNat 32 (arrivesIn sig p.phase))) false (u.putPhaser die a d) := by
  unfold State.engSig
  rw [h]
  cases sig with
  | none =>
    dsimp only [arrivesIn, Option.map_none, Option.getD_none]
    cases p.arrive p.phase <;> rfl
  | some v =>
    dsimp only [arrivesIn, Option.map_some, Option.getD_some]
    cases p.arrive (v + 1#32).toNat <;> rfl

theorem State.phaseAt_phaser (h : u.phaser? die a = some p) : u.phaseAt die a = some p.phase := by
  unfold State.phaseAt
  rw [h]

/-! ### The instructions at the object that their request names -/

/-- The reply of PHDRP, by the engine's answer: the object's entry leaves the wait table. -/
def State.dropReply (u : Machine.State) (rd : Reg) (va : Word) (die a : Nat) : Eng → Machine.State
  | .err reason => u.syncErr rd va reason
  | .ok v sig ovr t =>
    (t.modCur fun l => l.forget (syncKey die a)).syncReply rd va die a (.ok v sig ovr (t.modCur fun l => l.forget (syncKey die a)))

/-- The wait of a PHSW, by the engine's answer to its signal. -/
def State.signalled (u : Machine.State) (rd : Reg) (va : Word) (die a : Nat) : Eng → Machine.State
  | .err reason => u.syncErr rd va reason
  | .ok v _ _ t =>
    let w := t.modCur fun l => { l.remember (syncKey die a) (BitVec.ofNat 32 v) with phsw := some (l.pc, BitVec.ofNat 32 v) }
    (w.phaseAt die a).elim w fun phase => w.waitOn rd ((BitVec.ofNat 32 v).setWidth 64) die a phase (BitVec.ofNat 32 v)

section
variable (hat : SyncAt ra 32 true s die a u)
include hat

theorem exec_phnew_at : exec (.phnew sc rd ra rb) s = .next (u.syncReply rd (u.x ra) die a (u.engNew die a (u.x rb).toNat)) :=
  congrArg Host.Outcome.next (sync_go hat _)

theorem exec_phreg_member : exec (.phreg sc rd ra 0#32) s = .next (u.syncReply rd (u.x ra) die a (u.engReg die a false)) :=
  congrArg Host.Outcome.next ((if_neg (by decide)).trans (sync_go hat _))

theorem exec_phreg_wait : exec (.phreg sc rd ra 1#32) s = .next (u.syncReply rd (u.x ra) die a (u.engReg die a true)) :=
  congrArg Host.Outcome.next ((if_neg (by decide)).trans (sync_go hat _))

theorem State.phdrp_at {m : BitVec 32} (hm : m &&& 0xFFFFFFFC#32 = 0#32) (h3 : (m.getLsbD 0 && m.getLsbD 1) = false) :
    s.phdrp i rd ra m = State.dropReply u rd (u.x ra) die a (u.engDrop die a (m.getLsbD 0)
      (if m.getLsbD 1 then ((u.cur.sigOf (syncKey die a)).map fun v => some (v + 1#32).toNat).getD (u.phaseAt die a) else none)) := by
  unfold State.phdrp
  dsimp only
  rw [if_neg (Classical.not_not.mpr hm), if_neg (by simpa using h3), sync_go hat]
  have hreply : ∀ e : Eng, (match e with
      | .err reason => u.syncErr rd (u.x ra) reason
      | .ok v sig ovr t =>
        let t := t.modCur fun l => l.forget (syncKey die a)
        t.syncReply rd (u.x ra) die a (.ok v sig ovr t)) = State.dropReply u rd (u.x ra) die a e := by
    rintro (⟨n, sig, o, t⟩ | n)
    · rfl
    · rfl
  cases u.cur.sigOf (syncKey die a) with
  | none => exact hreply _
  | some v => exact hreply _

theorem exec_phdrp_member : exec (.phdrp sc rd ra 0#32) s = .next (State.dropReply u rd (u.x ra) die a (u.engDrop die a false none)) :=
  congrArg Host.Outcome.next (State.phdrp_at hat (by decide) (by decide))

theorem exec_phdrp_wait : exec (.phdrp sc rd ra 1#32) s = .next (State.dropReply u rd (u.x ra) die a (u.engDrop die a true none)) :=
  congrArg Host.Outcome.next (State.phdrp_at hat (by decide) (by decide))

theorem exec_phdrp_arrive : exec (.phdrp sc rd ra 2#32) s = .next (State.dropReply u rd (u.x ra) die a (u.engDrop die a false
    (((u.cur.sigOf (syncKey die a)).map fun v => some (v + 1#32).toNat).getD (u.phaseAt die a)))) :=
  congrArg Host.Outcome.next (State.phdrp_at hat (by decide) (by decide))

theorem exec_phsig_at : exec (.phsig sc rd ra) s =
    .next (u.syncReply rd (u.x ra) die a (u.engSig die a (u.cur.sigOf (syncKey die a)))) :=
  congrArg Host.Outcome.next (sync_go hat _)

/-- A PHSW that has signalled and starts again only waits. -/
theorem exec_phsw_again {q : BitVec 32} (hq : u.cur.phsw = some (u.cur.pc, q)) : exec (.phsw sc rd ra) s =
    .next ((u.phaseAt die a).elim ((u.withdraw u.focus).syncErr rd (u.x ra) 2) fun phase => u.waitOn rd (q.setWidth 64) die a phase q) := by
  refine congrArg Host.Outcome.next ((sync_go hat _).trans ?_)
  dsimp only
  rw [hq]
  dsimp only
  rw [if_pos rfl]
  dsimp only
  cases u.phaseAt die a <;> rfl

theorem exec_phsw_signals (hq : ∀ w, u.cur.phsw ≠ some (u.cur.pc, w)) : exec (.phsw sc rd ra) s =
    .next (State.signalled u rd (u.x ra) die a (u.engSig die a (u.cur.sigOf (syncKey die a)))) := by
  refine congrArg Host.Outcome.next ((sync_go hat _).trans ?_)
  have hsig : ∀ e : Eng, (match e with
      | .err reason => u.syncErr rd (u.x ra) reason
      | .ok v _ _ t =>
        let q := BitVec.ofNat 32 v
        let t := t.modCur fun l => { l.remember (syncKey die a) q with phsw := some (l.pc, q) }
        match t.phaseAt die a with
        | none => t
        | some phase => t.waitOn rd (q.setWidth 64) die a phase q) = State.signalled u rd (u.x ra) die a e := by
    rintro (⟨m, sig, o, t⟩ | m)
    · unfold State.signalled
      dsimp only
      generalize t.modCur _ = w
      cases w.phaseAt die a <;> rfl
    · rfl
  dsimp only
  cases hp : u.cur.phsw with
  | none => exact hsig _
  | some e =>
    obtain ⟨pc, w⟩ := e
    have hpc : ¬pc = u.cur.pc := fun h => hq w (by rw [hp, h])
    dsimp only
    rw [if_neg hpc]
    exact hsig _

theorem exec_bexp_at : exec (.bexp sc ra rb) s =
    .next (u.syncReply 0#5 (u.x ra) die a (u.engExpect die a (u.x rb).toNat)) :=
  congrArg Host.Outcome.next (sync_go hat _)

theorem exec_badd_at : exec (.badd sc rd ra rb) s =
    .next (u.syncReply rd (u.x ra) die a (u.engBytes die a (u.x rb).toNat)) :=
  congrArg Host.Outcome.next (sync_go hat _)

end

theorem exec_phwt_at (hat : SyncAt ra 32 false s die a u) : exec (.phwt ra) s =
    .next ((u.phaseAt die a).elim ((u.withdraw u.focus).syncErr 0#5 (u.x ra) 2) fun phase => u.waitOn 0#5 0#64 die a phase
      ((u.waitPhase u.focus die a).getD ((u.cur.sigOf (syncKey die a)).getD (BitVec.ofNat 32 phase)))) := by
  refine congrArg Host.Outcome.next ((sync_go hat _).trans ?_)
  dsimp only
  cases u.phaseAt die a with
  | none => rfl
  | some phase => cases u.waitPhase u.focus die a <;> rfl

/-! ### Barriers -/

/-- The barrier that BEXP sets up: a fresh one of an object that is not open. -/
def State.expected (u : Machine.State) (die a : Nat) : Option Barrier :=
  if u.sHas die a 32 && decide (u.sKind die a = 0) then some ⟨false, 0, 0, 0⟩ else u.barrier? die a

theorem State.engExpect_eq : u.engExpect die a n = (State.expected u die a).elim (.err 2) fun b =>
    .ok 0 (some (BitVec.ofNat 32 b.phase)) (u.putBarrier die a { b with expect := n, ovr := false }).2
      (u.putBarrier die a { b with expect := n, ovr := false }).1 := by
  unfold State.engExpect State.expected
  dsimp only
  generalize (if u.sHas die a 32 && decide (u.sKind die a = 0) then some (⟨false, 0, 0, 0⟩ : Barrier) else u.barrier? die a) = o
  cases o <;> rfl

theorem State.engBytes_eq : u.engBytes die a n = (u.barrier? die a).elim (.err 2) fun b =>
    if n = 0 then .ok b.phase (some (BitVec.ofNat 32 b.phase)) false u
    else .ok b.phase (some (BitVec.ofNat 32 b.phase)) (u.putBarrier die a { b with count := min (b.count + n) (2 ^ 64 - 1) }).2
      (u.putBarrier die a { b with count := min (b.count + n) (2 ^ 64 - 1) }).1 := by
  unfold State.engBytes
  cases u.barrier? die a <;> rfl

/-- An answer with a SYNC record of reason 1 where the engine says so. -/
theorem logged_of {q : BitVec 32} {o : Bool} (he : exec i s = .next t)
    (h : t = u.syncReply rd va die a (.ok n (some q) o v)) :
    Ends i s (Answered rd (BitVec.ofNat 64 n) ((if o then v.syncLog v.focus va 1 else v).modCur fun l => l.remember (syncKey die a) q)) :=
  answered_of he rfl h

/-! ### Replies of drops and waits -/

theorem drop_err (he : exec i s = .next t) (h : t = State.dropReply u rd va die a (.err n)) :
    Ends i s (Answered rd 0xFFFFFFFFFFFFFFFF#64 (u.syncLog u.focus va n)) := err_of (die := die) (a := a) he h

theorem drop_ok (he : exec i s = .next t) (h : t = State.dropReply u rd va die a (.ok n none false v)) :
    Ends i s (Answered rd (BitVec.ofNat 64 n) (v.modCur fun l => l.forget (syncKey die a))) := answered_of he rfl h

/-- The three ends of a wait on a phase. -/
theorem ends_waitOn {w : Word} {phase : Nat} {sig : BitVec 32} (he : exec i s = .next (u.waitOn rd w die a phase sig)) :
    (phaseDone phase sig = true → Ends i s (Answered rd w ((u.withdraw u.focus).modCur fun l => l.forget (syncKey die a)))) ∧
    (phaseDone phase sig = false → u.waitPhase u.focus die a ≠ none → Ends i s fun t => t = u) ∧
    (phaseDone phase sig = false → u.waitPhase u.focus die a = none → Ends i s fun t => t = u.modSync die fun y => { y with
      waits := y.waits ++ [{ who := .lan u.focus rd, what := .phase sig, addr := a }] }) :=
  ⟨fun hd => answered_of he (focus_withdraw ..).symm (if_pos hd),
    fun hd hw => is_of he ((if_neg (by simp [hd])).trans (if_pos (Option.isSome_iff_ne_none.mpr hw))),
    fun hd hw => is_of he ((if_neg (by simp [hd])).trans (if_neg (by simp [hw])))⟩

theorem withdrawn_err (he : exec i s = .next ((u.withdraw u.focus).syncErr rd va 2)) :
    Ends i s (Answered rd 0xFFFFFFFFFFFFFFFF#64 ((u.withdraw u.focus).syncLog u.focus va 2)) := by
  have h := answered_of (u := (u.withdraw u.focus).syncLog (u.withdraw u.focus).focus va 2) he (focus_syncLog ..).symm rfl
  rwa [focus_withdraw] at h

end

end Sys2Proof
end

section

open Sys2Proof Sys2Proof.Machine

/-- Settles O48: by instruction, from the engine's answer at the object. -/
theorem syncPhasers : Obligations.SyncPhasers := by
  unfold Obligations.SyncPhasers
  rintro s u sc rd ra rb mode die a key va rfl rfl
  refine ⟨fun hat => ⟨fun h => err_of (exec_phnew_at hat) (by rw [State.engNew_noRoom h]), fun h => ⟨fun hk => ?_, fun hk hn => ?_, fun hk hn => ?_⟩,
    fun hp i hi => ?_, fun p hp => ?_, fun hp hq => ?_, fun q hq => ?_, fun o ho => ?_, fun hb => ?_, fun b hb => ?_⟩,
    fun hm => illop_of rfl (if_pos hm), fun hm => illop_of rfl ?_, fun hat => ?_⟩
  · exact ok_of (exec_phnew_at hat) (by rw [State.engNew_taken h hk])
  · exact ok_of (exec_phnew_at hat) (by rw [State.engNew_many h hk hn])
  · exact ok_of (exec_phnew_at hat) (by rw [State.engNew_made h hk hn])
  · simp only [List.mem_cons, List.not_mem_nil, or_false] at hi
    rcases hi with rfl | rfl | rfl | rfl | rfl | rfl
    · exact err_of (exec_phreg_member hat) (by rw [State.engReg_none _ hp])
    · exact err_of (exec_phreg_wait hat) (by rw [State.engReg_none _ hp])
    · exact drop_err (exec_phdrp_member hat) (by rw [State.engDrop_none hp])
    · exact drop_err (exec_phdrp_wait hat) (by rw [State.engDrop_none hp])
    · exact drop_err (exec_phdrp_arrive hat) (by rw [State.engDrop_none hp])
    · exact err_of (exec_phsig_at hat) (by rw [State.engSig_none hp])
  · have hq : ((u.cur.sigOf (syncKey die a)).map fun v => some (v + 1#32).toNat).getD (u.phaseAt die a) =
        some (arrivesIn (u.cur.sigOf (syncKey die a)) p.phase) := by
      rw [State.phaseAt_phaser hp]
      cases u.cur.sigOf (syncKey die a) <;> rfl
    refine ⟨fun h => err_of (exec_phreg_wait hat) (by rw [State.engReg_wait hp, if_pos h]),
      fun h => ok_of (exec_phreg_wait hat) (by rw [State.engReg_wait hp, if_neg h]),
      fun h => sig_of (exec_phreg_member hat) (by rw [State.engReg_member hp, if_pos h]),
      fun h hr => err_of (exec_phreg_member hat) (by rw [State.engReg_member hp, if_neg h, if_pos hr]),
      fun h hr => sig_of (exec_phreg_member hat) (by rw [State.engReg_member hp, if_neg h, if_neg hr]),
      fun h => drop_ok (exec_phdrp_wait hat) (by rw [State.engDrop_wait hp, if_neg h]),
      fun h => drop_err (exec_phdrp_wait hat) (by rw [State.engDrop_wait hp, if_pos h]),
      fun h m hm => ?_, fun h hm => ⟨drop_ok (exec_phdrp_member hat) (by rw [State.engDrop_member hp h hm]), fun q hqe => ?_⟩, fun q hqe => ?_⟩
    · simp only [List.mem_cons, List.not_mem_nil, or_false] at hm
      rcases hm with rfl | rfl
      · exact drop_err (exec_phdrp_member hat) (by rw [State.engDrop_many hp h])
      · exact drop_err (exec_phdrp_arrive hat) (by rw [State.engDrop_many hp h])
    · have hq' : q = arrivesIn (u.cur.sigOf (syncKey die a)) p.phase := hqe
      subst hq'
      have harr := exec_phdrp_arrive (sc := sc) (rd := rd) hat
      rw [hq, State.engDrop_arrives hp h hm] at harr
      exact ⟨fun ha => drop_err harr (by rw [ha]; rfl), fun d ha => drop_ok harr (by rw [ha]; rfl)⟩
    · have hq' : q = arrivesIn (u.cur.sigOf (syncKey die a)) p.phase := hqe
      subst hq'
      have hsig := State.engSig_some (sig := u.cur.sigOf (syncKey die a)) hp
      refine ⟨fun ha => err_of (exec_phsig_at hat) (by rw [hsig, ha]; rfl), fun d ha => sig_of (exec_phsig_at hat) (by rw [hsig, ha]; rfl),
        fun ha hn => err_of (die := die) (a := a) (exec_phsw_signals hat hn) (by rw [hsig, ha]; rfl), fun d v phase ha hn hv hph => ?_⟩
      refine ends_waitOn ((exec_phsw_signals hat hn).trans (congrArg _ ?_))
      rw [hsig, ha]
      unfold State.signalled
      dsimp only [Option.elim_some]
      rw [← hv, hph, Option.elim_some]
  · exact err_of (die := die) (a := a) (exec_phsw_signals hat hq) (by rw [State.engSig_none hp]; rfl)
  · have hagain := exec_phsw_again (sc := sc) (rd := rd) hat hq
    refine ⟨fun hp => withdrawn_err (hagain.trans (by rw [hp]; rfl)), fun phase hp => ends_waitOn (hagain.trans (by rw [hp]; rfl))⟩
  · have ho' : State.expected u die a = o := ho.symm
    have hexp := State.engExpect_eq (u := u) (die := die) (a := a) (n := (u.x rb).toNat)
    rw [ho'] at hexp
    refine ⟨fun hn => err_of (exec_bexp_at hat) (by rw [hexp, hn]; rfl), fun b v hb hv => ?_⟩
    subst hv
    exact logged_of (exec_bexp_at hat) (by rw [hexp, hb]; rfl)
  · exact err_of (exec_badd_at hat) (by rw [State.engBytes_eq, hb]; rfl)
  · have hbytes := State.engBytes_eq (u := u) (die := die) (a := a) (n := (u.x rb).toNat)
    rw [hb] at hbytes
    refine ⟨fun h => ?_, fun h v hv => ?_⟩
    · exact sig_of (exec_badd_at hat) (by rw [hbytes]; exact congrArg _ (if_pos (by rw [h]; rfl)))
    · subst hv
      exact logged_of (exec_badd_at hat) (by rw [hbytes]; exact congrArg _ (if_neg fun h0 => h (BitVec.eq_of_toNat_eq h0)))
  · rcases hm with hm | rfl
    · exact if_pos hm
    · rfl
  · have hwt := exec_phwt_at hat
    refine ⟨fun hp => withdrawn_err (hwt.trans (by rw [hp]; rfl)), fun phase sig hp hsig => ?_⟩
    subst hsig
    exact ends_waitOn (hwt.trans (by rw [hp]; rfl))

end

section
/-! ## R303 to R306, R317 to R321: atomics, bin sets and queues -/

namespace Sys2Proof

open Sys2Proof.Machine

section
variable {s t u w : Machine.State} {sc : BitVec 3} {rd ra rb : Reg} {i : Instr} {die a n al : Nat} {b wr : Bool} {q : Queue}

/-! ### The request -/

section
variable {k : Nat → Nat → Machine.State → Machine.State} (he : exec i s = .next (s.sync_ ra al wr k))
include he

theorem sync_spec (hw : wr = true) (hs : s.speculative s.focus = true) : Ends i s fun t => t = s :=
  is_of he (if_pos (by simp [hw, hs]))

theorem sync_misaligned (hw : wr = false ∨ s.speculative s.focus = false) (ha : (s.x ra).toNat % al ≠ 0) :
    Ends i s (TrappedHere cALIGN (s.x ra) s) :=
  trap_of he ((if_neg (by rcases hw with h | h <;> simp [h])).trans (if_pos ha))

theorem sync_stopped (hw : wr = false ∨ s.speculative s.focus = false) (ha : (s.x ra).toNat % al = 0)
    (ht : (s.performLoads s.focus).syncAddr (s.x ra) wr = .stop t) : Ends i s fun v => v = t := by
  refine is_of he ((if_neg (by rcases hw with h | h <;> simp [h])).trans ((if_neg (Classical.not_not.mpr ha)).trans ?_))
  rw [ht]

theorem sync_cut {p : Nat × Nat} (hw : wr = false ∨ s.speculative s.focus = false) (ha : (s.x ra).toNat % al = 0)
    (ht : (s.performLoads s.focus).syncAddr (s.x ra) wr = .ok p t) (hc : t.diesCut (lanDie t.focus) p.1 = true) :
    Ends i s fun v => v = t := by
  refine is_of he ((if_neg (by rcases hw with h | h <;> simp [h])).trans ((if_neg (Classical.not_not.mpr ha)).trans ?_))
  rw [ht]
  exact if_pos hc

end

theorem State.phreg_request {m : BitVec 32} (hm : m ∈ [0#32, 1#32]) :
    ∃ k, exec (.phreg sc rd ra m) s = .next (s.sync_ ra 32 true k) := by
  refine ⟨_, congrArg Host.Outcome.next (if_neg ?_)⟩
  simp only [List.mem_cons, List.not_mem_nil, or_false] at hm
  rcases hm with rfl | rfl <;> decide

theorem State.phdrp_request {m : BitVec 32} (hm : m ∈ [0#32, 1#32, 2#32]) :
    ∃ k, exec (.phdrp sc rd ra m) s = .next (s.sync_ ra 32 true k) := by
  have h : m &&& 0xFFFFFFFC#32 = 0#32 ∧ (m.getLsbD 0 && m.getLsbD 1) = false := by
    simp only [List.mem_cons, List.not_mem_nil, or_false] at hm
    rcases hm with rfl | rfl | rfl <;> decide
  exact ⟨_, congrArg Host.Outcome.next ((if_neg (Classical.not_not.mpr h.1)).trans (if_neg (by rw [h.2]; exact Bool.false_ne_true)))⟩

/-! ### Atomics -/

theorem atom_of {o : AtomOp} {new : Word} (hat : SyncAt ra 8 true s die a u) (he : exec i s = .next (s.atom o rd ra rb))
    (hn : o.new (BitVec.ofNat 64 (u.sdw die a)) (u.x rb) = new) :
    Ends i s (Answered rd (BitVec.ofNat 64 (u.sdw die a)) (u.setSdw die a new.toNat)) := by
  subst hn
  exact ok_of he (sync_go hat _)

theorem sv_true (x : Word) : sv true x = x.toNat := rfl

theorem acas_at (hat : SyncAt ra 8 true s die a u) : exec (.acas sc rd ra rb) s =
    .next (u.syncReply rd (u.x ra) die a (.ok (u.sdw die a) none false
      (if BitVec.ofNat 64 (u.sdw die a) = u.x rd then u.setSdw die a (u.x rb).toNat else u))) :=
  congrArg Host.Outcome.next (sync_go hat _)

/-! ### Bin sets -/

theorem exec_fbclr_at (hat : SyncAt ra 16 true s die a u) : exec (.fbclr sc ra rb) s =
    .next (u.syncReply 0#5 (u.x ra) die a (u.engClear die a (u.x rb).toNat)) := congrArg Host.Outcome.next (sync_go hat _)

theorem exec_fbin_at (hat : SyncAt ra 16 true s die a u) : exec (.fbin sc ra rb) s =
    .next (u.syncReply 0#5 (u.x ra) die a (u.engBin die a (floatLoad 0 (u.x rb).toNat))) :=
  congrArg Host.Outcome.next (sync_go hat _)

theorem State.engBin_none {v : WVal} (h : u.binSet? die a = none) : u.engBin die a v = .err 2 := by
  unfold State.engBin
  rw [h]

theorem exec_fbrd_at (hat : SyncAt ra 16 false s die a u) : exec (.fbrd rd ra) s =
    .next ((u.engRead die a (u.cur.fpmode.extractLsb' 0 2)).elim (u.syncErr rd (u.x ra) 2) fun r =>
      (u.accrue u.focus r.flags).finishLan u.focus rd r.val) := by
  refine congrArg Host.Outcome.next ((sync_go hat _).trans ?_)
  cases u.engRead die a (u.cur.fpmode.extractLsb' 0 2) <;> rfl

/-! ### Queues -/

section
variable {f : BitVec 3} {x : Pay} (hw : w = u.serveAll die a)
include hw

theorem State.engPush_bad (h : w.queue? die a = none) : u.engPush die a f x = .bad := by
  subst hw
  unfold State.engPush
  dsimp only
  rw [h]

theorem State.engPush_full (h : w.queue? die a = some q) (hf : q.used = q.cap) : u.engPush die a f x = .blocked := by
  subst hw
  unfold State.engPush
  dsimp only
  rw [h]
  exact if_pos hf

theorem State.engPush_done (h : w.queue? die a = some q) (hf : q.used ≠ q.cap) :
    u.engPush die a f x = .done 0#64 ((w.pushEntry die a q f x).serveAll die a) := by
  subst hw
  unfold State.engPush
  dsimp only
  rw [h]
  exact if_neg hf

theorem State.engPop_bad (h : w.queue? die a = none) : u.engPop die a = .bad := by
  subst hw
  unfold State.engPop
  dsimp only
  rw [h]

theorem State.engPop_empty (h : w.queue? die a = some q) (h0 : q.used = 0) : u.engPop die a = .blocked := by
  subst hw
  unfold State.engPop
  dsimp only
  rw [h]
  exact if_pos h0

theorem State.engPop_headBad (h : w.queue? die a = some q) (h0 : q.used ≠ 0) (hb : w.headBad die a q = true) :
    u.engPop die a = .bad := by
  subst hw
  unfold State.engPop
  dsimp only
  rw [h]
  exact (if_neg h0).trans (if_pos hb)

theorem State.engPop_done (h : w.queue? die a = some q) (h0 : q.used ≠ 0) (hb : w.headBad die a q = false) :
    u.engPop die a = .done (w.popEntry die a q).1 ((w.popEntry die a q).2.serveAll die a) := by
  subst hw
  unfold State.engPop
  dsimp only
  rw [h]
  exact (if_neg h0).trans (if_neg (by rw [hb]; exact Bool.false_ne_true))

end

/-- The end of a push or pop on the Lantern of `u`, by what the engine finds. -/
def State.queueReply (u : Machine.State) (b : Bool) (rd : Reg) (va : Word) (die a : Nat) (what : WaitWhat) : QRes → Machine.State
  | .bad => u.syncErr rd va 2
  | .done v t => t.finishLan u.focus rd v
  | .blocked => u.queueWait b va die a rd what

section
variable (hat : SyncAt ra 32 true s die a u)
include hat

theorem exec_qpsh_waits (hq : ((u.sync die).waits.any fun w => w.ofLan u.focus) = true) :
    exec (.qpsh b sc ra rb) s = .next (u.serveAll die a) :=
  congrArg Host.Outcome.next ((sync_go hat _).trans (if_pos hq))

theorem exec_qpop_waits (hq : ((u.sync die).waits.any fun w => w.ofLan u.focus) = true) :
    exec (.qpop b sc rd ra) s = .next (u.serveAll die a) :=
  congrArg Host.Outcome.next ((sync_go hat _).trans (if_pos hq))

theorem exec_qpsh_at (hq : ((u.sync die).waits.any fun w => w.ofLan u.focus) = false) : exec (.qpsh b sc ra rb) s =
    .next (State.queueReply u b 0#5 (u.x ra) die a (.push fmtI64 ((u.x rb).setWidth 80)) (u.engPush die a fmtI64 ((u.x rb).setWidth 80))) := by
  refine congrArg Host.Outcome.next ((sync_go hat _).trans ((if_neg (by simp [hq])).trans ?_))
  unfold State.queueReply
  cases u.engPush die a fmtI64 ((u.x rb).setWidth 80) <;> rfl

theorem exec_qpop_at (hq : ((u.sync die).waits.any fun w => w.ofLan u.focus) = false) : exec (.qpop b sc rd ra) s =
    .next (State.queueReply u b rd (u.x ra) die a (.pop (u.x ra)) (u.engPop die a)) := by
  refine congrArg Host.Outcome.next ((sync_go hat _).trans ((if_neg (by simp [hq])).trans ?_))
  unfold State.queueReply
  cases u.engPop die a <;> rfl

end

theorem queue_bad {va : Word} {what : WaitWhat} (he : exec i s = .next (State.queueReply u b rd va die a what .bad)) :
    Ends i s (Answered rd 0xFFFFFFFFFFFFFFFF#64 (u.syncLog u.focus va 2)) := err_of (die := die) (a := a) he rfl

theorem queue_traps {va : Word} {what : WaitWhat} (he : exec i s = .next (State.queueReply u false rd va die a what .blocked)) :
    Ends i s (TrappedHere cQWAIT va u) := trap_of he rfl

theorem queue_waits {va : Word} {what : WaitWhat} (hq : ((u.sync die).waits.any fun w => w.ofLan u.focus) = false)
    (he : exec i s = .next (State.queueReply u true rd va die a what .blocked)) :
    Ends i s fun t => t = u.modSync die fun y => { y with
      waits := y.waits ++ [{ who := .lan u.focus rd, what := what, addr := a }] } :=
  is_of he (t := u.queueWait true va die a rd what) ((if_neg (by decide)).trans (if_neg (by rw [hq]; exact Bool.false_ne_true)))

end

end Sys2Proof
end

section

open Sys2Proof Sys2Proof.Machine

/-- Settles O49: each operation from the engine's answer, and the request that all Y-class instructions share. -/
theorem syncObjects : Obligations.SyncObjects := by
  unfold Obligations.SyncObjects
  rintro s u sc rd ra rb die a va rfl
  refine ⟨fun hat old v hold hv => ⟨fun i n hi => ?_, fun he => ?_, fun he => ?_⟩,
    fun hat => ⟨fun w nb e0 m hw hm hnb he0 h1 h2 h3 h4 hk hh => ?_, fun w nb e0 hw hnb he0 h => ?_,
      fun h => err_of (exec_fbin_at hat) (by rw [State.engBin_none h]), fun n t h => ok_of (exec_fbin_at hat) (by rw [h])⟩,
    fun hat => ⟨fun h => ?_, fun r h => ?_⟩,
    fun hat hq b => ⟨is_of (exec_qpsh_waits hat hq) rfl, is_of (exec_qpop_waits hat hq) rfl⟩,
    fun hat hq w hw b => ?_, fun m1 m2 min_ max_ b1 b2 i al w hm1 hm2 hi => ?_⟩
  · subst hold hv
    simp only [List.mem_cons, List.not_mem_nil, or_false, Prod.mk.injEq] at hi
    rcases hi with ⟨rfl, rfl⟩ | ⟨rfl, rfl⟩ | ⟨rfl, rfl⟩ | ⟨rfl, rfl⟩ | ⟨rfl, rfl⟩ | ⟨rfl, rfl⟩ | ⟨rfl, rfl⟩ | ⟨rfl, rfl⟩ | ⟨rfl, rfl⟩
    · exact atom_of (o := .add) hat rfl rfl
    · exact atom_of (o := .and) hat rfl rfl
    · exact atom_of (o := .or) hat rfl rfl
    · exact atom_of (o := .xor) hat rfl rfl
    · exact atom_of (o := .min false) hat rfl rfl
    · exact atom_of (o := .min true) hat rfl (ite_congr (propext Int.ofNat_lt) (fun _ => rfl) fun _ => rfl)
    · exact atom_of (o := .max false) hat rfl rfl
    · exact atom_of (o := .max true) hat rfl (ite_congr (propext Int.ofNat_lt) (fun _ => rfl) fun _ => rfl)
    · exact atom_of (o := .xchg) hat rfl rfl
  · subst hold hv
    exact ok_of (acas_at hat) (by rw [if_pos he])
  · subst hold hv
    exact ok_of (acas_at hat) (by rw [if_neg he])
  · subst hw hm hnb he0
    refine ok_of (n := 0) (exec_fbclr_at hat) (congrArg _ ((if_neg ?_).trans (if_neg (by rw [hh]; decide))))
    omega
  · subst hw hnb he0
    refine err_of (exec_fbclr_at hat) (congrArg _ ?_)
    rcases h with h | h
    · exact if_pos h
    · unfold State.engClear
      dsimp only
      split
      · rfl
      · exact if_pos (by rw [h]; rfl)
  · exact err_of (die := die) (a := a) (exec_fbrd_at hat) (by rw [h]; rfl)
  · exact answered_of (exec_fbrd_at hat) rfl (by rw [h]; rfl)
  · have hpush := exec_qpsh_at (sc := sc) (rb := rb) (b := b) hat hq
    have hpop := exec_qpop_at (sc := sc) (rd := rd) (b := b) hat hq
    refine ⟨fun hn => ⟨queue_bad (hpush.trans (by rw [State.engPush_bad hw hn])), queue_bad (hpop.trans (by rw [State.engPop_bad hw hn]))⟩,
      fun q hsome => ⟨fun hf t ht => hpush.trans ?_, fun h0 hb => queue_bad (hpop.trans (by rw [State.engPop_headBad hw hsome h0 hb])),
        fun h0 hb r t hr ht => hpop.trans ?_, fun hf => ⟨?_, ?_⟩, fun h0 => ⟨?_, ?_⟩⟩⟩
    · subst ht
      rw [State.engPush_done hw hsome hf]
      rfl
    · subst hr ht
      rw [State.engPop_done hw hsome h0 hb]
      rfl
    · exact queue_traps (State.engPush_full hw hsome hf ▸ exec_qpsh_at hat hq)
    · exact queue_waits hq (State.engPush_full hw hsome hf ▸ exec_qpsh_at hat hq)
    · exact queue_traps (State.engPop_empty hw hsome h0 ▸ exec_qpop_at hat hq)
    · exact queue_waits hq (State.engPop_empty hw hsome h0 ▸ exec_qpop_at hat hq)
  · have hreq : ∃ k, exec i s = .next (s.sync_ ra al w k) := by
      simp only [List.mem_cons, List.not_mem_nil, or_false, Prod.mk.injEq] at hi
      rcases hi with ⟨rfl, rfl, rfl⟩ | ⟨rfl, rfl, rfl⟩ | ⟨rfl, rfl, rfl⟩ | ⟨rfl, rfl, rfl⟩ | ⟨rfl, rfl, rfl⟩ | ⟨rfl, rfl, rfl⟩ |
        ⟨rfl, rfl, rfl⟩ | ⟨rfl, rfl, rfl⟩ | ⟨rfl, rfl, rfl⟩ | ⟨rfl, rfl, rfl⟩ | ⟨rfl, rfl, rfl⟩ | ⟨rfl, rfl, rfl⟩ | ⟨rfl, rfl, rfl⟩ |
        ⟨rfl, rfl, rfl⟩ | ⟨rfl, rfl, rfl⟩ | ⟨rfl, rfl, rfl⟩ | ⟨rfl, rfl, rfl⟩ | ⟨rfl, rfl, rfl⟩ | ⟨rfl, rfl, rfl⟩ | ⟨rfl, rfl, rfl⟩ |
        ⟨rfl, rfl, rfl⟩
      case inr.inl => exact State.phreg_request hm1
      case inr.inr.inl => exact State.phdrp_request hm2
      all_goals exact ⟨_, rfl⟩
    obtain ⟨k, he⟩ := hreq
    exact ⟨sync_spec he, fun hw => ⟨sync_misaligned he hw, fun ha t ht => sync_stopped he hw ha ht,
      fun ha p t ht hc => sync_cut he hw ha ht hc⟩⟩

end

section
/-! ## R323 to R329, R331, R333 to R336, R339: the copies -/

namespace Sys2Proof

open Sys2Proof.Machine

section
variable {s u v w : Machine.State} {rd rbar : Reg} {i : Instr} {die ch : Nat} {c : Chan} {p : CopyPlan}

/-! ### The issue of a copy -/

section
variable {kind : CopyKind} {sc : BitVec 3} {dst src : Word} {len : Nat} {q : List (Nat × Word)}

/-- The commands that wait for a channel of the Lantern's die, the one that it stands at among them. -/
def State.copyLine (u : Machine.State) : List (Nat × Word) :=
  if (u.copyWaiters (lanDie u.focus)).contains (u.focus, u.cur.pc) then u.copyWaiters (lanDie u.focus)
  else u.copyWaiters (lanDie u.focus) ++ [(u.focus, u.cur.pc)]

theorem State.takeChan_waits (h : u.freeChan (lanDie u.focus) = none ∨ (State.copyLine u).head? ≠ some (u.focus, u.cur.pc)) :
    u.takeChan = .error { u with copyq := u.copyq.put (lanDie u.focus) (State.copyLine u) } := by
  unfold State.takeChan
  dsimp only
  cases hf : u.freeChan (lanDie u.focus) with
  | none => rfl
  | some ch => exact if_neg (h.resolve_left (by simp [hf]))

theorem State.takeChan_takes (hf : u.freeChan (lanDie u.focus) = some ch) (h : (State.copyLine u).head? = some (u.focus, u.cur.pc)) :
    u.takeChan = .ok (ch, { u with copyq := u.copyq.put (lanDie u.focus) (State.copyLine u).tail }) := by
  unfold State.takeChan
  dsimp only
  rw [hf]
  exact if_pos h

theorem State.issueCopy_empty : u.issueCopy kind rd rbar sc dst src 0 = u.retireReg rd 0#64 1 := if_pos rfl

theorem State.issueCopy_waits (hl : len ≠ 0)
    (h : u.freeChan (lanDie u.focus) = none ∨ (State.copyLine u).head? ≠ some (u.focus, u.cur.pc)) :
    u.issueCopy kind rd rbar sc dst src len = { u with copyq := u.copyq.put (lanDie u.focus) (State.copyLine u) } := by
  unfold State.issueCopy
  rw [if_neg hl, State.takeChan_waits h]

theorem State.issueCopy_takes (hl : len ≠ 0) (hf : u.freeChan (lanDie u.focus) = some ch)
    (h : (State.copyLine u).head? = some (u.focus, u.cur.pc))
    (hc : c = { lan := u.focus, seg := u.cur.segid, launch := u.cur.launch.toNat, pasid := u.cur.pasid, sup := u.cur.sup,
                kind := kind, rd := rd, dst := dst, src := src, len := len,
                bar := if rbar = 0#5 then none else some (u.x rbar), scope := sc, wait := false, miss := Miss.zero,
                moved := 0, entWait := none, fin := false }) :
    u.issueCopy kind rd rbar sc dst src len = ({ u with
      copyq := u.copyq.put (lanDie u.focus) (State.copyLine u).tail,
      chans := u.chans.put (chanKey (lanDie u.focus) ch) c } : Machine.State).modCur fun l => (l.block rd).advance 1 := by
  subst hc
  unfold State.issueCopy
  rw [if_neg hl, State.takeChan_takes hf h]
  rfl

end

/-! ### COPY_COMPLETE -/

/-- What an RCPY does at its turn. -/
def State.rcpyTurn (s : Machine.State) (die ch : Nat) (c : Chan) : Machine.State :=
  if 2 ^ 40 ≤ c.len then s.copyError die ch c 5 0
  else if c.dst.toNat / 2 ^ 57 ≠ 0 then s.copyError die ch c 6 0
  else if (s.link (rcpyLink c.dst)).width = 0 then s.copyError die ch c 7 c.moved
  else (s.barWalk die c).elim (s.rcpySend die ch 256) fun va => s.copyFails die ch c ⟨0, 0, va.1, va.2⟩ 8

theorem exec_copyComplete_none (h : s.chans.find (chanKey die ch) = none) : exec (.copyComplete die ch) s = .next s := by
  show execCopyComplete die ch s = _
  unfold execCopyComplete
  rw [h]

section
variable (h : s.chans.find (chanKey die ch) = some c)
include h

theorem exec_copyComplete_waits (hw : c.wait = true) : exec (.copyComplete die ch) s = .next s := by
  show execCopyComplete die ch s = _
  unfold execCopyComplete
  rw [h]
  exact congrArg _ (if_pos hw)

theorem exec_copyComplete_fin (hw : c.wait = false) (hf : c.fin = true) :
    exec (.copyComplete die ch) s = .next (if s.postsDue then s else s.copyFinish die ch c) := by
  show execCopyComplete die ch s = _
  unfold execCopyComplete
  rw [h]
  exact congrArg _ ((if_neg (by simp [hw])).trans (if_pos hf))

theorem exec_copyComplete_remote (hw : c.wait = false) (hf : c.fin = false) (hk : c.kind = .remote) :
    exec (.copyComplete die ch) s = .next (State.rcpyTurn s die ch c) := by
  show execCopyComplete die ch s = _
  unfold execCopyComplete State.rcpyTurn
  rw [h]
  dsimp only
  rw [if_neg (by simp [hw]), if_neg (by simp [hf]), hk]
  cases s.barWalk die c <;> rfl

theorem exec_copyComplete_moves (hw : c.wait = false) (hf : c.fin = false) (hk : c.kind ≠ .remote) :
    exec (.copyComplete die ch) s = .next (s.copyMove die ch c) := by
  show execCopyComplete die ch s = _
  unfold execCopyComplete
  rw [h]
  dsimp only
  rw [if_neg (by simp [hw]), if_neg (by simp [hf])]
  cases hkind : c.kind with
  | remote => exact absurd hkind hk
  | flat => rfl
  | block => rfl

end

/-- A copy once its source has been read, by what the reads give. -/
def State.copyOver (die ch : Nat) (c : Chan) (p : CopyPlan) (r : Option CopyFail × List (Nat × List Byte) × Machine.State) : Machine.State :=
  let data := c.shown r.2.2.free p (layOut 0 r.2.1)
  (earlier (earlier p.src p.dst) r.1).elim
    ((r.2.2.spend.copyWrite die ch c p.to_ data).elim
      (r.2.2.spend.modChan die ch fun y => { y with
        entWait := p.to_.findSome? fun e => r.2.2.spend.stageBlock c.lan e.pa (List.replicate e.n 0#8) })
      fun v => if v.postsDue then v.modChan die ch fun c => { c with fin := true } else v.copyFinish die ch c)
    fun f => ((r.2.2.spend.copyWrite die ch c p.to_ (openBytes r.2.2.free f.off data)).getD r.2.2.spend).copyFails die ch c f
      (copyAccess (decide (p.src.map (·.off) ≠ some f.off)))

/-- A copy whose sides translate. -/
def State.copyOn (die ch : Nat) (c : Chan) (p : CopyPlan) : Machine.State :=
  (p.s.barWalk die c).elim (State.copyOver die ch c p (p.s.copyReads die ch c p.from_)) fun w =>
    p.s.copyFails die ch c ⟨0, 0, w.1, w.2⟩ 8

theorem State.copyMove_long (h : 2 ^ 40 ≤ c.total) : s.copyMove die ch c = s.copyError die ch c 5 0 := if_pos h

theorem State.copyMove_cut (h : c.total < 2 ^ 40) (hp : p = s.copyPlan die c)
    (hc : ((p.from_ ++ p.to_).any fun x => p.s.homeCut die x.pa x.kind) = true) : s.copyMove die ch c = p.s := by
  unfold State.copyMove
  dsimp only
  rw [if_neg (by omega), ← hp, if_pos hc]

theorem State.copyMove_waits {f : CopyFail} (h : c.total < 2 ^ 40) (hp : p = s.copyPlan die c)
    (hc : ((p.from_ ++ p.to_).any fun x => p.s.homeCut die x.pa x.kind) = false) (hf : earlier p.src p.dst = some f) (h0 : f.code = 0) :
    s.copyMove die ch c = p.s.copyFails die ch c f (copyAccess (decide (p.src.map (·.off) ≠ some f.off))) := by
  obtain ⟨off, code, va, reason⟩ := f
  subst h0
  unfold State.copyMove
  dsimp only
  rw [if_neg (by omega), ← hp, if_neg (by rw [hc]; exact Bool.false_ne_true), hf]
  rfl

theorem State.copyMove_goes (h : c.total < 2 ^ 40) (hp : p = s.copyPlan die c)
    (hc : ((p.from_ ++ p.to_).any fun x => p.s.homeCut die x.pa x.kind) = false)
    (hf : ∀ f, earlier p.src p.dst = some f → f.code ≠ 0) : s.copyMove die ch c = State.copyOn die ch c p := by
  unfold State.copyMove
  dsimp only
  rw [if_neg (by omega), ← hp, if_neg (by rw [hc]; exact Bool.false_ne_true)]
  unfold State.copyOn State.copyOver
  dsimp only
  generalize earlier p.src p.dst = first at hf ⊢
  have hrest : ∀ (o : Option CopyFail) (a b : Machine.State) (k : CopyFail → Machine.State) (j : Option Machine.State) (g : Machine.State → Machine.State),
      (match o with
        | none => (match j with
          | some s => g s
          | none => b)
        | some f => k f) = o.elim (j.elim b g) k := by
    intro o a b k j g
    cases o with
    | none => cases j <;> rfl
    | some f => rfl
  rcases first with _ | ⟨off, code, va, reason⟩
  · cases p.s.barWalk die c with
    | none => exact hrest _ s _ _ _ _
    | some w => rfl
  · cases code with
    | zero => exact absurd rfl (hf _ rfl)
    | succ n =>
      cases p.s.barWalk die c with
      | none => exact hrest _ s _ _ _ _
      | some w => rfl

/-! ### The end of a copy -/

theorem State.copyFinish_plain (h : c.bar = none) : s.copyFinish die ch c = s.copyToken die ch c c.total := by
  unfold State.copyFinish
  dsimp only
  rw [h]

section
variable {va : Word} {at_ : Option (Nat × Nat)} (hb : c.bar = some va) (hat : s.copyBar die c va = (at_, u))
include hb hat

theorem State.copyFinish_staged {idx : Nat} (hs : s.chanStaged c = some idx) : s.copyFinish die ch c =
    (u.modSync ((at_.map (·.1)).getD die) fun y => { y with held := y.held ++
      [{ copy := true, none_ := at_.isNone, seg := segKey die idx, addr := (at_.map (·.2)).getD 0, add := c.total,
         log := chanRecord ch kSYNC va 0 }] }).copyToken die ch c c.total := by
  unfold State.copyFinish
  dsimp only
  rw [hb]
  dsimp only
  rw [hat, hs]

theorem State.copyFinish_nowhere (hs : s.chanStaged c = none) (ha : at_ = none) : s.copyFinish die ch c =
    (u.raise (s.chanLead c) die (chanRecord ch kSYNC va 0)).copyToken die ch c (2 ^ 62 + c.total) := by
  unfold State.copyFinish
  dsimp only
  rw [hb]
  dsimp only
  rw [hat, hs, ha]

theorem State.copyFinish_counts {d a : Nat} {reason : Option Nat} (hs : s.chanStaged c = none) (ha : at_ = some (d, a))
    (he : u.engCount d a c.total = (w, reason)) : s.copyFinish die ch c =
    reason.elim (w.copyToken die ch c c.total) fun r =>
      (w.raise (s.chanLead c) die (chanRecord ch kSYNC va r)).copyToken die ch c (if r = 1 then c.total else 2 ^ 62 + c.total) := by
  unfold State.copyFinish
  dsimp only
  rw [hb]
  dsimp only
  rw [hat, hs, ha]
  dsimp only
  rw [he]
  rcases reason with _ | r
  · rfl
  · rcases Decidable.em (r = 1) with rfl | hr
    · rfl
    · rw [Option.elim_some, if_neg hr]
      split <;> simp_all

end

/-! ### The packets of an RCPY -/

section
variable {m k : Nat} {l : Link} (h : s.chans.find (chanKey die ch) = some c) (hk : k = rcpyLink c.dst) (hl : l = s.link k)
include h hk hl

theorem State.rcpySend_stands (hw : c.wait = true ∨ c.len ≤ c.moved ∨ 256 ≤ l.rbuf.length ∨ s.hubCut die = true) :
    s.rcpySend die ch (m + 1) = s := by
  subst hk hl
  rw [State.rcpySend, h]
  exact if_pos hw

section
variable {off : BitVec 48} {n : Nat} {f : Option CopyFail} {ps : List CopyPart}
  (hw : c.wait = false) (hm : c.moved < c.len) (hr : l.rbuf.length < 256) (hcut : s.hubCut die = false)
  (hoff : off = rcpyOff c.dst + BitVec.ofNat 48 c.moved) (hn : n = min (256 - off.toNat % 256) (c.len - c.moved))
  (hside : s.copySide die c false (c.src + BitVec.ofNat 64 c.moved) n c.moved = (f, ps, u))
  (hhome : (ps.any fun x => s.homeCut die x.pa x.kind) = false)
include hw hm hr hcut hoff hn hside hhome

theorem State.rcpySend_fails {x : CopyFail} (hf : f = some x) :
    s.rcpySend die ch (m + 1) = u.copyFails die ch c x (copyAccess false) := by
  subst hk hl hoff hn
  rw [State.rcpySend, h]
  dsimp only
  rw [if_neg (by simp [hw, hcut]; omega), hside]
  dsimp only
  rw [if_neg (by rw [hhome]; exact Bool.false_ne_true), hf]

section
variable {bad : Option CopyFail} {bs : List (Nat × List Byte)} (hf : f = none) (hreads : u.copyReads die ch c ps = (bad, bs, v))
include hf hreads

theorem State.rcpySend_bad {x : CopyFail} (hb : bad = some x) :
    s.rcpySend die ch (m + 1) = v.copyFails die ch c x (copyAccess false) := by
  subst hk hl hoff hn
  rw [State.rcpySend, h]
  dsimp only
  rw [if_neg (by simp [hw, hcut]; omega), hside]
  dsimp only
  rw [if_neg (by rw [hhome]; exact Bool.false_ne_true), hf]
  dsimp only
  rw [hreads, hb]

theorem State.rcpySend_sends {p : Packet} (hb : bad = none) (hp : p = {
    seq := l.nextSeq, lastp := decide (c.moved + n = c.len), win := rcpyWin c.dst, off := off
    sdie := BitVec.ofNat 4 die, schan := BitVec.ofNat 4 ch, data := (bs.map (·.2)).flatten }) :
    s.rcpySend die ch (m + 1) = ((v.modLink k fun l => { l with
      nextSeq := l.nextSeq + 1#12, rbuf := l.rbuf ++ [p],
      wire := if l.up then l.wire ++ [p] else l.wire,
      since := if l.rbuf.isEmpty then s.tick else l.since }).modChan die ch fun c => { c with moved := c.moved + n }).rcpySend die ch m := by
  subst hp hk hl hoff hn
  rw [State.rcpySend, h]
  dsimp only
  rw [if_neg (by simp [hw, hcut]; omega), hside]
  dsimp only
  rw [if_neg (by rw [hhome]; exact Bool.false_ne_true), hf]
  dsimp only
  rw [hreads, hb]

end

end

end

end

end Sys2Proof
end

section

open Sys2Proof Sys2Proof.Machine

/-- Settles O50: the issue of each copy, COPY_COMPLETE by the state of its channel, and the ends of a copy. -/
theorem copyCommands : Obligations.CopyCommands := by
  unfold Obligations.CopyCommands
  refine ⟨fun s v sc rd ra rs rl rbar hv => ⟨fun h => trap_of rfl (if_pos h), fun h => is_of rfl (if_pos h),
      fun i u kind dst src len hi => ?_, fun k => ⟨fun h => illop_of rfl (if_pos h), fun mine hk hm => wrote_of rfl ?_,
        fun l h1 h2 hl => wrote_of rfl ?_⟩⟩,
    fun s die ch o ho => ⟨fun hn => is_of (exec_copyComplete_none (ho.symm.trans hn)) rfl, fun c hc => ?_⟩,
    fun s die ch c => ⟨State.copyFinish_plain, fun va at_ u hb hat => ⟨fun idx hs => State.copyFinish_staged hb hat hs,
        fun hs ha => State.copyFinish_nowhere hb hat hs ha, fun d a w reason hs ha he => ⟨fun hr => ?_, fun r hr => ?_⟩⟩,
      fun n u hu => ⟨fun h1 h2 => ?_, fun h => ?_⟩, fun m k l h hk hl => ⟨State.rcpySend_stands h hk hl,
        fun hw hm hr hcut off n f ps u hoff hn hside hhome =>
          ⟨fun x hf => State.rcpySend_fails h hk hl hw hm hr hcut hoff hn hside hhome hf, fun bad bs v hf hreads =>
            ⟨fun x hb => State.rcpySend_bad h hk hl hw hm hr hcut hoff hn hside hhome hf hreads hb,
              fun p hb hp => State.rcpySend_sends h hk hl hw hm hr hcut hoff hn hside hhome hf hreads hb hp⟩⟩⟩⟩⟩
  · have he : exec i s = .next (u.issueCopy kind rd rbar sc dst src len) := by
      subst hv
      rcases hi with ⟨rfl, rfl, rfl, rfl, rfl, rfl⟩ | ⟨rfl, hs, rfl, rfl, rfl, rfl, rfl⟩ | ⟨rfl, ha, d, hd, rfl, rfl, rfl, rfl⟩
      · rfl
      · exact congrArg Host.Outcome.next (if_neg (by simp [hs]))
      · refine congrArg Host.Outcome.next ((if_neg (Classical.not_not.mpr ha)).trans ?_)
        rw [hd]
        rfl
    refine ⟨fun hl => ?_, fun hl die q hdie hq => ?_⟩
    · subst hl
      exact wrote_of he State.issueCopy_empty
    · subst hdie
      have hq' : q = State.copyLine u := hq
      subst hq'
      exact ⟨fun h => is_of he (State.issueCopy_waits hl h), fun ch c hf h hc => is_of he (State.issueCopy_takes hl hf h hc)⟩
  · subst hm hv
    refine (if_neg (by omega)).trans ?_
    rw [State.cpyq, if_pos hk]
  · subst hl hv
    refine (if_neg (by omega)).trans ?_
    rw [State.cpyq, if_neg (by omega)]
  · have h : s.chans.find (chanKey die ch) = some c := ho.symm.trans hc
    refine ⟨fun hw => is_of (exec_copyComplete_waits h hw) rfl, fun hw hf => is_of (exec_copyComplete_fin h hw hf) rfl,
      fun hw hf hk => ?_, fun hw hf hk => ?_⟩
    · have he := exec_copyComplete_remote h hw hf hk
      refine ⟨fun hl => is_of he (if_pos hl), fun hl hd => is_of he ((if_neg (by omega)).trans (if_pos hd)),
        fun hl hd h0 => is_of he ((if_neg (by omega)).trans ((if_neg (Classical.not_not.mpr hd)).trans (if_pos h0))), fun hl hd h0 => ?_⟩
      have hturn : State.rcpyTurn s die ch c = _ := (if_neg (by omega)).trans ((if_neg (Classical.not_not.mpr hd)).trans (if_neg h0))
      exact ⟨fun va reason hb => is_of he (hturn.trans (by rw [hb]; rfl)), fun hb => is_of he (hturn.trans (by rw [hb]; rfl))⟩
    · have he := exec_copyComplete_moves h hw hf hk
      refine ⟨fun hl => is_of he (State.copyMove_long hl), fun hl p hp => ⟨fun hcut => is_of he (State.copyMove_cut hl hp hcut), fun hcut =>
        ⟨fun f hfail h0 => is_of he (State.copyMove_waits hl hp hcut hfail h0), fun hfail => ?_⟩⟩⟩
      have hgoes := State.copyMove_goes (ch := ch) hl hp hcut hfail
      refine ⟨fun va reason hb => is_of he (hgoes.trans ?_), fun hb bad bs u data hreads hdata => ?_⟩
      · rw [State.copyOn, hb, Option.elim_some]
      · have hover : s.copyMove die ch c = State.copyOver die ch c p (bad, bs, u) := by
          rw [hgoes, State.copyOn, hb, Option.elim_none, hreads]
        subst hdata
        refine ⟨fun f hfirst => is_of he (hover.trans ?_), fun hfirst => ⟨fun v hwr => is_of he (hover.trans ?_),
          fun hwr => is_of he (hover.trans ?_)⟩⟩
        · rw [State.copyOver]
          dsimp only
          rw [hfirst, Option.elim_some]
        · rw [State.copyOver]
          dsimp only
          rw [hfirst, Option.elim_none, hwr, Option.elim_some]
        · rw [State.copyOver]
          dsimp only
          rw [hfirst, Option.elim_none, hwr, Option.elim_none]
  · rw [State.copyFinish_counts hb hat hs ha he, hr, Option.elim_none]
  · rw [State.copyFinish_counts hb hat hs ha he, hr, Option.elim_some]
  · rw [State.copyToken, ← hu]
    exact if_pos ⟨h1, h2⟩
  · rw [State.copyToken, ← hu]
    exact if_neg fun ⟨h1, h2⟩ => h.elim h1 fun h => h h2

end

section
/-! ## R337, R339, R340, R427: the package links -/

namespace Sys2Proof

open Sys2Proof.Machine

section
variable {s u v w : Machine.State} {k n lane : Nat} {l : Link} {p : Packet} {ack : BitVec 12} {refused : List (BitVec 12)} {flits : List Byte}

/-! ### Acknowledgements -/

theorem State.linkAck_stale (hn : (ack - (s.link k).lastAck).toNat = 0 ∨ (s.link k).rbuf.length < (ack - (s.link k).lastAck).toNat) :
    s.linkAck k ack refused = s := if_pos hn

theorem State.linkAck_frees {gone : List Packet} (hl : l = s.link k) (hn : n = (ack - l.lastAck).toNat)
    (hg : gone = (l.rbuf.take n).filter fun p => !l.dead.contains p.seq) (h0 : n ≠ 0) (hle : n ≤ l.rbuf.length) :
    s.linkAck k ack refused = (packetChans gone).foldl (fun s d => s.rcpyDone d.1 d.2)
      ((s.modLink k fun x => { x with
        rbuf := x.rbuf.drop n, lastAck := ack, since := s.tick
        dead := x.dead.filter fun q => !(l.rbuf.take n).any fun p => p.seq == q }).failPackets 6
        (gone.filter fun p => refused.contains p.seq)) := by
  subst hg hn hl
  unfold State.linkAck
  dsimp only
  rw [if_neg (by omega)]

theorem State.modLink_congr {f g : Link → Link} (h : f (s.link k) = g (s.link k)) : s.modLink k f = s.modLink k g := by
  unfold State.modLink
  rw [h]

/-! ### Arrivals -/

/-- A link asks for replay from the packet after the last one it has accepted. -/
def State.sendNak (s : Machine.State) (k : Nat) : Machine.State :=
  s.modLink k fun l => { l with ackOut := l.ackOut ++ [(l.expect - 1#12, .nak)] }

/-- A data packet that has arrived, by its place in the sequence. -/
def State.packetIn (u : Machine.State) (k : Nat) (p : Packet) : Machine.State :=
  if ((u.link k).expect - p.seq).toNat = 0 then u.inbound k p
  else if ((u.link k).expect - p.seq).toNat ≤ 2048 then
    u.modLink k fun l => { l with ackOut := l.ackOut ++ [(l.expect - 1#12, .ack)] }
  else State.sendNak u k

theorem State.linkReceive_down (h : (s.link k).up = false) : s.linkReceive k flits = s := if_pos (by simp [h])

theorem State.linkReceive_bad (h : (s.link k).up = true) (hr : readFlits flits = none) :
    s.linkReceive k flits = State.sendNak s k := by
  unfold State.linkReceive
  rw [if_neg (by simp [h])]
  dsimp only
  rw [hr]
  rfl

theorem State.linkReceive_read {data : Option Packet} {a : Option (BitVec 12 × Bool)} (h : (s.link k).up = true)
    (hr : readFlits flits = some ⟨data, a⟩)
    (hu : u = a.elim s fun a => if a.2 then s.linkNak k a.1 else s.linkAck k a.1 []) :
    s.linkReceive k flits = data.elim u (State.packetIn u k) := by
  subst hu
  unfold State.linkReceive
  rw [if_neg (by simp [h])]
  dsimp only
  rw [hr]
  clear hr
  have hdata : ∀ v : Machine.State, (match data with
      | none => v
      | some p =>
        let behind := ((v.link k).expect - p.seq).toNat
        if behind = 0 then v.inbound k p
        else if behind ≤ 2048 then v.modLink k fun l => { l with ackOut := l.ackOut ++ [(l.expect - 1#12, .ack)] }
        else State.sendNak v k) = data.elim v (State.packetIn v k) := by
    intro v
    cases data with
    | none => rfl
    | some p => rfl
  rcases a with _ | ⟨n, _ | _⟩
  · exact hdata _
  · exact hdata _
  · exact hdata _

theorem State.inbound_refused (h : u.inboundAt p = none) :
    u.inbound k p = u.modLink k fun l => { l with expect := l.expect + 1#12, ackOut := l.ackOut ++ [(p.seq, .refused)] } := by
  unfold State.inbound
  dsimp only
  rw [h]

theorem State.inbound_accepts {pa : Nat} {kind : PaKind} {owed : List Owed} (h : u.inboundAt p = some (pa, kind))
    (hv : v = u.modLink k fun l => { l with inward := l.inwardAfter p }) (hw : v.writeHome pa 0 p.data kind = (w, owed)) :
    u.inbound k p = ((w.raiseHome none 0 (unitRecord 7#3 0) kind owed).inboundBar p).modLink k fun l =>
      { l with expect := l.expect + 1#12, ackOut := l.ackOut ++ [(p.seq, .ack)] } := by
  unfold State.inbound
  dsimp only
  rw [h]
  dsimp only
  rw [← hv, hw]

/-! ### Failures -/

theorem State.laneFailure_retraining (h0 : (s.link k).width ≠ 0) (hr : ((s.link k).retrain || (s.link k).pend) = true) :
    s.laneFailure k lane = if laneIn (s.link k).next lane then s.linkDown k else s := (if_neg h0).trans (if_pos hr)

theorem State.laneFailure_other (h0 : (s.link k).width ≠ 0) (hr : ((s.link k).retrain || (s.link k).pend) = false)
    (hin : laneIn (s.link k).width lane = false) : s.laneFailure k lane = s :=
  (if_neg h0).trans ((if_neg (by rw [hr]; exact Bool.false_ne_true)).trans (if_pos (by rw [hin]; rfl)))

theorem State.laneFailure_in (h0 : (s.link k).width ≠ 0) (hr : ((s.link k).retrain || (s.link k).pend) = false)
    (hin : laneIn (s.link k).width lane = true) : s.laneFailure k lane =
    if (s.link k).width = 1 then s.modLink k fun l => { l with
      next := if lane < 8 then 3 else 2, retrain := !l.hostrt, pend := l.hostrt }
    else s.linkDown k :=
  (if_neg h0).trans ((if_neg (by rw [hr]; exact Bool.false_ne_true)).trans (if_neg (by rw [hin]; decide)))

theorem laneIn_full : laneIn 1 lane = true := Bool.or_true _

end

end Sys2Proof
end

section

open Sys2Proof Sys2Proof.Machine

/-- Settles O51: the sender's and the receiver's side, lane failures and retraining. -/
theorem packageLinks : Obligations.PackageLinks := by
  unfold Obligations.PackageLinks
  rintro s k l rfl
  refine ⟨fun flits ack refused hup i hi => ?_, fun hup ack refused n gone hn hgone => ⟨fun h => ⟨?_, ?_⟩, ?_, fun h0 hle => ?_⟩,
    fun hup flits => ⟨fun hr => is_of rfl (State.linkReceive_bad hup hr), fun data ack u hr hu => ?_⟩,
    fun hup => ⟨fun hne ht => is_of rfl (if_pos ?_), fun h => is_of rfl (if_neg ?_)⟩,
    fun lane => ⟨fun h => is_of rfl (if_pos h), fun h0 hr hin => is_of rfl ((State.laneFailure_retraining h0 hr).trans (if_pos hin)),
      fun h0 hr hin => is_of rfl ((State.laneFailure_retraining h0 hr).trans (if_neg (by simp [hin]))), fun h1 hr => is_of rfl ?_,
      fun h2 hr hin => is_of rfl ((State.laneFailure_in (by omega) hr hin).trans (if_neg (by omega))),
      fun h2 hr hin => is_of rfl (State.laneFailure_other (by omega) hr hin)⟩,
    fun h => is_of rfl (if_pos h), fun h => is_of rfl (if_neg (by simp [h])), fun h => is_of rfl (if_pos h),
    fun h => is_of rfl (if_neg (by simp [h]))⟩
  · simp only [List.mem_cons, List.not_mem_nil, or_false] at hi
    rcases hi with rfl | rfl | rfl | rfl
    · exact is_of rfl (State.linkReceive_down hup)
    · exact is_of rfl (if_neg (by simp [hup]))
    · exact is_of rfl (if_neg (by simp [hup]))
    · exact is_of rfl (if_neg (by simp [hup]))
  · subst hn
    exact is_of rfl ((if_pos hup).trans (State.linkAck_stale h))
  · subst hn
    refine is_of rfl ((if_pos hup).trans ?_)
    rw [State.linkNak, State.linkAck_stale h]
  · exact is_of rfl (if_pos hup)
  · exact is_of rfl ((if_pos hup).trans ((State.linkAck_frees rfl hn hgone h0 hle).trans rfl))
  · have hread := State.linkReceive_read hup hr hu
    refine ⟨fun hd => is_of rfl (hread.trans (by rw [hd]; rfl)), fun p behind hd hb => ?_⟩
    subst hd hb
    refine ⟨fun h => is_of rfl (hread.trans ((if_neg (by omega)).trans (if_neg (by omega)))),
      fun h1 h2 => is_of rfl (hread.trans ((if_neg (by omega)).trans (if_pos h2))),
      fun h0 hat => is_of rfl (hread.trans ((if_pos h0).trans (State.inbound_refused hat))),
      fun pa kind v w owed h0 hat hv hw => is_of rfl (hread.trans ((if_pos h0).trans (State.inbound_accepts hat hv hw)))⟩
  · simp [hup, hne, ht]
  · rcases h with h | h
    · simp [h]
    · simp [hup]
      omega
  · exact (State.laneFailure_in (by omega) hr (by rw [h1]; exact laneIn_full)).trans (if_pos h1)

end

section
/-! ## R428 to R441: the P-class instructions, the spares and the edges -/

namespace Sys2Proof

open Sys2Proof.Machine

section
variable {s u v w : Machine.State} {rd ra rb : Reg} {i : Instr} {op die row arg n : Nat} {cs : List Nat}

/-! ### Operands -/

theorem tlbiKind_of {x : Word} {k : Nat} (h : x.toNat / 2 ^ 20 = k * 2 ^ 42) : tlbiKind x = some k := by
  unfold tlbiKind
  rw [if_pos (by omega)]
  congr 1
  omega

theorem tlbiKind_none {x : Word} (h : x.toNat / 2 ^ 20 % 2 ^ 42 ≠ 0) : tlbiKind x = none := if_neg h

theorem tlbi_of {k : TlbiKind} {p : Option Nat} (he : exec i s = .next (s.tlbiRun rd k p)) (hw : w = s.performAll) :
    (w.bankBusy p = true → Ends i s fun t => t = w) ∧ (w.bankBusy p = false → Ends i s (Wrote rd 0#64 1 (w.tlbi k))) := by
  subst hw
  exact ⟨fun h => is_of he (if_pos h), fun h => wrote_of he (if_neg (by rw [h]; exact Bool.false_ne_true))⟩

/-! ### The instructions once their operands are in their ranges -/

section
variable {k : Nat → Nat → Nat → Machine.State → Machine.State}

theorem State.spareCmd_refused (h : rowOf (s.x ra) = none ∨ spareOp (s.x rb) = none) :
    s.spareCmd op rd ra rb k = s.retireReg rd allOnes 1 := by
  unfold State.spareCmd
  rcases h with h | h
  · rw [h]
    rfl
  · rw [h]
    cases rowOf (s.x ra) <;> rfl

theorem State.spareCmd_runs (hr : rowOf (s.x ra) = some (die, row)) (ho : spareOp (s.x rb) = some (op, arg))
    (hv : v = s.performLoads s.focus) : s.spareCmd op rd ra rb k = k die row arg v := by
  unfold State.spareCmd
  rw [hr, ho, hv]
  exact if_pos rfl

end

section
variable {k : Nat → Machine.State → Machine.State}

theorem State.qctl_refused (h : 4096 ≤ (s.x ra).toNat) : s.qctl op rd ra rb k = s.retireReg rd allOnes 1 := if_pos (.inl h)

theorem State.qctl_runs (h : (s.x ra).toNat < 4096) (ho : (s.x rb).toNat = op) (hv : v = s.performLoads s.focus) :
    s.qctl op rd ra rb k = k (s.x ra).toNat v := by
  subst hv
  exact if_neg (by omega)

end

section
variable {k : Nat → List Nat → Machine.State → Machine.State}

theorem State.dieq_refused (h : dieqTarget (s.x ra) = none) : s.dieq op rd ra rb k = s.retireReg rd allOnes 1 := by
  unfold State.dieq
  rw [h]
  rfl

theorem State.dieq_runs (h : dieqTarget (s.x ra) = some (die, cs)) (ho : (s.x rb).toNat = op) (hv : v = s.performLoads s.focus) :
    s.dieq op rd ra rb k = k die cs v := by
  unfold State.dieq
  rw [h, hv]
  exact if_pos ho

end

theorem not_own {k : Nat} (h : lanDie k ≠ die ∨ lanCl k ∉ cs) : ¬(lanDie k = die ∧ cs.contains (lanCl k) = true) :=
  fun ⟨h1, h2⟩ => h.elim (· h1) (· (List.contains_iff_mem.mp h2))

theorem State.binjFlip_refused (h : binjOp (s.x rb) = none) : s.binjFlip op rd ra rb = s.retireReg rd allOnes 1 := by
  unfold State.binjFlip
  rw [h]
  rfl

theorem State.binjFlip_flips {bit : Nat} (h : binjOp (s.x rb) = some (op, bit)) (hp : s.binjPlace (s.x ra) = true) (hb : bit + op ≤ 38)
    (hv : v = s.performLoads s.focus) :
    s.binjFlip op rd ra rb = (v.flip (s.x ra).toNat (BitVec.ofNat 39 ((2 ^ (op + 1) - 1) * 2 ^ bit))).retireReg rd 0#64 1 := by
  unfold State.binjFlip
  rw [h, hv]
  exact if_pos ⟨rfl, hp, hb⟩

/-! ### SPARE -/

theorem State.spareRemap_free (h1 : arg ≤ 111) (h2 : spRmap (v.spare die row) = false) :
    v.spareRemap_ rd die row arg = if v.hasContext (spareEl die row arg) then
      { v with spareq := (v.spareq.filter fun w => decide (w.1 ≠ v.focus)) ++ [(v.focus, v.cur.pc, spareEl die row arg)] }
    else (({ v with spareq := v.spareq.filter fun w => decide (w.1 ≠ v.focus) } : Machine.State).setSpare die row
      (setBits (setBits (setBits (v.spare die row) 63 1 1) 56 7 arg) 15 1 1)).retireReg rd 0#64 1 :=
  (if_neg (by omega)).trans (if_neg (by rw [h2]; exact Bool.false_ne_true))

/-! ### The spare's events -/

theorem State.spareRotate_stands (h : s.intervalOver die row = false ∨ spHold (s.spare die row) = true) : s.spareRotate_ die row = s :=
  if_pos (by rcases h with h | h <;> simp [h])

theorem State.spareRotate_due (hi : s.intervalOver die row = true) (hh : spHold (s.spare die row) = false)
    (hu : u = { s with spareAt := s.spareAt.put (spareKey die row) s.tick }) : s.spareRotate_ die row =
    if modeRotate (s.modeOf die) then
      u.modHub fun h => if h.askHost.contains (die, row) then h else { h with askHost := h.askHost ++ [(die, row)] }
    else if s.hub.askHost.contains (die, row) then u
    else u.setSpare die row (setBits (s.spare die row) 0 7 ((spPos (s.spare die row) + 1) % 112)) := by
  subst hu
  exact if_neg (by simp [hi, hh])

theorem State.spareRotate_asked (hi : s.intervalOver die row = true) (hh : spHold (s.spare die row) = false)
    (hu : u = { s with spareAt := s.spareAt.put (spareKey die row) s.tick }) (ha : (die, row) ∈ s.hub.askHost) :
    s.spareRotate_ die row = u := by
  have hc : s.hub.askHost.contains (die, row) = true := List.contains_iff_mem.mpr ha
  rw [State.spareRotate_due hi hh hu]
  by_cases hm : modeRotate (s.modeOf die) = true
  · rw [if_pos hm]
    subst hu
    exact congrArg (fun h => { { s with spareAt := s.spareAt.put (spareKey die row) s.tick } with hub := h }) (if_pos hc)
  · exact (if_neg hm).trans (if_pos hc)

theorem State.spareMismatch_none (h : s.shadowed die row = none) : s.spareMismatch_ die row = s := by
  unfold State.spareMismatch_
  rw [h]

theorem State.spareMismatch_some {el : Nat} {r : Record} (h : s.shadowed die row = some el)
    (hu : u = ({ s with spareForce := s.spareForce.filter fun k => decide (k ≠ spareKey die row) } : Machine.State).setSpare die row
      (setBits (setBits (setBits (s.spare die row) 55 1 1) 48 7 (spPos (s.spare die row))) 15 1 1))
    (hr : r = { elRecord el kSUSPECT 0#5 0#36 0#64 (row + spPos (s.spare die row) * 2 ^ 9) with
      cfg := false, tick := BitVec.ofNat 32 s.tick, die := BitVec.ofNat 4 die }) : s.spareMismatch_ die row =
    (u.leadOfTile (elTile el)).elim ((u.toMc r).traceFault (clusterAt die (tileX (elTile el)) (tileY (elTile el))) r) fun k =>
      ((u.toMc { r with spec := u.speculative k }).raise (some k) die r).askAbort k true := by
  have htick : u.tick = s.tick := by
    subst hu
    rfl
  unfold State.spareMismatch_
  rw [h]
  dsimp only
  rw [← hu, htick]
  subst hr
  cases u.leadOfTile (elTile el) <;> rfl

/-! ### Edges -/

section
variable {a b : Nat} {go : Bool}

theorem State.edgeFailure_none (h : isEdge a b = false) : s.edgeFailure a b go = s := if_pos (by simp [h])

theorem State.edgeFailure_go (h : isEdge a b = true) : s.edgeFailure a b true =
    ({ s with edges := s.edges.del (16 * a + b) } : Machine.State).modHub fun h =>
      { h with askEdge := h.askEdge.filter fun e => decide (e ≠ 16 * a + b) } :=
  (if_neg (by simp [h])).trans (if_pos rfl)

theorem State.edgeFailure_fails (h : isEdge a b = true) : s.edgeFailure a b false =
    if modeRetrain (s.modeOf a) || modeRetrain (s.modeOf b) then
      ({ s with edges := s.edges.put (16 * a + b) 1 } : Machine.State).modHub fun h =>
        { h with askEdge := if h.askEdge.contains (16 * a + b) then h.askEdge else h.askEdge ++ [16 * a + b] }
    else s :=
  (if_neg (by simp [h])).trans (if_neg Bool.false_ne_true)

end

end

end Sys2Proof
end

section

open Sys2Proof Sys2Proof.Machine

/-- Settles O52: each instruction by its operands, then the events of the spares and of the edges. -/
theorem reliabilityInstructions : Obligations.ReliabilityInstructions := by
  unfold Obligations.ReliabilityInstructions
  refine ⟨?_, ?_, ?_⟩
  · rintro s v rd ra rb n m hv rfl rfl
    refine ⟨fun w hw => ⟨fun i k p hi => ?_, fun hn i hi => ?_⟩, fun h => wrote_of rfl ?_, fun h => wrote_of rfl (if_pos h),
      fun h i hi => ?_, fun die row arg old hr hold => ⟨fun ho => ?_, fun ho => ⟨fun ha => ?_, fun ha => ?_⟩,
        fun ho => ⟨fun ha => ?_, fun ha hm => ?_, fun ha hm hc => ?_, fun ha hm hc => ?_⟩, fun ho => ?_,
        fun ho => ⟨fun ha => ?_, fun ha hs => ?_, fun ha hs => ?_⟩⟩,
      fun h i hi => ?_, fun h => ⟨fun hm => wrote_of rfl (State.qctl_runs h hm hv), fun hm => wrote_of rfl (State.qctl_runs h hm hv),
        fun hm t _ ht => congrArg _ ((State.qctl_runs h hm hv).trans (by rw [ht])), fun hm hr => wrote_of rfl ?_, fun hm hr => wrote_of rfl ?_⟩,
      fun h i hi => ?_, fun die cs hd => ⟨fun hm hl hc => wrote_of rfl ?_, fun hm hl w hw => ⟨fun hall => wrote_of rfl ?_, fun hex => is_of rfl ?_⟩,
        fun hm w hw => ⟨fun hex => is_of rfl ?_, fun hall => wrote_of rfl ?_⟩, fun hm => wrote_of rfl (State.dieq_runs hd hm hv)⟩,
      fun bit hb hp hle => wrote_of rfl (State.binjFlip_flips hb hp hle hv), fun bit hb hp hle => wrote_of rfl (State.binjFlip_flips hb hp (by omega) hv),
      fun bit die row hb hr => wrote_of rfl ?_, fun hb i hi => ?_⟩
    · rcases hi with ⟨rfl, hn, rfl, rfl⟩ | ⟨rfl, hn, hb, rfl, rfl⟩ | ⟨rfl, hn, hb, rfl, rfl⟩
      · exact tlbi_of (congrArg Host.Outcome.next (if_pos (tlbiKind_of (k := 0) (by omega)))) hw
      · exact tlbi_of (congrArg Host.Outcome.next (if_pos ⟨tlbiKind_of (k := 1) (by omega), hb⟩)) hw
      · exact tlbi_of (congrArg Host.Outcome.next (if_pos ⟨tlbiKind_of (k := 2) (by omega), by omega, hb⟩)) hw
    · have hk := tlbiKind_none hn
      simp only [List.mem_cons, List.not_mem_nil, or_false] at hi
      rcases hi with rfl | rfl | rfl
      · exact wrote_of rfl (if_neg (by simp [hk]))
      · exact wrote_of rfl (if_neg (by simp [hk]))
      · exact wrote_of rfl (if_neg (by simp [hk]))
    · subst hv
      exact if_neg (by omega)
    · simp only [List.mem_cons, List.not_mem_nil, or_false] at hi
      rcases hi with rfl | rfl | rfl | rfl | rfl
      · exact wrote_of rfl (State.spareCmd_refused h)
      · exact wrote_of rfl (State.spareCmd_refused h)
      · exact wrote_of rfl (State.spareCmd_refused h)
      · exact wrote_of rfl (State.spareCmd_refused h)
      · exact wrote_of rfl (State.spareCmd_refused h)
    · subst hold
      exact wrote_of rfl (State.spareCmd_runs hr ho hv)
    · exact wrote_of rfl ((State.spareCmd_runs hr ho hv).trans (if_pos ha))
    · subst hold
      exact wrote_of rfl ((State.spareCmd_runs hr ho hv).trans (if_neg (by omega)))
    · exact wrote_of rfl ((State.spareCmd_runs hr ho hv).trans (if_pos ha))
    · subst hold
      exact wrote_of rfl ((State.spareCmd_runs hr ho hv).trans ((if_neg (by omega)).trans (if_pos hm)))
    · subst hold
      exact is_of rfl ((State.spareCmd_runs hr ho hv).trans ((State.spareRemap_free ha hm).trans (if_pos hc)))
    · subst hold
      exact wrote_of rfl ((State.spareCmd_runs hr ho hv).trans ((State.spareRemap_free ha hm).trans (if_neg (by simp [hc]))))
    · subst hold
      exact wrote_of rfl (State.spareCmd_runs hr ho hv)
    · exact wrote_of rfl ((State.spareCmd_runs hr ho hv).trans (if_pos ha))
    · subst hold
      exact wrote_of rfl ((State.spareCmd_runs hr ho hv).trans ((if_neg (by omega)).trans (if_pos hs)))
    · subst hold
      exact wrote_of rfl ((State.spareCmd_runs hr ho hv).trans ((if_neg (by omega)).trans (if_neg (by rw [hs]; exact Bool.false_ne_true))))
    · simp only [List.mem_cons, List.not_mem_nil, or_false] at hi
      rcases hi with rfl | rfl | rfl | rfl
      · exact wrote_of rfl (State.qctl_refused h)
      · exact wrote_of rfl (State.qctl_refused h)
      · exact wrote_of rfl (State.qctl_refused h)
      · exact wrote_of rfl (State.qctl_refused h)
    · exact (State.qctl_runs h hm hv).trans (if_pos hr)
    · exact (State.qctl_runs h hm hv).trans (if_neg (by rw [hr]; exact Bool.false_ne_true))
    · simp only [List.mem_cons, List.not_mem_nil, or_false] at hi
      rcases hi with rfl | rfl | rfl
      · exact wrote_of rfl (State.dieq_refused h)
      · exact wrote_of rfl (State.dieq_refused h)
      · exact wrote_of rfl (State.dieq_refused h)
    · exact (State.dieq_runs hd hm hv).trans (if_pos ⟨hl, List.contains_iff_mem.mpr hc⟩)
    · subst hw
      exact (State.dieq_runs hd hm hv).trans ((if_neg (not_own hl)).trans
        (if_pos (List.all_eq_true.mpr fun c hc => List.contains_iff_mem.mpr (hall c hc))))
    · subst hw
      obtain ⟨c, hc, hno⟩ := hex
      exact (State.dieq_runs hd hm hv).trans ((if_neg (not_own hl)).trans
        (if_neg fun hall => hno (List.contains_iff_mem.mp (List.all_eq_true.mp hall c hc))))
    · subst hw
      obtain ⟨c, hc, hin⟩ := hex
      exact (State.dieq_runs hd hm hv).trans (if_pos (List.any_eq_true.mpr ⟨c, hc, List.contains_iff_mem.mpr hin⟩))
    · subst hw
      refine (State.dieq_runs hd hm hv).trans (if_neg fun hany => ?_)
      obtain ⟨c, hc, hin⟩ := List.any_eq_true.mp hany
      exact hall c hc (List.contains_iff_mem.mp hin)
    · subst hv
      rw [hb, hr]
      rfl
    · simp only [List.mem_cons, List.not_mem_nil, or_false] at hi
      rcases hi with rfl | rfl | rfl
      · exact wrote_of rfl (State.binjFlip_refused hb)
      · exact wrote_of rfl (State.binjFlip_refused hb)
      · refine wrote_of rfl ?_
        rw [hb]
        rfl
  · rintro s die row v rfl
    refine ⟨fun h => is_of rfl (State.spareRotate_stands h), fun hi hh u hu => ⟨fun hm hno => is_of rfl ?_,
      fun hin => is_of rfl (State.spareRotate_asked hi hh hu hin), fun hm hno => is_of rfl ?_⟩,
      fun h => is_of rfl (State.spareMismatch_none h), fun el k u r h hu hr => ⟨fun hk => is_of rfl ?_, fun hk => is_of rfl ?_⟩⟩
    · refine (State.spareRotate_due hi hh hu).trans ((if_neg (by simp [hm])).trans (if_neg fun hc => hno (List.contains_iff_mem.mp hc)))
    · refine (State.spareRotate_due hi hh hu).trans ((if_pos hm).trans ?_)
      subst hu
      exact congrArg (fun h => { { s with spareAt := s.spareAt.put (spareKey die row) s.tick } with hub := h })
        (if_neg fun hc => hno (List.contains_iff_mem.mp hc))
    · rw [State.spareMismatch_some h hu hr, hk, Option.elim_some]
    · rw [State.spareMismatch_some h hu hr, hk, Option.elim_none]
  · intro s a b go
    refine ⟨fun h => is_of rfl (State.edgeFailure_none h), fun h hgo => ?_, fun h hgo hm => ?_, fun h hgo hm => ?_⟩
    · subst hgo
      exact is_of rfl (State.edgeFailure_go h)
    · subst hgo
      exact is_of rfl ((State.edgeFailure_fails h).trans (if_pos hm))
    · subst hgo
      exact is_of rfl ((State.edgeFailure_fails h).trans (if_neg (by rw [hm]; exact Bool.false_ne_true)))

end

section
/-! ## R40, R141, R253, R379 to R399: the events of a Beacon -/

namespace Sys2Proof

open Sys2Proof.Machine

section
variable {s u v w : Machine.State} {die idx lead : Nat} {g : Seg} {l : Launch}

/-! ### Placement and dispatch -/

theorem State.launchPlacement_none {id : Nat} (h : s.hub.launches.find id = none) : s.launchPlacement id = s := by
  unfold State.launchPlacement
  rw [h]

theorem State.launchPlacement_ended {id : Nat} (h : s.hub.launches.find id = some l) (hs : l.status ≠ none) :
    s.launchPlacement id = s := by
  unfold State.launchPlacement
  rw [h]
  exact if_pos (Option.isSome_iff_ne_none.mpr hs)

theorem State.launchPlacement_runs {id : Nat} (h : s.hub.launches.find id = some l) (hs : l.status = none) {o : Option Machine.State}
    (ho : (if l.placed then some s else s.placeLaunch id) = o) :
    s.launchPlacement id = o.elim s fun u => u.enterEntries id l.next (l.entries.drop l.next) := by
  unfold State.launchPlacement
  rw [h]
  dsimp only
  rw [if_neg (by simp [hs]), ho]
  cases o <;> rfl

theorem State.decision_idle (h : ((s.fenceStep die).beacon die).due = false) : s.decision die = s.fenceStep die :=
  if_pos (by simp [h])

theorem State.decision_due (hu : u = s.fenceStep die) (h : (u.beacon die).due = true)
    (hw : w = u.modBeacon die fun b => { b with due := false }) :
    s.decision die = if modePlace ((w.askPlaces die (w.waitingSegs die)).modeOf die) then w.askPlaces die (w.waitingSegs die)
      else ((w.waitingSegs die).foldl (State.decideOne die) (w.askPlaces die (w.waitingSegs die), false)).1 := by
  subst hu hw
  exact if_neg (by simp [h])

section
variable {i : Nat} {b : Bool}

theorem decideOne_asked (h : w.placeAsked die i = true) : State.decideOne die (w, b) (i, g) = (w, b) := if_pos h

theorem decideOne_cut (h : w.placeAsked die i = false) (hc : w.rangesCut die g = true) :
    State.decideOne die (w, b) (i, g) = (w.decide_ die, b) :=
  (if_neg (by simp [h])).trans (if_pos hc)

theorem decideOne_fits {o : Nat} (h : w.placeAsked die i = false) (hc : w.rangesCut die g = false) (hf : w.fit die g none = some o) :
    State.decideOne die (w, b) (i, g) = (w.dispatch die i o, b) := by
  unfold State.decideOne
  dsimp only
  rw [if_neg (by simp [h]), if_neg (by simp [hc]), hf]

theorem decideOne_stands (h : w.placeAsked die i = false) (hc : w.rangesCut die g = false) (hf : w.fit die g none = none)
    (hb : b = true ∨ g.committed = false ∨ w.givesWay die g = none) : State.decideOne die (w, b) (i, g) = (w, b) := by
  unfold State.decideOne
  dsimp only
  rw [if_neg (by simp [h]), if_neg (by simp [hc]), hf]
  dsimp only
  split
  · rfl
  · next hno =>
    have hg : w.givesWay die g = none := (or_assoc.mpr hb).resolve_left (by simpa using hno)
    rw [hg]

theorem decideOne_preempts {k : Nat} {o : Option Machine.State} (h : w.placeAsked die i = false) (hc : w.rangesCut die g = false)
    (hf : w.fit die g none = none) (hg : g.committed = true) (hk : w.givesWay die g = some k) (ho : w.startPreempt die k false = o) :
    State.decideOne die (w, false) (i, g) = o.elim (w, false) fun v => (v, true) := by
  unfold State.decideOne
  dsimp only
  rw [if_neg (by simp [h]), if_neg (by simp [hc]), hf]
  dsimp only
  rw [if_neg (by simp [hg]), hk]
  dsimp only
  rw [ho]
  cases o <;> rfl

end

/-! ### PLACE -/

section
variable {x : Word}

theorem State.placeWrite_absent (h : (s.beacon die).segs.find (x.toNat % 4096) = none) :
    s.placeWrite die x = s.refuseWrite (0x30018 + 0x1000 * die) x := by
  unfold State.placeWrite
  dsimp only
  rw [h]

theorem State.placeWrite_refused (h : (s.beacon die).segs.find (x.toNat % 4096) = some g)
    (hb : x.toNat / 2 ^ 12 % 16 ≠ die ∨ g.waiting = false ∨ (98 ≤ x.toNat / 2 ^ 16 % 128 ∧ x.toNat / 2 ^ 16 % 128 ≤ 126)) :
    s.placeWrite die x = s.refuseWrite (0x30018 + 0x1000 * die) x := by
  unfold State.placeWrite
  dsimp only
  rw [h]
  exact if_pos hb

theorem State.placeWrite_places (h : (s.beacon die).segs.find (x.toNat % 4096) = some g) (hd : x.toNat / 2 ^ 12 % 16 = die)
    (hg : g.waiting = true) (ho : ¬(98 ≤ x.toNat / 2 ^ 16 % 128 ∧ x.toNat / 2 ^ 16 % 128 ≤ 126))
    (hu : u = s.modBeacon die fun b => { b with place := x &&& 0x7FFFFF#64 }) :
    s.placeWrite die x = if x.toNat / 2 ^ 16 % 128 = 127 then u
      else if u.fitsAt die g none (x.toNat / 2 ^ 16 % 128) then u.dispatch die (x.toNat % 4096) (x.toNat / 2 ^ 16 % 128)
      else u.modHub fun h => { h with
        placeReq := h.placeReq.map fun r => if r.die = die ∧ r.idx = x.toNat % 4096 then { r with sent := false } else r } := by
  subst hu
  unfold State.placeWrite
  dsimp only
  rw [h]
  refine if_neg ?_
  rintro (h | h | h)
  · exact h hd
  · simp [hg] at h
  · exact ho h

end

/-! ### Quanta, pre-emption and aborts -/

theorem State.quantumExpiry_none (h : (s.beacon die).segs.find idx = none) : s.quantumExpiry die idx = s := by
  unfold State.quantumExpiry
  rw [h]

theorem State.quantumExpiry_waiting (h : (s.beacon die).segs.find idx = some g) (ho : g.origin = none) : s.quantumExpiry die idx = s := by
  unfold State.quantumExpiry
  rw [h]
  dsimp only
  rw [ho]

theorem State.quantumExpiry_early (h : (s.beacon die).segs.find idx = some g) (ho : g.origin = some lead)
    (hw : g.preempt = true ∨ s.endReady lead = true ∨ s.tick - g.since < (s.beacon die).quantum) : s.quantumExpiry die idx = s := by
  unfold State.quantumExpiry
  rw [h]
  dsimp only
  rw [ho]
  exact if_pos (by rcases hw with h | h | h <;> simp [h])

theorem State.quantumExpiry_due (h : (s.beacon die).segs.find idx = some g) (ho : g.origin = some lead) (hp : g.preempt = false)
    (he : s.endReady lead = false) (hq : (s.beacon die).quantum ≤ s.tick - g.since) : s.quantumExpiry die idx =
    if s.beaten die g then (s.startPreempt die idx false).getD (s.modSeg die idx fun g => { g with since := s.tick })
    else s.modSeg die idx fun g => { g with since := s.tick } := by
  unfold State.quantumExpiry
  rw [h]
  dsimp only
  rw [ho]
  exact if_neg (by simp [hp, he, hq])

/-- Whether the pre-emption of a resident segment may complete. -/
def State.preemptReady (s : Machine.State) (lead : Nat) (g : Seg) : Bool :=
  g.preempt && decide ((s.lan lead).st = .run ∨ (s.lan lead).st = .ending) && s.ownQuiet lead &&
    (s.lan lead).dpoi.isNone && g.abortDue.isNone && s.preReady lead false

theorem State.preemptDone_none (h : (s.beacon die).segs.find idx = none) : s.preemptDone die idx = s := by
  unfold State.preemptDone
  rw [h]

theorem State.preemptDone_unplaced (h : (s.beacon die).segs.find idx = some g) (ho : g.origin = none ∨ g.saveAt = none) :
    s.preemptDone die idx = s := by
  unfold State.preemptDone
  rw [h]
  dsimp only
  rcases ho with ho | ho
  · rw [ho]
  · rw [ho]
    cases g.origin <;> rfl

section
variable {at_ : Nat × Nat} (h : (s.beacon die).segs.find idx = some g) (ho : g.origin = some lead) (hat : g.saveAt = some at_)
include h ho hat

theorem State.preemptDone_stands (hr : State.preemptReady s lead g = false) : s.preemptDone die idx = s := by
  unfold State.preemptDone
  rw [h]
  dsimp only
  rw [ho, hat]
  unfold State.preemptReady at hr
  exact if_neg (by rw [hr]; exact Bool.false_ne_true)

theorem State.preemptDone_saves {a : Saved × List Byte} (hr : State.preemptReady s lead g = true) (hu : u = (s.accrueCtxs lead).mxAccrue lead)
    (ha : a = u.buildArea lead false (s.lan lead).pc 0#5 (some (u.lan lead).trapRegs))
    (hv : v = (u.writeHome ((u.beacon die).savebase + 4096 * at_.1) 0 a.2 .hbm).1)
    (hw : w = (((v.keepArea a.1).releaseSaved lead).tracePreempt lead 3 0#32).releaseRegion die idx) :
    s.preemptDone die idx = w.modSeg die idx fun g => { g with st := if g.st = .runs then .pends else .pendc } := by
  subst hw hv ha hu
  unfold State.preemptDone
  rw [h]
  dsimp only
  rw [ho, hat]
  exact if_pos hr

end

theorem State.segmentAbort_none (h : (s.beacon die).segs.find idx = none) : s.segmentAbort die idx = s := by
  unfold State.segmentAbort
  rw [h]
  rfl

theorem State.segmentAbort_some (h : (s.beacon die).segs.find idx = some g) :
    s.segmentAbort die idx = g.abortDue.elim s (s.abortSeg die idx) := by
  unfold State.segmentAbort
  rw [h, Option.bind_some]
  cases g.abortDue <;> rfl

/-! ### The end of a segment, reclaims and commits -/

theorem State.segmentEnd_free (he : s.endReady lead = true) (hr : s.resident lead = none) :
    s.segmentEnd lead = s.modLan lead fun l => { l with st := .idle } := by
  unfold State.segmentEnd
  rw [if_neg (by simp [he]), hr]

theorem State.segmentEnd_ends (he : s.endReady lead = true) (hr : s.resident lead = some (idx, g))
    (hu : u = (((((s.flushConds lead).traceDiscards lead).mxAccrue lead).mxDiscard lead).clearRegion lead).releaseRegion (lanDie lead) idx) :
    s.segmentEnd lead = if g.st = .runs then u.modSeg (lanDie lead) idx fun g => { g with st := .ends, saveAt := none }
      else u.retire_ (lanDie lead) idx := by
  subst hu
  unfold State.segmentEnd
  rw [if_neg (by simp [he]), hr]

theorem State.reclaim_stands {tile : Nat} (h : s.entryWanted tile = false ∨ s.costliest tile = none) : s.reclaim tile = s := by
  unfold State.reclaim
  split
  · next hw => rw [h.resolve_left (by simp [hw])]
  · rfl

theorem State.reclaim_aborts {tile : Nat} (h : s.entryWanted tile = true) (hc : s.costliest tile = some (die, idx, g)) :
    s.reclaim tile = s.abortSeg die idx true := by
  unfold State.reclaim
  rw [if_pos h, hc]

theorem State.releaseCommit_empty (h : (s.beacon die).commits = []) : s.releaseCommit die = s := by
  unfold State.releaseCommit
  rw [h]

section
variable {j : CommitJob} {rest : List CommitJob} (h : (s.beacon die).commits = j :: rest)
  (hu : u = s.modBeacon die fun b => { b with commits := rest })
include h hu

theorem State.releaseCommit_gone (hg : (u.beacon die).segs.find j.idx = none) : s.releaseCommit die = u := by
  subst hu
  unfold State.releaseCommit
  rw [h]
  dsimp only
  rw [hg]

theorem State.releaseCommit_performs (hg : (u.beacon die).segs.find j.idx = some g)
    (hv : v = (u.commitSet j.set g.origin g.heldSt).modSeg die j.idx fun g => { g with heldSt := [], stageAt := none })
    (hw : w = (g.origin.elim v v.heldDone).performHeld die j.idx true g.origin) :
    s.releaseCommit die = if j.retire then w.freeEntry die j.idx else w := by
  subst hu
  unfold State.releaseCommit
  rw [h]
  dsimp only
  rw [hg]
  dsimp only
  rw [← hv]
  cases ho : g.origin with
  | none => rw [hw, ho, Option.elim_none]
  | some k => rw [hw, ho, Option.elim_some]

end

/-! ### Remote pulls -/

section
variable {p : Pull} {x : Word}

theorem State.remotePull_none (h : (s.beacon die).pulls.find? (fun p => !p.wait) = none) : s.remotePull die = s := by
  unfold State.remotePull
  rw [h]

theorem State.remotePull_orphan (h : (s.beacon die).pulls.find? (fun p => !p.wait) = some p) (hl : s.hub.launches.find p.launch = none) :
    s.remotePull die = s.modPull die p fun _ => none := by
  unfold State.remotePull
  rw [h]
  dsimp only
  rw [hl]

/-- What a pull does once the record at HEAD and its extra ranges have been read. -/
def State.pullEnter (v : Machine.State) (die : Nat) (p : Pull) (l : Launch) (va : Word) (bs ex : List Byte) (bad : Bool) : Machine.State :=
  match v.mayWriteAs die p.pasid (p.hdr + 12#64) 12 with
  | (some e, s) => s.pullWaits die p e.1 e.2 accWrite
  | (none, s) => s.pullRecord die p l va bs ex bad

/-- What a pull does with the record at HEAD. -/
def State.pullHead (s : Machine.State) (die : Nat) (p : Pull) (l : Launch) (va : Word) : Machine.State :=
  match s.readAs die p.pasid va 64 with
  | (.error e, s) => s.pullWaits die p e.1 e.2 accRead
  | (.ok (bs, bad), s) =>
    match s.readAs die p.pasid (BitVec.ofNat 64 (descTable bs)) (8 * descExtra bs) with
    | (.error e, s) => s.pullWaits die p e.1 e.2 accRead
    | (.ok (extra, bad2), s) => State.pullEnter s die p l va bs extra (bad || bad2)

section
variable (h : (s.beacon die).pulls.find? (fun p => !p.wait) = some p) (hl : s.hub.launches.find p.launch = some l)
include h hl

theorem State.remotePull_fenced (hq : (s.beacon die).quarantined = true) : s.remotePull die = s := by
  unfold State.remotePull
  rw [h]
  dsimp only
  rw [hl]
  exact if_pos hq

theorem State.remotePull_empty (hq : (s.beacon die).quarantined = false) (ht : p.tail ≤ p.head) :
    s.remotePull die = s.modPull die p fun _ => none := by
  unfold State.remotePull
  rw [h]
  dsimp only
  rw [hl]
  exact (if_neg (by simp [hq])).trans (if_pos ht)

theorem State.remotePull_takes (hq : (s.beacon die).quarantined = false) (ht : p.head < p.tail)
    (hx : x = BitVec.ofNat 64 (p.base + 64 * (p.head % 2 ^ p.log))) :
    s.remotePull die = if modeWalk (s.modeOf die) && !p.miss.may x.toNat then s.pullWaits die p x 5 accRead
      else State.pullHead s die p l x := by
  subst hx
  unfold State.remotePull
  rw [h]
  dsimp only
  rw [hl]
  exact (if_neg (by simp [hq])).trans (if_neg (by omega))

end

section
variable {bs ex : List Byte} {bad bad2 : Bool} {e : Word × Nat}

theorem State.pullHead_fails (h : s.readAs die p.pasid x 64 = (.error e, u)) :
    State.pullHead s die p l x = u.pullWaits die p e.1 e.2 accRead := by
  unfold State.pullHead
  rw [h]

theorem State.pullHead_extraFails (h : s.readAs die p.pasid x 64 = (.ok (bs, bad), u))
    (hex : u.readAs die p.pasid (BitVec.ofNat 64 (descTable bs)) (8 * descExtra bs) = (.error e, v)) :
    State.pullHead s die p l x = v.pullWaits die p e.1 e.2 accRead := by
  unfold State.pullHead
  rw [h]
  dsimp only
  rw [hex]

theorem State.pullHead_enters (h : s.readAs die p.pasid x 64 = (.ok (bs, bad), u))
    (hex : u.readAs die p.pasid (BitVec.ofNat 64 (descTable bs)) (8 * descExtra bs) = (.ok (ex, bad2), v)) :
    State.pullHead s die p l x = State.pullEnter v die p l x bs ex (bad || bad2) := by
  unfold State.pullHead
  rw [h]
  dsimp only
  rw [hex]

theorem State.pullEnter_fails {bad : Bool} (h : v.mayWriteAs die p.pasid (p.hdr + 12#64) 12 = (some e, w)) :
    State.pullEnter v die p l x bs ex bad = w.pullWaits die p e.1 e.2 accWrite := by
  unfold State.pullEnter
  rw [h]

theorem State.pullEnter_takes {bad : Bool} (h : v.mayWriteAs die p.pasid (p.hdr + 12#64) 12 = (none, w)) :
    State.pullEnter v die p l x bs ex bad = w.pullRecord die p l x bs ex bad := by
  unfold State.pullEnter
  rw [h]

/-- HEAD of a pull's ring moves past a record, and the pull ends where the tail is reached. -/
def State.pullNext (die : Nat) (p : Pull) (s : Machine.State) : Machine.State :=
  (s.writeAs die p.pasid (p.hdr + 0x10#64) (leBytes 8 (p.head + 1))).modPull die p fun q =>
    if p.tail ≤ p.head + 1 then none else some { q with head := p.head + 1, miss := Miss.zero }

section
variable (hb : bad = true ∨ segDescBad bs (descOf bs ex) l.clMax = true ∨ ((descOf bs ex).die ≠ die ∧ (descOf bs ex).die ≠ 15))
include hb

theorem State.pullRecord_refuses {old : List Byte} {b : Bool}
    (h : w.readAs die p.pasid (p.hdr + 12#64) 4 = (.ok (old, b), u)) : w.pullRecord die p l x bs ex bad =
    State.pullNext die p (u.writeAs die p.pasid (p.hdr + 12#64) (leBytes 4 (leNat old + 1))) := by
  unfold State.pullRecord
  dsimp only
  rw [if_pos (by rcases hb with h | h | h <;> simp [h]), h]
  rfl

theorem State.pullRecord_waits (h : w.readAs die p.pasid (p.hdr + 12#64) 4 = (.error e, u)) :
    w.pullRecord die p l x bs ex bad = u.pullWaits die p e.1 e.2 accRead := by
  unfold State.pullRecord
  dsimp only
  rw [if_pos (by rcases hb with h | h | h <;> simp [h]), h]

end

theorem State.pullRecord_enters {o : Option Nat} (hb : bad = false) (hs : segDescBad bs (descOf bs ex) l.clMax = false)
    (hd : (descOf bs ex).die = die ∨ (descOf bs ex).die = 15) (ho : w.freeSeg die = o) : w.pullRecord die p l x bs ex bad =
    o.elim w fun i => State.pullNext die p (w.enterSeg die i l (descOf bs ex) x false [] (some p.sender)).2 := by
  unfold State.pullRecord
  dsimp only
  rw [if_neg (by simp [hb, hs, hd]), ho]
  cases o <;> rfl

end

end

end

end Sys2Proof
end

section

open Sys2Proof Sys2Proof.Machine

/-- Settles O53: event by event. -/
theorem beaconEvents : Obligations.BeaconEvents := by
  unfold Obligations.BeaconEvents
  intro s die idx lan
  refine ⟨fun id h => is_of rfl (State.launchPlacement_none h), fun id l h => ⟨fun hs => is_of rfl (State.launchPlacement_ended h hs),
      fun hs hp => is_of rfl (State.launchPlacement_runs (o := some s) h hs (if_pos hp)),
      fun hs hp => ⟨fun ho => is_of rfl ((State.launchPlacement_runs h hs ((if_neg (by simp [hp])).trans ho))),
        fun u ho => is_of rfl ((State.launchPlacement_runs h hs ((if_neg (by simp [hp])).trans ho)))⟩⟩,
    fun u w z ws hu hw hws hz => ⟨fun hd => is_of rfl ?_, fun hd hm => is_of rfl ?_, fun hd hm => is_of rfl ?_⟩,
    fun w i g b => ⟨decideOne_asked, decideOne_cut, fun h hc => ⟨fun o => decideOne_fits h hc, fun hf =>
      ⟨decideOne_stands h hc hf, fun k hb hg hk => ?_⟩⟩⟩,
    fun x n org hn horg => ?_,
    fun h => ⟨is_of rfl (State.quantumExpiry_none h), is_of rfl (State.preemptDone_none h), is_of rfl (State.segmentAbort_none h)⟩,
    fun g h => ⟨fun ho => is_of rfl (State.quantumExpiry_waiting h ho), fun ho => is_of rfl (State.preemptDone_unplaced h ho)⟩,
    fun g lead h ho => ⟨fun hw => is_of rfl (State.quantumExpiry_early h ho hw), fun hp he hq => ?_, fun at_ r hat hr => ?_⟩,
    fun he => is_of rfl (if_pos (by simp [he])),
    fun he => ⟨fun hr => is_of rfl (State.segmentEnd_free he hr), fun i g u hr hu =>
      ⟨fun hst => is_of rfl ((State.segmentEnd_ends he hr hu).trans (if_pos hst)),
        fun hst => is_of rfl ((State.segmentEnd_ends he hr hu).trans (if_neg hst))⟩⟩,
    fun g h => ⟨fun ha => is_of rfl ?_, fun rq ha => is_of rfl ?_⟩,
    fun tile => ⟨fun h => is_of rfl (State.reclaim_stands h), fun d i g h hc => is_of rfl (State.reclaim_aborts h hc)⟩,
    fun h => is_of rfl (State.releaseCommit_empty h),
    fun j rest u h hu => ⟨fun hg => is_of rfl (State.releaseCommit_gone h hu hg), fun g v w hg hv hw =>
      ⟨fun hr => is_of rfl ((State.releaseCommit_performs h hu hg hv hw).trans (if_pos hr)),
        fun hr => is_of rfl ((State.releaseCommit_performs h hu hg hv hw).trans (if_neg (by simp [hr])))⟩⟩,
    fun h => is_of rfl (State.remotePull_none h),
    fun p h => ⟨fun hl => is_of rfl (State.remotePull_orphan h hl), fun l hl => ⟨fun hq => is_of rfl (State.remotePull_fenced h hl hq),
      fun hq ht => is_of rfl (State.remotePull_empty h hl hq ht), fun hq ht va hva => ?_⟩⟩⟩
  · subst hu
    exact State.decision_idle hd
  · subst hws
    have hz' : z = w.askPlaces die (w.waitingSegs die) := hz
    subst hz'
    exact (State.decision_due hu hd hw).trans (if_pos hm)
  · subst hws
    have hz' : z = w.askPlaces die (w.waitingSegs die) := hz
    subst hz'
    exact (State.decision_due hu hd hw).trans (if_neg (by simp [hm]))
  · subst hb
    exact ⟨fun ho => decideOne_preempts h hc hf hg hk ho, fun v ho => decideOne_preempts h hc hf hg hk ho⟩
  · subst hn horg
    refine ⟨fun h => is_of rfl (State.placeWrite_absent h), fun g h => ⟨fun hb => is_of rfl (State.placeWrite_refused h hb),
      fun u hd hg hu => ⟨fun ho => is_of rfl ?_, fun ho hf => is_of rfl ?_, fun ho hf => is_of rfl ?_⟩⟩⟩
    · exact (State.placeWrite_places h hd hg (by omega) hu).trans (if_pos ho)
    · exact (State.placeWrite_places h hd hg (by omega) hu).trans ((if_neg (by omega)).trans (if_pos hf))
    · exact (State.placeWrite_places h hd hg (by omega) hu).trans ((if_neg (by omega)).trans (if_neg (by rw [hf]; exact Bool.false_ne_true)))
  · have hdue := State.quantumExpiry_due h ho hp he hq
    refine ⟨fun hb => is_of rfl (hdue.trans (if_neg (by simp [hb]))), fun hb hs => is_of rfl (hdue.trans ((if_pos hb).trans ?_)),
      fun u hb hs => is_of rfl (hdue.trans ((if_pos hb).trans ?_))⟩
    · rw [hs, Option.getD_none]
    · rw [hs, Option.getD_some]
  · have hr' : r = State.preemptReady s lead g := hr
    subst hr'
    exact ⟨fun hf => is_of rfl (State.preemptDone_stands h ho hat hf),
      fun u v w a hf hu ha hv hw => is_of rfl (State.preemptDone_saves h ho hat hf hu ha hv hw)⟩
  · rw [State.segmentAbort_some h, ha, Option.elim_none]
  · rw [State.segmentAbort_some h, ha, Option.elim_some]
  · have htakes := State.remotePull_takes h hl hq ht hva
    refine ⟨fun hm hmay => is_of rfl (htakes.trans (if_pos (by simp [hm, hmay]))), fun hm => ?_⟩
    have hhead : s.remotePull die = State.pullHead s die p l va :=
      htakes.trans (if_neg (by rcases hm with hm | hm <;> simp [hm]))
    refine ⟨fun e u he => is_of rfl (hhead.trans (State.pullHead_fails he)), fun bs bad u hbs =>
      ⟨fun e v he => is_of rfl (hhead.trans (State.pullHead_extraFails hbs he)), fun ex bad2 v hex => ?_⟩⟩
    have henter := hhead.trans (State.pullHead_enters hbs hex)
    refine ⟨fun e w hmay => is_of rfl (henter.trans (State.pullEnter_fails hmay)), fun w next hmay hnext => ?_⟩
    have hrecord := henter.trans (State.pullEnter_takes hmay)
    have hnext' : next = State.pullNext die p := funext hnext
    subst hnext'
    refine ⟨fun hbad => ?_, fun hb hb2 hs hd => ?_⟩
    · have hbad' : (bad || bad2) = true ∨ segDescBad bs (descOf bs ex) l.clMax = true ∨
          ((descOf bs ex).die ≠ die ∧ (descOf bs ex).die ≠ 15) := by
        rw [Bool.or_eq_true, or_assoc]
        exact hbad
      exact ⟨fun old b x hx => is_of rfl (hrecord.trans (State.pullRecord_refuses hbad' hx)),
        fun e x hx => is_of rfl (hrecord.trans (State.pullRecord_waits hbad' hx))⟩
    · have hok : (bad || bad2) = false := by rw [hb, hb2]; rfl
      exact ⟨fun ho => is_of rfl (hrecord.trans (State.pullRecord_enters hok hs hd ho)),
        fun i ho => is_of rfl (hrecord.trans (State.pullRecord_enters hok hs hd ho))⟩

end

section
/-! ## R40, R41, R416 to R425: the interfaces of the hub -/

namespace Sys2Proof

open Sys2Proof.Machine

section
variable {s u v w y z : Machine.State} {n : Nat} {f : Iface} {x : Word} {l : Launch}

theorem State.iface_modIface_self {g : Iface → Iface} : (s.modIface n g).iface n = g (s.iface n) := Tab.get_put_self ..

theorem State.modIface_congr {g h : Iface → Iface} (hgh : g (s.iface n) = h (s.iface n)) : s.modIface n g = s.modIface n h :=
  congrArg (fun f => s.modHub fun x => { x with ifaces := x.ifaces.put n f }) hgh

/-! ### Doorbells and acknowledges -/

theorem State.doorbell_invalid (h : (s.iface n).v = false) : s.doorbell n x = s := if_pos (by simp [h])

theorem State.doorbell_outside (h : (s.iface n).v = true) (hr : (s.iface n).ring < (x.extractLsb' 0 16 - (s.iface n).head).toNat) :
    s.doorbell n x = (s.modIface n fun f => { f with ignored := satInc f.ignored }).statusWord n 0x18 (satInc (s.iface n).ignored) := by
  refine (if_neg (by simp [h])).trans ((if_pos hr).trans ?_)
  rw [State.ignoreWrite, State.iface_modIface_self]

theorem State.doorbell_inside (h : (s.iface n).v = true) (hr : (x.extractLsb' 0 16 - (s.iface n).head).toNat ≤ (s.iface n).ring) :
    s.doorbell n x = s.modIface n fun f => { f with tail := x.extractLsb' 0 16 } :=
  (if_neg (by simp [h])).trans (if_neg (by omega))

theorem State.ackIrq_invalid (h : (s.iface n).v = false) : s.ackIrq n = s := if_pos (by simp [h])

theorem State.ackIrq_valid (h : (s.iface n).v = true) : s.ackIrq n =
    if (s.iface n).owed = 0 then s.modIface n fun f => { f with pend := false, owed := f.owed - 1 }
    else (s.modIface n fun f => { f with pend := false, owed := f.owed - 1 }).sendIrq n := if_neg (by simp [h])

/-! ### Interface entries -/

/-- Dword 0 of an entry after a write with V set. -/
def assigned (x : Word) (f : Iface) : Word :=
  ((x ||| 0x8000000000000000#64) &&& 0xC0000000000FFFFF#64) ||| (if x.getLsbD 61 || f.rvk then 0x2000000000000000#64 else 0#64)

theorem pasid_withV (x : Word) : (x ||| 0x8000000000000000#64).extractLsb' 0 20 = x.extractLsb' 0 20 := by
  rw [BitVec.extractLsb'_or, show (0x8000000000000000#64 : Word).extractLsb' 0 20 = 0#20 from by decide, BitVec.or_zero]

theorem State.ifaceWrite0_valid (h : (s.iface n).v = true) (hp : x.extractLsb' 0 20 ≠ (s.iface n).d0.extractLsb' 0 20) :
    s.ifaceWrite0 n (x ||| 0x8000000000000000#64) = s := by
  refine if_pos ?_
  rw [pasid_withV]
  simp [h, hp]

theorem State.ifaceWrite0_assigns (hu : ((s.iface n).v = false ∧ u = s.modIface n fun f =>
      { f with d0 := assigned x (s.iface n), head := 0#16, tail := 0#16, pend := false, owed := 0, sHead := 0#64 }) ∨
    ((s.iface n).v = true ∧ x.extractLsb' 0 20 = (s.iface n).d0.extractLsb' 0 20 ∧
      u = s.modIface n fun f => { f with d0 := assigned x (s.iface n) })) :
    s.ifaceWrite0 n (x ||| 0x8000000000000000#64) = if x.getLsbD 61 && x.getLsbD 60 then u.killIface n else u := by
  have h63 : (x ||| 0x8000000000000000#64).getLsbD 63 = true := by simp
  have h61 : (x ||| 0x8000000000000000#64).getLsbD 61 = x.getLsbD 61 := by simp
  have h60 : (x ||| 0x8000000000000000#64).getLsbD 60 = x.getLsbD 60 := by simp
  unfold State.ifaceWrite0
  dsimp only
  rw [h63, h61, h60, pasid_withV, Bool.true_and, Bool.true_and]
  rcases hu with ⟨hv, hu⟩ | ⟨hv, hp, hu⟩
  · rw [if_neg (by simp [hv]), hv, Bool.not_false]
    have hmod : (s.modIface n fun f =>
        if true = true then { ({ f with d0 := assigned x (s.iface n), stopped := f.stopped && true } : Iface) with
          head := 0#16, tail := 0#16, pend := false, owed := 0, sHead := 0#64 }
        else { f with d0 := assigned x (s.iface n), stopped := f.stopped && true }) = u := by
      rw [hu]
      refine State.modIface_congr ?_
      rw [if_pos rfl, Bool.and_true]
    exact congrArg (fun u => if x.getLsbD 61 && x.getLsbD 60 then State.killIface u n else u) hmod
  · rw [if_neg (by simp [hp]), hv, Bool.not_true]
    have hmod : (s.modIface n fun f =>
        if false = true then { ({ f with d0 := assigned x (s.iface n), stopped := f.stopped && true } : Iface) with
          head := 0#16, tail := 0#16, pend := false, owed := 0, sHead := 0#64 }
        else { f with d0 := assigned x (s.iface n), stopped := f.stopped && true }) = u := by
      rw [hu]
      refine State.modIface_congr ?_
      rw [if_neg Bool.false_ne_true, Bool.and_true]
    exact congrArg (fun u => if x.getLsbD 61 && x.getLsbD 60 then State.killIface u n else u) hmod

theorem State.ifaceWrite0_unassigns : s.ifaceWrite0 n ((s.iface n).d0 &&& 0x40000000000FFFFF#64) =
    s.modIface n fun f => { f with d0 := f.d0 &&& 0x40000000000FFFFF#64, stopped := false } := by
  have h63 : ((s.iface n).d0 &&& 0x40000000000FFFFF#64).getLsbD 63 = false := by simp
  have h61 : ((s.iface n).d0 &&& 0x40000000000FFFFF#64).getLsbD 61 = false := by simp
  have hp : ((s.iface n).d0 &&& 0x40000000000FFFFF#64).extractLsb' 0 20 = (s.iface n).d0.extractLsb' 0 20 := by
    rw [BitVec.extractLsb'_and, show (0x40000000000FFFFF#64 : Word).extractLsb' 0 20 = BitVec.allOnes 20 from by decide, BitVec.and_allOnes]
  have hd : ((s.iface n).d0 &&& 0x40000000000FFFFF#64) &&& 0xC0000000000FFFFF#64 = (s.iface n).d0 &&& 0x40000000000FFFFF#64 := by
    rw [BitVec.and_assoc]
    rfl
  unfold State.ifaceWrite0
  dsimp only
  rw [h63, h61, hp, if_neg (by simp), Bool.false_and, Bool.false_and, if_neg Bool.false_ne_true, hd]
  refine State.modIface_congr ?_
  simp

/-! ### Launches -/

theorem State.launchComplete_none {id : Nat} (h : s.hub.launches.find id = none) : s.launchComplete id = s := by
  unfold State.launchComplete
  rw [h]

theorem State.launchComplete_stands {id : Nat} (h : s.hub.launches.find id = some l)
    (hw : s.launchGone l = false ∨ s.settled = false ∨ s.asCut 0 l.pasid l.compl 16 = true) : s.launchComplete id = s := by
  unfold State.launchComplete
  rw [h]
  exact if_neg (by rcases hw with h | h | h <;> simp [h])

theorem State.launchComplete_completes {id : Nat} (h : s.hub.launches.find id = some l) (hg : s.launchGone l = true)
    (hs : s.settled = true) (hc : s.asCut 0 l.pasid l.compl 16 = false) : s.launchComplete id =
    (s.modHub fun h => { h with launches := h.launches.del id }).complete
      { iface := l.iface, pasid := l.pasid, tag := l.tag, compl := l.compl, irq := l.irq } (l.status.getD 0) l.id := by
  unfold State.launchComplete
  rw [h]
  exact if_pos (by simp [hg, hs, hc])

/-! ### Packets -/

theorem State.servePacket_none (h : s.hubCut 0 = true ∨ s.nextIface = none) : s.servePacket = s := by
  have hn : (if s.hubCut 0 then none else s.nextIface) = none := by
    rcases h with h | h
    · exact if_pos h
    · rw [h]
      exact ite_self _
  unfold State.servePacket
  dsimp only
  rw [hn]

section
variable (hc : s.hubCut 0 = false) (hn : s.nextIface = some n) (hu : u = s.modHub fun h => { h with served := n })
include hc hn hu

theorem State.servePacket_stops
    (ha : u.hostStage ((s.iface n).ringBase + 64 * ((s.iface n).head.toNat % (s.iface n).ring)) false = none) :
    s.servePacket = u.modIface n fun f => { f with stopped := true } := by
  subst hu
  unfold State.servePacket
  dsimp only
  rw [if_neg (by simp [hc]), hn]
  dsimp only
  rw [ha]

theorem State.servePacket_reads {a : Nat} {p : List Byte}
    (ha : u.hostStage ((s.iface n).ringBase + 64 * ((s.iface n).head.toNat % (s.iface n).ring)) false = some a)
    (hp : p = u.mem.bytes (hostPa a) 64)
    (hw : w = u.modIface n fun f => { f with head := f.head + 1#16, sHead := satInc f.sHead })
    (hz : z = w.statusWord n 0 (w.iface n).sHead) : s.servePacket = (z.checkPacket n p).getD s := by
  subst hz hw hp hu
  unfold State.servePacket
  dsimp only
  rw [if_neg (by simp [hc]), hn]
  dsimp only
  rw [ha]

end

section
variable {p : List Byte} {r : Reply}
  (hr : r = { iface := n, pasid := (z.iface n).pasid, tag := fieldAt p 4 4, compl := BitVec.ofNat 64 (fieldAt p 0x10 8),
              irq := decide (fieldAt p 1 1 % 2 = 1) })
include hr

theorem State.checkPacket_completes {st : Nat} (h : (y = z ∧ (((z.iface n).rvk = true ∧ st = 0x0B) ∨
      ((z.iface n).rvk = false ∧ packetBad p = true ∧ st = 1) ∨
      ((z.iface n).rvk = false ∧ packetBad p = false ∧ fieldAt p 0 1 = 2 ∧ st = 0))) ∨
    ((z.iface n).rvk = false ∧ packetBad p = false ∧ fieldAt p 0 1 ≠ 2 ∧ st ≠ packetHeld ∧
      z.readLaunch r (z.iface n).maint (BitVec.ofNat 64 (fieldAt p 8 8)) = (.error st, y))) :
    z.checkPacket n p = y.completeNow r st := by
  subst hr
  unfold State.checkPacket
  dsimp only
  rcases h with ⟨rfl, ⟨hk, rfl⟩ | ⟨hk, hb, rfl⟩ | ⟨hk, hb, ho, rfl⟩⟩ | ⟨hk, hb, ho, hst, hread⟩
  · exact if_pos hk
  · exact (if_neg (by simp [hk])).trans (if_pos hb)
  · exact (if_neg (by simp [hk])).trans ((if_neg (by simp [hb])).trans (if_pos ho))
  · rw [if_neg (by simp [hk]), if_neg (by simp [hb]), if_neg ho, hread]
    exact if_neg hst

section
variable (hk : (z.iface n).rvk = false) (hb : packetBad p = false) (ho : fieldAt p 0 1 ≠ 2)
include hk hb ho

theorem State.checkPacket_held (hread : z.readLaunch r (z.iface n).maint (BitVec.ofNat 64 (fieldAt p 8 8)) = (.error packetHeld, y)) :
    z.checkPacket n p = none := by
  subst hr
  unfold State.checkPacket
  dsimp only
  rw [if_neg (by simp [hk]), if_neg (by simp [hb]), if_neg ho, hread]
  exact if_pos rfl

theorem State.checkPacket_accepts (hread : z.readLaunch r (z.iface n).maint (BitVec.ofNat 64 (fieldAt p 8 8)) = (.ok l, y)) :
    z.checkPacket n p = some (y.modHub fun h => { h with launches := h.launches.put l.id l, count := (h.count + 1) % 2 ^ 32 }) := by
  subst hr
  unfold State.checkPacket
  dsimp only
  rw [if_neg (by simp [hk]), if_neg (by simp [hb]), if_neg ho, hread]

end

end

end

end Sys2Proof
end

section

open Sys2Proof Sys2Proof.Machine

/-- Settles O54: doorbells and acknowledges, interface entries, launches and packets. -/
theorem hubInterfaces : Obligations.HubInterfaces := by
  unfold Obligations.HubInterfaces
  rintro s n f x rfl
  refine ⟨fun h => ⟨is_of rfl (State.doorbell_invalid h), is_of rfl (State.ackIrq_invalid h)⟩,
    fun h => ⟨fun hr => is_of rfl (State.doorbell_outside h hr), fun hr => is_of rfl (State.doorbell_inside h hr),
      fun ho => is_of rfl ((State.ackIrq_valid h).trans (if_pos ho)), fun ho => is_of rfl ((State.ackIrq_valid h).trans (if_neg ho))⟩,
    fun u d0 hd0 hu => ?_, fun h hp => is_of rfl (State.ifaceWrite0_valid h hp), is_of rfl State.ifaceWrite0_unassigns,
    fun u hu => ?_, fun id h => is_of rfl (State.launchComplete_none h), fun id l h => ⟨fun hw => is_of rfl (State.launchComplete_stands h hw),
      fun hg hs hc => is_of rfl (State.launchComplete_completes h hg hs hc)⟩, fun h => is_of rfl (State.servePacket_none h),
    fun hc hn u hu => ⟨fun ha => is_of rfl (State.servePacket_stops hc hn hu ha), fun a p g r w z ha hp hw hz hg hr => ?_⟩⟩
  · have hd0' : d0 = assigned x (s.iface n) := hd0
    subst hd0'
    have hassign := State.ifaceWrite0_assigns hu
    refine ⟨fun h61 h60 => is_of rfl (hassign.trans (if_pos (by simp [h61, h60]))), fun h => is_of rfl (hassign.trans (if_neg ?_))⟩
    rcases h with h | h
    · rw [h]
      exact Bool.false_ne_true
    · rw [h, Bool.and_false]
      exact Bool.false_ne_true
  · subst hu
    exact ⟨is_of rfl rfl, is_of rfl rfl⟩
  · subst hg
    have hreads := State.servePacket_reads hc hn hu ha hp hw hz
    refine ⟨fun y st h => ⟨fun hcut => is_of rfl (hreads.trans ?_), fun hcut => is_of rfl (hreads.trans ?_)⟩,
      fun hk hb ho => ⟨fun y hread => is_of rfl (hreads.trans ?_), fun l y hread => is_of rfl (hreads.trans ?_)⟩⟩
    · rw [State.checkPacket_completes hr h, State.completeNow, if_pos hcut, Option.getD_none]
    · rw [State.checkPacket_completes hr h, State.completeNow, if_neg (by simp [hcut]), Option.getD_some]
    · rw [State.checkPacket_held hr hk hb ho hread, Option.getD_none]
    · rw [State.checkPacket_accepts hr hk hb ho hread, Option.getD_some]

end

section
/-! ## R31, R33, R414, R417, R471, R477 to R483: windows, registers, trace rings and the management cores -/

namespace Sys2Proof

open Sys2Proof.Machine

section
variable {s t u w : Machine.State} {k el area off n die cluster : Nat} {r : Reg} {v : Word}

/-! ### Windows and element debug space -/

theorem Lantern.sb_setReg (l : Lantern) (r : Reg) (v : Word) : (l.setReg r v).sb = l.sb := by
  unfold Lantern.setReg
  split <;> rfl

theorem State.lan_windowGpr (s : Machine.State) (k : Nat) (r : Reg) (v : Word) : (s.windowGpr k r v).lan k =
    if s.tokenReg k r then ((s.lan k).setReg r v).unblock r else (s.lan k).setReg r v := State.lan_modLan_self ..

theorem State.reg_windowGpr (s : Machine.State) (k : Nat) (r : Reg) (v : Word) (q : Reg) :
    ((s.windowGpr k r v).lan k).reg q = if q = r ∧ q ≠ 0#5 then v else (s.lan k).reg q := by
  rw [← Lantern.reg_setReg, State.lan_windowGpr]
  split <;> rfl

theorem State.pc_windowGpr (s : Machine.State) (k : Nat) (r : Reg) (v : Word) :
    ((s.windowGpr k r v).lan k).pc = (s.lan k).pc := by
  rw [← Lantern.pc_setReg (s.lan k) r v, State.lan_windowGpr]
  split <;> rfl

theorem State.sb_windowGpr (s : Machine.State) (k : Nat) (r : Reg) (v : Word) :
    ((s.windowGpr k r v).lan k).sb = if s.tokenReg k r then ((s.lan k).unblock r).sb else (s.lan k).sb := by
  have hsb := Lantern.sb_setReg (s.lan k) r v
  rw [State.lan_windowGpr]
  by_cases h : s.tokenReg k r = true
  · rw [if_pos h, if_pos h, Lantern.unblock, Lantern.unblock, hsb]
  · rw [if_neg h, if_neg h, hsb]

theorem State.windowState_refused (h : srWritable n = false ∨ (n = 0xC ∧ fqbaseOk v = false)) : s.windowState k n v = s := by
  refine if_pos ?_
  rcases h with h | ⟨rfl, h⟩
  · simp [h]
  · simp [h]

theorem State.windowState_writes (h : srWritable n = true) (hq : n ≠ 0xC ∨ fqbaseOk v = true) :
    s.windowState k n v = s.srWrite k n v := by
  refine if_neg ?_
  rcases hq with hq | hq
  · simp [h, hq]
  · simp [h, hq]

theorem State.windowDebug_refused (h : s.debugRefused el area off = true ∨ debugOk area off = false) :
    s.windowDebug el area off v = s := by
  refine if_neg ?_
  rcases h with h | h
  · simp [h]
  · simp [h]

theorem State.debugRefused_running (h : s.elStopped el = false) : s.debugRefused el area off = true := by
  simp [State.debugRefused, h]

theorem State.debugRefused_busy {lead i j : Nat} {a : Array2} (ha : s.arrayAt el = some (lead, a, i, j)) (hb : a.busy = true)
    (harea : area = 2 ∨ (area = 3 ∧ 0x40 ≤ off)) : s.debugRefused el area off = true := by
  have hplace : (decide (area = 2) || decide (area = 3 ∧ 0x40 ≤ off)) = true := by
    rcases harea with rfl | h
    · rfl
    · rw [decide_eq_true h, Bool.or_true]
  unfold State.debugRefused
  rw [ha, hplace]
  simp [hb]

theorem State.debugRefused_elsewhere (hs : s.elStopped el = true) (harea : area ≠ 2 ∧ (area ≠ 3 ∨ off < 0x40)) :
    s.debugRefused el area off = false := by
  have hplace : (decide (area = 2) || decide (area = 3 ∧ 0x40 ≤ off)) = false := by
    rw [decide_eq_false harea.1, decide_eq_false fun h => harea.2.elim (· h.1) (by omega)]
    rfl
  unfold State.debugRefused
  rw [hs, hplace]
  rfl

theorem State.debugRefused_idle (hs : s.elStopped el = true)
    (ha : (s.arrayAt el).elim False (fun x => x.2.1.busy = false) ∨ s.arrayAt el = none) : s.debugRefused el area off = false := by
  unfold State.debugRefused
  cases h : s.arrayAt el with
  | none => simp [hs]
  | some x =>
    have hb : x.2.1.busy = false := by simpa [h] using ha
    simp [hs, hb]

theorem State.windowDebug_writes (hr : s.debugRefused el area off = false) (ho : debugOk area off = true) :
    s.windowDebug el area off v = s.writeDebug el area off v := if_pos (by simp [hr, ho])

/-! ### Registers and notify pages -/

theorem State.notifyWrite_doorbell (ho : off % 4096 = 0) (hn : n = 4 ∨ n = 8) : s.notifyWrite off n v = s.doorbell (off / 4096) v := by
  unfold State.notifyWrite
  dsimp only
  rw [if_pos hn]
  split
  next => rfl
  next hack => omega
  next hdoor _ => exact absurd ho hdoor

theorem State.notifyWrite_acknowledge (ho : off % 4096 = 0x40) (hn : n = 4 ∨ n = 8) : s.notifyWrite off n v = s.ackIrq (off / 4096) := by
  unfold State.notifyWrite
  dsimp only
  rw [if_pos hn]
  split
  next hdoor => omega
  next => rfl
  next _ hack => exact absurd ho hack

theorem State.notifyWrite_ignored (h : ¬((off % 4096 = 0 ∨ off % 4096 = 0x40) ∧ (n = 4 ∨ n = 8))) :
    s.notifyWrite off n v = if (s.iface (off / 4096)).v then s.ignoreWrite (off / 4096) else s := by
  unfold State.notifyWrite
  dsimp only
  split
  next hn =>
    split
    next ho => exact absurd ⟨.inl ho, hn⟩ h
    next ho => exact absurd ⟨.inr ho, hn⟩ h
    next => rfl
  next => rfl

/-- The register at an offset of the hub's page, as a physical or a supervisor's view writes it. -/
def Machine.State.hubRegister (s : Machine.State) (pf : Bool) (off : Nat) (v : Word) : Machine.State :=
  if off % 8 ≠ 0 then s
  else if off = 0x10 then s.modHub fun h => { h with hstroot := v &&& 0x800FFFFFFFFFF000#64 }
  else if off = 0x100 then s.linkctl v
  else if off = 0x200 then s.replayWrite (if pf then 1 else 0) v
  else if 0x10000 ≤ off ∧ off < 0x12000 then
    if pf then s else s.windowEntry ((off - 0x10000) / 32) (off / 8 % 4) v
  else if 0x20000 ≤ off ∧ off < 0x28000 then s.arbWrite (off / 0x1000 % 16) (off % 0x1000) v
  else if 0x30000 ≤ off ∧ off < 0x38000 then s.beaconWrite (off / 0x1000 % 16) (off % 0x1000) v
  else if 0x100000 ≤ off ∧ off < 0x140000 then s.ifaceWrite ((off - 0x100000) / 64) (off / 8 % 8) v
  else if 0x180000 ≤ off ∧ off < 0x190000 then s.irteWrite ((off - 0x180000) / 16) (off / 8 % 2) v
  else s

theorem State.regWrite_eq {view : View} (hv : ∀ m, view ≠ .iface m) :
    s.regWrite view off v = s.hubRegister (decide (view = .physical)) off v := by
  cases view with
  | iface m => exact absurd rfl (hv m)
  | supervisor => rfl
  | physical => rfl

section
variable {pf : Bool} (h8 : off % 8 = 0)
include h8

theorem State.hubRegister_hstroot (h : off = 0x10) :
    s.hubRegister pf off v = s.modHub fun h => { h with hstroot := v &&& 0x800FFFFFFFFFF000#64 } := by
  unfold State.hubRegister
  rw [if_neg (by omega), if_pos h]

theorem State.hubRegister_linkctl (h : off = 0x100) :
    s.hubRegister pf off v = s.linkctl v := by
  unfold State.hubRegister
  rw [if_neg (by omega), if_neg (by omega), if_pos h]

theorem State.hubRegister_replay (h : off = 0x200) :
    s.hubRegister pf off v = s.replayWrite (if pf then 1 else 0) v := by
  unfold State.hubRegister
  rw [if_neg (by omega), if_neg (by omega), if_neg (by omega), if_pos h]

theorem State.hubRegister_windows (h : 0x10000 ≤ off) (h' : off < 0x12000) :
    s.hubRegister pf off v = if pf then s else s.windowEntry ((off - 0x10000) / 32) (off / 8 % 4) v := by
  unfold State.hubRegister
  rw [if_neg (by omega), if_neg (by omega), if_neg (by omega), if_neg (by omega), if_pos ⟨h, h'⟩]

theorem State.hubRegister_arbiters (h : 0x20000 ≤ off) (h' : off < 0x28000) :
    s.hubRegister pf off v = s.arbWrite (off / 0x1000 % 16) (off % 0x1000) v := by
  unfold State.hubRegister
  rw [if_neg (by omega), if_neg (by omega), if_neg (by omega), if_neg (by omega), if_neg (by omega), if_pos ⟨h, h'⟩]

theorem State.hubRegister_beacons (h : 0x30000 ≤ off) (h' : off < 0x38000) :
    s.hubRegister pf off v = s.beaconWrite (off / 0x1000 % 16) (off % 0x1000) v := by
  unfold State.hubRegister
  rw [if_neg (by omega), if_neg (by omega), if_neg (by omega), if_neg (by omega), if_neg (by omega), if_neg (by omega), if_pos ⟨h, h'⟩]

theorem State.hubRegister_ifaces (h : 0x100000 ≤ off) (h' : off < 0x140000) :
    s.hubRegister pf off v = s.ifaceWrite ((off - 0x100000) / 64) (off / 8 % 8) v := by
  unfold State.hubRegister
  rw [if_neg (by omega), if_neg (by omega), if_neg (by omega), if_neg (by omega), if_neg (by omega), if_neg (by omega), if_neg (by omega), if_pos ⟨h, h'⟩]

theorem State.hubRegister_irtes (h : 0x180000 ≤ off) (h' : off < 0x190000) :
    s.hubRegister pf off v = s.irteWrite ((off - 0x180000) / 16) (off / 8 % 2) v := by
  unfold State.hubRegister
  rw [if_neg (by omega), if_neg (by omega), if_neg (by omega), if_neg (by omega), if_neg (by omega), if_neg (by omega), if_neg (by omega), if_neg (by omega), if_pos ⟨h, h'⟩]

theorem State.hubRegister_elsewhere (h1 : off ≠ 0x10) (h2 : off ≠ 0x100) (h3 : off ≠ 0x200) (h4 : ¬(0x10000 ≤ off ∧ off < 0x12000))
    (h5 : ¬(0x20000 ≤ off ∧ off < 0x28000)) (h6 : ¬(0x30000 ≤ off ∧ off < 0x38000)) (h7 : ¬(0x100000 ≤ off ∧ off < 0x140000))
    (h9 : ¬(0x180000 ≤ off ∧ off < 0x190000)) : s.hubRegister pf off v = s := by
  unfold State.hubRegister
  rw [if_neg (by omega), if_neg h1, if_neg h2, if_neg h3, if_neg h4, if_neg h5, if_neg h6, if_neg h7, if_neg h9]

end

/-! ### Trace rings -/

theorem notFull_of {stop : Bool} {size head : Nat} (h : stop = false ∨ head < size) : ¬(stop && decide (size ≤ head)) = true := by
  rcases h with rfl | h
  · exact Bool.false_ne_true
  · simp [h]

theorem State.traceWrite_nothing (h : 8 ≤ die ∨ 98 ≤ cluster ∨ (s.beacon die).dayPages = 0#64 ∨ (s.lan (lanOf die cluster)).day.fifo = []) :
    s.traceWrite die cluster = s := by
  unfold State.traceWrite
  dsimp only
  by_cases hout : 8 ≤ die ∨ 98 ≤ cluster ∨ (s.beacon die).dayPages = 0#64
  · exact if_pos hout
  · have hf : (s.lan (lanOf die cluster)).day.fifo = [] := h.elim (fun h => absurd (.inl h) hout) (·.elim (fun h => absurd (.inr (.inl h)) hout)
      (·.elim (fun h => absurd (.inr (.inr h)) hout) id))
    rw [if_neg hout, hf]

section
variable {p : Word × Word} {rest : List (Word × Word)}
variable (hd : die < 8) (hc : cluster < 98) (hp : (s.beacon die).dayPages ≠ 0#64) (hf : (s.lan (lanOf die cluster)).day.fifo = p :: rest)
  (hu : u = s.modLan (lanOf die cluster) fun l => { l with day := { l.day with fifo := rest } })
include hd hc hp hf hu

theorem State.traceWrite_full (hstop : (s.beacon die).dayCtl.getLsbD 12 = true)
    (hfull : 4096 * (s.beacon die).dayPages.toNat ≤ (s.beacon die).dayHead.toNat) : s.traceWrite die cluster = u := by
  subst hu
  have hin : ¬(8 ≤ die ∨ 98 ≤ cluster ∨ (s.beacon die).dayPages = 0#64) := by simp [hp]; omega
  unfold State.traceWrite
  dsimp only
  rw [if_neg hin, hf]
  exact if_pos (by simp [hstop, hfull])

section
variable (hroom : (s.beacon die).dayCtl.getLsbD 12 = false ∨ (s.beacon die).dayHead.toNat < 4096 * (s.beacon die).dayPages.toNat)
include hroom

theorem State.traceWrite_unwritable
    (hw : u.traceStore ((s.beacon die).dayBase.toNat + (s.beacon die).dayHead.toNat % (4096 * (s.beacon die).dayPages.toNat))
      (leBytes 8 p.1.toNat ++ leBytes 8 p.2.toNat) = none) : s.traceWrite die cluster = u := by
  subst hu
  have hin : ¬(8 ≤ die ∨ 98 ≤ cluster ∨ (s.beacon die).dayPages = 0#64) := by simp [hp]; omega
  unfold State.traceWrite
  dsimp only
  rw [if_neg hin, hf]
  dsimp only
  rw [hw]
  exact if_neg (notFull_of hroom)

theorem State.traceWrite_writes
    (hw : u.traceStore ((s.beacon die).dayBase.toNat + (s.beacon die).dayHead.toNat % (4096 * (s.beacon die).dayPages.toNat))
      (leBytes 8 p.1.toNat ++ leBytes 8 p.2.toNat) = some w) :
    s.traceWrite die cluster = w.modBeacon die fun b => { b with dayHead := b.dayHead + 16#64 } := by
  subst hu
  have hin : ¬(8 ≤ die ∨ 98 ≤ cluster ∨ (s.beacon die).dayPages = 0#64) := by simp [hp]; omega
  unfold State.traceWrite
  dsimp only
  rw [if_neg hin, hf]
  dsimp only
  rw [hw]
  exact if_neg (notFull_of hroom)

end

end

/-! ### The mailbox -/

section
variable {img nonce : List Byte} {len : Nat}

theorem State.attest_badAddress (h : n % 4096 ≠ 0 ∨ 2 ^ 48 ≤ n) : s.attest n = s.mailStatus 2 := if_pos h

theorem State.update_badRequest (h : n % 4096 ≠ 0 ∨ 2 ^ 48 ≤ n ∨ len < 576) : s.update n len = s.mailStatus 2 := if_pos h

section
variable (ha : n % 4096 = 0) (hn : n < 2 ^ 48)
include ha hn

theorem State.attest_unreadable (h : s.hostBytes n 64 = none) : s.attest n = s.mailStatus 2 := by
  unfold State.attest
  rw [if_neg (by omega), h]

theorem State.attest_unwritable (h : s.hostBytes n 64 = some nonce) (hw : s.hostStore n (s.report nonce) = none) :
    s.attest n = s.mailStatus 2 := by
  unfold State.attest
  rw [if_neg (by omega), h]
  dsimp only
  rw [hw]

theorem State.attest_reports (h : s.hostBytes n 64 = some nonce) (hw : s.hostStore n (s.report nonce) = some u) :
    s.attest n = u.mailStatus 0 := by
  unfold State.attest
  rw [if_neg (by omega), h]
  dsimp only
  rw [hw]

theorem State.update_unreadable (h : len < 576 ∨ s.hostBytes n len = none) : s.update n len = s.mailStatus 2 := by
  by_cases hl : len < 576
  · exact State.update_badRequest (.inr (.inr hl))
  · unfold State.update
    rw [if_neg (by omega), h.resolve_left hl]

theorem State.update_image (hl : 576 ≤ len) (h : s.hostBytes n len = some img) : s.update n len =
    if imageOk img s.mgmt.svn then
      { s with mgmt := { s.mgmt with cmdStatus := 0, svn := leNat ((img.drop 4).take 4), measure := some (sha512 img) } }
    else s.mailStatus 2 := by
  unfold State.update
  rw [if_neg (by omega), h]

end

end

/-! ### The module's limits -/

/-- From `s` to `t` only matrix arbiters and the management cores' place for saved CAPs have changed. -/
def OnlyCaps (s t : Machine.State) : Prop :=
  t.mgmt.clockOn = s.mgmt.clockOn ∧ { t with arbs := s.arbs, mgmt := s.mgmt } = s

theorem OnlyCaps.refl (s : Machine.State) : OnlyCaps s s := ⟨rfl, rfl⟩

theorem OnlyCaps.trans (h : OnlyCaps s t) (g : OnlyCaps t u) : OnlyCaps s u := by
  obtain ⟨hclock, hrest⟩ := h
  obtain ⟨gclock, grest⟩ := g
  refine ⟨gclock.trans hclock, ?_⟩
  rw [← hrest, ← grest]

/-- CAP of one arbiter one step lower, its value saved where none is. -/
def Machine.State.lowerCap (s : Machine.State) (d : Nat) : Machine.State :=
  ({ s with mgmt := { s.mgmt with capSaved := s.mgmt.capSaved.put d ((s.mgmt.capSaved.find d).getD (s.arb d).cap) } }).modArb d fun a =>
    { a with cap := capLower (s.arb d).cap }

theorem State.onlyCaps_lowerCap (s : Machine.State) (d : Nat) : OnlyCaps s (s.lowerCap d) := ⟨rfl, rfl⟩

theorem State.cap_lowerCap (s : Machine.State) (d e : Nat) :
    ((s.lowerCap d).arb e).cap = if e = d then capLower (s.arb e).cap else (s.arb e).cap := by
  unfold State.lowerCap State.modArb State.arb
  rw [Tab.get_put]
  by_cases h : e = d
  · subst h
    rw [if_pos rfl, if_pos rfl]
  · rw [if_neg h, if_neg h]

theorem State.cap_lowerCaps (l : List Nat) (hl : l.Nodup) (s : Machine.State) (e : Nat) :
    ((l.foldl State.lowerCap s).arb e).cap = if e ∈ l then capLower (s.arb e).cap else (s.arb e).cap := by
  induction l generalizing s with
  | nil => exact (if_neg List.not_mem_nil).symm
  | cons d l ih =>
    obtain ⟨hd, hl⟩ := List.nodup_cons.mp hl
    rw [List.foldl_cons, ih hl, State.cap_lowerCap]
    by_cases he : e = d
    · subst he
      simp [hd]
    · simp [he]

theorem State.limitReached_stops (h : ∀ d, d < 8 → (s.arb d).cap ≤ 1024) :
    s.limitReached = { s with mgmt := { s.mgmt with clockOn := false } } := if_pos (by simpa using h)

theorem State.limitReached_lowers (h : ∃ d, d < 8 ∧ 1024 < (s.arb d).cap) :
    s.limitReached = (List.range 8).foldl State.lowerCap s := if_neg (by simpa using h)

/-- CAP of one arbiter is what was saved of it. -/
def Machine.State.restoreCap (s : Machine.State) (e : Nat × Nat) : Machine.State :=
  s.modArb e.1 fun a => { a with cap := e.2, due := true }

/-- What a list of saved CAPs holds last for an arbiter. -/
def lastSaved (l : List (Nat × Nat)) (d : Nat) : Option (Nat × Nat) := (l.filter fun e => decide (e.1 = d)).getLast?

theorem lastSaved_cons (e : Nat × Nat) (l : List (Nat × Nat)) (d : Nat) :
    lastSaved (e :: l) d = if e.1 = d then some ((lastSaved l d).getD e) else lastSaved l d := by
  unfold lastSaved
  rw [List.filter_cons]
  by_cases h : e.1 = d
  · rw [if_pos (decide_eq_true h), List.getLast?_cons, if_pos h]
  · rw [if_neg (by simp [h]), if_neg h]

theorem State.cap_restoreCap (s : Machine.State) (e : Nat × Nat) (d : Nat) :
    ((s.restoreCap e).arb d).cap = if d = e.1 then e.2 else (s.arb d).cap := by
  unfold State.restoreCap State.modArb State.arb
  rw [Tab.get_put]
  by_cases h : d = e.1
  · rw [if_pos h, if_pos h]
  · rw [if_neg h, if_neg h]

theorem State.cap_restoreCaps (l : List (Nat × Nat)) (s : Machine.State) (d : Nat) :
    ((l.foldl State.restoreCap s).arb d).cap = (lastSaved l d).elim (s.arb d).cap (·.2) := by
  induction l generalizing s with
  | nil => rfl
  | cons e l ih =>
    rw [List.foldl_cons, ih, State.cap_restoreCap, lastSaved_cons]
    by_cases h : d = e.1
    · rw [if_pos h, if_pos h.symm]
      cases lastSaved l d <;> rfl
    · rw [if_neg h, if_neg fun he => h he.symm]

theorem State.mgmt_restoreCaps (l : List (Nat × Nat)) (s : Machine.State) : (l.foldl State.restoreCap s).mgmt = s.mgmt :=
  foldl_rel (R := fun s t : Machine.State => t.mgmt = s.mgmt) (fun _ => rfl) (fun h g => g.trans h) (f := State.restoreCap) (fun _ _ => rfl) l s

theorem State.onlyCaps_restoreCaps (l : List (Nat × Nat)) (s : Machine.State) : OnlyCaps s (l.foldl State.restoreCap s) :=
  foldl_rel OnlyCaps.refl OnlyCaps.trans (f := State.restoreCap) (fun _ _ => ⟨rfl, rfl⟩) l s

theorem State.limitOver_eq (s : Machine.State) :
    s.limitOver = { s.mgmt.capSaved.foldl State.restoreCap s with mgmt := { s.mgmt with capSaved := [] } } :=
  congrArg (fun m : Mgmt => { s.mgmt.capSaved.foldl State.restoreCap s with mgmt := { m with capSaved := [] } })
    (State.mgmt_restoreCaps s.mgmt.capSaved s)

/-! ### The loader -/

section
variable {pasid i : Nat} {f : List Byte} {xs : List Section}

theorem State.loadBinary_refused {e : LoadFail} (h : s.loadFail pasid f = some e) :
    s.loadBinary pasid f = s.loadReport (loadWord e.status e.detail 0) := by
  unfold State.loadBinary
  rw [h]

section
variable (h : s.loadFail pasid f = none) (hxs : xs = sectionsOf f)
include h hxs

theorem State.loadBinary_noRoomEvery (he : s.placeKind pasid f 0 512 (xs.filter Section.everyDie) = .error i) :
    s.loadBinary pasid f = s.loadReport (loadWord 7 i 0) := by
  subst hxs
  unfold State.loadBinary
  rw [h]
  dsimp only
  rw [he]

theorem State.loadBinary_noRoomOne (he : s.placeKind pasid f 0 512 (xs.filter Section.everyDie) = .ok t)
    (hp : t.placeKind pasid f (dataDie f xs) 0 (xs.filter fun x => x.placed && !x.everyDie) = .error i) :
    s.loadBinary pasid f = s.loadReport (loadWord 7 i 0) := by
  subst hxs
  unfold State.loadBinary
  rw [h]
  dsimp only
  rw [he]
  dsimp only
  rw [hp]

theorem State.loadBinary_loads (he : s.placeKind pasid f 0 512 (xs.filter Section.everyDie) = .ok t)
    (hp : t.placeKind pasid f (dataDie f xs) 0 (xs.filter fun x => x.placed && !x.everyDie) = .ok u) :
    s.loadBinary pasid f = (u.tlbi (.pasid pasid)).loadReport
      (loadWord 0 0 ((xs.filter fun x => decide (x.code = 1)).map fun x => x.dmovs f).sum) := by
  subst hxs
  unfold State.loadBinary
  rw [h]
  dsimp only
  rw [he]
  dsimp only
  rw [hp]

end

end

end

end Sys2Proof
end

section

open Sys2Proof Sys2Proof.Machine

/-- Settles O55: window, debug-space and register writes, the trace rings, reset, the mailbox, the module's limits and
the loader. -/
theorem managementEvents : Obligations.ManagementEvents := by
  unfold Obligations.ManagementEvents
  refine ⟨fun s k num area off el r v => ⟨?_, ?_, ?_, ?_, ?_, ?_⟩, fun s view off size v => ⟨?_, ?_, ?_, ?_, fun hv h8 => ?_⟩,
    ?_, fun s fails => is_of rfl rfl, ?_, fun s => ⟨?_, ?_, ?_⟩, fun s pasid f => ⟨?_, fun xs hnone hxs => ⟨?_, fun t ht => ⟨?_, ?_⟩⟩⟩⟩
  · exact ends_of_next rfl ⟨State.onlyLan_modLan .., State.reg_windowGpr s k r v, State.pc_windowGpr s k r v, State.sb_windowGpr s k r v⟩
  · exact fun h => is_of rfl (State.windowState_refused h)
  · exact fun h hq => is_of rfl (State.windowState_writes h hq)
  · exact fun h => is_of rfl (State.windowDebug_refused (h.imp State.debugRefused_running id))
  · exact fun lead a i j ha hb harea => is_of rfl (State.windowDebug_refused (.inl (State.debugRefused_busy ha hb harea)))
  · exact fun hs ho h => is_of rfl (State.windowDebug_writes
      (h.elim (State.debugRefused_elsewhere hs) (State.debugRefused_idle hs)) ho)
  · exact fun ho hn => is_of rfl (State.notifyWrite_doorbell ho hn)
  · exact fun ho hn => is_of rfl (State.notifyWrite_acknowledge ho hn)
  · exact fun h => is_of rfl (State.notifyWrite_ignored h)
  · exact fun hv h8 => is_of rfl ((State.regWrite_eq hv).trans (if_pos h8))
  · have hreg {u} (h : s.hubRegister (decide (view = .physical)) off v = u) : Ends (.registerWrite view off v) s fun t => t = u :=
      is_of rfl ((State.regWrite_eq hv).trans h)
    refine ⟨fun h => hreg (State.hubRegister_hstroot h8 h), fun h => hreg (State.hubRegister_linkctl h8 h),
      fun h => hreg ((State.hubRegister_replay h8 h).trans ?_), fun h h' => hreg ((State.hubRegister_windows h8 h h').trans ?_),
      fun h h' => hreg (State.hubRegister_arbiters h8 h h'), fun h h' => hreg (State.hubRegister_beacons h8 h h'),
      fun h h' => hreg (State.hubRegister_ifaces h8 h h'), fun h h' => hreg (State.hubRegister_irtes h8 h h'),
      fun h1 h2 h3 h4 h5 h6 h7 h9 => hreg (State.hubRegister_elsewhere h8 h1 h2 h3 h4 h5 h6 h7 h9)⟩
    · simp only [decide_eq_true_eq]
    · simp only [decide_eq_true_eq]
  · rintro s die cluster v b rfl
    exact ⟨fun h => is_of rfl (State.traceWrite_nothing h), fun p rest u hd hc hp hf hu =>
      ⟨fun hstop hfull => is_of rfl (State.traceWrite_full hd hc hp hf hu hstop hfull),
        fun hroom hw => is_of rfl (State.traceWrite_unwritable hd hc hp hf hu hroom hw),
        fun w hroom hw => is_of rfl (State.traceWrite_writes hd hc hp hf hu hroom hw)⟩, is_of rfl rfl, is_of rfl rfl⟩
  · rintro s a b addr len n rfl rfl rfl
    refine ⟨fun h => ⟨is_of rfl (State.attest_badAddress h), is_of rfl (State.update_badRequest (or_assoc.mp (.inl h)))⟩,
      fun ha hn => ⟨fun h => is_of rfl (State.attest_unreadable ha hn h), fun nonce h =>
        ⟨fun hw => is_of rfl (State.attest_unwritable ha hn h hw), fun u hw => is_of rfl (State.attest_reports ha hn h hw)⟩,
        fun h => is_of rfl (State.update_unreadable ha hn h), fun img hl h =>
        ⟨fun hi => is_of rfl ((State.update_image ha hn hl h).trans (if_neg ?_)),
          fun hi => is_of rfl ((State.update_image ha hn hl h).trans (if_pos hi))⟩⟩⟩
    exact fun hok => Bool.false_ne_true (hi.symm.trans hok)
  · exact fun h => is_of rfl (State.limitReached_stops h)
  · intro h
    obtain ⟨hclock, hrest⟩ := foldl_rel OnlyCaps.refl OnlyCaps.trans State.onlyCaps_lowerCap (List.range 8) s
    refine ends_of_next (congrArg Host.Outcome.next (State.limitReached_lowers h)) ⟨hclock, hrest, fun d hd => ?_⟩
    exact (State.cap_lowerCaps _ List.nodup_range s d).trans (if_pos (List.mem_range.mpr hd))
  · obtain ⟨-, hrest⟩ := State.onlyCaps_restoreCaps s.mgmt.capSaved s
    exact ends_of_next (congrArg Host.Outcome.next (State.limitOver_eq s)) ⟨rfl, hrest, State.cap_restoreCaps s.mgmt.capSaved s⟩
  · exact fun e h => is_of rfl (State.loadBinary_refused h)
  · exact fun i he => is_of rfl (State.loadBinary_noRoomEvery hnone hxs he)
  · exact fun i hp => is_of rfl (State.loadBinary_noRoomOne hnone hxs ht hp)
  · exact fun u hp => is_of rfl (State.loadBinary_loads hnone hxs ht hp)

end
